-- ==== Sys2Proof/Word.lean ====
section
/-! DEFINITION. The word types of the GX4 and the plain data shapes every other file uses.
Byte strings are lists of bytes; sparse tables are lists of (key, value) pairs in rising key order. -/

namespace Sys2Proof

/-- A byte of device memory or of a frame. -/
abbrev Byte := BitVec 8

/-- A byte string, the first byte first. -/
abbrev Bytes := List Byte

/-- A 32-bit register, element or code word (G32, X32, ANGLE32). -/
abbrev W32 := BitVec 32

/-- A 64-bit word (TIME64, the FRCs). -/
abbrev W64 := BitVec 64

/-- A sparse table by number: keys strictly rising, no entry equal to the default of its table. -/
abbrev Store (α : Type) := List (Nat × α)

end Sys2Proof
end

