-- ==== Sys2Proof/Syntax.lean ====
section
/-! DEFINITION. The commands of the GX4: one constructor for each row of spec/opcode_table.json, in the table's order.
The table gives no operands; they are read from the rule each row names. Frames and messages are operands as bytes, in the
order they travel, so that the model itself decides what in them is malformed. -/

namespace Sys2Proof

/-- A frame as it arrives on a host port or a trunk: bytes from the destination address to the byte before the FCS. -/
structure Frame where
  /-- the bytes, destination address first -/
  bytes : Bytes
  /-- the frame check sequence is right -/
  fcsOk : Bool
  /-- the frame carries a VLAN tag -/
  tagged : Bool
  deriving DecidableEq, Repr

/-- A PDS datagram as it reaches the dictionary front end (11 R292). -/
structure HostMsg where
  /-- the host port, H0 or H1 -/
  port : Fin 2
  /-- source MAC address of the frame -/
  mac : BitVec 48
  /-- source IPv6 address -/
  ip : BitVec 128
  /-- source UDP port -/
  udp : BitVec 16
  /-- destination IPv6 address, and destination UDP port -/
  dst : BitVec 128
  dstPort : BitVec 16
  /-- the UDP payload: header, body, tag -/
  bytes : Bytes
  deriving DecidableEq, Repr

/-- An accepted write of one scalar object, as the rows that name one object take it. -/
structure ObjWrite where
  /-- the session that writes -/
  session : Fin 8
  /-- REQ_ID of the request -/
  reqId : BitVec 32
  /-- instance of the object -/
  inst : Nat
  /-- the value, as the object's type carries it, most significant byte first -/
  value : Bytes
  deriving DecidableEq, Repr

/-- The location of a scalar instruction: a hardware context of a tile (04 R89). -/
structure TileCtx where
  /-- device-wide tile index -/
  tile : Fin 128
  /-- hardware context 0 or 1 -/
  ctx : Fin 2
  deriving DecidableEq, Repr

/-- How a PTP message of a host port came, and what of its header Table 2.7 is judged on (02 R42). -/
structure PtpHeader where
  /-- over IEEE 802.3 with EtherType 0x88F7; false: over UDP -/
  ethernet : Bool
  /-- majorSdoId: 1 in the 802.1AS profile, 0 in the 1588 profile -/
  sdo : BitVec 4
  /-- domainNumber -/
  domain : BitVec 8
  /-- logMessageInterval -/
  logInterval : Int
  /-- the message carries an authentication TLV -/
  authTlv : Bool
  /-- FRAC16 of the instant at which its timestamp point reached the port (02 R33, R44) -/
  frac : BitVec 16
  deriving DecidableEq, Repr

/-- A PTP message that is neither Sync nor Announce (02 Table 2.7). Stamps are in 2^-16 ns: those of this port in its clock, those of the
partner in the partner's. -/
inductive PtpOther where
  /-- a Pdelay_Resp with what completes its exchange: the egress stamp of the request, its receipt and the answer's egress at the partner -/
  | pdelayResp (t1 t2 t3 : Int)
  /-- a Delay_Resp with what completes its exchange: the egress stamp of the request, and its receipt at the partner -/
  | delayResp (t3 t4 : Int)
  /-- a peer's request -/
  | pdelayReq
  | delayReq
  /-- a Signaling message with an interval request: log2 of link delay, Sync and Announce intervals -/
  | intervalRequest (link sync announce : Int)
  /-- a management message, unicast negotiation, or any other -/
  | other
  deriving DecidableEq, Repr

/-- An Announce message's data set, as the best master clock algorithm compares it (02 R43). -/
structure AnnounceData where
  /-- priority1, clockClass, clockAccuracy, variance, priority2 and the identity, compared in that order -/
  priority1 : BitVec 8
  clockClass : BitVec 8
  clockAccuracy : BitVec 8
  variance : BitVec 16
  priority2 : BitVec 8
  identity : BitVec 64
  deriving DecidableEq, Repr

/-- An Announce as it comes. -/
structure PtpAnnounce where
  header : PtpHeader
  data : AnnounceData
  deriving DecidableEq, Repr

/-- An edge of an encoder: its pin, A or B, and the new level (02 R417). -/
structure EncEdge where
  pinB : Bool
  rising : Bool
  deriving DecidableEq, Repr

/-- The event that takes a tracker to FALLBACK; of an encoder, whether A and B changed in one filter period (02 Table 2.10). -/
structure FallbackEvent where
  at_ : Fin 8
  together : Bool
  deriving DecidableEq, Repr

/-- A run of bursts of a far channel: the context, and how many (04 R104; log 23). -/
structure DmaRun where
  c : TileCtx
  bursts : Nat
  deriving DecidableEq, Repr

/-- The commands of the block: the rows of spec/opcode_table.json. -/
inductive Instr where
  -- reset and boot
  | powerOnReset (viaResetN : Bool)
  | resetEnd
  | bootEntry
  | bootComplete
  | rngHealthFailure
  | rngRetest (pass : Bool)
  | rngReseed
  | advertSend (port : Fin 2)
  | start (port : Fin 2) (f : Frame)
  | data (port : Fin 2) (f : Frame)
  | enrol (port : Fin 2) (f : Frame)
  | abort (port : Fin 2) (f : Frame)
  | bootTransferTimeout
  | bootVerifyComplete
  | dieLoadDone (failed : BitVec 4)
  | selftestComplete (failed : List (BitVec 11)) (portFailed : BitVec 18)
  | timeAcquireEnd
  | quietHeartbeatCheck (posted : BitVec 8)
  | frcHoldover (frc : Fin 4)
  | frcRelock (frc : Fin 4)
  | bedrockFailure
  -- clocks
  | lcRate (w : ObjWrite)
  | lcOffsetAdj (w : ObjWrite)
  | slewComplete (clock : Fin 16)
  | lc3RampStep
  | lc3TrackCompare
  | lcRelease (w : ObjWrite)
  | lcForceStep (w : ObjWrite)
  | ptpSyncReceive (port : Fin 2) (h : PtpHeader) (origin : Int)
  | ptpAnnounceReceive (port : Fin 2) (a : PtpAnnounce)
  | ptpDelayMessageReceive (port : Fin 2) (h : PtpHeader) (m : PtpOther)
  | announceReceiptTimeout (port : Fin 2)
  | ptpSyncTransmit (port : Fin 2) (egressDelay : Nat)
  | ppsInEdge (frac : BitVec 16)
  | ppsOutPulse
  | ppsOutPulseEnd
  -- trackers
  | encoderEdge (enc : Fin 4) (e : EncEdge) (frac : BitVec 16)
  | encoderZPulse (enc : Fin 4)
  | trackerFallback (f : FallbackEvent)
  | trackerResumeValid (at_ : Fin 8) (fromFallback : Bool) (frac : BitVec 16)
  | trackerTick (at_ : Fin 8) (boundary : Fin 32768) (forward : Bool) (frac : BitVec 16)
  | fallbackTick (at_ : Fin 8) (frac : BitVec 16)
  | delayedTick (at_ : Fin 8) (boundary : Fin 32768) (frac : BitVec 16)
  | angleEventFire (at_ : Fin 8) (event : Fin 64) (forward : Bool) (frac : BitVec 16)
  | tickPulseStart (pin : Fin 4)
  | tickPulseEnd (pin : Fin 4)
  | atOmegaSyn (w : ObjWrite)
  | tickBoundary (posted : BitVec 8)
  | arithSticky (w : ObjWrite)
  -- scalar sequencer
  | li (c : TileCtx) (rd : Fin 16) (imm : W32)
  | add (c : TileCtx) (rd ra rb : Fin 16)
  | addi (c : TileCtx) (rd ra : Fin 16) (imm : W32)
  | sub (c : TileCtx) (rd ra rb : Fin 16)
  | and (c : TileCtx) (rd ra rb : Fin 16)
  | or (c : TileCtx) (rd ra rb : Fin 16)
  | xor (c : TileCtx) (rd ra rb : Fin 16)
  | shli (c : TileCtx) (rd ra : Fin 16) (imm : W32)
  | shri (c : TileCtx) (rd ra : Fin 16) (imm : W32)
  | jmp (c : TileCtx) (imm : W32)
  | bz (c : TileCtx) (ra : Fin 16) (imm : W32)
  | bnz (c : TileCtx) (ra : Fin 16) (imm : W32)
  | dbnz (c : TileCtx) (ra : Fin 16) (imm : W32)
  | issue (c : TileCtx) (ra rb : Fin 16) (mask : BitVec 6) (farp : Bool) (imm : W32)
  | waittag (c : TileCtx) (rd : Fin 16) (imm : W32)
  | fence (c : TileCtx)
  | spost (c : TileCtx) (imm : W32)
  | swait (c : TileCtx) (imm : W32)
  | stepEnd (c : TileCtx)
  | stallTimeout (tile : Fin 128) (ctx : Fin 2)
  -- tile commands
  | nop (c : TileCtx)
  | matmul (c : TileCtx)
  | tacc (c : TileCtx)
  | taccLoad (c : TileCtx)
  | vld (c : TileCtx)
  | vst (c : TileCtx)
  | vop (c : TileCtx)
  | vsf (c : TileCtx)
  | vred (c : TileCtx)
  | dmaLd (r : DmaRun)
  | dmaSt (r : DmaRun)
  | dmaLc (r : DmaRun)
  | wopen (c : TileCtx)
  | wclose (c : TileCtx)
  | rput (c : TileCtx)
  | rget (c : TileCtx)
  | windowTransferArrive (c : TileCtx)
  | windowRetire (tile : Fin 128) (slot : Fin 8)
  | tileCommandRetire (c : TileCtx)
  | sliceEnd (tile : Fin 128)
  | sliceStart (tile : Fin 128) (ctx : Fin 2)
  -- Basalt
  | chol (be : Fin 32)
  | ldl (be : Fin 32)
  | qr (be : Fin 32)
  | lu (be : Fin 32)
  | tri (be : Fin 32)
  | mul (be : Fin 32)
  | refine (be : Fin 32)
  | kfup (be : Fin 32)
  | qpbox (be : Fin 32)
  | basaltRetire (be : Fin 32) (cycles : Nat)
  | deadlineReached (template : Fin 4096)
  | basaltUncorrectable (be : Fin 32)
  | asmLatestReached (template : Fin 4096)
  | assemblyStart (template : Fin 4096)
  -- samples and Halo
  | sample (trunk : Fin 16) (f : Frame)
  | haloLoopUpdate (he : Fin 16)
  | commandDiscardNotice (loop : Fin 16384)
  | loopOpen (w : ObjWrite)
  | loopClose (w : ObjWrite)
  | loopCoeffWrite (sub : BitVec 8) (w : ObjWrite)
  | profileStep (gen : Fin 4096)
  | injStart (w : ObjWrite)
  | injStop (w : ObjWrite)
  | injectorEnd (inj : Fin 64)
  | capArm (w : ObjWrite)
  | capTrigger (w : ObjWrite)
  -- sequences and partitions
  | tokenClose (seq : Fin 16384)
  | stepForm (part : Fin 32)
  | pageRingRefill (part : Fin 32) (tile : Fin 128) (slot : Nat)
  | stepEndPhase (part : Fin 32)
  | stepOverrun (part : Fin 32)
  | teardownComplete (part : Fin 32)
  | backgroundSpill (pool : Fin 32)
  | pageMoveComplete (seq : Fin 16384) (entry : Nat)
  | prefetchComplete (seq : Fin 16384) (entry : Nat)
  | preemptReturn (seq : Fin 16384)
  | stalledFlushRetry (part : Fin 32)
  | modelSwitchStart (part : Fin 32)
  | modelSwitchComplete (part : Fin 32)
  | partCtrlStart (w : ObjWrite)
  | partCtrlStop (w : ObjWrite)
  | partCtrlRestart (w : ObjWrite)
  -- trunks and cells
  | trunkLinkUp (trunk : Fin 16) (rate : Fin 3) (master : Bool)
  | trunkLinkDown (trunk : Fin 16) (cameUpAt : Option (Fin 3))
  | credit (trunk : Fin 16) (f : Frame) (frac : BitVec 16)
  | announce (trunk : Fin 16) (f : Frame)
  | cellcfgAck (trunk : Fin 16) (f : Frame)
  | alarm (trunk : Fin 16) (f : Frame)
  | cellLostTimeout (trunk : Fin 16) (cell : Fin 256)
  | cellcfgSetSend (trunk : Fin 16) (cell : Fin 256)
  | trunkSyncSend (trunk : Fin 16) (cell : Fin 256) (egressDelay : Nat)
  | quietSyncSend (trunk : Fin 16) (egressDelay : Nat)
  | outLiveChangeSync (trunk : Fin 16) (cell : Fin 256) (egressDelay : Nat)
  | commandDeparture (trunk : Fin 16) (frac : BitVec 16)
  | commandExpire (trunk : Fin 16) (cell : Fin 256) (number : BitVec 16)
  -- sessions and the dictionary
  | hello (m : HostMsg)
  | proof (m : HostMsg)
  | proofTimeout (slot : Fin 8)
  | close (m : HostMsg)
  | sessionTimeout (session : Fin 8)
  | keepalive (m : HostMsg)
  | masterAcquire (m : HostMsg)
  | masterRelease (m : HostMsg)
  | read (m : HostMsg)
  | write (m : HostMsg)
  | registerWrite (index : BitVec 16) (sub : BitVec 8) (type : BitVec 8) (w : ObjWrite)
  | paramWrite (sub : Option (BitVec 8)) (w : ObjWrite)
  | snapshot (m : HostMsg)
  | blockInit (m : HostMsg)
  | blockSeg (m : HostMsg)
  | blockEnd (m : HostMsg)
  | blockTransferTimeout (session : Fin 8) (xfer : BitVec 8)
  | subscribe (m : HostMsg)
  | admitReq (m : HostMsg)
  | admitVerdict (durationMs : Nat)
  | swap (m : HostMsg)
  | swapCancel (m : HostMsg)
  | swapPrepared
  | firstSwap
  | ledger (m : HostMsg)
  | attest (m : HostMsg)
  | copyActive (w : ObjWrite)
  | clear (w : ObjWrite)
  | pageWriteResponse (m : HostMsg)
  | pageReadResponse (m : HostMsg)
  | pageRequestResend (session : Fin 8) (reqId : BitVec 32)
  | neighborSolicitation (port : Fin 2) (src : BitVec 128) (mac : BitVec 48) (target : BitVec 128)
  | icmpv6EchoRequest (port : Fin 2) (src dst : BitVec 128) (mac : BitVec 48) (payload : Bytes)
  -- continuity
  | uncorrectableError (die : Fin 5) (store : Fin 11) (address : Nat)
  | scrubPatrol (die : Fin 5) (store : Fin 11) (address : Nat) (word : Bytes)
  | seamReplay (endpoint : Fin 16) (failed : Bool)
  | seamRetrainTimeout (seam : Fin 8)
  | dieDeclaredLost (die : Fin 4) (cause : BitVec 4)
  | takeover
  | derivedSetInForce
  | derivedSetsComputed
  | obsidianCommit
  | drain (w : ObjWrite)
  | drainHandover
  | load (w : ObjWrite)
  | dieLoadReady (die : Fin 4) (passed : Bool)
  | rejoin (w : ObjWrite)
  | rejoinHandover
  | bedrockSwitch (w : ObjWrite)
  -- security
  | stageVerifyComplete
  | floorRaise (w : ObjWrite)
  | rootRetire (w : ObjWrite)
  | enrolClaim (w : ObjWrite)
  | enrolTransfer (w : ObjWrite)
  | enrolSetPolicy (w : ObjWrite)
  | enrolSetSlot (w : ObjWrite)
  | enrolClearSlot (w : ObjWrite)
  | enrolRelease (w : ObjWrite)
  -- package
  | thermalSample (die : Fin 5) (samples : List W32)
  | extest (shiftIn : BitVec 22)
  | samplePreload (shiftIn : BitVec 22)
  | idcode
  | bypass (code : BitVec 4) (tdi : Bool)
  -- rows added later to the table
  | angleEventRearm (at_ : Fin 8) (event : Fin 64) (frac : BitVec 16)
  | seamRetrainComplete (seam : Fin 8)
  | hostFrameDropped (port : Fin 2) (malformed : Bool)
  | trunkFrameRefused (trunk : Fin 16) (f : Frame)
  deriving DecidableEq, Repr

end Sys2Proof
end

