-- ==== Sys2Proof/Config.lean ====
section
/-! DEFINITION. What one part fixes at manufacture, and the free values of the model (log 5).
No constant of this file has a body: nothing can be proved of its value. -/

namespace Sys2Proof.Config

/-- GRADE of the part (00 Table 0.1): `true` is PVN-GX4-AX, `false` PVN-GX4-AI. -/
opaque gradeAX : Bool

/-- SERIAL, 0x9000.01 (13 R348). -/
opaque serial : BitVec 64

/-- DEVICE_CERT bytes 81 to 199 as written at manufacture: reserved, CA KEY_ID, CA signature (13 R348). -/
opaque deviceCertTail : Bytes

/-- The seed reconstructed from PUF readout `n` with helper copy `alternate` (13 R346). -/
opaque pufSeed : Nat → Bool → Bytes

/-- ID_HASH of the SYSTEM section (13 R346). -/
opaque idHash : Bytes

/-- The Paveyn root keys in the Garnet boot ROM, 65-byte points (13 Table 13.1). -/
opaque rootKey : Nat → Bytes

/-- Conditioned entropy of 48 bytes, one value for each draw (13 R350). -/
opaque entropy : Nat → Bytes

/-- The code that a special function gives where several lie within its bound (03 R79, 04 R105, 07 R172): the function's number, then
its operand code. It is used where it lies within the bound. -/
opaque specialCode : Nat → W32 → W32

/-- What the proportional-integral servo of a port makes of an offset: the correction in 2^-16 ns, the rate in 2^-48, and its next
integrator; of gains record, integrator, offset (02 R43). -/
opaque ptpServo : Bytes → Int → Int → Int × Int × Int

/-- The same for the PPS servo (02 R46): of integrator and offset. -/
opaque ppsServo : Int → Int → Int × Int × Int

/-- How long a host port's duplicate address detection runs, ns (11 Table 11.1 names it and gives no time). -/
opaque detectTime : BitVec 64

/-- The announce receipt timeout of a host port, ns (02 R43 gives no length). -/
opaque announceTimeout : Nat → BitVec 64

/-- What the grid PLL of a tracker makes of the three phase samples: θ, ω and v_q without DIR; of bandwidth (0.1 Hz), θ and ω before,
the samples, and the time since the last, 2^-16 ns (02 Table 2.10 gives the loop's structure and not its steps). -/
opaque gridPll : Nat → BitVec 32 → BitVec 32 → BitVec 32 → BitVec 32 → BitVec 32 → Int → BitVec 32 × BitVec 32 × BitVec 32

/-- What admission takes from a tile program at MAX_BATCH, for which the manual gives no formula (09 R258, 15 R404; log 39):
its bound in cycles beside the loads of attention (08 R212, R214) and the all-gathers of 08 R234; cycles a step on a unit, 0 to 3 the tensor unit in G4, G8, G16, G32, 4
the vector unit, 5 DMA; far-channel bytes a step of tier T1 and of tier T2. Of partition record, pool record, model record, code
image, tile. -/
opaque programBound : Bytes → Bytes → Bytes → Bytes → Nat → Nat
opaque programCycles : Bytes → Bytes → Bytes → Bytes → Nat → Nat → Nat
opaque programBytes : Bytes → Bytes → Bytes → Bytes → Nat → Nat → Nat

/-- Bytes that no table gives (log 39): the step and score areas of a die of a partition, of partition and model record
(08 R212, 09 Table 9.3); the pending banks of a template's slots, of slots and BATCH (06 Figure 6.1); one entry of a delivery
table (10 R285). -/
opaque areaBytes : Bytes → Bytes → Nat
opaque bankBytes : Nat → Nat → Nat
opaque deliveryBytes : Nat

/-- CFG_ID as computed from the fields of a cell record (10 Table 10.10 names no function). -/
opaque cfgId : Bytes → Nat

/-- Nimbus cycles per second of the object service of R30 on one die (09 R259 gives no figure). -/
opaque objectService : Nat

/-- A fresh value of `w` bits for each index: results the manual does not state (log 5). -/
opaque fresh : (w : Nat) → Nat → BitVec w

/-- The locally administered MAC address of a port, formed from the device identity: trunks 0 to 15, H0 16, H1 17
(11 R290, 10 R263: how it is formed is not given). -/
opaque portMac : Nat → BitVec 48

/-- The GX4's PTP clockIdentity (10 Table 10.12a names it and gives no value). -/
opaque clockIdentity : BitVec 64

/-- SEVERITY of a record by TYPE, taken modulo 3 (12 Table 12.12 gives the codes and no type's value). -/
opaque recordSeverity : Nat → Nat

/-- Fixed PHY latency found by PHY_CAL, ps: port, rate (02 R44, 14 R377). -/
opaque phyLatency : Nat → Nat → Nat

/-- φ of a rotary pair whose base is not positive and finite (04 R105 gives no value): pair and position (log 22). -/
opaque ropeOpen : Nat → BitVec 32

/-- Whether an intermediate of a QR goes to the upper of the two codes next to it: the manual gives the reflectors' q and no order of
rounding (05 R128; log 25). Matrix and right-hand sides, q of A, B, L and R; reflector, what is rounded, element. -/
opaque qrUp : List (List Int) → List Nat → Nat → Nat → Nat → Bool

/-- Where a tile program and its page ring agree with Nimbus, which the manual leaves to the program (08 R219; log 33): the ring's
first byte in the code region and its slots, its FILL and FREE objects, by partition and tile; the byte of the LI immediate for a
list, by partition, tile, member and list. -/
opaque ringPlace : Nat → Nat → Nat
opaque ringSlots : Nat → Nat → Nat
opaque ringObjects : Nat → Nat → Nat × Nat
opaque countPlace : Nat → Nat → Nat → Nat → Option Nat

/-- First word of the tier T0 frames in the share of a tile, before it is fitted between the share's base and its code (04 R92 leaves the
share to software; log 34): partition and tile. -/
opaque t0Place : Nat → Nat → Nat

/-- Where the mapping holds an accumulator in G32 at a segment boundary (03 R77: admission fixes it, and the manual gives no choice): of
the set, partition, model and tensor, the multiples of 32 elements. -/
opaque crossings : List (Nat × Bytes) → Nat → Nat → Nat → List Nat

/-- What stands at a place of a store whose layout the manual does not give (log 49): in the state memory of a Halo engine, by
engine and 32-byte word; in the Nimbus memories of a die, by die and word; in Stratum, by die and page; in the frame buffers, by
word. A kind and a number. -/
opaque haloUse : Nat → Nat → Nat × Nat
opaque nimbusUse : Nat → Nat → Nat × Nat
opaque stratumUse : Nat → Nat → Nat × Nat
opaque bufferUse : Nat → Nat × Nat

/-- A power and a natural logarithm in a logarithmic chirp: the manual gives neither's rounding (07 R172, R196; log 29). -/
opaque haloPow : W32 → W32 → W32
opaque haloLn : W32 → W32

end Sys2Proof.Config
end

