-- ==== Sys2Proof/Machine/Bytes.lean ====
section
/-! DEFINITION. Bit fields, byte strings, sparse tables and byte memories: the representation helpers every other file of
the machine uses. Device memory is least significant byte first, frames and messages are most significant byte first (00 R9). -/

namespace Sys2Proof.Machine

/-! ## Bits -/

/-- Bits `hi` down to `lo` of `n`, right justified. -/
def bits (n hi lo : Nat) : Nat := (n >>> lo) % 2 ^ (hi + 1 - lo)

/-- Bit `i` of `n`. -/
def bit (n i : Nat) : Bool := n.testBit i

/-- `n` with bits `hi` down to `lo` replaced by the low bits of `v`. -/
def setBits (n hi lo v : Nat) : Nat :=
  n - (bits n hi lo) * 2 ^ lo + (v % 2 ^ (hi + 1 - lo)) * 2 ^ lo

/-- `true` is 1. -/
def b2n (b : Bool) : Nat := if b then 1 else 0

/-- The two's complement value of the low `w` bits of `n`. -/
def signed (w n : Nat) : Int :=
  let m := n % 2 ^ w
  if 2 * m < 2 ^ w then (m : Int) else (m : Int) - (2 ^ w : Nat)

/-- The low `w` bits of an integer in two's complement. -/
def unsigned (w : Nat) (i : Int) : Nat := (i % (2 ^ w : Nat)).toNat

/-- Rounds `n / d` to the nearest integer, ties to even (03 R65); `d` is positive. -/
def roundDiv (n : Int) (d : Nat) : Int :=
  let q := n / (d : Int)
  let r := n % (d : Int)
  if 2 * r < d then q else if 2 * r > d then q + 1 else if q % 2 = 0 then q else q + 1

/-! ## Byte strings -/

/-- The number a byte string spells, least significant byte first. -/
def leNat : Bytes → Nat
  | [] => 0
  | b :: bs => b.toNat + 256 * leNat bs

/-- `n` in `k` bytes, least significant byte first. -/
def leBytes : Nat → Nat → Bytes
  | 0, _ => []
  | k + 1, n => BitVec.ofNat 8 n :: leBytes k (n / 256)

/-- The number a byte string spells, most significant byte first. -/
def beNat (bs : Bytes) : Nat := bs.foldl (fun a b => a * 256 + b.toNat) 0

/-- `n` in `k` bytes, most significant byte first. -/
def beBytes (k n : Nat) : Bytes := (leBytes k n).reverse

/-- `len` bytes from byte `at_`; shorter where the string ends. -/
def slice (bs : Bytes) (at_ len : Nat) : Bytes := (bs.drop at_).take len

/-- The number in `len` bytes at `at_`, most significant byte first. -/
def beAt (bs : Bytes) (at_ len : Nat) : Nat := beNat (slice bs at_ len)

/-- The number in `len` bytes at `at_`, least significant byte first. -/
def leAt (bs : Bytes) (at_ len : Nat) : Nat := leNat (slice bs at_ len)

/-- Bits `hi` down to `lo` of a record stored least significant byte first. -/
def fieldLe (bs : Bytes) (hi lo : Nat) : Nat := bits (leAt bs (lo / 8) (hi / 8 + 1 - lo / 8)) (hi - lo / 8 * 8) (lo % 8)

/-- The string made `n` bytes long with zero bytes at its end, or cut. -/
def padTo (n : Nat) (bs : Bytes) : Bytes := bs.take n ++ List.replicate (n - bs.length) 0

/-- The string with `new` written over it from byte `at_`; zero bytes fill a gap. -/
def overwrite (bs : Bytes) (at_ : Nat) (new : Bytes) : Bytes :=
  padTo at_ bs ++ new ++ bs.drop (at_ + new.length)

/-- Every byte is zero. -/
def allZero (bs : Bytes) : Bool := bs.all (· == 0)

/-! ## Frame check sequence (IEEE 802.3; log 88) -/

/-- One bit, and one byte, of the reflected CRC-32. -/
def crcBit (c : W32) : W32 := if c.getLsbD 0 then c >>> 1 ^^^ 0xEDB88320 else c >>> 1
def crcByte (c : W32) (b : Byte) : W32 := crcBit (crcBit (crcBit (crcBit (crcBit (crcBit (crcBit (crcBit (c ^^^ b.setWidth 32))))))))

/-- The frame check sequence of a frame's bytes. -/
def frameCheck (bs : Bytes) : W32 := ~~~(bs.foldl crcByte 0xFFFFFFFF)

/-! ## Sparse tables -/

/-- The entry of a sparse table, or the table's default. -/
def sGet {α : Type} (d : α) : Store α → Nat → α
  | [], _ => d
  | (k, v) :: rest, i => if k = i then v else if i < k then d else sGet d rest i

/-- The entry of a sparse table, if it is listed. -/
def sFind {α : Type} : Store α → Nat → Option α
  | [], _ => none
  | (k, v) :: rest, i => if k = i then some v else if i < k then none else sFind rest i

/-- The table with no entry at `i`. -/
def sErase {α : Type} : Store α → Nat → Store α
  | [], _ => []
  | (k, v) :: rest, i => if k = i then rest else if i < k then (k, v) :: rest else (k, v) :: sErase rest i

/-- The table with `v` listed at `i`. -/
def sInsert {α : Type} : Store α → Nat → α → Store α
  | [], i, v => [(i, v)]
  | (k, u) :: rest, i, v =>
    if k = i then (i, v) :: rest else if i < k then (i, v) :: (k, u) :: rest else (k, u) :: sInsert rest i v

/-- The table with `v` at `i`; the default is never listed. -/
def sPut {α : Type} [DecidableEq α] (d : α) (s : Store α) (i : Nat) (v : α) : Store α :=
  if v = d then sErase s i else sInsert s i v

/-- The table with `f` applied to the entry at `i`. -/
def sUpd {α : Type} [DecidableEq α] (d : α) (s : Store α) (i : Nat) (f : α → α) : Store α :=
  sPut d s i (f (sGet d s i))

/-- Keys strictly rising. -/
abbrev storeSorted {α : Type} (s : Store α) : Prop := s.Pairwise (fun a b => a.1 < b.1)

/-- The canonical form of a table: keys strictly rising, the default never listed. -/
abbrev storeWf {α : Type} (d : α) (s : Store α) : Prop := storeSorted s ∧ ∀ e ∈ s, e.2 ≠ d

/-- The element at `i` of a list, or `d`. -/
def nth {α : Type} (d : α) (l : List α) (i : Nat) : α := l.getD i d

/-- The list with `f` applied to the element at `i`. -/
def updNth {α : Type} (l : List α) (i : Nat) (f : α → α) : List α := l.modify i f

/-- 0 to `n - 1`. -/
def upTo (n : Nat) : List Nat := List.range n

/-! ## Byte memories (log 4) -/

/-- The byte at `a`; an unlisted byte reads as zero. -/
def Mem.get (m : List Host.Cell) (a : Nat) : Byte := sGet 0 m a

/-- The memory with byte `b` at `a`. -/
def Mem.put (m : List Host.Cell) (a : Nat) (b : Byte) : List Host.Cell := sPut 0 m a b

/-- `n` bytes from `a`, lowest address first. -/
def Mem.read (m : List Host.Cell) (a : Nat) : Nat → Bytes
  | 0 => []
  | n + 1 => Mem.get m a :: Mem.read m (a + 1) n

/-- The memory with a byte string written from `a`. -/
def Mem.write (m : List Host.Cell) (a : Nat) : Bytes → List Host.Cell
  | [] => m
  | b :: bs => Mem.write (Mem.put m a b) (a + 1) bs

/-- The memory with `n` bytes from `a` set to zero. -/
def Mem.clear (m : List Host.Cell) (a n : Nat) : List Host.Cell :=
  m.filter (fun c => decide (c.1 < a) || decide (a + n ≤ c.1))

/-- The canonical form of a memory: addresses strictly rising, no byte zero. -/
abbrev Memory.wf (m : List Host.Cell) : Prop := storeWf (0 : BitVec 8) m

/-- A number of `n` bytes read from `a`, least significant byte first. -/
def Mem.readNat (m : List Host.Cell) (a n : Nat) : Nat := leNat (Mem.read m a n)

/-- A number written in `n` bytes from `a`, least significant byte first. -/
def Mem.writeNat (m : List Host.Cell) (a n v : Nat) : List Host.Cell := Mem.write m a (leBytes n v)

end Sys2Proof.Machine
end

