-- ==== Sys2Proof/Machine/State.lean ====
section
/-! DEFINITION. The state of the GX4 as plain data, every field with the rule of spec/ that names it and its value after
reset. A sparse table (`Store`) lists only entries that differ from the default value of its entry type. Byte memories
are sorted lists of (address, byte) pairs (log 4). Fields the manual's Reset column leaves as a dash, and state the
manual names without a reset value, start as log 3 says. -/

namespace Sys2Proof.Machine

/-! ## Device -/

/-- DEVICE_STATE (14 Table 14.1). -/
inductive DevState where
  | off | powerUp | boot | imageWait | verify | dieLoad | selftest | timeAcquire
  | readyQuiet | live | degraded | recovery
  deriving DecidableEq, Repr

/-- STATE of a die (12 Table 12.9). -/
inductive DieState where
  | serving | lost | draining | drained | loading | ready | rejoining | excluded
  deriving DecidableEq, Repr

/-- The level of an output pin (15 Table 15.4). -/
inductive PinLevel where
  | hiZ | low | high
  deriving DecidableEq, Repr

/-- The image that an element (die or Bedrock) runs (13 R363, Table 13.2). -/
structure Image where
  /-- 32 bits; 13 Table 13.2 -/
  version : Nat := 0
  /-- 16 bits; 13 Table 13.2 -/
  svn : Nat := 0
  /-- 8 bits; 12 R342, 13 Table 13.2 -/
  fmtLo : Nat := 0
  /-- 8 bits; 12 R342, 13 Table 13.2 -/
  fmtHi : Nat := 0
  /-- 32 bits; 13 Table 13.2 -/
  compatLo : Nat := 0
  /-- 32 bits; 13 Table 13.2 -/
  compatHi : Nat := 0
  /-- MEASUREMENT, 32 bytes; 13 R363 -/
  measurement : Bytes := []
  deriving DecidableEq, Repr

/-- One die, or Bedrock as number 4 (12 Table 12.10, 14 Table 14.8). -/
structure Die where
  /-- STATE of DIE_STATE, 4 bits; 12 Table 12.9 -/
  state : DieState := .serving
  /-- cause code, 4 bits; 12 Table 12.4 -/
  cause : Nat := 0
  /-- declaration epoch, 64 bits; 12 Table 12.10 -/
  declEpoch : Nat := 0
  /-- declaration instant in LC0, ns, 64 bits; 12 Table 12.10 -/
  declLc0 : Nat := 0
  /-- LEDGER_FAULT of die 4, 1 bit; 12 R325 -/
  ledgerFault : Bool := false
  /-- image running; 13 R363 -/
  image : Image := {}
  /-- the die has been loaded in DIE_LOAD; 14 R376 -/
  loaded : Bool := false
  /-- failed-test mask, 11 bits; 14 Table 14.8 -/
  testFailed : Nat := 0
  /-- LC0 of the test failure; 14 Table 14.8 -/
  testFailedAt : Nat := 0
  /-- consecutive boundaries or 1 ms intervals without a heartbeat; 12 Table 12.4 code 6, 14 R383 -/
  missedBeats : Nat := 0
  /-- Nimbus cores lost, 2 bits; 01 R30, 12 Table 12.1 -/
  coresLost : Nat := 0
  /-- LC0 instants of uncorrectable reports in the last millisecond; 12 Table 12.4 code 1 -/
  reports : List Nat := []
  /-- last value of each thermal sensor, G32 °C, 32 bits each; 15 R408 -/
  sensors : List W32 := []
  /-- hottest sample of the epoch, G32 °C; 15 R408 -/
  hottest : W32 := 0
  /-- 10 µs samples spent in each band of Table 15.11, five counters; 15 R408 -/
  bands : List Nat := [0, 0, 0, 0, 0]
  /-- 10 µs samples in a row with some sensor above the die-loss threshold; 12 Table 12.4 code 4 -/
  hotRun : Nat := 0
  deriving DecidableEq, Repr

/-- Device-wide state. -/
structure Dev where
  /-- reset is held (PWRGOOD or RESET_N low), 1 bit; 14 R367 -/
  inReset : Bool := true
  /-- DEVICE_STATE, 8 bits; 14 Table 14.1 -/
  state : DevState := .off
  /-- Bedrock has failed: nothing resumes without a reset, 1 bit; 01 R15 -/
  bedrockFailed : Bool := false
  /-- RESET_CAUSE, 8 bits; 14 Table 14.8 -/
  resetCause : Nat := 0
  /-- STARTUP_TIMES: LC0 of entry to each state by code, 0 if not entered; 14 Table 14.8 -/
  startupTimes : Store Nat := []
  /-- image receipt instant, LC0 ns; 14 R371 -/
  imageReceipt : Nat := 0
  /-- OUT_LIVE pin, 1 bit; 14 Table 14.3 -/
  outLive : Bool := false
  /-- FAULT_N pin, 1 bit; 14 R370 -/
  faultN : Bool := false
  /-- FAULT_N is held low until a reset, 1 bit; 14 R370 -/
  faultHeld : Bool := false
  /-- PPS_OUT pin, 1 bit; 02 R46 -/
  ppsOut : Bool := false
  /-- TICK0 to TICK3; 02 R53, 15 R392 -/
  tick0 : PinLevel := .hiZ
  tick1 : PinLevel := .hiZ
  tick2 : PinLevel := .hiZ
  tick3 : PinLevel := .hiZ
  /-- levels of ENCnA and ENCnB, bit 2n and 2n+1, 8 bits; 02 R417 -/
  encPins : BitVec 8 := 0
  /-- epoch counter, 64 bits; 01 R21 -/
  epoch : Nat := 0
  /-- LC0 stamp of the latest boundary, 2^-16 ns; 01 R22 -/
  boundaryLc0 : Nat := 0
  /-- LC3 stamp of the latest boundary, 2^-16 ns; 01 R22 -/
  boundaryLc3 : Int := 0
  /-- a tick of the epoch tracker whose boundary has not run: LC0 and LC3 stamps, 2^-16 ns; 01 R20 -/
  boundaryDue : Option (Nat × Int) := none
  /-- the epoch's mark of a switch to or from fallback, 1 bit; 01 R20, 02 R48 -/
  markFallback : Bool := false
  /-- the epoch's mark of a die loss, 1 bit; 12 Table 12.7 -/
  markLoss : Bool := false
  /-- the marks being gathered for the epoch that the next boundary closes; 02 R48, 12 Table 12.7 -/
  pendFallback : Bool := false
  pendLoss : Bool := false
  /-- ARITH_MODE: true is BOUNDED, 8 bits; 03 Table 3.6, 14 R386 -/
  bounded : Bool := true
  /-- ARITH_MODE becomes BOUNDED from the next epoch; 12 R327 -/
  boundedNext : Bool := false
  /-- ARITH_MODE_SINCE, 64 bits; 03 Table 3.6 -/
  boundedSince : Nat := 0
  /-- C0 to C3 and Bedrock; 12 Table 12.10 -/
  dies : List Die := [{}, {}, {}, {}, {}]
  /-- PORT_CAL FAILED flags: trunks 0 to 15, H0, H1, 18 bits; 14 Table 14.8 -/
  portFailed : BitVec 18 := 0
  /-- the PHYs are calibrated, 1 bit; 14 Table 14.6 test 9 -/
  calibrated : Bool := false
  deriving DecidableEq, Repr

/-! ## Meridian -/

/-- FRC_STATUS of one counter (02 Table 2.2). -/
structure FrcStatus where
  /-- bit 0; 02 Table 2.2 -/
  present : Bool := false
  /-- bit 1; 02 Table 2.2 -/
  locked : Bool := false
  /-- bit 2; 02 Table 2.2 -/
  holdover : Bool := false
  /-- bit 3; 02 Table 2.2 -/
  relocked : Bool := false
  deriving DecidableEq, Repr

/-- A logical clock (02 R34 to R41, Tables 2.3 and 2.5). -/
structure Lc where
  /-- ANCHOR, 64 bits; 02 Table 2.3 -/
  anchor : Nat := 0
  /-- OFFSET, value at ANCHOR, 64.16 ns; 02 Table 2.3 -/
  offset : Int := 0
  /-- RATE in force, signed, 2^-48; 02 Table 2.3 -/
  rate : Int := 0
  /-- lc.slew, 2^-48; 02 R34 -/
  slew : Int := 0
  /-- remainder of the correction in progress as at ANCHOR, 2^-16 ns; 02 R38 -/
  remainder : Int := 0
  /-- SOURCE in force, 2 bits; 02 Table 2.4 -/
  source : Nat := 0
  /-- HOLD, 1 bit; 02 Table 2.3 -/
  hold : Bool := false
  /-- JUMP_REFUSED, 1 bit; 02 Table 2.5 -/
  jumpRefused : Bool := false
  /-- TRACK_FAR (LC3), 1 bit; 02 Table 2.5 -/
  trackFar : Bool := false
  /-- STEPPED, 1 bit; 02 Table 2.5 -/
  stepped : Bool := false
  /-- SLEWING, 1 bit; 02 Table 2.5 -/
  slewing : Bool := false
  /-- SLEW_LIMITED, 1 bit; 02 Table 2.5 -/
  slewLimited : Bool := false
  /-- refused corrections, 64 bits; 02 R38 -/
  refusals : Nat := 0
  /-- ignored adjustments while HOLD, 64 bits; 02 R39 -/
  ignored : Nat := 0
  /-- LC0 ns of the last change of the effective rate; 02 R41 -/
  lastChange : Nat := 0
  /-- LC3: the rate toward which the ramp moves, 2^-48; 02 R41 -/
  rateTarget : Int := 0
  deriving DecidableEq, Repr

/-- The PTP instance of a host port (02 R42, R43; 14 R381). -/
structure Ptp where
  /-- integrator of the servo; 02 R43 -/
  integ : Int := 0
  /-- preciseOriginTimestamp with correction, and receive stamp, of the last Sync, 2^-16 ns; 02 R42, R44 -/
  syncT1 : Int := 0
  syncT2 : Int := 0
  /-- log2 of the intervals a partner has asked for by Signaling: link delay, Sync, Announce; 02 Table 2.7 -/
  logPdelay : Int := 0
  logSync : Int := 0
  logAnnounce : Int := 0
  /-- offset last measured, 2^-16 ns; 02 R43 -/
  offset : Int := 0
  /-- mean path delay, 2^-16 ns; 02 R42 -/
  pathDelay : Int := 0
  /-- consecutive Syncs within the lock threshold; 02 R43 -/
  lockRun : Nat := 0
  /-- LOCKED, 1 bit; 02 R43 -/
  locked : Bool := false
  /-- GM_LOST, 1 bit; 02 R43 -/
  gmLost : Bool := false
  /-- the grandmaster selected, if any; 02 R43 -/
  gm : Option AnnounceData := none
  /-- messages discarded for an unsupported option, 64 bits; 02 R42 -/
  discarded : Nat := 0
  /-- messages received, 64 bits; 02 R42 -/
  received : Nat := 0
  /-- acquisition steps made in TIME_ACQUIRE; 14 R381 -/
  acqSteps : Nat := 0
  /-- acquisition is complete, 1 bit; 14 R381 -/
  acquired : Bool := false
  /-- sequenceId of the next Sync sent, 16 bits; 02 R45 -/
  syncSeq : Nat := 0
  /-- LC0 ns of the last Announce or Sync; 02 R43 -/
  lastHeard : Nat := 0
  deriving DecidableEq, Repr

/-- State of an angle tracker (02 Table 2.12). -/
inductive AtMode where
  | off | acquiring | valid | fallback
  deriving DecidableEq, Repr

/-- An angle tracker (02 R47 to R52, R413, R414, R417). -/
structure Tracker where
  /-- AT_STATE state, 3 bits; 02 Table 2.12 -/
  mode : AtMode := .off
  /-- ENCODER: θ at count zero; 02 Table 2.10, R413 -/
  base : W32 := 0
  /-- θ at `thetaAt`, ANGLE32; 02 R50 -/
  theta : W32 := 0
  /-- instant of `theta` in the clock that θ follows: LC_SEL while SYNTHETIC and VALID, else LC0; 2^-16 ns; 02 R49 -/
  thetaAt : Int := 0
  /-- ω, G32 turns/s; 02 R417, R49 -/
  omega : W32 := 0
  /-- tick count, 64 bits; 02 R50 -/
  tickCount : Nat := 0
  /-- boundary of the last tick, 0 to N - 1; 02 R50 -/
  lastB : Nat := 0
  /-- where that boundary lies in the count of angle in which θ's anchor lies in 0 to 2^32 - 1; 02 R50 -/
  tickU : Int := 0
  /-- while a tick is delayed: the boundary last crossed, in the same count; 02 R51 -/
  crossU : Int := 0
  /-- no tick since the switch-back to VALID, 1 bit; 02 R51 -/
  sinceBack : Bool := false
  /-- LC0 stamp of the last tick, 2^-16 ns; 02 R51 -/
  lastTickAt : Nat := 0
  /-- direction of the last tick; 02 R50 -/
  lastFwd : Bool := true
  /-- a crossing that came too soon: its boundary and direction; 02 R51 -/
  delayed : Option (Nat × Bool) := none
  /-- OVERSPEED, 1 bit; 02 R51 -/
  overspeed : Bool := false
  /-- delays counted, 64 bits; 02 R51 -/
  delays : Nat := 0
  /-- crossings skipped, 64 bits; 02 R51 -/
  skipped : Nat := 0
  /-- consecutive ticks with source valid, lock and speed; 02 Table 2.13 -/
  goodTicks : Nat := 0
  /-- VALID since it last entered ACQUIRING, 1 bit; 02 R49 -/
  wasValid : Bool := false
  /-- the last valid ω, G32; 02 R49 -/
  validOmega : W32 := 0
  /-- changes into and out of FALLBACK, 64 bits; 02 R48 -/
  switches : Nat := 0
  /-- the switch flag of the epoch being gathered; 02 R48 -/
  switched : Bool := false
  /-- ENCODER: the quadrature count, taken modulo one output turn; 02 R417 -/
  count : Int := 0
  /-- ENCODER: LC0 of the last edge, 2^-16 ns; 02 R417 -/
  edgeAt : Option Nat := none
  /-- ENCODER: spacing of the last two edges, 2^-16 ns; 02 R417 -/
  edgeGap : Option Nat := none
  /-- ENCODER: direction of the last edge; 02 R417 -/
  edgeFwd : Bool := true
  /-- ENCODER: edges in a row in one direction; 02 Table 2.13 -/
  edgeRun : Nat := 0
  /-- ENCODER: a Z pulse has come since ACQUIRING; 02 Table 2.13 -/
  zSeen : Bool := false
  /-- ENCODER: aligned since VALID; 02 Table 2.10 -/
  zAligned : Bool := false
  /-- Z_MISMATCH, 1 bit; 02 Table 2.10 -/
  zMismatch : Bool := false
  /-- Z mismatches, 64 bits; 02 Table 2.10 -/
  zMismatches : Nat := 0
  /-- stream modes: fresh samples since ACQUIRING; 02 Table 2.13 -/
  freshRun : Nat := 0
  /-- stream modes: last values of streams A, B and C, G32; 02 Table 2.10 -/
  srcA : W32 := 0
  srcB : W32 := 0
  srcC : W32 := 0
  /-- stream modes: a sample of stream A, B, C has come that no measurement holds yet; 02 Table 2.10 -/
  newA : Bool := false
  newB : Bool := false
  newC : Bool := false
  /-- stream modes: θ and ω as last measured, without DIR, and the instant of that θ (LC3 in STREAM_ABS, else LC0), 2^-16 ns; 02 Table
  2.10, R47 -/
  mTheta : W32 := 0
  mOmega : W32 := 0
  mAt : Int := 0
  /-- GRID_PLL: v_q of the last samples, G32; 02 Table 2.13 -/
  vq : W32 := 0
  /-- events that are disarmed, by number, rising; 02 R414 -/
  disarmed : List Nat := []
  /-- the angle from which a passage counts: where θ stood at its anchor, or before the last edge, and where it stood when an event was
  armed again since, in the same count as `tickU`; 02 R414 -/
  fromU : Int := 0
  armedU : Store Int := []
  /-- angle travelled, in either direction, up to θ's anchor, ANGLE32 counts; 02 R55, 06 R150 -/
  odo : Int := 0
  deriving DecidableEq, Repr

/-- What Meridian's objects show of an instant (02 R57). -/
structure TimeSample where
  /-- FRC0 to FRC3, ns; 02 Table 2.17 -/
  frcs : List Nat
  /-- LC0 to LC15, 2^-16 ns; 02 Table 2.17 -/
  lcs : List Int
  /-- AT0 to AT7, and their θ and ω; 02 Table 2.17 -/
  trackers : List Tracker
  angles : List (W32 × W32)
  deriving DecidableEq, Repr

/-- Meridian. -/
structure Meridian where
  /-- FRC0 to FRC3, 64 bits each, ns; 02 R31 -/
  frc0 : W64 := 0
  frc1 : W64 := 0
  frc2 : W64 := 0
  frc3 : W64 := 0
  /-- FRC_STATUS of FRC0 to FRC3; 02 Table 2.2 -/
  frcStatus : List FrcStatus := [{}, {}, {}, {}]
  /-- LC0 to LC15; 02 Table 2.4 (LC1 on FRC2, LC2 on FRC3) -/
  clocks : List Lc := [{}, { source := 2 }, { source := 3 }, {}, {}, {}, {}, {}, {}, {}, {}, {}, {}, {}, {}, {}]
  /-- the PTP instances of H0 and H1; 02 R42 -/
  ptp : List Ptp := [{}, {}]
  /-- PPS servo integrator; 02 R46 -/
  ppsInteg : Int := 0
  /-- LC0 of the last accepted PPS edge, 2^-16 ns; 02 R46 -/
  ppsLast : Option Nat := none
  /-- stamps of the last PPS_IN edge in FRC0 to FRC3 and in LC0 to LC15, 2^-16 ns; 02 R33, R46 -/
  ppsFrc : List Nat := [0, 0, 0, 0]
  ppsLc : List Int := [0, 0, 0, 0, 0, 0, 0, 0, 0, 0, 0, 0, 0, 0, 0, 0]
  /-- PPS edges discarded, 64 bits; 02 R46 -/
  ppsRejected : Nat := 0
  /-- LC0 ns of the last LC3_TRACK comparison, the reference clock's number, and its value then, 2^-16 ns; 02 R41 -/
  trackAt : Option (Nat × Nat × Int) := none
  /-- counters, clocks and angles at the instant of a boundary that is due, until it has closed its epoch; 02 R57 -/
  atBoundary : Option TimeSample := none
  /-- AT0 to AT7; 02 R48 -/
  trackers : List Tracker := [{}, {}, {}, {}, {}, {}, {}, {}]
  /-- leading edges due at each TICK pin, LC0 2^-16 ns; 02 R53 -/
  edges : Store (List Nat) := []
  /-- the LC0 instant at which a pulse ends, 2^-16 ns: TICK0 to TICK3 by number, 4 for PPS_OUT; 02 R46, R53 -/
  pulseEnd : Store Nat := []
  deriving DecidableEq, Repr

/-! ## Arithmetic status and tiles -/

/-- An accumulator entry at the internal width (03 R73): exact value `mant * 2^exp`, or a special. -/
inductive Acc where
  | fin (mant : Int) (exp : Int) (negZero : Bool)
  | inf (neg : Bool)
  | nan
  deriving DecidableEq, Repr

/-- A scoreboard entry (04 R99): an issued, unretired command, or an open window. -/
structure SbEntry where
  /-- the issued command after patching, 256 bits; 04 Table 4.5 -/
  cmd : BitVec 256 := 0
  /-- its DMA descriptor after patching, 256 bits; 04 Table 4.13 -/
  desc : BitVec 256 := 0
  /-- the unit has begun it; 04 R111 -/
  begun : Bool := false
  /-- the unit has completed every read and write; 04 R100 -/
  done : Bool := false
  /-- RESULT, 8 bits; 04 Table 4.15 -/
  result : Nat := 0
  /-- ARITH_FLAGS, 8 bits; 03 Table 3.5 -/
  flags : BitVec 8 := 0
  /-- bursts that a DMA command has moved; 04 R104, R111 -/
  bursts : Nat := 0
  /-- issue order within the context -/
  serial : Nat := 0
  deriving DecidableEq, Repr

/-- What a sequencer waits for (04 Table 4.3). -/
inductive Wait where
  | none
  | tag (rd : Nat) (tag : Nat)
  | fence
  | sync (obj : Nat)
  deriving DecidableEq, Repr

/-- A hardware context of a tile (04 R89). -/
structure Ctx where
  /-- s0 to s15, 32 bits each; 04 R89 -/
  s : Store W32 := []
  /-- v0 to v31, 64 lanes of G32, keyed register × 64 + lane; 04 R89 -/
  v : Store W32 := []
  /-- program counter, a 64-bit code word index; 04 R89 (log 13) -/
  pc : Nat := 0
  /-- partition that owns the context, if resident; 09 R238 -/
  part : Option Nat := none
  /-- the context runs its program: between the start object and STEP_END; 09 Table 9.3 -/
  running : Bool := false
  /-- STEP_END reached; 04 Table 4.3 -/
  atEnd : Bool := false
  /-- issue stopped: context fault, slice end or teardown; 04 R102, R111 -/
  stopped : Bool := false
  /-- outstanding wait; 04 Table 4.3 -/
  wait : Wait := .none
  /-- scoreboard, 32 entries at most, in issue order; 04 R99 -/
  sb : List SbEntry := []
  /-- commands parked by a slice end, in program order; 04 R111 -/
  parked : List SbEntry := []
  /-- status word of the last retired command of each tag; 04 R112 -/
  status : Store W32 := []
  /-- serial of the most recently issued command of each tag; 04 Table 4.3 -/
  tagSerial : Store Nat := []
  /-- serial of the next command issued -/
  nextSerial : Nat := 1
  /-- LC0 ns at which its next command first could not issue; the stall count runs from it; 04 R101 -/
  stallSince : Option Nat := none
  /-- STALL_MAX in the epoch, cycles; 04 Table 4.18 -/
  stallMax : Nat := 0
  /-- CONTEXT_FAULTS, 64 bits; 04 Table 4.18 -/
  faults : Nat := 0
  /-- LAST_FAULT reason, 8 bits; 04 Table 4.11 -/
  faultReason : Nat := 0
  /-- LAST_FAULT program counter; 04 Table 4.18 -/
  faultPc : Nat := 0
  /-- LAST_FAULT epoch; 04 Table 4.18 -/
  faultEpoch : Nat := 0
  /-- SLICE_OVERRUN_MAX in the epoch, cycles; 04 Table 4.18 -/
  overrunMax : Nat := 0
  /-- overrun to subtract from the next slice, cycles; 04 R111 -/
  overrun : Nat := 0
  /-- LC0 ns at which its slice ended, while it is descheduled; 09 R251 -/
  offSince : Option Nat := none
  /-- cycles of the step in which it was descheduled for the other context's slice and overrun; 09 R251 -/
  offCycles : Nat := 0
  /-- LC0 ns at which it reached STEP_END; 09 R251 -/
  endAt : Nat := 0
  deriving DecidableEq, Repr

/-- A window slot of a tile (04 R107, R108). -/
structure Window where
  /-- open or closing; 04 R107 -/
  isOpen : Bool := false
  /-- WCLOSE has put it into its closing state; 04 R108 -/
  closing : Bool := false
  /-- the owner's context; 04 R107 -/
  ctx : Nat := 0
  /-- first word; 04 R107 -/
  base : Nat := 0
  /-- words; 04 R107 -/
  len : Nat := 0
  /-- RIGHTS, 2 bits; 04 Table 4.14 -/
  rights : Nat := 0
  /-- DIR, 2 bits; 04 Table 4.14 -/
  dir : Nat := 0
  /-- serial of its scoreboard entry -/
  serial : Nat := 0
  /-- accepted transfers that have not completed; 04 R108 -/
  inFlight : Nat := 0
  deriving DecidableEq, Repr

/-- The tiles and the arithmetic status of every engine. -/
structure Tiles where
  /-- scratchpads, 128 × 327,680 bytes at tile × 327,680 + byte; 04 R92 -/
  scratch : List Host.Cell := []
  /-- contexts, keyed tile × 2 + context; 04 R89 -/
  ctxs : Store Ctx := []
  /-- accumulator banks, keyed (tile × 2 + bank) × 16,384 + row × 64 + column; 04 R96 -/
  banks : Store Acc := []
  /-- window slots, keyed tile × 8 + slot; 04 R107 -/
  windows : Store Window := []
  /-- WIN_DROPPED by tile, 64 bits; 04 Table 4.18 -/
  winDropped : Store Nat := []
  /-- WIN_NACK by tile, 64 bits; 04 Table 4.18 -/
  winNack : Store Nat := []
  /-- the context whose slice runs on a shared tile, by tile; 2 + that context while its units finish after the slice; 09 R248 -/
  slice : Store Nat := []
  /-- LC0 ns at which the slice began, or ended while units finish, by tile; 09 R248 -/
  sliceAt : Store Nat := []
  /-- ARITH_STICKY, 8 bits, tiles 0–127 and BE0–BE31 at 128–159; 03 Table 3.6 -/
  sticky : Store (BitVec 8) := []
  /-- ARITH_COUNT, keyed engine × 5 + (OVF, UNF, NAN_GEN, NAN_IN, DNI), 64 bits; 03 Table 3.6 -/
  arithCount : Store Nat := []
  /-- counts of the 32,768 synchronisation objects; 01 R18 -/
  sync : Store Nat := []
  /-- Stratum of C0 to C3, 4 GiB each: its pages outside the partitions at die × 2^32 + byte, the far space of a partition on a die at
  (4 + partition × 4 + die) × 2^32 + byte (log 23); 01 R18, 04 R104 -/
  stratum : List Host.Cell := []
  deriving DecidableEq, Repr

/-! ## Basalt and templates -/

/-- A descriptor in a Basalt queue (05 R119). -/
structure BeDesc where
  /-- descriptor as enqueued, 512 bits; 05 Table 5.2 -/
  desc : BitVec 512 := 0
  /-- the template it solves, the number of its release and its place in the chain -/
  template : Nat := 0
  release : Nat := 0
  idx : Nat := 0
  /-- the assembler's flags, carried by the first of a release's chain; 05 R140 -/
  asmFlags : BitVec 8 := 0
  /-- its instance and result regions, words: base and length; 05 R117 -/
  inst : Nat × Nat := (0, 0)
  res : Nat × Nat := (0, 0)
  deriving DecidableEq, Repr

/-- A completion record (05 Table 5.10). -/
structure Completion where
  /-- 16 bits -/
  template : Nat := 0
  /-- 8 bits -/
  tag : Nat := 0
  /-- 8 bits: 0 DONE, 1 ABANDONED, 2 BAD_DESC, 3 UNCORRECTABLE, 4 DISCARDED -/
  result : Nat := 0
  /-- 8 bits -/
  flags : BitVec 8 := 0
  /-- 9 bits -/
  nFlagged : Nat := 0
  /-- 32 bits -/
  cycles : Nat := 0
  /-- LC0 ns, 64 bits -/
  endLc0 : Nat := 0
  deriving DecidableEq, Repr

/-- A held region of a local memory (05 R117). -/
structure Hold where
  /-- first word -/
  base : Nat := 0
  /-- words -/
  len : Nat := 0
  /-- the solve that holds it: template and release; the descriptor's place in its chain -/
  template : Nat := 0
  release : Nat := 0
  idx : Nat := 0
  /-- a result region, or an instance region that carries an output: held until publication -/
  untilPublished : Bool := false
  /-- a result region -/
  result : Bool := false
  deriving DecidableEq, Repr

/-- What the running descriptor has computed and not yet retired with. -/
structure BeRun where
  /-- ARITH_FLAGS of the datapath; 05 R140 -/
  flags : BitVec 8 := 0
  /-- instance status words; 05 Table 5.9 -/
  status : List W64 := []
  /-- LC0 ns of its start -/
  start : Nat := 0
  /-- its cycles that epochs already closed have counted as busy; 05 Table 5.16 -/
  counted : Nat := 0
  deriving DecidableEq, Repr

/-- A Basalt engine (05 R114, Table 5.16). -/
structure Be where
  /-- command queue, 32 descriptors at most; 05 R114 -/
  queue : List BeDesc := []
  /-- chains that found too few free entries, in order; 05 R119 -/
  waiting : List (List BeDesc) := []
  /-- result of the head descriptor once it has run; 05 R119 -/
  run : Option BeRun := none
  /-- held regions; 05 R117 -/
  holds : List Hold := []
  /-- completion FIFO; 05 R140 -/
  fifo : List Completion := []
  /-- BE_LAST_COMPLETION; 05 Table 5.16 -/
  last : Completion := {}
  /-- BE_COMMANDS … BE_BOX_FIXED, nine counters of 64 bits; 05 Table 5.16 -/
  commands : Nat := 0
  abandoned : Nat := 0
  discarded : Nat := 0
  badDesc : Nat := 0
  uncorrectable : Nat := 0
  regPivots : Nat := 0
  notConverged : Nat := 0
  warmIgnored : Nat := 0
  boxFixed : Nat := 0
  /-- BE_BUSY, cycles in the epoch; 05 Table 5.16 -/
  busy : Nat := 0
  /-- BE_QUEUE_MAX in the epoch; 05 Table 5.16 -/
  queueMax : Nat := 0
  /-- words struck by an uncorrectable error, rewritten at the next boundary; the instant (LC0 ns) while the first release that would
  read the word is still to come; 12 Table 12.1 -/
  struck : List (Nat × Option Nat) := []
  deriving DecidableEq, Repr

/-- A pending delta (06 R156): the value of one (instance, slot). -/
structure Pending where
  /-- slot number -/
  slot : Nat := 0
  /-- instance -/
  inst : Nat := 0
  /-- FMT 0 to 2; 06 Table 6.3 -/
  fmt : Nat := 0
  /-- VALUE, 32 bits -/
  value : W32 := 0
  /-- production instant, LC0 ns (PROD_LC0 is its low 32 bits); 06 R156, Table 6.3 -/
  prod : Nat := 0
  /-- still to be applied to buffer 0, to buffer 1; 06 R156 -/
  for0 : Bool := true
  for1 : Bool := true
  deriving DecidableEq, Repr

/-- A release not yet judged (06 R150 to R152, R166). -/
structure Release where
  /-- number of the release of its template -/
  num : Nat := 0
  /-- release instant, LC0 2^-16 ns; 06 R150 -/
  at_ : Nat := 0
  /-- angle its tracker had travelled at the release, ANGLE32 counts; 02 R55, 06 R150 -/
  travel : Int := 0
  /-- the ASM_LATEST instant has been reached; 06 R152 -/
  latest : Bool := false
  /-- its assembly has started; 06 R152 -/
  started : Bool := false
  /-- buffer 0 or 1; 06 R148 -/
  buffer : Nat := 0
  /-- assembly started at ASM_LATEST without DEP's completion; 06 Table 6.6 -/
  depStale : Bool := false
  /-- the last descriptor retired with DONE: END_LC0, ns; 05 R142 -/
  doneAt : Option Nat := none
  /-- the deadline instant has passed; 05 R142 -/
  dead : Bool := false
  /-- code of OUTCOME once it cannot be published; 06 Table 6.6 -/
  fail : Option Nat := none
  /-- a boundary has judged it unpublished before its deadline instant; 06 R151, R166 -/
  judged : Bool := false
  /-- aged samples used; 06 R153 -/
  aged : Nat := 0
  /-- flags of the assembler by instance: bit 37 CLAMPED, bit 38 NAN_SLOT; 05 R139 -/
  pre : Store Nat := []
  /-- ARITH_FLAGS of the assembler; 05 R140 -/
  asmFlags : BitVec 8 := 0
  /-- instance status words of the last descriptor; 05 Table 5.9 -/
  status : List W64 := []
  deriving DecidableEq, Repr

/-- The published output of one instance (06 Table 6.7, TEMPLATE_OUT). -/
structure OutInst where
  /-- FRESH_EPOCH, 64 bits; 06 R166 -/
  fresh : Nat := 0
  /-- STALE; 06 R166 -/
  stale : Bool := false
  /-- instance status word, 64 bits; 05 Table 5.9 -/
  status : W64 := 0
  /-- the result block; 06 R164 -/
  block : Bytes := []
  /-- signature of the template version that published it, 0 none; 06 R160 -/
  sig : Nat := 0
  /-- this publication has been carried into buffer 0, buffer 1; 06 R149 -/
  carried0 : Bool := true
  carried1 : Bool := true
  /-- signature of the version last carried into buffer 0, buffer 1; 06 R160 -/
  sig0 : Nat := 0
  sig1 : Nat := 0
  deriving DecidableEq, Repr

/-- A template at run time (06 Tables 6.6 and 6.7). -/
structure Tmpl where
  /-- releases not yet judged, oldest first; 06 R151, R166 -/
  releases : List Release := []
  /-- releases made so far -/
  nextNum : Nat := 0
  /-- buffer of the next assembled release; 06 R148 -/
  nextBuffer : Nat := 0
  /-- release instant of the last solve that completed on time; 06 R152 -/
  doneRel : Option Nat := none
  /-- pending deltas; 06 R156 -/
  pending : List Pending := []
  /-- entries of its image that wait for the end of holds on their words: element, value; 05 R117, 06 R147 -/
  imageDue : List (Nat × Int) := []
  /-- published output by instance; 06 R164 -/
  out : Store OutInst := []
  /-- OUTCOME, 8 bits; 06 Table 6.6 -/
  outcome : Nat := 0
  /-- STALE_RUN, 8 bits; 06 Table 6.6 -/
  staleRun : Nat := 0
  /-- AGED, 8 bits; 06 Table 6.6 -/
  aged : Nat := 0
  /-- CLAMPED, 8 bits; 06 Table 6.6 -/
  clamped : Nat := 0
  /-- MISS_ALARM, 1 bit; 06 Table 6.6 -/
  missAlarm : Bool := false
  /-- DEFAULTED, 1 bit; 06 Table 6.6 -/
  defaulted : Bool := false
  /-- DEP_STALE, 1 bit; 06 Table 6.6 -/
  depStale : Bool := false
  /-- WARM_IGNORED_ANY, 1 bit; 06 Table 6.6 -/
  warmAny : Bool := false
  /-- OVF_ANY, 1 bit; 06 Table 6.6 -/
  ovfAny : Bool := false
  /-- seven counters of 64 bits: RELEASES, UNPUBLISHED, SKIPPED, AGED, CLAMPED, DELTA_REFUSED, DEFAULTED; 06 Table 6.7 -/
  nReleases : Nat := 0
  nUnpublished : Nat := 0
  nSkipped : Nat := 0
  nAged : Nat := 0
  nClamped : Nat := 0
  nRefused : Nat := 0
  nDefaulted : Nat := 0
  /-- clamps, regularised pivots, aged samples and cold starts so far, for SOLVE_SUMMARY; 12 Table 12.13 -/
  noted : Nat := 0
  /-- the template's work runs on the partner after a take-over: engine; 12 R330 -/
  movedTo : Option Nat := none
  /-- stopped with its die, until the derived set serves it; 12 R333 -/
  stoppedBy : Bool := false
  deriving DecidableEq, Repr

/-- The stale state of one route destination (06 R166). -/
structure DestStale where
  /-- stale mark -/
  stale : Bool := false
  /-- stale run -/
  run : Nat := 0
  /-- DEFAULT has been applied in this run; 06 R166 -/
  defaulted : Bool := false
  deriving DecidableEq, Repr

/-- Basalt engines and templates. -/
structure Solver where
  /-- local memories, 32 × 262,144 bytes at engine × 262,144 + byte; 05 R114 -/
  mem : List Host.Cell := []
  /-- engines by number; 05 R114 -/
  engines : Store Be := []
  /-- templates by number; 06 R145 -/
  tmpls : Store Tmpl := []
  /-- route destinations by ((kind × 2^26 + number) × 16 + loop field) × 512 + instance of a TEMPLATE slot; 06 R166 -/
  dests : Store DestStale := []
  deriving DecidableEq, Repr

/-! ## Halo -/

/-- The RO part of a loop record and what the engine keeps of the loop (07 Table 7.2). -/
structure LoopRt where
  /-- FLAGS, 16 bits; 07 Table 7.3 -/
  flags : BitVec 16 := 0
  /-- LAST_EXEC, LC3 ns, 64 bits; 07 Table 7.2 -/
  lastExec : Nat := 0
  /-- T0, LC3 ns, 64 bits; 07 Table 7.2 -/
  t0 : Nat := 0
  /-- W_ELAPSED, G32; 07 Table 7.2 -/
  wElapsed : W32 := 0
  /-- SW_COUNT, 8 bits; 07 Table 7.2 -/
  swCount : Nat := 0
  /-- LEVEL, 3 bits; 07 Table 7.2 -/
  level : Nat := 0
  /-- H, G32; 07 Table 7.2 -/
  h : W32 := 0
  /-- INTEG, G32; 07 Table 7.2 -/
  integ : W32 := 0
  /-- E0, G32; 07 Table 7.2 -/
  e0 : W32 := 0
  /-- RF, G32; 07 Table 7.2 -/
  rf : W32 := 0
  /-- freshly activated, first command to OPEN_LEVEL not sent; 07 R191 -/
  first : Bool := false
  /-- INIT_CLOSED: execute time of that first command, LC3 ns; 07 R191 -/
  initExec : Option Nat := none
  /-- a discard notice waits for the next update; 07 R182 -/
  discard : Bool := false
  /-- the engine that runs the loop now; 07 Table 7.12 LOOP_PLACE -/
  engine : Nat := 0
  /-- stopped with a lost die, 1 bit; 12 R333 -/
  stopped : Bool := false
  /-- its record was struck by an uncorrectable error, until the next boundary; 12 Table 12.1 -/
  struck : Bool := false
  /-- COMMANDS, CREDIT_WAITS, AT_END_LEVEL, ARITH, LATE_ANGLE, 64 bits each; 07 Table 7.12 -/
  nCommands : Nat := 0
  nCreditWaits : Nat := 0
  nEndLevel : Nat := 0
  nArith : Nat := 0
  nLate : Nat := 0
  deriving DecidableEq, Repr

/-- The command shadow of a loop on Bedrock (12 R331). -/
structure CmdShadow where
  /-- LEVEL, 3 bits -/
  level : Nat := 0
  /-- LAST_EXEC, LC3 ns -/
  lastExec : Nat := 0
  deriving DecidableEq, Repr

/-- A sample in a Halo input queue (07 R200). -/
structure QSample where
  loop : Nat := 0
  /-- y, G32 -/
  y : W32 := 0
  /-- sample instant t1, LC3 ns -/
  t1 : Nat := 0
  /-- arrival stamp t_a, LC3 ns -/
  ta : Nat := 0
  /-- θ and ω of the loop's tracker latched at the arrival stamp; 07 R184 -/
  theta : W32 := 0
  omega : W32 := 0
  deriving DecidableEq, Repr

/-- A Halo engine (07 R170, Table 7.12). -/
structure He where
  /-- input queue, 512 entries at most; 07 R200 -/
  queue : List QSample := []
  /-- UPDATES, COMMANDS, CREDIT_WAITS, ARITH, LATE_ANGLE, QUEUE_MAX in the epoch, QUEUE_DROPS; 07 Table 7.12 -/
  updates : Nat := 0
  commands : Nat := 0
  creditWaits : Nat := 0
  arith : Nat := 0
  late : Nat := 0
  queueMax : Nat := 0
  queueDrops : Nat := 0
  deriving DecidableEq, Repr

/-- A profile generator at run time (07 Table 7.6). -/
structure GenRt where
  /-- P, V, A, G32; 07 Table 7.6 -/
  p : W32 := 0
  v : W32 := 0
  a : W32 := 0
  /-- FLAGS, 8 bits; 07 Table 7.6 -/
  flags : BitVec 8 := 0
  /-- the engine that runs it now; 07 R170 -/
  engine : Nat := 0
  /-- LC3 ns of the last step, or of activation; 07 R193 -/
  stepAt : Nat := 0
  /-- stopped with a lost die; 12 R333 -/
  stopped : Bool := false
  /-- its record was struck by an uncorrectable error, until the next boundary; 12 Table 12.1 -/
  struck : Bool := false
  deriving DecidableEq, Repr

/-- An injector at run time (07 R196). -/
structure InjRt where
  /-- started and waiting for the loop's next update at or after this LC3 ns; 07 R196 -/
  armed : Option Nat := none
  /-- running, with t_s in LC3 ns; 07 R196 -/
  ts : Option Nat := none
  deriving DecidableEq, Repr

/-- CSTATE (07 Table 7.9). -/
inductive CapState where
  | idle | armed | triggered | frozen
  deriving DecidableEq, Repr

/-- A capture channel at run time (07 R198). -/
structure CapRt where
  /-- CSTATE, 2 bits; 07 Table 7.9 -/
  state : CapState := .idle
  /-- WRITE_IDX, 20 bits; 07 Table 7.9 -/
  idx : Nat := 0
  /-- TRIG_T, LC3 ns; 07 Table 7.9 -/
  trigT : Nat := 0
  /-- a trigger waits for the next update at or after this LC3 ns; 07 R198 -/
  pending : Option Nat := none
  /-- entries still to write before FROZEN; 07 R198 -/
  left : Nat := 0
  /-- updates since the last entry; 07 R197 -/
  decim : Nat := 0
  /-- entries written, for the entry count; 07 R197 -/
  count : Nat := 0
  deriving DecidableEq, Repr

/-- The Halo engines. -/
structure Halo where
  /-- engines by number; 07 R170 -/
  engines : Store He := []
  /-- loops by number; 07 Table 7.2 -/
  loops : Store LoopRt := []
  /-- command shadows by loop; 12 R331 -/
  shadows : Store CmdShadow := []
  /-- profile generators by number; 07 Table 7.6 -/
  gens : Store GenRt := []
  /-- injectors by number; 07 Table 7.7 -/
  injs : Store InjRt := []
  /-- capture channels by number; 07 Table 7.9 -/
  caps : Store CapRt := []
  deriving DecidableEq, Repr

/-! ## Sequences, pools and partitions -/

/-- Sequence state (08 Table 8.6). -/
inductive SeqMode where
  | off | idle | due | running | stalled | preempted | finished
  deriving DecidableEq, Repr

/-- A feature accumulator of the builder (08 R208). -/
structure Feat where
  /-- samples folded into the open interval -/
  n : Nat := 0
  /-- running sum (MEAN) or sum of squares (RMS), G32 -/
  sum : W32 := 0
  /-- least, greatest and last value, G32 -/
  min : W32 := 0
  max : W32 := 0
  last : W32 := 0
  /-- LAST of the previous token, and the previous token's value -/
  prevLast : W32 := 0
  prevVal : W32 := 0
  deriving DecidableEq, Repr

/-- A page table entry (08 Table 8.8) with the page's content. -/
structure Page where
  /-- TIER, 2 bits; 08 Table 8.8 -/
  tier : Nat := 1
  /-- DIE, 2 bits; 08 Table 8.8 -/
  die : Nat := 0
  /-- MOVING; 08 Table 8.8 -/
  moving : Bool := false
  /-- destination tier and frame of a move; 08 R225 -/
  dest : Option (Nat × Nat) := none
  /-- PINNED; 08 Table 8.8 -/
  pinned : Bool := false
  /-- VALID; 08 Table 8.8 -/
  valid : Bool := true
  /-- FRAME, 32 bits; 08 Table 8.8 -/
  frame : Nat := 0
  /-- shared by reference from a prefix set; 08 R220 -/
  shared : Bool := false
  /-- a prefetched copy of a tier T3 page is being read, or is in a PREFETCH frame; 08 R224 -/
  fetching : Bool := false
  prefetched : Bool := false
  /-- die and tier T1 frame of that copy; 08 R224 -/
  copy : Option (Nat × Nat) := none
  /-- the page's bytes in the far layout; 08 Table 8.7 -/
  bytes : Bytes := []
  deriving DecidableEq, Repr

/-- One page list of a sequence with its staging (08 R215, R216). -/
structure PageList where
  pages : List Page := []
  /-- staged rows, oldest first, each d_h G16 values; 08 R216 -/
  staged : List (List (BitVec 16)) := []
  /-- rows of the shared tail at the front of the staged block; 08 R220 -/
  tail : Nat := 0
  /-- a flush of this list is stalled; 08 R229 -/
  stalled : Bool := false
  /-- the list's append reserve holds a frame; 08 R227 -/
  reserve : Bool := false
  /-- tier T3 frames that hold the staging of a pre-empted sequence, and their bytes; 08 R228 -/
  away : List Nat := []
  awayBytes : Bytes := []
  deriving DecidableEq, Repr

/-- A sequence (or the run of a prefix set) at run time (08 Table 8.12). -/
structure Seq where
  /-- state, 3 bits; 08 Table 8.6 -/
  mode : SeqMode := .off
  /-- position p; 08 R211 -/
  p : Nat := 0
  /-- the token slot: N_FEAT G32 features; 08 R210 -/
  token : Option (List W32) := none
  /-- the next token will be STRETCHED; 08 R210 -/
  stretching : Bool := false
  /-- LC3 stamps (ns) of the token boundaries whose grace runs, oldest first; 08 R209 -/
  closings : List Nat := []
  /-- feature accumulators: row i, column j holds, by feature, the samples of the intervals i to i + j, of which the last is open: an
  interval that a full slot leaves open goes on as one with the next; 08 R208, R209, R210 -/
  spans : List (List (Store Feat)) := [[[]]]
  /-- LC3 stamp (ns) of the latest boundary whose grace has ended; 08 R209 -/
  boundary : Nat := 0
  /-- page lists by list number; 08 R218 -/
  lists : Store PageList := []
  /-- SEQ_OUT: the risk outputs, G32; 08 Table 8.12 -/
  out : List W32 := []
  /-- SEQ_OUT held for the next tick boundary; 09 Table 9.3 -/
  outHeld : Option (List W32) := none
  /-- flags GAP, STRETCHED, PREFETCH_LATE, LOST_CONTEXT, NAN_OUT; 08 Table 8.12 -/
  gap : Bool := false
  stretched : Bool := false
  prefetchLate : Bool := false
  lostContext : Bool := false
  nanOut : Bool := false
  /-- a first token has been closed; 08 R208 -/
  hadToken : Bool := false
  /-- TOKENS, STRETCHED, LATE_SAMPLES, STALLS, PREEMPTIONS, RESTARTED, NAN_OUT, 64 bits; 08 Table 8.12 -/
  nTokens : Nat := 0
  nStretched : Nat := 0
  nLate : Nat := 0
  nStalls : Nat := 0
  nPreempt : Nat := 0
  nRestarted : Nat := 0
  nNan : Nat := 0
  /-- returns from pre-emption counted; 08 R228 -/
  nReturns : Nat := 0
  /-- it is to be pre-empted when its step ends; 08 R228 -/
  preemptDue : Bool := false
  /-- pre-empted, and on its way back to tier T1; 08 R228 -/
  returning : Bool := false
  /-- HOME_DIE, 2 bits; 08 Table 8.5 -/
  home : Nat := 0
  /-- lost its context during the running step: no outputs; 08 R230 -/
  noOutput : Bool := false
  deriving DecidableEq, Repr

/-- A prefix set at run time in one partition (08 R220). -/
structure Prefix where
  /-- the run of the prefix is complete -/
  complete : Bool := false
  /-- positions run so far -/
  p : Nat := 0
  /-- its page lists; the last partial page stays as the shared tail -/
  lists : Store PageList := []
  /-- it is a member of the step that runs; 09 R243 -/
  running : Bool := false
  /-- appends halted for want of a page; 08 R229 -/
  stalled : Bool := false
  deriving DecidableEq, Repr

/-- A KV pool (08 Table 8.12). Its frames free, used and in transit follow from the pages that name them (08 R231). -/
structure Pool where
  /-- SPILLS, PREFETCHES, PREFETCH_LATE, COW_COPIES, RESERVE_EMPTY, PAGES_LOST; 08 Table 8.12 -/
  nSpills : Nat := 0
  nPrefetch : Nat := 0
  nLate : Nat := 0
  nCow : Nat := 0
  nEmpty : Nat := 0
  nLost : Nat := 0
  /-- KV pages ledger: FLUSHED, RELEASED, LIVE, LOST; 12 Table 12.3 -/
  flushed : Nat := 0
  released : Nat := 0
  live : Nat := 0
  lost : Nat := 0
  deriving DecidableEq, Repr

/-- Partition state (09 Table 9.2). -/
inductive PartMode where
  | off | loading | idle | stepping | teardown | halted | reservedIdle
  deriving DecidableEq, Repr

/-- A partition at run time (09 Table 9.8). -/
structure Part where
  /-- state, 3 bits; 09 Table 9.2 -/
  mode : PartMode := .off
  /-- the resident model, 8 bits; 09 R239 -/
  model : Nat := 0
  /-- entry to switch to, if a switch is due; 09 R240 -/
  switchTo : Option Nat := none
  /-- step number, 64 bits; 09 R243 -/
  step : Nat := 0
  /-- members of the step, in member order: a sequence, or 16,384 + a prefix set; 09 R243, 08 R220 -/
  members : List Nat := []
  /-- a reservation has been started; 09 R249 -/
  started : Bool := false
  /-- STOP taken: no further step; 09 R249 -/
  stopping : Bool := false
  /-- teardowns since the last completed step; 09 R254 -/
  sinceStep : Nat := 0
  /-- last cause and reason; 09 Table 9.4 -/
  cause : Nat := 0
  reason : Nat := 0
  /-- STEPS, TEARDOWNS, STEP_OVERRUNS, SWITCHES, HALTS, TOKENS_SERVED, 64 bits; 09 Table 9.8 -/
  nSteps : Nat := 0
  nTeardowns : Nat := 0
  nOverruns : Nat := 0
  nSwitches : Nat := 0
  nHalts : Nat := 0
  nTokens : Nat := 0
  /-- LC0 ns of the post of the start object; 09 R245 -/
  stepAt : Nat := 0
  /-- PART_PERF of the epoch: steps, sum and largest SLOWDOWN, largest OBS, INTERF_FAR, INTERF_SLICE; 09 R251 -/
  perfN : Nat := 0
  slowSum : Nat := 0
  slowMax : Nat := 0
  obsMax : Nat := 0
  interfFar : Nat := 0
  interfSlice : Nat := 0
  /-- the last regime indices read, newest first, four at most; 09 R240 -/
  regime : List Nat := []
  /-- stopped with a lost die; 12 R333 -/
  stoppedBy : Bool := false
  /-- the teardown under way was caused by a SWAP; 09 R255 -/
  gone : Bool := false
  /-- page ring: descriptors filled, keyed (tile × 64 + slot); 08 R219 -/
  ring : Store (BitVec 256) := []
  /-- pages of the step's walks not yet put in a ring, per tile, in position order: sequence, list, page; 08 R219 -/
  walk : Store (List (Nat × Nat × Nat)) := []
  /-- the set under which the step that runs was formed, where a SWAP has come since; 09 R255 -/
  outgoing : Option (Store Bytes) := none
  deriving DecidableEq, Repr

/-- Serving. -/
structure Serving where
  /-- sequences by number; 08 Table 8.12 -/
  seqs : Store Seq := []
  /-- prefix sets, keyed prefix × 32 + partition; 08 R220 -/
  prefixes : Store Prefix := []
  /-- pools by partition; 08 Table 8.9 -/
  pools : Store Pool := []
  /-- partitions by number; 09 Table 9.8 -/
  parts : Store Part := []
  /-- ALLGATHER_BYTES in the epoch by partition; 08 Table 8.12 -/
  allgather : Store Nat := []
  deriving DecidableEq, Repr

/-! ## Trunks, cells, streams -/

/-- A COMMAND waiting at a trunk (10 R279). -/
structure TxCmd where
  cell : Nat := 0
  output : Nat := 0
  level : Nat := 0
  loop : Nat := 0
  /-- the issuing Halo engine; 10 R279 -/
  engine : Nat := 0
  /-- execute time formed by the engine, LC3 ns; 07 R182 -/
  exec : Nat := 0
  /-- stamped in angle: tracker and θ_x; 07 R184 -/
  angle : Option (Nat × W32) := none
  /-- low 32 bits of the epoch the update used; 10 Table 10.6 -/
  epoch : W32 := 0
  /-- command number, 16 bits; 10 Table 10.3 SEQ (log 67) -/
  number : Nat := 0
  /-- it has expired while it waits; 10 R271, R280 -/
  expired : Bool := false
  deriving DecidableEq, Repr

/-- An outstanding command of a cell (10 R280). -/
structure OutCmd where
  /-- command number, 16 bits; 10 Table 10.3 SEQ -/
  number : Nat := 0
  loop : Nat := 0
  /-- the issuing Halo engine; 10 R279 -/
  engine : Nat := 0
  /-- EXEC_T, LC3 ns -/
  exec : Nat := 0
  deriving DecidableEq, Repr

/-- Cell state (10 Table 10.11). -/
inductive CellMode where
  | off | unseen | announced | configured | mismatch | lost
  deriving DecidableEq, Repr

/-- A cell (10 Table 10.17). -/
structure CellRt where
  /-- state, 3 bits; 10 Table 10.11 -/
  mode : CellMode := .off
  /-- CFG_ID acknowledged, 32 bits; 10 Table 10.17 -/
  cfgAck : Nat := 0
  /-- slots offered, CELL_MODEL, FW_ID, last STATUS; 10 Table 10.17 -/
  slots : Nat := 0
  model : Nat := 0
  fw : Nat := 0
  status : Nat := 0
  /-- PATH_DELAY, 2^-16 ns; 10 R275 -/
  pathDelay : Option Int := none
  /-- outstanding commands, oldest first; 10 R280 -/
  outstanding : List OutCmd := []
  /-- recently expired command numbers, for LATE_ACK; 10 R280 -/
  expired : List Nat := []
  /-- next command number, 16 bits; 10 Table 10.3 -/
  cmdSeq : Nat := 0
  /-- SEQ of the next CELLCFG SET, sequenceId of the next SYNC, 16 bits; 10 Tables 10.3, 10.12a -/
  setSeq : Nat := 0
  syncSeq : Nat := 0
  /-- sequenceId and t1 (LC3, 2^-16 ns) of the last four SYNCs; 10 R275 -/
  syncs : List (Nat × Int) := []
  /-- c.last_t of sets 0 to 3, LC3 ns; 10 R283 -/
  lastT : List Nat := [0, 0, 0, 0]
  /-- LC0 ns of the last accepted frame; 10 R271 -/
  heard : Nat := 0
  /-- LC0 ns from which an extra SYNC with the new state is owed; 10 R276 -/
  extraSync : Option Nat := none
  /-- LC0 ns at which the next SET falls due; 10 R271 -/
  setDue : Option Nat := none
  /-- LC0 ns of the last SYNC sent; 10 R276 -/
  syncAt : Option Nat := none
  /-- COMMANDS, ACKNOWLEDGED, REJECTED, LATE_EXEC, EXPIRED, LATE_ARRIVAL, EARLY_ARRIVAL; 10 Table 10.17 -/
  nCommands : Nat := 0
  nAcked : Nat := 0
  nRejected : Nat := 0
  nLateExec : Nat := 0
  nExpired : Nat := 0
  nLateArr : Nat := 0
  nEarlyArr : Nat := 0
  /-- CELL_ALARM: last ALARM body and its epoch; 10 Table 10.17 -/
  alarm : Bytes := []
  alarmEpoch : Nat := 0
  /-- accepted ALARMs; 10 R270 -/
  nAlarms : Nat := 0
  deriving DecidableEq, Repr

/-- A trunk (10 Table 10.17). -/
structure Trunk where
  /-- the link is up; 10 R264 -/
  up : Bool := false
  /-- rate 0 2.5G, 1 5G, 2 10G; 10 Table 10.2 -/
  rate : Nat := 0
  /-- PHY role master; 10 Table 10.17 -/
  master : Bool := false
  /-- COMMAND frames in order of arrival; 10 R286 -/
  queue : List TxCmd := []
  /-- frames received and sent; refused for FCS, LENGTH, TAGGED, ETYPE, RESERVED, SOURCE, TYPE; DELAY_REJECT, STRAY_ACK,
  LATE_ACK, extra SYNCs, trunk losses: fourteen counters of 64 bits; 10 Table 10.17 -/
  counters : Store Nat := []
  /-- RECEIVED and CONSUMED, 64 bits; 10 R284 -/
  received : Nat := 0
  consumed : Nat := 0
  /-- DROPPED by reason 1 to 6, 64 bits; 10 R284 -/
  dropped : Store Nat := []
  /-- ISSUED, ACKNOWLEDGED, EXPIRED of the command ledger; 10 R280 -/
  issued : Nat := 0
  acked : Nat := 0
  expired : Nat := 0
  /-- sequenceId of the next multicast SYNC; 10 R276 -/
  quietSeq : Nat := 0
  /-- LC0 ns of the last multicast SYNC; 10 R276 -/
  quietAt : Option Nat := none
  /-- LC0 ns of the last SYNC or CELLCFG that started while a COMMAND waited; 10 R286 -/
  heldAt : Option Nat := none
  deriving DecidableEq, Repr

/-- The RO fields of a stream context (10 Table 10.13). -/
structure StreamRt where
  /-- LAST_T, LC3 ns; LAST_ARR, LC0 ns -/
  lastT : Nat := 0
  lastArr : Nat := 0
  /-- LAST_VALUE, G32 -/
  value : W32 := 0
  /-- DECIM_CNT, 8 bits -/
  decimCnt : Nat := 0
  /-- EVER, NONFINITE -/
  ever : Bool := false
  nonfinite : Bool := false
  /-- the context was struck by an uncorrectable error that the next sample meets; 10 R283 -/
  struck : Bool := false
  deriving DecidableEq, Repr

/-- The trunk path. -/
structure TrunkPath where
  /-- T0 to T15 by number; 10 R263 -/
  trunks : Store Trunk := []
  /-- cells, keyed trunk × 256 + cell; 10 R271 -/
  cells : Store CellRt := []
  /-- stream contexts by stream; 10 R282 -/
  streams : Store StreamRt := []
  deriving DecidableEq, Repr

/-! ## Configuration sets and the dictionary -/

/-- SHADOW_STATE (11 Table 11.13). -/
inductive ShadowState where
  | empty | editing | admitting | admitted | swapPending
  deriving DecidableEq, Repr

/-- The placement that admission fixes (09 R246): where each item of a set runs. -/
structure Mapping where
  /-- the dies the placement uses, bit d for C*d* -/
  dies : BitVec 4 := 0
  /-- Halo engine by loop, generator, injector, capture channel -/
  loops : Store Nat := []
  gens : Store Nat := []
  injs : Store Nat := []
  caps : Store Nat := []
  /-- Basalt engine by template where it differs from ENGINE of its record (a derived placement) -/
  tmpls : Store Nat := []
  /-- HOME_DIE by sequence -/
  homes : Store Nat := []
  /-- partition by sequence where it differs from PARTITION of its record (a derived placement); 12 R328 -/
  parts : Store Nat := []
  /-- Stratum pages given to a partition on a die, keyed partition × 4 + die; 04 R104 -/
  pages : Store Nat := []
  /-- crossings of a segment boundary in G32: the elements, multiples of 32, at which a projection's accumulator is so held, keyed
  (partition × 256 + model) × 2^10 + tensor; 03 R77 -/
  crossings : Store (List Nat) := []
  /-- PART_BOUNDS by partition: WCET_STEP, FORM, END, switch bound, tokens a second; 09 Table 9.8 -/
  bounds : Store (List Nat) := []
  /-- items shed, as index × 2^32 + instance; 12 R328 -/
  shed : List Nat := []
  deriving DecidableEq, Repr

/-- An accepted SWAP (11 R311, R312). -/
structure PendingSwap where
  session : Nat := 0
  reqId : BitVec 32 := 0
  admitId : Nat := 0
  /-- TARGET_EPOCH as sent -/
  target : Nat := 0
  /-- LC0 ns of acceptance -/
  at_ : Nat := 0
  /-- preparation has completed; 11 R312 -/
  prepared : Bool := false
  deriving DecidableEq, Repr

/-- An accepted ADMIT that has no verdict yet (11 R308). -/
structure PendingAdmit where
  session : Nat := 0
  reqId : BitVec 32 := 0
  /-- acceptance epoch -/
  epoch : Nat := 0
  deriving DecidableEq, Repr

/-- An accepted write of the active set that waits for its boundary (01 R27). -/
structure RwWrite where
  session : Nat := 0
  reqId : BitVec 32 := 0
  /-- REQ type that is answered: 0x11 WRITE, 0x15 BLOCK_END -/
  service : Nat := 0x11
  index : Nat := 0
  sub : Nat := 0
  inst : Nat := 0
  /-- the value as stored, least significant byte first -/
  value : Bytes := []
  /-- LC0 ns of acceptance; 01 R27 -/
  at_ : Nat := 0
  deriving DecidableEq, Repr

/-- The configuration sets (11 R308 to R314). -/
structure Config where
  /-- an active set exists; 11 R314 -/
  present : Bool := false
  /-- objects of the active set, keyed index × 2^32 + subindex × 2^24 + instance, values as stored; 11 "Configuration sets" -/
  active : Store Bytes := []
  /-- objects of the shadow set; 11 "Configuration sets" -/
  shadow : Store Bytes := []
  /-- SHADOW_STATE, 4 bits; 11 Table 11.13 -/
  state : ShadowState := .empty
  /-- last ADMIT_ID given, 64 bits; 11 R308 -/
  lastAdmitId : Nat := 0
  /-- ADMIT_ID of the admitted shadow; 11 R308 -/
  admitId : Nat := 0
  /-- ADMIT running; 11 R308 -/
  admitting : Option PendingAdmit := none
  /-- SWAP accepted; 11 R311 -/
  swap : Option PendingSwap := none
  /-- first epoch of the active set; 11 Table 11.16 -/
  firstEpoch : Nat := 0
  /-- a first SWAP has taken effect and its first boundary is still to come: session and request; 11 R314 -/
  firstSwap : Option (Nat × BitVec 32) := none
  /-- SET_DIGEST of the active and the shadow set, 32 bytes; 11 R309 -/
  digestActive : Bytes := []
  digestShadow : Bytes := []
  /-- ADMIT_REPORT: entries of 16 bytes; 09 R261 -/
  report : Bytes := []
  /-- ADMIT_SUMMARY: verdict, entries listed, failures not listed, acceptance epoch, duration ms; 09 Table 9.8 -/
  summary : List Nat := [0, 0, 0, 0, 0]
  /-- SWAP_STATUS: last result, ADMIT_ID, epoch, abort code; 11 Table 11.16 -/
  swapStatus : List Nat := [0, 0, 0, 0]
  /-- accepted writes of the active set, in order of acceptance; 01 R27 -/
  rw : List RwWrite := []
  /-- the placement in force, and that of the admitted shadow; 09 R246 -/
  mapping : Mapping := {}
  mappingShadow : Mapping := {}
  /-- derived placements for the loss of C0 to C3, for the active and for the shadow set; 12 R328 -/
  derived : Store Mapping := []
  derivedShadow : Store Mapping := []
  /-- further derivations ready after a derived exchange; 12 R334 -/
  derivedReady : Bool := false
  /-- the die whose derived set is in force, and its first epoch; 12 Table 12.10 -/
  derivedDie : Option Nat := none
  derivedEpoch : Nat := 0
  /-- POWER_ADMITTED: mW for all dies and each lost-die case, last ADMIT and set in force; 15 Table 15.13 -/
  power : List Nat := []
  powerActive : List Nat := []
  deriving DecidableEq, Repr

/-- A subscription (11 R305). -/
structure Sub where
  id : Nat := 0
  periodLog2 : Nat := 0
  phase : Nat := 0
  /-- addresses as index × 2^32 + subindex × 2^24 + instance -/
  addrs : List Nat := []
  /-- publications made, and MISSED since the last one sent -/
  count : Nat := 0
  missed : Nat := 0
  deriving DecidableEq, Repr

/-- A BLOCK transfer (11 R304). -/
structure Xfer where
  id : Nat := 0
  upload : Bool := false
  shadow : Bool := false
  /-- address as index × 2^32 + subindex × 2^24 + instance -/
  addr : Nat := 0
  total : Nat := 0
  digest : Bytes := []
  /-- download: segments received, by offset, and NEXT -/
  segs : Store Bytes := []
  next : Nat := 0
  /-- upload: the value latched at BLOCK_INIT -/
  latched : Bytes := []
  /-- LC0 ns of the last accepted segment -/
  at_ : Nat := 0
  deriving DecidableEq, Repr

/-- An unanswered PAGE_WRITE or PAGE_READ (11 R307). -/
structure PageReq where
  reqId : BitVec 32 := 0
  write : Bool := true
  body : Bytes := []
  /-- resends made -/
  resends : Nat := 0
  deriving DecidableEq, Repr

/-- Where a message came from, and so where an answer goes: the port, source MAC, address and UDP port, and the address it was sent to
(11 R291). -/
structure Peer where
  port : Nat := 0
  mac : BitVec 48 := 0
  ip : BitVec 128 := 0
  udp : BitVec 16 := 0
  own : BitVec 128 := 0
  deriving DecidableEq, Repr

/-- A request accepted and unanswered (11 R291, R293, R295). -/
structure OpenReq where
  reqId : BitVec 32 := 0
  /-- the request's SHADOW flag; 11 R293 -/
  shadow : Bool := false
  /-- whom its response goes to; 11 R291 -/
  peer : Peer := {}
  deriving DecidableEq, Repr

/-- A session (11 R294 to R298, Table 11.16). -/
structure Session where
  live : Bool := false
  /-- sender of the last accepted message; 11 R291 -/
  peer : Peer := {}
  /-- role mask in force for the session, 8 bits; 11 Table 11.5, 13 R361 -/
  roles : BitVec 8 := 0
  /-- K_hd and K_dh, 32 bytes each; 11 R296 -/
  khd : Bytes := []
  kdh : Bytes := []
  /-- highest counter accepted, and the counters within 64 below it accepted; 11 R294 -/
  rxHigh : Nat := 0
  rxSeen : List Nat := []
  /-- next counter to send; 11 R294 -/
  txNext : Nat := 1
  /-- LC0 ns of the last accepted message; 11 R298 -/
  heard : Nat := 0
  /-- the last 64 responses by REQ_ID, newest first: type, flags, body; 11 R295 -/
  cache : List (BitVec 32 × Nat × Nat × Bytes) := []
  /-- requests accepted and unanswered, newest first; 11 R295 -/
  open_ : List OpenReq := []
  subs : List Sub := []
  xfers : List Xfer := []
  nextXfer : Nat := 0
  pages : List PageReq := []
  nextPage : Nat := 0
  /-- TAG_FAIL, REPLAY, ABORTS, DUPLICATES, PUB_MISSED, PAGE_RESENDS, 64 bits; 11 Table 11.16 -/
  nTagFail : Nat := 0
  nReplay : Nat := 0
  nAborts : Nat := 0
  nDup : Nat := 0
  nMissed : Nat := 0
  nResends : Nat := 0
  deriving DecidableEq, Repr

/-- A session set-up in progress (11 R296). -/
structure Handshake where
  slot : Nat := 0
  /-- the port of the HELLO -/
  port : Nat := 0
  /-- HELLO body, CHALLENGE body, private ephemeral scalar -/
  hello : Bytes := []
  challenge : Bytes := []
  eph : Nat := 0
  /-- LC0 ns of the CHALLENGE -/
  at_ : Nat := 0
  deriving DecidableEq, Repr

/-- A host port (11 Table 11.16). -/
structure HostPort where
  /-- the link is up -/
  up : Bool := true
  /-- frames received, sent, dropped unsupported, dropped malformed, HANDSHAKE_FAIL, echo replies, echo requests not
  answered, 64 bits; 11 Table 11.16 -/
  nRx : Nat := 0
  nTx : Nat := 0
  nUnsupported : Nat := 0
  nMalformed : Nat := 0
  nHandshake : Nat := 0
  nEcho : Nat := 0
  nEchoDropped : Nat := 0
  /-- the second of LC0 in which the echo replies were sent, and how many; 11 R290 -/
  echoSecond : Nat := 0
  echoCount : Nat := 0
  /-- addresses under duplicate address detection, with the LC0 ns at which it began, and addresses found in use elsewhere; 11 Table 11.1 -/
  detecting : List (BitVec 128 × Nat) := []
  duplicate : List (BitVec 128) := []
  deriving DecidableEq, Repr

/-- The dictionary front end. -/
structure HostLink where
  ports : List HostPort := [{}, {}]
  sessions : List Session := [{}, {}, {}, {}, {}, {}, {}, {}]
  handshakes : List Handshake := []
  /-- session that holds the configuration-master token; 11 R301 -/
  master : Option Nat := none
  deriving DecidableEq, Repr

/-! ## Boot and security -/

/-- A boot transfer (14 R374). -/
structure BootXfer where
  port : Nat := 0
  mac : BitVec 48 := 0
  total : Nat := 0
  digest : Bytes := []
  auth : Bytes := []
  /-- BOOT_NONCE that START echoed -/
  nonce : Bytes := []
  /-- blocks received by OFFSET -/
  blocks : Store Bytes := []
  /-- accepted frames since the last ACK -/
  sinceAck : Nat := 0
  /-- LC0 ns of the last accepted DATA -/
  at_ : Nat := 0
  deriving DecidableEq, Repr

/-- One copy of a SYSTEM record (13 R349): update count, whether its tag verifies, the value. -/
structure SysCopy (α : Type) where
  count : Nat
  valid : Bool
  value : α
  deriving DecidableEq, Repr

/-- The floor record (13 R349). -/
structure FloorRec where
  /-- FLOOR, 16 bits -/
  floor : Nat := 0
  /-- ROOT_MASK, 2 bits: 0b11 at manufacture -/
  rootMask : BitVec 2 := 3
  deriving DecidableEq, Repr

/-- The owner record (13 R349). -/
structure OwnerRec where
  claimed : Bool := false
  key : Bytes := []
  /-- POLICY, 8 bits -/
  policy : BitVec 8 := 0
  /-- ENROL_COUNT, 64 bits -/
  enrolCount : Nat := 0
  deriving DecidableEq, Repr

/-- A key slot (13 R349, 11 Table 11.5). -/
structure KeySlot where
  key : Bytes := []
  roles : BitVec 8 := 0
  deriving DecidableEq, Repr

/-- The random source (13 R350): HMAC_DRBG state. -/
structure Rng where
  /-- running: start-up test passed -/
  running : Bool := false
  /-- RNG_FAIL, 1 bit; 13 Table 13.9 -/
  fail : Bool := false
  /-- Key and V, 32 bytes each -/
  key : Bytes := []
  v : Bytes := []
  /-- requests since the last reseed -/
  requests : Nat := 0
  /-- LC0 ns of the last reseed; while RNG_FAIL is set, of the last failed test -/
  seededAt : Nat := 0
  /-- reseeds, failures, last failure epoch; 13 Table 13.9 -/
  reseeds : Nat := 0
  failures : Nat := 0
  failEpoch : Nat := 0
  deriving DecidableEq, Repr

/-- Garnet: boot, identity, firmware, enrolment. -/
structure Garnet where
  /-- seed S from the PUF, if reconstructed; 13 R346 -/
  seed : Option Bytes := none
  /-- the boot chain holds in BOOT: PUF failure; 13 R347 -/
  pufFail : Bool := false
  /-- power-ons so far: which PUF readout is in use; 13 R346 -/
  readout : Nat := 0
  /-- BOOT_NONCE, 32 bytes; none while the random source delivers none; 14 R373 -/
  nonce : Bytes := []
  /-- open boot transfer; 14 R374 -/
  xfer : Option BootXfer := none
  /-- bundle received and under verification; 14 R374 -/
  bundle : Bytes := []
  /-- enrolment queue, 8 records at most; 14 R375 -/
  queue : List Bytes := []
  /-- LAST_RESULT, 0xFF none; 14 Table 14.5b -/
  lastResult : Nat := 0xFF
  /-- LC0 ns of the last ADVERT on H0 and on H1 since the state was entered; 14 R373 -/
  advert0 : Option Nat := none
  advert1 : Option Nat := none
  /-- SEQ of the next boot frame sent, per port; 14 Table 14.5a -/
  bootSeq0 : Nat := 0
  bootSeq1 : Nat := 0
  /-- transfers started, abandoned, BUSY answers, verification failures, ENROL frames queued; 14 Table 14.8 -/
  nStarted : Nat := 0
  nAbandoned : Nat := 0
  nBusy : Nat := 0
  nVerifyFail : Nat := 0
  nQueued : Nat := 0
  /-- active image bank; 13 R352 -/
  bank : Nat := 0
  /-- the image in the idle bank; 13 R359 -/
  idleImage : Image := {}
  /-- the bundle the device was booted with, for LOAD of its components -/
  booted : Bytes := []
  /-- staged bundle; 13 R359 -/
  staged : Option Bytes := none
  /-- FW_STAGE download under verification: session, request, bytes; 13 R353 -/
  staging : Option (Nat × BitVec 32 × Bytes) := none
  /-- last verification result, 8 bits; 13 Table 13.9 -/
  verifyResult : Nat := 0
  /-- the SYSTEM section holds valid trim; 13 R349 (nonvolatile) -/
  trimValid : Bool := true
  /-- floor record, copies A and B; 13 R349 (nonvolatile) -/
  floorA : SysCopy FloorRec := ⟨1, true, {}⟩
  floorB : SysCopy FloorRec := ⟨0, true, {}⟩
  /-- owner record, copies A and B; 13 R349 (nonvolatile) -/
  ownerA : SysCopy OwnerRec := ⟨1, true, {}⟩
  ownerB : SysCopy OwnerRec := ⟨0, true, {}⟩
  /-- eight key slots; 13 R349 (nonvolatile) -/
  slots : List KeySlot := [{}, {}, {}, {}, {}, {}, {}, {}]
  /-- slots whose change waits for the session to close; 13 R361 -/
  slotPending : List Nat := []
  rng : Rng := {}
  /-- VERIFY_FAIL, ENROL_REFUSED; 13 Table 13.9 -/
  nVerify : Nat := 0
  nEnrolRefused : Nat := 0
  deriving DecidableEq, Repr

/-! ## Continuity -/

/-- An Obsidian record (12 Table 12.12) before its slot is chosen. -/
structure ObsRec where
  seq : Nat := 0
  epoch : Nat := 0
  lc0 : Nat := 0
  type : Nat := 0
  source : Nat := 0
  /-- the pinned sections the record goes to besides CIRCULAR; 12 Table 12.11 -/
  sections : List Nat := []
  severity : Nat := 0
  index : Nat := 0
  inst : Nat := 0
  /-- DATA, 30 bytes -/
  data : Bytes := []
  deriving DecidableEq, Repr

/-- Obsidian (12 R337 to R341). -/
structure Obsidian where
  /-- record slots 1,024 to 131,071: 64 bytes each, an unlisted slot invalid; 12 Table 12.11 (nonvolatile) -/
  slots : Store Bytes := []
  /-- highest SEQ committed; 12 R338 -/
  seq : Nat := 0
  /-- next circular slot; 12 R339 -/
  next : Nat := 4096
  /-- next free slot of FIRST_FAULT, DIE and SECURITY; 12 R337 -/
  nextFirst : Nat := 1024
  nextDie : Nat := 2048
  nextSec : Nat := 3072
  /-- FULL of FIRST_FAULT, DIE, SECURITY; 12 R337 -/
  fullFirst : Bool := false
  fullDie : Bool := false
  fullSec : Bool := false
  /-- queue of 4,096 records, and of 256 pinned-class records; 12 R340 -/
  queue : List ObsRec := []
  pinned : List ObsRec := []
  /-- (TYPE × 16 + SOURCE) seen in this power-on period; 12 Table 12.11 -/
  seen : List Nat := []
  /-- last summary record of an object, keyed TYPE × 65,536 + object: LC0 ns and the sum of its counts then; 12 R340 -/
  summaries : Store (Nat × Nat) := []
  /-- RECORDS, DROPPED, PINNED_DROPPED, INVALID, 64 bits; 12 Table 12.14a -/
  nRecords : Nat := 0
  nDropped : Nat := 0
  nPinnedDropped : Nat := 0
  nInvalid : Nat := 0
  deriving DecidableEq, Repr

/-- A replica slot in a partner's Stratum (12 R329, Table 12.6). -/
structure Replica where
  valid : Bool := false
  epoch : Nat := 0
  /-- loops, their generators, and templates of the critical work, by number -/
  loops : Store LoopRt := []
  gens : Store GenRt := []
  tmpls : Store Tmpl := []
  /-- instance and result regions of the templates, as (engine-local address, byte) -/
  mem : List Host.Cell := []
  deriving DecidableEq, Repr

/-- The loss being recovered (12 R326 to R334). -/
structure Loss where
  die : Nat := 0
  /-- LC0 ns of declaration -/
  at_ : Nat := 0
  /-- D has passed -/
  taken : Bool := false
  deriving DecidableEq, Repr

/-- A Seam (01 Table 1.1, 12 R321). -/
structure Seam where
  retraining : Bool := false
  failed : Bool := false
  /-- replays that failed in a row, at each of its two endpoints -/
  fails0 : Nat := 0
  fails1 : Nat := 0
  deriving DecidableEq, Repr

/-- The synchronisation token ledger of one range (12 Table 12.3). -/
structure SyncLedger where
  posted : Nat := 0
  waited : Nat := 0
  withdrawn : Nat := 0
  lost : Nat := 0
  deriving DecidableEq, Repr

/-- The Stratum page ledger of one die (12 Table 12.3). -/
structure PageLedger where
  free : Nat := 65536
  held : Nat := 0
  transit : Nat := 0
  deriving DecidableEq, Repr

/-- An upgrade operation under way (12 R343). -/
structure Upgrade where
  /-- 1 DRAIN, 2 LOAD, 3 REJOIN, 4 BEDROCK_SWITCH -/
  op : Nat := 0
  die : Nat := 0
  deriving DecidableEq, Repr

/-- Continuity and integrity. -/
structure Cont where
  obs : Obsidian := {}
  /-- replica slots, keyed die × 2 + slot (die whose work it is); 12 R329 -/
  replicas : Store Replica := []
  /-- losses being recovered, first declared first; 12 R326 -/
  losses : List Loss := []
  /-- S01, S13, S32, S20, SB0 to SB3; 01 Table 1.1 -/
  seams : List Seam := [{}, {}, {}, {}, {}, {}, {}, {}]
  /-- CORRECTED, UNCORRECTABLE, SCRUB_PASSES, keyed die × 16 + store, 64 bits; 12 Table 12.2 -/
  corrected : Store Nat := []
  uncorrectable : Store Nat := []
  scrubs : Store Nat := []
  /-- LAST_UNCORRECTABLE: address, epoch, LC0; 12 Table 12.2 -/
  lastUnc : Store (Nat × Nat × Nat) := []
  /-- SEAM_REPLAYS by endpoint, 64 bits; 12 Table 12.2 -/
  replays : Store Nat := []
  /-- synchronisation ledgers by range, 32 for every other object; 12 Table 12.3 -/
  sync : Store SyncLedger := []
  /-- Stratum page ledgers by die; 12 Table 12.3 -/
  pages : List PageLedger := [{}, {}, {}, {}]
  /-- LEDGER_ACK, keyed position × 256 + instance, 64 bits; 12 R324 -/
  acks : Store Nat := []
  /-- DIE_LOSSES, TAKEOVERS, DELTAS_LOST, COMMANDS_DISCARDED, 64 bits; 12 Table 12.10 -/
  nLosses : Nat := 0
  nTakeovers : Nat := 0
  nDeltasLost : Nat := 0
  nDiscarded : Nat := 0
  /-- operation under way; 12 R343 -/
  upgrade : Option Upgrade := none
  /-- UPGRADE_STATE last result; 12 Table 12.10 -/
  upgradeResult : Nat := 0
  /-- templates with a Nimbus table struck by an uncorrectable error, and when (LC0 ns), until the next boundary rewrites it; 12
  Table 12.1 -/
  struckTables : List (Nat × Nat) := []
  deriving DecidableEq, Repr

/-! ## Boundary scan -/

/-- The register a JTAG instruction selects (15 R403). -/
inductive JtagSel where
  | bypass | idcode | boundary
  deriving DecidableEq, Repr

/-- The test access port (15 R403). -/
structure Jtag where
  /-- instruction register, 4 bits; IEEE 1149.1 loads IDCODE at test-logic reset -/
  ir : BitVec 4 := 2
  sel : JtagSel := .idcode
  /-- boundary register, 22 cells, cell 0 nearest TDO -/
  boundary : BitVec 22 := 0
  /-- the value last captured and shifted out: boundary, identification or bypass register -/
  shifted : W32 := 0
  bypass : Bool := false
  /-- EXTEST drives the output cells -/
  driving : Bool := false
  deriving DecidableEq, Repr

/-! ## Output -/

/-- The addresses of a packet of a host port: destination MAC, source and destination address, hop limit, source and destination UDP
port (11 R291, Table 11.2). -/
structure Route where
  port : Nat
  mac : BitVec 48
  src : BitVec 128
  dst : BitVec 128
  hop : Nat
  sport : Nat
  dport : BitVec 16
  deriving DecidableEq, Repr

/-- What leaves the block (log 8). -/
inductive Out where
  /-- a PDS message: under what addresses, session (0xFF none), TYPE, FLAGS, COUNTER, REQ_ID, FRAG, body, TAG -/
  | pds (route : Route) (session type flags : Nat) (counter : Nat) (reqId : BitVec 32) (frag : Nat) (body tag : Bytes)
  /-- a boot frame: port, TYPE, destination MAC, SEQ, body from byte 20 -/
  | boot (port type : Nat) (dst : BitVec 48) (seq : Nat) (body : Bytes)
  /-- a trunk data frame: trunk, bytes from the destination address, and the FCS -/
  | trunk (trunk : Nat) (bytes : Bytes) (fcs : W32)
  /-- a PTP frame on a host port: bytes from the destination address, and the FCS -/
  | ptp (port : Nat) (bytes : Bytes) (fcs : W32)
  /-- bytes of a DMA_ST to tier T3: the session that holds the swap space, the partition, the byte address in its far space -/
  | swapWrite (session part addr : Nat) (bytes : Bytes)
  /-- a Neighbor Solicitation of duplicate address detection: port, target -/
  | neighborSolicit (port : Nat) (target : BitVec 128)
  /-- a Neighbor Advertisement: port, destination, target -/
  | neighborAdvert (port : Nat) (dst target : BitVec 128) (mac : BitVec 48)
  /-- an ICMPv6 echo reply -/
  | echoReply (port : Nat) (dst src : BitVec 128) (mac : BitVec 48) (payload : Bytes)
  deriving DecidableEq, Repr

/-! ## The machine -/

/-- Everything but the queue and what hosts are served from. -/
structure World where
  dev : Dev := {}
  mer : Meridian := {}
  tiles : Tiles := {}
  solver : Solver := {}
  halo : Halo := {}
  serving : Serving := {}
  trunks : TrunkPath := {}
  cfg : Config := {}
  link : HostLink := {}
  garnet : Garnet := {}
  cont : Cont := {}
  jtag : Jtag := {}
  /-- frames and messages sent, newest first; the model's own (log 8) -/
  out : List Out := []
  /-- how many free values have been drawn; the model's own (log 5) -/
  free : Nat := 0
  deriving DecidableEq, Repr

/-- The state of the GX4. -/
structure State where
  /-- commands waiting, first in, first out -/
  pending : List Instr := []
  /-- the device as it stands -/
  live : World := {}
  /-- the device as it stood when the latest epoch closed; 01 R29 -/
  served : World := {}
  /-- for each lost die, the device as it stood at the last epoch in which its objects were served; 01 R30 -/
  dieServed : Store World := []
  deriving DecidableEq, Repr

/-- No command of this model ends in a fault: what the manual calls a fault is an effect on the state. The type has no
value; a step that answers one is therefore impossible (safe: nothing is hidden). -/
inductive Fault : Type
  deriving DecidableEq, Repr

/-- Why a command has no meaning. -/
inductive Refusal where
  /-- raised by an arm of exec for a command not modelled yet (safe: the run stops) -/
  | notModelled (mnemonic : String)
  deriving DecidableEq, Repr

/-- Right after reset: reset is held, every block is reset, both sets are cleared, no session is open, FRCs and epoch are
zero (14 R367); Obsidian and the SYSTEM section as a part leaves manufacture (log 3). -/
def State.reset : State := {}

end Sys2Proof.Machine
end

