-- ==== Sys2Proof/Machine/Flags.lean ====
section
/-! DEFINITION. ARITH_FLAGS (03 R70, Table 3.5): the flag bits, and the sticky flags and counts they enter (03 R71). -/

namespace Sys2Proof.Machine

/-- No flag. -/
def fNone : BitVec 8 := 0
/-- OVF: a result saturated or overflowed (03 Table 3.5). -/
def fOvf : BitVec 8 := 1
/-- UNF: a non-zero result was flushed to zero. -/
def fUnf : BitVec 8 := 2
/-- NAN_GEN: an invalid operation made a NaN. -/
def fNanGen : BitVec 8 := 4
/-- NAN_IN: a NaN was read. -/
def fNanIn : BitVec 8 := 8
/-- DNI: a subnormal code was flushed. -/
def fDni : BitVec 8 := 16

/-- The flag is set when the condition holds. -/
def flagIf (c : Bool) (f : BitVec 8) : BitVec 8 := if c then f else 0

/-- The flags of a list of results, ORed (03 R70: sticky over the command). -/
def orFlags (fs : List (BitVec 8)) : BitVec 8 := fs.foldl (· ||| ·) 0

/-- The flags enter ARITH_STICKY of engine `e` and each flag set is counted in ARITH_COUNT (03 R71). -/
def enterFlags (e : Nat) (f : BitVec 8) (t : Tiles) : Tiles :=
  { t with
    sticky := sUpd 0 t.sticky e (· ||| f)
    arithCount := (upTo 5).foldl (fun c i => if f.toNat.testBit i then sUpd 0 c (e * 5 + i) (· + 1) else c) t.arithCount }

/-- ARITH_STICKY of an engine with the bits written as 1 cleared (03 R71). -/
def clearSticky (e : Nat) (v : BitVec 8) (t : Tiles) : Tiles :=
  { t with sticky := sUpd 0 t.sticky e (· &&& ~~~v) }

end Sys2Proof.Machine
end

