-- ==== Sys2Proof/Machine/Ops.lean ====
section
/-! DEFINITION. The named operations every command is built of: updates of one block of the world, time, free values,
what leaves the device, Obsidian records, the output pins, and how a command's effect becomes a step's outcome. -/

namespace Sys2Proof.Machine

/-! ## Updates of one block -/

/-- The world with one block changed. -/
def onDev (f : Dev → Dev) (w : World) : World := { w with dev := f w.dev }
def onMer (f : Meridian → Meridian) (w : World) : World := { w with mer := f w.mer }
def onTiles (f : Tiles → Tiles) (w : World) : World := { w with tiles := f w.tiles }
def onSolver (f : Solver → Solver) (w : World) : World := { w with solver := f w.solver }
def onHalo (f : Halo → Halo) (w : World) : World := { w with halo := f w.halo }
def onServing (f : Serving → Serving) (w : World) : World := { w with serving := f w.serving }
def onTrunks (f : TrunkPath → TrunkPath) (w : World) : World := { w with trunks := f w.trunks }
def onCfg (f : Config → Config) (w : World) : World := { w with cfg := f w.cfg }
def onLink (f : HostLink → HostLink) (w : World) : World := { w with link := f w.link }
def onGarnet (f : Garnet → Garnet) (w : World) : World := { w with garnet := f w.garnet }
def onCont (f : Cont → Cont) (w : World) : World := { w with cont := f w.cont }
def onJtag (f : Jtag → Jtag) (w : World) : World := { w with jtag := f w.jtag }
def onObs (f : Obsidian → Obsidian) (w : World) : World := onCont (fun c => { c with obs := f c.obs }) w

/-- The effect where the condition holds, else none. -/
def whenW (c : Bool) (f : World → World) (w : World) : World := if c then f w else w

/-- A command that changes nothing where its condition does not hold (log 1). -/
def eachW {α : Type} (l : List α) (f : α → World → World) (w : World) : World := l.foldl (fun w a => f a w) w

/-! ## Time -/

/-- FRC `n` (02 R31). -/
def frc (m : Meridian) (n : Nat) : Nat :=
  match n with
  | 0 => m.frc0.toNat
  | 1 => m.frc1.toNat
  | 2 => m.frc2.toNat
  | _ => m.frc3.toNat

/-- LC0 in nanoseconds: it equals FRC0 at every instant (02 R36). -/
def nowNs (w : World) : Nat := frc w.mer 0

/-- LC0 in units of 2^-16 ns at the present instant with a FRAC16 part (log 7). -/
def now16 (w : World) (frac : Nat := 0) : Nat := nowNs w * 65536 + frac % 65536

/-- One nanosecond passes on every counter (02 R31; log 2). -/
def tickNs (m : Meridian) : Meridian :=
  { m with frc0 := m.frc0 + 1, frc1 := m.frc1 + 1, frc2 := m.frc2 + 1, frc3 := m.frc3 + 1 }

/-- A nanosecond with no command: it passes on the counters, which reset holds at zero (14 R367; log 2). -/
def passTime (w : World) : World := if w.dev.inReset then w else onMer tickNs w

/-- Cycles of the 700 MHz arithmetic clock in a span of ns, rounded up, and ns in a span of cycles, rounded up (00 Table 0.4). -/
def nsOfCycles (c : Nat) : Nat := (c * 10 + 6) / 7

/-! ## Free values (log 5) -/

/-- A fresh value of `n` bits, and the world in which it has been drawn. -/
def draw (n : Nat) (w : World) : BitVec n × World := (Config.fresh n w.free, { w with free := w.free + 1 })

/-! ## What leaves the device (log 8) -/

/-- The world with one more message or frame sent. -/
def emit (o : Out) (w : World) : World := { w with out := o :: w.out }

/-! ## Device state -/

/-- The code of a device state (14 Table 14.1). -/
def devCode : DevState → Nat
  | .off => 0 | .powerUp => 1 | .boot => 2 | .imageWait => 3 | .verify => 4 | .dieLoad => 5 | .selftest => 6
  | .timeAcquire => 7 | .readyQuiet => 8 | .live => 9 | .degraded => 10 | .recovery => 11

/-- The code of a die state (12 Table 12.9). -/
def dieCode : DieState → Nat
  | .serving => 0 | .lost => 1 | .draining => 2 | .drained => 3 | .loading => 4 | .ready => 5 | .rejoining => 6
  | .excluded => 7

/-- An active set is in force: LIVE, DEGRADED or RECOVERY (14 Table 14.1). -/
def running (d : DevState) : Bool :=
  match d with
  | .live | .degraded | .recovery => true
  | _ => false

/-- The device enters a state: STARTUP_TIMES keeps the LC0 instant (14 R366). -/
def enterState (d : DevState) (w : World) : World :=
  { w with dev := { w.dev with
      state := d
      startupTimes := sPut 0 w.dev.startupTimes (devCode d) (nowNs w) } }

/-- Die `d`, 4 for Bedrock. -/
def die (w : World) (d : Nat) : Die := nth {} w.dev.dies d

/-- The world with die `d` changed. -/
def onDie (d : Nat) (f : Die → Die) (w : World) : World := onDev (fun v => { v with dies := updNth v.dies d f }) w

/-- A die that carries or could carry work: neither LOST nor EXCLUDED (14 R383). -/
def dieGood (x : Die) : Bool :=
  match x.state with
  | .lost | .excluded => false
  | _ => true

/-- A die that serves work under the mapping in force: SERVING or DRAINING (14 Table 14.2). -/
def dieServing (x : Die) : Bool :=
  match x.state with
  | .serving | .draining => true
  | _ => false

/-- The Cumulus dies neither LOST nor EXCLUDED. -/
def goodDies (w : World) : List Nat := (upTo 4).filter (fun d => dieGood (die w d))

/-! ## Pins (14 Table 14.3, R370) -/

/-- FAULT_N, low in reset, POWER_UP and BOOT and while it is held low (14 Table 14.3, R370). -/
def faultLevel (d : Dev) : Bool :=
  !d.inReset && !d.faultHeld && !d.bedrockFailed &&
  match d.state with
  | .off | .powerUp | .boot => false
  | _ => true

/-- The level of a TICK pin that drives no pulse train: high impedance until IMAGE_WAIT, then inactive (02 R53, 15 Table 15.4). -/
def tickIdle (d : Dev) : PinLevel :=
  if d.inReset then .hiZ else
    match d.state with
    | .off | .powerUp | .boot => .hiZ
    | _ => .low

/-- The pins that follow the device state: OUT_LIVE, PPS_OUT and TICK0 to TICK3 can be driven only while an active set is
in force, FAULT_N is a function of the state (14 Table 14.3, R370; 01 R15). -/
def settle (w : World) : World :=
  let d := w.dev
  let on := running d.state && !d.inReset && !d.bedrockFailed
  { w with dev := { d with
      outLive := d.outLive && on
      faultN := faultLevel d
      ppsOut := d.ppsOut && on
      tick0 := if on then d.tick0 else tickIdle d
      tick1 := if on then d.tick1 else tickIdle d
      tick2 := if on then d.tick2 else tickIdle d
      tick3 := if on then d.tick3 else tickIdle d } }

/-! ## Outcomes -/

/-- The device acts on commands: reset is not held and Bedrock has not failed (14 R367, 01 R15). -/
def alive (w : World) : Bool := !w.dev.inReset && !w.dev.bedrockFailed

/-- A command's effect on the device as it stands. The queue is not the command's. -/
def liveEffect (f : World → World) (s : State) : Host.Outcome State Fault Refusal :=
  .next { s with live := if alive s.live then settle (f s.live) else s.live }

/-- A command that acts whether or not reset is held. -/
def anyEffect (f : World → World) (s : State) : Host.Outcome State Fault Refusal :=
  .next { s with live := settle (f s.live) }

/-- A command that also reads or moves what hosts are served from: the live world, the served one, and those of lost dies. -/
def serveEffect (f : World → World → Store World → World × World × Store World) (s : State) :
    Host.Outcome State Fault Refusal :=
  if alive s.live then
    let r := f s.live s.served s.dieServed
    .next { s with live := settle r.1, served := r.2.1, dieServed := r.2.2 }
  else .next s

/-! ## Obsidian records (12 R337 to R340) -/

/-- FORMAT of the records written: the highest format every running image reads (12 R342). -/
def commonFormat (w : World) : Nat :=
  ((w.dev.dies.filter dieGood).map (fun d => d.image.fmtHi)).foldl min 255

/-- The pinned sections of a record by TYPE: FIRST_FAULT 0, DIE 1, SECURITY 2 (12 Table 12.11). -/
def pinnedSections (seen : List Nat) (type source : Nat) : List Nat :=
  (if type = 0x32 || type = 0x80 || type = 0x52 || !seen.contains (type * 16 + source) then [0] else []) ++
  (if type = 0x60 || type = 0x61 || type = 0x62 then [1] else []) ++
  (if type = 0x70 || type = 0x71 then [2] else [])

/-- The record of an event, before its slot is chosen; what DATA holds the manual leaves to TYPE and FORMAT (12 Table 12.12). -/
def obsRec (type source index inst : Nat) (data : Bytes) (w : World) : ObsRec :=
  { epoch := w.dev.epoch, lc0 := nowNs w, type := type, source := source, sections := pinnedSections w.cont.obs.seen type source,
    severity := Config.recordSeverity type % 3, index := index, inst := inst, data := data }

/-- A TYPE from a source has been seen in this power-on period. -/
def obsSee (type source : Nat) (o : Obsidian) : Obsidian :=
  { o with seen := if o.seen.contains (type * 16 + source) then o.seen else (type * 16 + source) :: o.seen }

/-- A record enters its queue, or is dropped and counted where the queue is full (12 R340). -/
def obsQueue (r : ObsRec) (o : Obsidian) : Obsidian :=
  if r.sections.isEmpty then
    if o.queue.length < 4096 then { o with queue := o.queue ++ [r] } else { o with nDropped := o.nDropped + 1 }
  else
    if o.pinned.length < 256 then { o with pinned := o.pinned ++ [r] } else { o with nPinnedDropped := o.nPinnedDropped + 1 }

/-- A record of an event whose DATA begins with what the rule says it carries; what the rest of DATA holds the manual leaves open
(log 69). -/
def recordWith (known : Bytes) (type source index inst : Nat) (w : World) : World :=
  let (data, w) := draw 240 w
  onObs (fun o => obsQueue (obsRec type source index inst (overwrite (leBytes 30 data.toNat) 0 known) w) (obsSee type source o)) w

/-- A record of an event. -/
def record (type source index inst : Nat) (w : World) : World :=
  let (data, w) := draw 240 w
  onObs (fun o => obsQueue (obsRec type source index inst (leBytes 30 data.toNat) w) (obsSee type source o)) w

/-! ## Uncorrectable errors (12 R319, R322) -/

/-- A report: counted by die and store with its address, epoch and LC0, kept for a millisecond against a burst, recorded. -/
def reportUnc (d store address : Nat) (w : World) : World :=
  let k := d * 16 + store
  let w := onCont (fun c => { c with
    uncorrectable := sUpd 0 c.uncorrectable k (· + 1)
    lastUnc := sInsert c.lastUnc k (address, w.dev.epoch, nowNs w) }) w
  let w := onDie d (fun x => { x with reports := x.reports.filter (fun t => decide (nowNs w < t + 1000000)) ++ [nowNs w] }) w
  record 0x50 d 0x8200 k w

/-! ## Bedrock failure (01 R15) -/

/-- Bedrock fails: OUT_LIVE and FAULT_N fall, a pinned record is queued, nothing resumes without a reset. The record is committed if
Obsidian can still be reached: OBSIDIAN_COMMIT acts then (log 89). -/
def bedrockFail (w : World) : World :=
  let w := record 0x80 4 0 0 w
  onDev (fun d => { d with bedrockFailed := true, faultHeld := true, outLive := false }) w

end Sys2Proof.Machine
end

