-- ==== Sys2Proof/Machine/Operands.lean ====
section
/-! DEFINITION. Operand forms: object addresses, values by type, and abort codes of the dictionary (11). -/

namespace Sys2Proof.Machine

/-! ## Addresses -/

/-- The key of an object: index, subindex, instance (11 "Addresses, types and ownership"). -/
def okey (index sub inst : Nat) : Nat := index * 2 ^ 32 + sub * 2 ^ 24 + inst

/-- The parts of a key. -/
def keyIndex (k : Nat) : Nat := k / 2 ^ 32
def keySub (k : Nat) : Nat := k / 2 ^ 24 % 256
def keyInst (k : Nat) : Nat := k % 2 ^ 24

/-- An address as it travels: index 2 bytes, subindex 1, instance 3, most significant byte first. -/
def keyOfBytes (b : Bytes) : Nat := okey (beAt b 0 2) (beAt b 2 1) (beAt b 3 3)
def bytesOfKey (k : Nat) : Bytes := beBytes 2 (keyIndex k) ++ beBytes 1 (keySub k) ++ beBytes 3 (keyInst k)

/-! ## Types (11 Table 11.7) -/

/-- Bytes of a scalar type; 0 for a type whose size is the object's. -/
def typeSize (t : Nat) : Nat :=
  match t with
  | 1 | 2 | 6 => 1
  | 3 | 7 => 2
  | 4 | 8 | 0x0A | 0x0D => 4
  | 5 | 9 | 0x0B => 8
  | 0x0C => 10
  | _ => 0

/-- A value of the wire in the order it is stored, and back: scalars reverse, other types travel as they are stored (11 R299). -/
def wireToStored (t : Nat) (v : Bytes) : Bytes := if typeSize t = 0 then v else v.reverse
def storedToWire (t : Nat) (v : Bytes) : Bytes := if typeSize t = 0 then v else v.reverse

/-! ## Abort codes (11 Table 11.12) -/

def aBadMessage : Nat := 0x01
def aNoObject : Nat := 0x02
def aNoSubindex : Nat := 0x03
def aNoInstance : Nat := 0x04
def aTypeMismatch : Nat := 0x05
def aReadOnly : Nat := 0x06
def aShActive : Nat := 0x07
def aNotOwner : Nat := 0x08
def aNotMaster : Nat := 0x09
def aValueRange : Nat := 0x0A
def aBadValue : Nat := 0x0B
def aAdmitConflict : Nat := 0x0C
def aRouteDest : Nat := 0x0D
def aCoeffClosed : Nat := 0x0E
def aNoActiveSet : Nat := 0x0F
def aUseBlock : Nat := 0x10
def aTooBig : Nat := 0x11
def aShadowBusy : Nat := 0x12
def aNotAdmitted : Nat := 0x13
def aTooLate : Nat := 0x14
def aSwapCancelled : Nat := 0x15
def aMasterHeld : Nat := 0x16
def aDigest : Nat := 0x17
def aXfer : Nat := 0x18
def aRate : Nat := 0x19
def aState : Nat := 0x1A
def aDeviceState : Nat := 0x1B
def aLimit : Nat := 0x1C
def aRole : Nat := 0x1D
def aJumpRefused : Nat := 0x1E

end Sys2Proof.Machine
end

