-- ==== Sys2Proof/Machine/ConfigSets.lean ====
section
/-! DEFINITION. The objects of a configuration set as stored bytes: reset values, reading a field, writing an object, and
the sub-objects that name a field of another object (11 R299, R415). -/

namespace Sys2Proof.Machine

/-- The reset value of an object of a configuration set (00 R11; a dash is zero, log 3). RECORD layouts are log 14. -/
def resetObj (index sub inst : Nat) : Bytes :=
  match index with
  | 0x2010 =>
    let writer := if inst = 1 then 1 else if inst = 2 then 2 else if inst = 3 then 3 else 0
    let source := if inst = 1 then 2 else if inst = 2 then 3 else 0
    leBytes 32 (1000 * 2 ^ 224 + 1000 * 2 ^ 192 + writer * 2 ^ 186 + source * 2 ^ 184)
  | 0x2015 => [0xFF]
  | 0x2020 => [0]
  | 0x2021 => [0] ++ beBytes 4 100000000
  | 0x2100 => leBytes 48 0
  | 0x2102 => []
  | 0x2103 => [0]
  | 0x2110 => leBytes 8 0
  | 0x2200 => [0, 0, 0, 1, 0, 0]
  | 0x2202 => beBytes 4 0 ++ beBytes 4 0 ++ beBytes 4 100
  | 0x1101 => leBytes 2 2000
  | 0x1110 => leBytes 32 (64 * 2 ^ 120 + 64 * 2 ^ 112 + 50410 * 2 ^ 96 + 2 * 4 + 2 + 1)
  | 0x1120 => leBytes 8 0
  | 0x3000 => leBytes 72 (65536 * 2 ^ 319)
  | 0x3100 | 0x3820 => leBytes 32 0
  | 0x3800 => leBytes 16 0
  | 0x3818 => beBytes 4 0
  | 0x4100 => leBytes 64 0
  | 0x4110 | 0x4111 => leBytes 4 0
  | 0x5010 => if sub = 0 then leBytes 112 0 else leBytes 4 0
  | 0x5020 => leBytes 48 0
  | 0x5030 => leBytes 256 0
  | 0x5040 => leBytes 64 0
  | 0x6000 => leBytes 32 ((Config.portMac inst).toNat * 2 ^ 208 + 0x88B5 * 2 ^ 192 + 0x88F7 * 2 ^ 176 + 2 * 2 ^ 101 + 2 * 2 ^ 99 + 2 ^ 98 + 2 ^ 97)
  | 0x6010 => leBytes 64 0
  | 0x6020 => leBytes 32 0
  | 0x8012 => leBytes 2 0
  | 0x8180 => leBytes 8 0
  | _ => []

/-- An object of a set: its value, or its reset value where the set does not hold it. -/
def objIn (set : Store Bytes) (index sub inst : Nat) : Bytes :=
  (sFind set (okey index sub inst)).getD (resetObj index sub inst)

/-- The set holds the object. -/
def hasObj (set : Store Bytes) (index sub inst : Nat) : Bool := (sFind set (okey index sub inst)).isSome

/-- The set with an object written. -/
def putObj (set : Store Bytes) (index sub inst : Nat) (v : Bytes) : Store Bytes := sInsert set (okey index sub inst) v

/-- An object of the active set. -/
def actObj (w : World) (index sub inst : Nat) : Bytes := objIn w.cfg.active index sub inst

/-- Bits of an object of the active set. -/
def actField (w : World) (index inst hi lo : Nat) : Nat := fieldLe (actObj w index 0 inst) hi lo

/-- A G32 field of 32 bits at `lo` of a record. -/
def field32 (rec : Bytes) (lo : Nat) : W32 := BitVec.ofNat 32 (fieldLe rec (lo + 31) lo)

/-- A record with bits `hi` to `lo` replaced. -/
def setField (rec : Bytes) (hi lo v : Nat) : Bytes := leBytes rec.length (setBits (leNat rec) hi lo v)

/-- The instances of an object that a set holds, rising. -/
def instancesOf (set : Store Bytes) (index sub : Nat) : List Nat :=
  (set.filter (fun e => keyIndex e.1 = index && keySub e.1 = sub)).map (fun e => keyInst e.1)

/-- Where a sub-object is a field of another object: holder's index, high bit, low bit (11 R415; 02 Tables 2.3 and 2.11,
07 Tables 7.2 and 7.6, 10 Table 10.13). -/
def aliasOf (index sub : Nat) : Option (Nat × Nat × Nat) :=
  match index, sub with
  | 0x2010, 1 => some (0x2010, 183, 144)
  | 0x2100, 1 => some (0x2100, 159, 128)
  | 0x5010, 1 => some (0x5010, 497, 466)
  | 0x5010, 2 => some (0x5010, 529, 498)
  | 0x5010, 3 => some (0x5010, 561, 530)
  | 0x5011, 1 => some (0x5010, 209, 178)
  | 0x5011, 2 => some (0x5010, 241, 210)
  | 0x5011, 3 => some (0x5010, 273, 242)
  | 0x5011, 4 => some (0x5010, 305, 274)
  | 0x5011, 5 => some (0x5010, 337, 306)
  | 0x5011, 6 => some (0x5010, 369, 338)
  | 0x5011, 7 => some (0x5010, 401, 370)
  | 0x5011, 8 => some (0x5010, 177, 170)
  | 0x5011, 9 => some (0x5010, 169, 150)
  | 0x5011, 10 => some (0x5010, 433, 402)
  | 0x5011, 11 => some (0x5010, 465, 434)
  | 0x5020, 1 => some (0x5020, 81, 50)
  | 0x5020, 2 => some (0x5020, 113, 82)
  | 0x5020, 3 => some (0x5020, 145, 114)
  | 0x5020, 4 => some (0x5020, 177, 146)
  | 0x6020, 1 => some (0x6020, 95, 64)
  | 0x6020, 2 => some (0x6020, 63, 32)
  | 0x6020, 3 => some (0x6020, 31, 24)
  | _, _ => none

/-- Bits of a set's object that the GX4 writes itself: taken as zero when the object is written or hashed (11 R309, R415). -/
def roFields (index sub : Nat) : List (Nat × Nat) :=
  match index, sub with
  | 0x2010, 0 => [(255, 240), (190, 190), (143, 0)]
  | 0x3100, 0 => [(191, 160), (131, 128)]
  | 0x3800, 0 => [(13, 12)]
  | 0x3818, 0 => [(31, 24)]
  | 0x3820, 0 => [(255, 240)]
  | 0x4100, 0 => [(511, 448), (213, 209)]
  | 0x5010, 0 => [(876, 562)]
  | 0x5020, 0 => [(281, 178)]
  | 0x5040, 0 => [(191, 106)]
  | 0x6010, 0 => [(416, 385)]
  | 0x6020, 0 => [(255, 96), (23, 10)]
  | _, _ => []

/-- Bits of a set's object that are constant: LC_RECORD of LC0 and LC3 (02 Tables 2.3 and 2.4). -/
def coFields (index sub inst : Nat) : List (Nat × Nat) :=
  match index, sub, inst with
  | 0x2010, 0, 0 => [(189, 189), (188, 186), (185, 184), (183, 144)]
  | 0x2010, 0, 3 => [(189, 189), (188, 186), (185, 184)]
  | _, _, _ => []

/-- An object's bytes with its RO and CO fields zero: what a digest hashes, and what two sets are compared by (11 R309). -/
def withoutRo (index sub inst : Nat) (v : Bytes) : Bytes :=
  (roFields index sub ++ coFields index sub inst).foldl (fun v f => setField v f.1 f.2 0) v

/-- An object's bytes as a set holds them once written: RO fields zero, CO fields as they are (11 R415). -/
def asWritten (index sub inst : Nat) (v : Bytes) : Bytes :=
  (coFields index sub inst).foldl (fun v f => setField v f.1 f.2 (fieldLe (resetObj index sub inst) f.1 f.2)) (withoutRo index sub inst v)

end Sys2Proof.Machine
end

