-- ==== Sys2Proof/Machine/Clocks.lean ====
section
/-! DEFINITION. Meridian's counters and logical clocks, PTP on the host ports and PPS (02 R31 to R46, R412). -/

namespace Sys2Proof.Machine

/-! ## The read equation (02 R34) -/

/-- The largest magnitude of rate + slew: 200 ppm in units of 2^-48 (02 R35). -/
def rateLimit : Int := 56294995342

/-- The smallest step of LC3's effective rate: 0.01 ppm (02 R41). -/
def rampStep : Int := 2814749

/-- Logical clock `n`. -/
def lcAt (m : Meridian) (n : Nat) : Lc := nth {} m.clocks n

/-- The value of a clock, in units of 2^-16 ns, `extra` units of 2^-16 ns after the counters' whole nanosecond (02 R34). -/
def lcValueOf (m : Meridian) (l : Lc) (extra : Int) : Int :=
  let delta : Int := (((frc m l.source : Int) - l.anchor) * 65536) + extra
  l.offset + delta + delta * (l.rate + l.slew) / 2 ^ 48

/-- The value of logical clock `n` now (02 R34). -/
def lcNow (w : World) (n : Nat) (extra : Nat := 0) : Int := lcValueOf w.mer (lcAt w.mer n) extra

/-- The value of logical clock `n` at an LC0 instant, 2^-16 ns, by the read equation in force. -/
def lcAtInstant (w : World) (n : Nat) (t : Int) : Int := lcValueOf w.mer (lcAt w.mer n) (t - now16 w)

/-- The first LC0 instant, 2^-16 ns, at which logical clock `n` has a value, by the read equation in force. -/
def lcInverse (w : World) (n : Nat) (v : Int) : Int :=
  let l := lcAt w.mer n
  let span := -(-((v - l.offset) * 2 ^ 48) / (2 ^ 48 + l.rate + l.slew))
  now16 w + span - ((frc w.mer l.source : Int) - l.anchor) * 65536

/-- LC3 now in whole nanoseconds. -/
def lc3Ns (w : World) (extra : Nat := 0) : Nat := (lcNow w 3 extra / 65536).toNat

/-- What a clock's slew term has consumed of its remainder since the anchor (02 R38). -/
def lcConsumed (m : Meridian) (l : Lc) : Int := ((frc m l.source : Int) - l.anchor) * l.slew / 2 ^ 32

/-- The unconsumed remainder now. -/
def lcRemainder (m : Meridian) (l : Lc) : Int := l.remainder - lcConsumed m l

/-- The rebase: anchor, offset and remainder as they stand now, against the counter `source` (02 R35). -/
def lcRebase (m : Meridian) (source : Nat) (l : Lc) : Lc :=
  { l with anchor := frc m source, offset := lcValueOf m l 0, remainder := lcRemainder m l, source := source,
           lastChange := frc m 0 }

/-- The headroom of a rate in the direction of a remainder (02 R38). -/
def lcHeadroom (rate remainder : Int) : Int := max 0 (if 0 ≤ remainder then rateLimit - rate else rateLimit + rate)

/-- A rate held so that rate + slew stays within the limit (02 R35). -/
def boundedRate (slew rate : Int) : Int := max (-rateLimit - slew) (min (rateLimit - slew) rate)

/-- SLEW_MAX in units of 2^-48 (02 R38). -/
def slewUnits (slewMax : Nat) : Int := ((slewMax * 2 ^ 48 / 10 ^ 8 : Nat) : Int)

/-- The slew term a remainder calls for (02 R38 step 4). -/
def slewTarget (slewMax : Nat) (rate remainder : Int) : Int :=
  let s := min (slewUnits slewMax) (lcHeadroom rate remainder)
  if remainder = 0 then 0 else if 0 < remainder then s else -s

/-! ## Fields of LC_RECORD (02 Table 2.3) -/

/-- LC_RECORD of clock `n` in the active set. -/
def lcRec (w : World) (n : Nat) : Bytes := actObj w 0x2010 0 n
def lcSlewMax (rec : Bytes) : Nat := fieldLe rec 238 224
def lcJumpThreshold (rec : Bytes) : Nat := fieldLe rec 223 192
def lcStepMode (n : Nat) (rec : Bytes) : Bool := n ≠ 0 && n ≠ 3 && fieldLe rec 189 189 == 1
def lcWriter (n : Nat) (rec : Bytes) : Nat := if n = 0 then 0 else if n = 3 then 3 else fieldLe rec 188 186
def lcSourceOf (n : Nat) (rec : Bytes) : Nat := if n = 0 ∨ n = 3 then 0 else fieldLe rec 185 184
/-- RATE, signed. -/
def lcRateOf (n : Nat) (rec : Bytes) : Int := if n = 0 then 0 else signed 40 (fieldLe rec 183 144)

/-- The world with clock `n` changed. LC0 has no writer: it equals FRC0 at every instant (02 R36). -/
def onLc (n : Nat) (f : Lc → Lc) (w : World) : World :=
  if n = 0 then w else onMer (fun m => { m with clocks := updNth m.clocks n f }) w

/-- The flags that follow from a clock's remainder (02 Table 2.5). -/
def lcFlags (l : Lc) : Lc :=
  { l with slewing := decide (l.remainder ≠ 0),
           slewLimited := decide (l.remainder ≠ 0) && decide (lcHeadroom l.rate l.remainder = 0) }

/-- A clock rebased and given a new slew term for its remainder, at once (02 R38). -/
def lcReslew (slewMax : Nat) (l : Lc) : Lc := lcFlags { l with slew := slewTarget slewMax l.rate l.remainder }

/-- A new RATE with the rebase that precedes it; on LC3 the slew term is left to the ramp (02 R35, R38). -/
def setRate (n : Nat) (rate : Int) (w : World) : World :=
  onLc n (fun l =>
    let l := { lcRebase w.mer l.source l with rate := rate }
    if n = 3 then lcFlags l else lcReslew (lcSlewMax (lcRec w n)) l) w

/-- RATE as it stands written into the active set's LC_RECORD (11 R415). -/
def storeRate (n : Nat) (w : World) : World :=
  let v := setField (lcRec w n) 183 144 (unsigned 40 (lcAt w.mer n).rate)
  onCfg (fun c => { c with active := putObj c.active 0x2010 0 n v }) w

/-! ## Offset corrections (02 R38) -/

/-- The request is refused: the pending sum exceeds JUMP_THRESHOLD (02 R38 step 2). -/
def jumpTooFar (n : Nat) (req : Int) (w : World) : Bool :=
  decide (((lcJumpThreshold (lcRec w n) * 65536 : Nat) : Int) < ((lcRemainder w.mer (lcAt w.mer n) + req).natAbs : Int))

/-- An offset correction request judged: refused, stepped, or made the remainder to slew (02 R38). -/
def judge (n : Nat) (req : Int) (w : World) : World :=
  let r := lcRec w n
  let sum := lcRemainder w.mer (lcAt w.mer n) + req
  if jumpTooFar n req w then
    let servo := lcWriter n r = 1 ∨ lcWriter n r = 2 ∨ lcWriter n r = 4
    recordWith (leBytes 10 (unsigned 80 req)) 0x01 4 0x2010 n (onLc n (fun l =>
      { l with jumpRefused := true, refusals := l.refusals + 1, hold := l.hold || decide servo }) w)
  else if lcStepMode n r then
    onLc n (fun l =>
      let l := lcRebase w.mer l.source l
      lcFlags { l with offset := l.offset + sum, remainder := 0, slew := 0 }) w
  else
    onLc n (fun l =>
      let l := { lcRebase w.mer l.source l with remainder := sum }
      if n = 3 then lcFlags l else lcReslew (lcSlewMax r) l) w

/-- A forced step at a boundary: without regard to threshold or mode (02 R40). -/
def forceStep (n : Nat) (step : Int) (w : World) : World :=
  record 0x02 4 0x2010 n (onLc n (fun l =>
    let l := lcRebase w.mer l.source l
    lcFlags { l with offset := l.offset + step, remainder := 0, slew := 0, jumpRefused := false, hold := false,
                     stepped := true }) w)

/-- RELEASE: HOLD and JUMP_REFUSED are cleared (02 R39). -/
def releaseHold (n : Nat) (w : World) : World :=
  onLc n (fun l => { l with hold := false, jumpRefused := false }) w

/-- An adjustment from a servo: ignored and counted while HOLD is set, else its rate is taken and its correction judged, at once; one whose
correction is refused leaves the rate as it was (02 R37, R38, R39, R43). -/
def servoAdjust (n : Nat) (req rate : Int) (w : World) : World :=
  if (lcAt w.mer n).hold then onLc n (fun l => { l with ignored := l.ignored + 1 }) w
  else if jumpTooFar n req w then judge n req w
  else judge n req (storeRate n (setRate n (max (-rateLimit) (min rateLimit rate)) w))

/-- STATUS of a clock (02 Table 2.5). -/
def lcStatus (m : Meridian) (n : Nat) : Nat :=
  let l := lcAt m n
  b2n l.jumpRefused + 2 * b2n l.slewing + 4 * b2n l.slewLimited +
    8 * b2n (nth {} m.frcStatus l.source).holdover + 16 * b2n l.trackFar + 32 * b2n l.stepped

/-! ## A SWAP (02 R35, R412) -/

/-- One clock taken from the outgoing to the incoming set's record: source, rate, mode, then the remainder. -/
def swapClock (n : Nat) (rec : Bytes) (w : World) : World :=
  onLc n (fun l =>
    if n = 3 then lcFlags l else
      let l := lcRebase w.mer (lcSourceOf n rec) l
      let l := if lcWriter n rec = 0 then { l with rate := lcRateOf n rec } else l
      if lcStepMode n rec then lcFlags { l with offset := l.offset + l.remainder, remainder := 0, slew := 0 }
      else lcReslew (lcSlewMax rec) l) w

/-- Every clock taken to an incoming set. -/
def swapClocks (incoming : Store Bytes) (w : World) : World :=
  eachW (upTo 16) (fun n => swapClock n (objIn incoming 0x2010 0 n)) w

/-! ## Commands on the counters -/

/-- FRC status `n` changed. -/
def onFrc (n : Nat) (f : FrcStatus → FrcStatus) (w : World) : World :=
  onMer (fun m => { m with frcStatus := updNth m.frcStatus n f }) w

/-- The source of FRC `n` is seen and its PLL locks (02 Table 2.2). -/
def frcLock (n : Nat) (w : World) : World := onFrc n (fun s => { s with present := true, locked := true, holdover := false }) w

/-- FRC_HOLDOVER: the source of FRC1, FRC2 or FRC3 is lost (02 R32). FRC0 has no holdover (02 R33). -/
def doFrcHoldover (n : Nat) (w : World) : World :=
  if n = 0 || (nth {} w.mer.frcStatus n).holdover then w
  else record 0x03 4 0x2000 n (onFrc n (fun s => { s with locked := false, holdover := true }) w)

/-- FRC_RELOCK: the source returns or is first seen; the counter is not stepped (02 R32, R400). -/
def doFrcRelock (n : Nat) (w : World) : World :=
  onFrc n (fun s => { present := true, locked := true, holdover := false, relocked := s.relocked || s.holdover }) w

/-- FRC_HOLDOVER (02 R32). -/
def execFrcHoldover (n : Fin 4) (s : State) : Host.Outcome State Fault Refusal := liveEffect (doFrcHoldover n) s

/-- FRC_RELOCK (02 R32). -/
def execFrcRelock (n : Fin 4) (s : State) : Host.Outcome State Fault Refusal := liveEffect (doFrcRelock n) s

/-! ## Commands on the clocks -/

/-- SLEW_COMPLETE: the remainder has been consumed, so slew becomes zero with a rebase (02 R38). On LC3 that is the last step of its ramp:
one step at most, 10 ms after the last change; what is left then is a further ramp's (02 R41). -/
def doSlewComplete (n : Nat) (w : World) : World :=
  let l := lcAt w.mer n
  let left := lcRemainder w.mer l
  if l.remainder ≠ 0 ∧ (left = 0 ∨ (0 < l.remainder ∧ left < 0) ∨ (l.remainder < 0 ∧ 0 < left)) then
    if n = 3 then
      if decide (l.slew.natAbs ≤ rampStep.natAbs) && (l.slew == 0 || decide (l.lastChange + 10000000 ≤ nowNs w)) then
        onLc n (fun l => lcFlags { lcRebase w.mer l.source l with slew := 0 }) w
      else w
    else onLc n (fun l => lcFlags { lcRebase w.mer l.source l with remainder := 0, slew := 0 }) w
  else w

/-- What stepping a slew term of magnitude `s` down to zero, a step each 10 ms, consumes (02 R41). -/
def descentAmount : Nat → Int → Int
  | 0, _ => 0
  | k + 1, s => let s' := max 0 (s - rampStep); 10000000 * s' / 2 ^ 32 + descentAmount k s'

/-- One step from `a` toward `b` of at most 0.01 ppm. -/
def stepToward (a b : Int) : Int := if a < b then min b (a + rampStep) else max b (a - rampStep)

/-- The value toward which LC3's slew term moves: the remainder's, with headroom against the rate and against its target; zero where the
descent must begin, or the term stands on the other side (02 R38, R41). -/
def rampGoal (w : World) : Int :=
  let l := lcAt w.mer 3
  let left := lcRemainder w.mer l
  let smax := lcSlewMax (lcRec w 3)
  let a := slewTarget smax l.rate left
  let b := slewTarget smax l.rateTarget left
  let goal := if b.natAbs < a.natAbs then b else a
  if decide (0 < goal) != decide (0 < l.slew) && decide (l.slew ≠ 0) then 0
  else if (left.natAbs : Int) ≤ descentAmount 10001 l.slew.natAbs then 0 else goal

/-- LC3_RAMP_STEP: at least 10 ms after the last change, one step of LC3's effective rate: its slew term back toward zero where that is
due, else its rate toward its target within the limit, else its slew term up to its goal (02 R35, R41; log 15). -/
def doRampStep (w : World) : World :=
  let l := lcAt w.mer 3
  if nowNs w < l.lastChange + 10000000 then w else
    let goal := rampGoal w
    let s := stepToward l.slew goal
    let r := stepToward l.rate (boundedRate l.slew l.rateTarget)
    let slewStep := onLc 3 (fun l => lcFlags { lcRebase w.mer 0 l with slew := s }) w
    if goal.natAbs < l.slew.natAbs then slewStep
    else if r ≠ l.rate then storeRate 3 (onLc 3 (fun l => lcFlags { lcRebase w.mer 0 l with rate := r }) w)
    else if s = l.slew then w else slewStep

/-- LC3_TRACK_COMPARE: every 125 ms LC3 is compared with its reference, both sampled at one instant (02 R41, 00 R8).
Within the threshold a correction is requested; the rate target is the reference's own rate since the last comparison
(log 15). -/
def doTrackCompare (w : World) : World :=
  let r := leNat (actObj w 0x2015 0x01 3)
  let due := match w.mer.trackAt with | some (t, _, _) => decide (t + 125000000 ≤ nowNs w) | none => true
  if r = 0xFF || r = 3 || 16 ≤ r || !due then w else
    let ref := lcNow w r
    let far := decide (((lcJumpThreshold (lcRec w 3) * 65536 : Nat) : Int) < ((ref - lcNow w 3).natAbs : Int))
    let w' := onMer (fun m => { m with trackAt := some (nowNs w, r, ref) }) w
    if (lcAt w.mer r).hold then w' else
      let rate := match w.mer.trackAt with
        | some (t, q, prev) =>
          if q = r ∧ t < nowNs w then ((ref - prev) - ((nowNs w - t) * 65536 : Nat)) * 2 ^ 48 / ((nowNs w - t) * 65536 : Nat)
          else (lcAt w.mer 3).rateTarget
        | none => (lcAt w.mer 3).rateTarget
      let w' := onLc 3 (fun l => { l with rateTarget := max (-rateLimit) (min rateLimit rate), trackFar := far }) w'
      if far then w' else judge 3 (ref - lcNow w 3) w'

/-- SLEW_COMPLETE (02 R38). -/
def execSlewComplete (n : Fin 16) (s : State) : Host.Outcome State Fault Refusal := liveEffect (doSlewComplete n) s

/-- LC3_RAMP_STEP (02 R41). -/
def execLc3RampStep (s : State) : Host.Outcome State Fault Refusal := liveEffect doRampStep s

/-- LC3_TRACK_COMPARE (02 R41). -/
def execLc3TrackCompare (s : State) : Host.Outcome State Fault Refusal := liveEffect doTrackCompare s

/-! ## PTP on the host ports (02 R42, R43, R45; 14 R380, R381; log 16) -/

/-- PTP instance of port `p` changed. -/
def onPtp (p : Nat) (f : Ptp → Ptp) (w : World) : World := onMer (fun m => { m with ptp := updNth m.ptp p f }) w

/-- PTP runs from TIME_ACQUIRE onward (14 R380). -/
def ptpRuns (w : World) : Bool := decide (7 ≤ devCode w.dev.state)

/-- The clock of a host port: LC1 on H0, LC2 on H1. -/
def portClock (p : Nat) : Nat := p + 1

/-- The lock threshold of a port's servo, 2^-16 ns (02 R43). -/
def lockThreshold (p : Nat) (w : World) : Nat := beAt (actObj w 0x2202 0 p) 8 4 * 65536

/-- An acquisition step in TIME_ACQUIRE: the offset sets the clock directly, with a rebase and a record (14 R381). -/
def acquireStep (p : Nat) (off : Int) (w : World) : World :=
  let n := portClock p
  let w := onLc n (fun l => let l := lcRebase w.mer l.source l; { l with offset := l.offset - off }) w
  record 0x02 4 0x2010 n (onPtp p (fun q => { q with acqSteps := q.acqSteps + 1 }) w)

/-- The servo runs once: its lock report, its integrator, and the adjustment it asks of each clock it writes (02 R43). -/
def servoRun (p : Nat) (off : Int) (w : World) : World :=
  let q := nth {} w.mer.ptp p
  let (corr, rate, integ) := Config.ptpServo (actObj w 0x2202 0 p) q.integ off
  let run := if off.natAbs < lockThreshold p w then q.lockRun + 1 else 0
  let w := onPtp p (fun q => { q with integ := integ, lockRun := run, locked := decide (16 ≤ run) }) w
  eachW ((upTo 16).filter (fun n => lcWriter n (lcRec w n) = p + 1)) (fun n => servoAdjust n corr rate) w

/-- PTP_PORT of a port (log 14): the 802.1AS profile, domainNumber, and the delay mechanism of the 1588 profile. -/
def ptpAs (p : Nat) (w : World) : Bool := leAt (actObj w 0x2200 0 p) 0 1 == 0
def ptpDomain (p : Nat) (w : World) : Nat := leAt (actObj w 0x2200 0 p) 1 1
def ptpPeer (p : Nat) (w : World) : Bool := ptpAs p w || leAt (actObj w 0x2200 0 p) 4 1 == 1

/-- What Table 2.7 supports of every message: transport, profile, domain, no authentication TLV. -/
def ptpHeaderOk (p : Nat) (h : PtpHeader) (w : World) : Bool :=
  h.ethernet && h.sdo == (if ptpAs p w then 1 else 0) && h.domain.toNat == ptpDomain p w && !h.authTlv

/-- What it supports of the other messages, by profile. -/
def ptpOtherOk (p : Nat) (m : PtpOther) (w : World) : Bool :=
  match m with
  | .pdelayResp _ _ _ | .pdelayReq => ptpPeer p w
  | .delayResp _ _ | .delayReq => !ptpPeer p w
  | .intervalRequest _ _ _ => ptpAs p w
  | .other => false

/-- A message received on a port; one that uses an unsupported option is discarded and counted (02 R42). -/
def ptpIn (p : Nat) (ok : Bool) (f : World → World) (w : World) : World :=
  if !ptpRuns w then w else
  let w := onPtp p (fun q => { q with received := q.received + 1 }) w
  if ok then f w else onPtp p (fun q => { q with discarded := q.discarded + 1 }) w

/-- A Sync: its receive stamp less its origin and the path delay is the offset from master. -/
def syncIn (p : Nat) (origin : Int) (frac : Nat) (w : World) : World :=
  let t2 := lcNow w (portClock p) frac
  let off := t2 - origin - (nth {} w.mer.ptp p).pathDelay
  let w := onPtp p (fun q => { q with
    offset := off, gmLost := false, lastHeard := nowNs w, syncT1 := origin, syncT2 := t2 }) w
  let q := nth {} w.mer.ptp p
  if w.dev.state = .timeAcquire ∧ !q.acquired then
    if q.acqSteps = 0 then acquireStep p off w
    else if off.natAbs ≤ 1000 * 65536 then onPtp p (fun q => { q with acquired := true }) w
    else if q.acqSteps < 4 then acquireStep p off w
    else w
  else servoRun p off w

/-- PTP_SYNC_RECEIVE: `origin` is preciseOriginTimestamp with correction, one-step or two-step (02 R42, R43, R44; 14 R381). -/
def doPtpSync (p : Nat) (h : PtpHeader) (origin : Int) (frac : Nat) (w : World) : World :=
  ptpIn p (ptpHeaderOk p h w && decide (-7 ≤ h.logInterval ∧ h.logInterval ≤ 0)) (syncIn p origin frac) w

/-- The order of the best master clock algorithm's data set comparison (log 16). -/
def announceKey (a : AnnounceData) : Nat :=
  ((((a.priority1.toNat * 256 + a.clockClass.toNat) * 256 + a.clockAccuracy.toNat) * 65536 + a.variance.toNat) * 256
    + a.priority2.toNat) * 2 ^ 64 + a.identity.toNat

/-- PTP_ANNOUNCE_RECEIVE: the grandmaster is selected (02 R42, R43). -/
def doPtpAnnounce (p : Nat) (h : PtpHeader) (a : AnnounceData) (w : World) : World :=
  ptpIn p (ptpHeaderOk p h w) (fun w => onPtp p (fun q =>
    let better := match q.gm with
      | none => true
      | some g => g.identity == a.identity || decide (announceKey a < announceKey g)
    { q with gm := if better then some a else q.gm, gmLost := q.gmLost && !better, lastHeard := nowNs w }) w) w

/-- An interval a partner asks for: -128 leaves it, 126 takes the initial one (IEEE 802.1AS; log 16). -/
def askedInterval (old asked : Int) : Int := if asked = -128 then old else if asked = 126 then 0 else asked

/-- PTP_DELAY_MESSAGE_RECEIVE: an exchange that completes gives the mean path delay; an interval request is honoured (02 R42). -/
def doPtpDelay (p : Nat) (h : PtpHeader) (m : PtpOther) (frac : Nat) (w : World) : World :=
  ptpIn p (ptpHeaderOk p h w && ptpOtherOk p m w) (fun w => onPtp p (fun q =>
    match m with
    | .pdelayResp t1 t2 t3 => { q with pathDelay := ((lcNow w (portClock p) frac - t1) - (t3 - t2)) / 2 }
    | .delayResp t3 t4 => { q with pathDelay := ((q.syncT2 - q.syncT1) + (t4 - t3)) / 2 }
    | .intervalRequest link sync ann =>
      { q with logPdelay := askedInterval q.logPdelay link, logSync := askedInterval q.logSync sync,
               logAnnounce := askedInterval q.logAnnounce ann }
    | .pdelayReq | .delayReq | .other => q) w) w

/-- ANNOUNCE_RECEIPT_TIMEOUT: no Announce or Sync for the announce receipt timeout, whose length is the part's (log 90): the servo sets
GM_LOST and stops writing; the clock runs on at its last rate (02 R43). -/
def doGmLost (p : Nat) (w : World) : World :=
  whenW (ptpRuns w && decide ((nth {} w.mer.ptp p).lastHeard + (Config.announceTimeout p).toNat ≤ nowNs w))
    (onPtp p (fun q => { q with gmLost := true, gm := none })) w

/-- A port is master only if the host has configured it so (02 R43, Table 2.7): gmCapable in the 802.1AS profile,
slaveOnly clear in the 1588 profile. -/
def ptpMaster (p : Nat) (w : World) : Bool :=
  let r := actObj w 0x2200 0 p
  if leAt r 0 1 = 0 then leAt r 2 1 ≠ 0 else leAt r 3 1 = 0

/-- A one-step Sync of a port over IEEE 802.3, by the port's profile (02 R43, R45; log 91). -/
def ptpSyncFrame (w : World) (p : Nat) (origin corr : Int) (q : Ptp) : Bytes :=
  let r := actObj w 0x2200 0 p
  beBytes 6 (if ptpAs p w then 0x0180C200000E else 0x011B19000000) ++ beBytes 6 (Config.portMac (16 + p)).toNat ++ beBytes 2 0x88F7 ++
  [if ptpAs p w then 0x10 else 0x00, 0x12, 0, 44, BitVec.ofNat 8 (leAt r 1 1), 0, 0, 0] ++ beBytes 8 (unsigned 64 corr) ++
  beBytes 4 0 ++ beBytes 8 Config.clockIdentity.toNat ++ beBytes 2 1 ++ beBytes 2 q.syncSeq ++
  [0, BitVec.ofNat 8 (unsigned 8 q.logSync)] ++ beBytes 6 (origin.toNat / 1000000000) ++ beBytes 4 (origin.toNat % 1000000000) ++ [0, 0]

/-- PTP_SYNC_TRANSMIT: a one-step Sync; the correction is written at egress, `egress` units of 2^-16 ns after the frame is
built, and the frame check sequence after it (02 R43, R45). -/
def doPtpSend (p : Nat) (egress : Nat) (w : World) : World :=
  if !ptpRuns w || !ptpMaster p w then w else
  let origin := lcNow w (portClock p) / 65536
  let corr := lcNow w (portClock p) egress - origin * 65536
  let f := ptpSyncFrame w p origin corr (nth {} w.mer.ptp p)
  onPtp p (fun q => { q with syncSeq := (q.syncSeq + 1) % 65536 }) (emit (.ptp p f (frameCheck f)) w)

/-- PTP_SYNC_RECEIVE (02 R43). -/
def execPtpSyncReceive (p : Fin 2) (h : PtpHeader) (origin : Int) (s : State) : Host.Outcome State Fault Refusal :=
  liveEffect (doPtpSync p h origin h.frac.toNat) s

/-- PTP_ANNOUNCE_RECEIVE (02 R43). -/
def execPtpAnnounceReceive (p : Fin 2) (a : PtpAnnounce) (s : State) : Host.Outcome State Fault Refusal :=
  liveEffect (doPtpAnnounce p a.header a.data) s

/-- PTP_DELAY_MESSAGE_RECEIVE (02 R42). -/
def execPtpDelayMessageReceive (p : Fin 2) (h : PtpHeader) (m : PtpOther) (s : State) : Host.Outcome State Fault Refusal :=
  liveEffect (doPtpDelay p h m h.frac.toNat) s

/-- ANNOUNCE_RECEIPT_TIMEOUT (02 R43). -/
def execAnnounceReceiptTimeout (p : Fin 2) (s : State) : Host.Outcome State Fault Refusal := liveEffect (doGmLost p) s

/-- PTP_SYNC_TRANSMIT (02 R45). -/
def execPtpSyncTransmit (p : Fin 2) (egress : Nat) (s : State) : Host.Outcome State Fault Refusal :=
  liveEffect (doPtpSend p egress) s

/-! ## PPS (02 R46) -/

/-- A second in units of 2^-16 ns. -/
def second16 : Int := 1000000000 * 65536

/-- PPS_IN_EDGE: the edge is stamped in every counter and clock, and accepted or discarded; the PPS servo asks its clocks
to fall on the whole second (02 R46). -/
def doPpsIn (frac : Nat) (w : World) : World :=
  let t := now16 w frac
  let w := onMer (fun m => { m with ppsFrc := (upTo 4).map (fun n => frc m n * 65536 + frac % 65536), ppsLc := (upTo 16).map (fun n => lcValueOf m (lcAt m n) frac) }) w
  let ok := match w.mer.ppsLast with
    | none => true
    | some p => decide (((t : Int) - p - second16).natAbs ≤ 1000000 * 65536)
  if !ok then record 0x05 4 0x2020 0 (onMer (fun m => { m with ppsRejected := m.ppsRejected + 1 }) w) else
  let w := onMer (fun m => { m with ppsLast := some t }) w
  eachW ((upTo 16).filter (fun n => lcWriter n (lcRec w n) = 4)) (fun n w =>
    let v := lcNow w n frac
    let err := roundDiv v second16.toNat * second16 - v
    let (corr, rate, integ) := Config.ppsServo w.mer.ppsInteg err
    servoAdjust n corr rate (onMer (fun m => { m with ppsInteg := integ }) w)) w

/-- PPS_OUT rises at the whole second of its clock, within 4 ns, once an active set configures it (02 R46). -/
def doPpsOut (w : World) : World :=
  let r := actObj w 0x2021 0 0
  let v := lcNow w (beAt r 0 1 % 16)
  let near := ((v - roundDiv v second16.toNat * second16).natAbs : Int) ≤ 4 * 65536
  if w.cfg.present && hasObj w.cfg.active 0x2021 0 0 && decide near then
    onDev (fun d => { d with ppsOut := true })
      (onMer (fun m => { m with pulseEnd := sInsert m.pulseEnd 4 (now16 w + beAt r 1 4 * 65536) }) w)
  else w

/-- PPS_OUT falls when its width has passed (02 R46). -/
def doPpsOutEnd (w : World) : World :=
  match sFind w.mer.pulseEnd 4 with
  | some t =>
    if t ≤ now16 w + 4 * 65536 then
      onDev (fun d => { d with ppsOut := false }) (onMer (fun m => { m with pulseEnd := sErase m.pulseEnd 4 }) w)
    else w
  | none => w

/-- PPS_IN_EDGE (02 R46). -/
def execPpsInEdge (frac : BitVec 16) (s : State) : Host.Outcome State Fault Refusal := liveEffect (doPpsIn frac.toNat) s

/-- PPS_OUT_PULSE (02 R46). -/
def execPpsOutPulse (s : State) : Host.Outcome State Fault Refusal := liveEffect doPpsOut s

/-- PPS_OUT_PULSE_END (02 R46). -/
def execPpsOutPulseEnd (s : State) : Host.Outcome State Fault Refusal := liveEffect doPpsOutEnd s

end Sys2Proof.Machine
end

