-- ==== Sys2Proof/Machine/Number.lean ====
section
/-! DEFINITION. The number formats G4, G8, B8, G16, G32, X32 and X64, conversion between them, rounded arithmetic, the
summation order and the special functions (03). A value between formats is an exact `Acc`; every function that can raise
ARITH_FLAGS returns them beside its result. -/

namespace Sys2Proof.Machine

/-! ## Exact values -/

/-- The exact value `m * 2^e`; a zero is +0. -/
def dy (m e : Int) : Acc := .fin m e false

/-- +0. -/
def accZero : Acc := .fin 0 0 false

/-- One. -/
def accOne : Acc := .fin 1 0 false

/-- The sign bit of a value that is not NaN. -/
def accNeg : Acc → Bool
  | .fin m _ nz => decide (m < 0) || (decide (m = 0) && nz)
  | .inf n => n
  | .nan => false

/-- Negation (03 R82). -/
def accNegate : Acc → Acc
  | .fin m e nz => if m = 0 then .fin 0 0 (!nz) else .fin (-m) e false
  | .inf n => .inf (!n)
  | .nan => .nan

/-- Absolute value (03 R82). -/
def accAbs : Acc → Acc
  | .fin m e _ => .fin m.natAbs e false
  | .inf _ => .inf false
  | .nan => .nan

/-- The value is NaN. -/
def accIsNan : Acc → Bool
  | .nan => true
  | _ => false

/-- The value is finite. -/
def accIsFin : Acc → Bool
  | .fin _ _ _ => true
  | _ => false

/-- `x * 2^k`. -/
def accScale (k : Int) : Acc → Acc
  | .fin m e nz => .fin m (e + k) nz
  | a => a

/-- The numerators of two dyadic values at their common exponent. -/
def align (m e m' e' : Int) : Int × Int × Int :=
  let q := min e e'
  (m * 2 ^ (e - q).toNat, m' * 2 ^ (e' - q).toNat, q)

/-- Exact sum, with the zero rule of 03 R75 and the NaN rules of 03 R69. -/
def accAdd : Acc → Acc → Acc × BitVec 8
  | .fin m e nz, .fin m' e' nz' =>
    let (a, b, q) := align m e m' e'
    if a + b = 0 then (.fin 0 0 (decide (m = 0) && nz && decide (m' = 0) && nz'), 0) else (.fin (a + b) q false, 0)
  | .inf n, .inf n' => if n = n' then (.inf n, 0) else (.nan, fNanGen)
  | .inf n, .fin _ _ _ => (.inf n, 0)
  | .fin _ _ _, .inf n => (.inf n, 0)
  | _, _ => (.nan, fNanIn)

/-- Exact product, with the NaN rules of 03 R69. -/
def accMul : Acc → Acc → Acc × BitVec 8
  | .nan, _ => (.nan, fNanIn)
  | _, .nan => (.nan, fNanIn)
  | a, b =>
    let s := xor (accNeg a) (accNeg b)
    match a, b with
    | .fin m e _, .fin m' e' _ => if m * m' = 0 then (.fin 0 0 s, 0) else (.fin (m * m') (e + e') false, 0)
    | .fin m _ _, _ => if m = 0 then (.nan, fNanGen) else (.inf s, 0)
    | _, .fin m _ _ => if m = 0 then (.nan, fNanGen) else (.inf s, 0)
    | _, _ => (.inf s, 0)

/-- Less than, false where either is NaN; zeros compare equal (03 R75). -/
def accLt : Acc → Acc → Bool
  | .fin m e _, .fin m' e' _ => let (a, b, _) := align m e m' e'; decide (a < b)
  | .inf n, .inf n' => n && !n'
  | .inf n, .fin _ _ _ => n
  | .fin _ _ _, .inf n => !n
  | _, _ => false

/-- Equal as numbers. -/
def accEq : Acc → Acc → Bool
  | .fin m e _, .fin m' e' _ => let (a, b, _) := align m e m' e'; decide (a = b)
  | .inf n, .inf n' => n == n'
  | _, _ => false

/-- At most, false where either is NaN. -/
def accLe (a b : Acc) : Bool := accLt a b || accEq a b

/-- Maximum (03 R75). -/
def accMax (a b : Acc) : Acc × BitVec 8 :=
  if accIsNan a || accIsNan b then (.nan, fNanIn)
  else if accLt a b then (b, 0) else if accLt b a then (a, 0) else if accNeg a then (b, 0) else (a, 0)

/-- Minimum (03 R75). -/
def accMin (a b : Acc) : Acc × BitVec 8 :=
  if accIsNan a || accIsNan b then (.nan, fNanIn)
  else if accLt a b then (a, 0) else if accLt b a then (b, 0) else if accNeg a then (a, 0) else (b, 0)

/-! ## Rounding -/

/-- The number of the top bit of a non-zero integer. -/
def topBit (m : Int) : Int := (Nat.log2 m.natAbs : Nat)

/-- `m * 2^e` rounded to a multiple of `2^q`, to nearest with ties to even (03 R65): the multiple. -/
def roundAt (q m e : Int) : Int :=
  if q ≤ e then m * 2 ^ (e - q).toNat else roundDiv m (2 ^ (q - e).toNat)

/-- `m * 2^e` rounded to `p` significant bits, exponent unbounded. -/
def roundSig (p : Nat) (m e : Int) : Int × Int :=
  if m = 0 then (0, 0) else
    let q := max e (topBit m + e - p + 1)
    (roundAt q m e, q)

/-- A node of the summation tree: rounded to the G32 significand, internal exponent (03 R73, R76). -/
def accRnd : Acc → Acc
  | .fin m e nz => let (n, q) := roundSig 24 m e; .fin n q nz
  | a => a

/-- A finite non-zero value packed into a binary layout of `eb` exponent and `mb` mantissa bits: the code without its sign,
or `none` when it rounds beyond the largest code, or 0 when it falls below the smallest. `full` gives every exponent
value to finite codes (G4, G8), `gradual` keeps subnormals. -/
def packMag (eb mb : Nat) (bias : Int) (full gradual : Bool) (m e : Int) : Option Nat :=
  let emin := 1 - bias
  let emax := (2 ^ eb : Nat) - (if full then 1 else 2) - bias
  let fine := topBit m + e - mb
  let q := if gradual then max fine (emin - mb) else fine
  let n := (roundAt q m.natAbs e).natAbs
  if n = 0 then some 0 else
    let top := topBit n + q
    if emax < top then none
    else if top < emin then (if gradual then some n else some 0)
    else
      let sig := if topBit n ≤ mb then n * 2 ^ (mb - topBit n).toNat else n / 2 ^ (topBit n - mb).toNat
      some ((top + bias).toNat * 2 ^ mb + (sig - 2 ^ mb))

/-- A code of G16, G32, binary16 or binary32 from an exact value (03 R67, R68, R69): code and flags. -/
def packFp (eb mb : Nat) (gradual sat : Bool) (x : Acc) : Nat × BitVec 8 :=
  let s := 2 ^ (eb + mb)
  let infCode := (2 ^ eb - 1) * 2 ^ mb
  match x with
  | .nan => (infCode + 2 ^ (mb - 1), 0)
  | .inf n => (infCode + b2n n * s, 0)
  | .fin m e nz =>
    if m = 0 then (b2n nz * s, 0) else
      let neg := b2n (decide (m < 0)) * s
      match packMag eb mb ((2 ^ (eb - 1) : Nat) - 1) false gradual m e with
      | none => (neg + (if sat then infCode - 1 else infCode), fOvf)
      | some 0 => (neg, fUnf)
      | some c => (neg + c, 0)

/-- The value of such a code. Subnormal codes of G16 and G32 are flushed to zero with DNI (03 R61, R62); those of binary16
and binary32 are read as they are. -/
def unpackFp (eb mb : Nat) (gradual : Bool) (c : Nat) : Acc × BitVec 8 :=
  let bias : Int := (2 ^ (eb - 1) : Nat) - 1
  let neg := bit c (eb + mb)
  let ex := bits c (eb + mb - 1) mb
  let m := bits c (mb - 1) 0
  let sg (i : Nat) : Int := if neg then -(i : Int) else i
  if ex = 2 ^ eb - 1 then (if m = 0 then (.inf neg, 0) else (.nan, 0))
  else if ex = 0 then
    if m = 0 then (.fin 0 0 neg, 0)
    else if gradual then (.fin (sg m) (1 - bias - mb) false, 0) else (.fin 0 0 neg, fDni)
  else (.fin (sg (2 ^ mb + m)) ((ex : Int) - bias - mb) false, 0)

/-- A G4 or G8 code from an exact value (03 R66, R68, R69). -/
def packSmall (eb mb : Nat) (bias : Int) (x : Acc) : Nat × BitVec 8 :=
  let s := 2 ^ (eb + mb)
  match x with
  | .nan => (s, fNanIn)
  | .inf n => (b2n n * s + (s - 1), fOvf)
  | .fin m e _ =>
    if m = 0 then (0, 0) else
      match packMag eb mb bias true true m e with
      | none => (b2n (decide (m < 0)) * s + (s - 1), fOvf)
      | some 0 => (0, fUnf)
      | some c => (b2n (decide (m < 0)) * s + c, 0)

/-- The value of a G4 or G8 code; the code of −0 is the NaN (03 R58, R59). -/
def unpackSmall (eb mb : Nat) (bias : Int) (c : Nat) : Acc :=
  let neg := bit c (eb + mb)
  let ex := bits c (eb + mb - 1) mb
  let m := bits c (mb - 1) 0
  let mag : Nat := if ex = 0 then m else 2 ^ mb + m
  if neg && mag == 0 then .nan
  else .fin (if neg then -(mag : Int) else mag) ((if ex = 0 then (1 : Int) else (ex : Int)) - bias - mb) false

/-! ## The formats -/

/-- G4 (03 R58). -/
def packG4 (x : Acc) : Nat × BitVec 8 := packSmall 2 1 1 x
def unpackG4 (c : Nat) : Acc := unpackSmall 2 1 1 (c % 16)
/-- G8 (03 R59). -/
def packG8 (x : Acc) : Nat × BitVec 8 := packSmall 4 3 8 x
def unpackG8 (c : Nat) : Acc := unpackSmall 4 3 8 (c % 256)
/-- G16 (03 R61). -/
def packG16 (sat : Bool) (x : Acc) : Nat × BitVec 8 := packFp 6 9 false sat x
def unpackG16 (c : Nat) : Acc × BitVec 8 := unpackFp 6 9 false (c % 65536)
/-- binary16, which keeps its subnormals (03 R82). -/
def packB16 (sat : Bool) (x : Acc) : Nat × BitVec 8 := packFp 5 10 true sat x
def unpackB16 (c : Nat) : Acc × BitVec 8 := unpackFp 5 10 true (c % 65536)
/-- G32 (03 R62); binary32 codes are read and written the same way (03 Table 3.7). -/
def pack32 (sat : Bool) (x : Acc) : W32 × BitVec 8 := let (c, f) := packFp 8 23 false sat x; (BitVec.ofNat 32 c, f)
def unpack32 (c : W32) : Acc × BitVec 8 := unpackFp 8 23 false c.toNat

/-- The value of a G32 code, its flags dropped. -/
def val32 (c : W32) : Acc := (unpack32 c).1

/-- The canonical NaN of G32 (03 R62). -/
def nan32 : W32 := 0x7FC00000

/-- The exact integer or dyadic `m * 2^e` as G32. -/
def g32 (m e : Int) : W32 := (pack32 false (dy m e)).1

/-- The code is a NaN. -/
def isNan32 (c : W32) : Bool := accIsNan (val32 c)

/-- The code is finite. -/
def isFin32 (c : W32) : Bool := accIsFin (val32 c)

/-- NAN_IN where a source value is NaN (03 R69). -/
def nanIn (a : Acc) : BitVec 8 := flagIf (accIsNan a) fNanIn

/-- A code read as a G32 operand: value and the DNI and NAN_IN it raises. -/
def operand32 (c : W32) : Acc × BitVec 8 := let (a, f) := unpack32 c; (a, f ||| nanIn a)

/-- binary32 to G32: the identity but for flushed subnormals and canonical NaN (03 Table 3.7). -/
def canon32 (c : W32) : W32 × BitVec 8 :=
  let (a, f) := operand32 c
  let (r, g) := pack32 false a
  (r, f ||| g)

/-! ## Rounded G32 arithmetic (03 R82) -/

/-- A binary operation on G32 codes: exact, then rounded once. -/
def op32 (f : Acc → Acc → Acc × BitVec 8) (sat : Bool) (a b : W32) : W32 × BitVec 8 :=
  let (x, fa) := unpack32 a
  let (y, fb) := unpack32 b
  let (z, fz) := f x y
  let (r, fr) := pack32 sat z
  (r, fa ||| fb ||| fz ||| fr)

/-- Sum. -/
def add32 (a b : W32) (sat : Bool := false) : W32 × BitVec 8 := op32 accAdd sat a b
/-- Difference. -/
def sub32 (a b : W32) (sat : Bool := false) : W32 × BitVec 8 := op32 (fun x y => accAdd x (accNegate y)) sat a b
/-- Product. -/
def mul32 (a b : W32) (sat : Bool := false) : W32 × BitVec 8 := op32 accMul sat a b
/-- Maximum and minimum. -/
def max32 (a b : W32) : W32 × BitVec 8 := op32 accMax false a b
def min32 (a b : W32) : W32 × BitVec 8 := op32 accMin false a b

/-- Fused multiply-add, rounded once. 0 × ∞ beside a NaN addend raises NAN_GEN and NAN_IN (log 100). -/
def fma32 (a b c : W32) (sat : Bool := false) : W32 × BitVec 8 :=
  let (x, fa) := unpack32 a
  let (y, fb) := unpack32 b
  let (z, fc) := unpack32 c
  let (p, fp) := accMul x y
  let (s, fs) := accAdd p z
  let (r, fr) := pack32 sat s
  (r, fa ||| fb ||| fc ||| fp ||| (if accIsNan p then 0 else fs) ||| nanIn z ||| fr)

/-- Negation and absolute value: a NaN gives the canonical NaN (03 R69, R83). -/
def neg32 (a : W32) : W32 × BitVec 8 :=
  let (x, f) := operand32 a; ((pack32 false (accNegate x)).1, f)
def abs32 (a : W32) : W32 × BitVec 8 :=
  let (x, f) := operand32 a; ((pack32 false (accAbs x)).1, f)

/-- Comparisons on codes. -/
def lt32 (a b : W32) : Bool := accLt (val32 a) (val32 b)
def le32 (a b : W32) : Bool := accLe (val32 a) (val32 b)

/-! ## Summation order (03 R76 to R78) -/

/-- One level of the tree: node `i` sums the elements `2i` and `2i + 1`. -/
def treeLevel (f : Acc → Acc → Acc × BitVec 8) : List Acc → List Acc × BitVec 8
  | a :: b :: rest =>
    let (s, g) := f a b
    let (l, h) := treeLevel f rest
    (s :: l, g ||| h)
  | l => (l, 0)

/-- The five levels over a group of 32. -/
def treeGroup (f : Acc → Acc → Acc × BitVec 8) : Nat → List Acc → List Acc × BitVec 8
  | 0, l => (l, 0)
  | k + 1, l =>
    let (l', g) := treeLevel f l
    let (r, h) := treeGroup f k l'
    (r, g ||| h)

/-- A sum node: rounded once. -/
def sumNode (a b : Acc) : Acc × BitVec 8 := let (s, f) := accAdd a b; (accRnd s, f)

/-- The groups of 32, the last padded with `pad`. -/
def groups (pad : Acc) : Nat → List Acc → List (List Acc)
  | 0, _ => []
  | k + 1, l => (l.take 32 ++ List.replicate (32 - l.length) pad) :: groups pad k (l.drop 32)

/-- The reduction of R76 from an accumulator. -/
def reduceSum (acc : Acc) (p : List Acc) : Acc × BitVec 8 :=
  (groups accZero ((p.length + 31) / 32) p).foldl (fun (a : Acc × BitVec 8) g =>
    let (l, f) := treeGroup sumNode 5 g
    let (s, h) := sumNode a.1 (nth accZero l 0)
    (s, a.2 ||| f ||| h)) (acc, 0)

/-- The maximum or minimum reduction: the same tree with the node of R75 (03 R78); the last group is padded with the
neutral infinity. -/
def reduceExt (node : Acc → Acc → Acc × BitVec 8) (neutral : Acc) (p : List Acc) : Acc × BitVec 8 :=
  (groups neutral ((p.length + 31) / 32) p).foldl (fun (a : Acc × BitVec 8) g =>
    let (l, f) := treeGroup node 5 g
    let (s, h) := node a.1 (nth neutral l 0)
    (s, a.2 ||| f ||| h)) (neutral, 0)

/-! ## Block scales (03 R74) -/

/-- The factor `2^(127 - e)` applied, and its inverse. -/
def blockScale (e : Nat) (x : Acc) : Acc := accScale (127 - (e : Int)) x
def blockUnscale (e : Nat) (x : Acc) : Acc := accScale ((e : Int) - 127) x

/-- The largest finite magnitude of a block. -/
def blockMax (xs : List Acc) : Acc :=
  xs.foldl (fun m x => match x with
    | .fin n e _ => if accLt m (.fin n.natAbs e false) then .fin n.natAbs e false else m
    | _ => m) accZero

/-- The block scale that R74 chooses: E_TOP and the mantissa bits of the format. -/
def chooseScale (eTop : Int) (mb : Nat) (limit : Nat) (xs : List Acc) : Nat :=
  match blockMax xs with
  | .fin m ex _ =>
    if xs.all accIsNan && !xs.isEmpty then 0xFF
    else if m = 0 then (if xs.any (fun x => match x with | .inf _ => true | _ => false) then 254 else 127)
    else
      let e := topBit m + ex - eTop + 127
      let (n, q) := roundSig (mb + 1) m (ex + 127 - e)
      let e := if accLe (dy limit 0) (dy n q) then e + 1 else e
      (min (max e 0) 254).toNat
  | _ => 127

/-- A block of at most 32 values in G4 or G8 with its scale: scale, codes, flags. -/
def quantBlock (g8 : Bool) (xs : List Acc) : Nat × List Nat × BitVec 8 :=
  let e := if g8 then chooseScale 7 3 248 xs else chooseScale 2 1 7 xs
  let cs := xs.map (fun x => if g8 then packG8 (blockScale e x) else packG4 (blockScale e x))
  (e, cs.map (·.1), orFlags (cs.map (·.2)))

/-- An element of a block read back: scale 0xFF is a NaN block (03 R60). -/
def readBlock (g8 : Bool) (e : Nat) (code : Nat) : Acc :=
  if e = 0xFF then .nan else blockUnscale e (if g8 then unpackG8 code else unpackG4 code)

/-! ## X32 and X64 (03 R63) -/

/-- An integer saturated to `w` bits of two's complement. -/
def satInt (w : Nat) (v : Int) : Int × BitVec 8 :=
  let hi : Int := 2 ^ (w - 1) - 1
  let lo : Int := -(2 ^ (w - 1))
  if hi < v then (hi, fOvf) else if v < lo then (lo, fOvf) else (v, 0)

/-- X32 at `q` from an exact value (03 R65, R69). -/
def toX32 (q : Int) (x : Acc) : Int × BitVec 8 :=
  match x with
  | .nan => (0, fNanIn)
  | .inf n => (if n then -(2 ^ 31) else 2 ^ 31 - 1, fOvf)
  | .fin m e _ => satInt 32 (roundAt (-q) m e)

/-- The value of an X32 or X64 integer at `q`. -/
def ofX (v q : Int) : Acc := dy v (-q)

/-- X64 addition. -/
def addX64 (a b : Int) : Int × BitVec 8 := satInt 64 (a + b)

/-- X64 at `qx` narrowed to X32 at `qd`. -/
def narrowX (v qx qd : Int) : Int × BitVec 8 :=
  satInt 32 (if qx ≤ qd then v * 2 ^ (qd - qx).toNat else roundDiv v (2 ^ (qx - qd).toNat))

/-- The X32 value of a stored word, and the word of a value. -/
def x32 (w : W32) : Int := w.toInt
def wordX (v : Int) : W32 := BitVec.ofInt 32 v

/-! ## Special functions (03 R79; log 6) -/

/-- Fixed point of the approximations: units of 2^-200. -/
def fxBits : Nat := 200

/-- ln 2 in units of 2^-200. -/
def fxLn2 : Int := 1113844574712631719546256151097547306333272293549090750737802

/-- A dyadic value in units of 2^-200. -/
def fxOf (m e : Int) : Int := if 0 ≤ e + fxBits then m * 2 ^ (e + fxBits).toNat else m / 2 ^ (-(e + fxBits)).toNat

/-- The Taylor sum of exp on units of 2^-200: terms left, term, index, argument. -/
def fxExpSum : Nat → Int → Nat → Int → Int
  | 0, t, _, _ => t
  | k + 1, t, n, r => t + fxExpSum k (t * r / 2 ^ fxBits / (n + 1)) (n + 1) r

/-- exp of a value in units of 2^-200, as `m * 2^e`. -/
def fxExp (x : Int) : Int × Int :=
  let k := x / fxLn2
  (fxExpSum 60 (2 ^ fxBits) 0 (x - k * fxLn2), k - fxBits)

/-- Integer square root, one bit at a time. -/
def isqrtGo : Nat → Nat → Nat → Nat
  | 0, _, r => r
  | k + 1, n, r => let c := r + 2 ^ k; isqrtGo k n (if c * c ≤ n then c else r)

/-- The integer square root of `n`. -/
def isqrt (n : Nat) : Nat := isqrtGo (n.log2 / 2 + 1) n 0

/-- `1 / x` of a positive dyadic value, to 300 bits. -/
def recipApprox (m : Nat) (e : Int) : Int × Int := ((2 ^ (300 + m.log2) / m : Nat), -(300 + m.log2 : Nat) - e)

/-- `1 / sqrt x` of a positive dyadic value, to 150 bits and more. -/
def rsqrtApprox (m : Nat) (e : Int) : Int × Int :=
  let (m, e) := if e % 2 = 0 then (m, e) else (2 * m, e - 1)
  let k := 400 + 2 * (m.log2 / 2)
  (isqrt (2 ^ k / m), -(k / 2 : Nat) - e / 2)

/-- A G32 result of special function `fn` at operand `x` whose exact value is near `m * 2^e`: the part's own code for it where that lies
within the bound, `ulps` units in the last place or `2^-24` if `abs`, else the nearest code (log 6). -/
def specialResult (fn : Nat) (x : W32) (ulps : Nat) (abs : Bool) (m e : Int) : Acc :=
  let (n, q) := roundSig 24 m e
  let cand := val32 (Config.specialCode fn x)
  let d := accAbs (accAdd cand (dy (-m) e)).1
  if accLe d (dy (if m = 0 then 0 else ulps) (topBit m + e - 23)) || (abs && accLe d (dy 1 (-24))) then cand else dy n q

/-- A special function finished: special value or approximation, packed with its flags. -/
def specialPack (sat : Bool) (f : BitVec 8) (a : Acc) : W32 × BitVec 8 :=
  let (r, g) := pack32 sat a
  (r, f ||| g)

/-- exp(x) (03 Table 3.8). -/
def exp32 (x : W32) (sat : Bool := false) : W32 × BitVec 8 :=
  let (a, f) := operand32 x
  match a with
  | .nan => (nan32, f)
  | .inf true => (0, f)
  | .inf false => specialPack sat f (.inf false)
  | .fin m e _ =>
    if accLe (dy 8872284 0) ((accMul a (dy 100000 0)).1) then specialPack sat f (dy 1 200)
    else if accLt ((accMul a (dy 100000 0)).1) (dy (-8733654) 0) then (0, f ||| fUnf)
    else let (r, q) := fxExp (fxOf m e); specialPack sat f (specialResult 0 x 2 false r q)

/-- recip(x) (03 Table 3.8). -/
def recip32 (x : W32) (sat : Bool := false) : W32 × BitVec 8 :=
  let (a, f) := operand32 x
  match a with
  | .nan => (nan32, f)
  | .inf n => ((pack32 false (.fin 0 0 n)).1, f)
  | .fin m e nz =>
    let sg : Int := if accNeg a then -1 else 1
    if m = 0 then
      (if sat then (if nz then 0xFF7FFFFF else 0x7F7FFFFF) else (if nz then 0xFF800000 else 0x7F800000), f ||| fOvf)
    else if accLt (dy 1 126) (accAbs a) then ((pack32 false (.fin 0 0 (decide (m < 0)))).1, f ||| fUnf)
    else let (r, q) := recipApprox m.natAbs e; specialPack sat f (specialResult 1 x 1 false (sg * r) q)

/-- rsqrt(x) (03 Table 3.8). -/
def rsqrt32 (x : W32) (sat : Bool := false) : W32 × BitVec 8 :=
  let (a, f) := operand32 x
  match a with
  | .nan => (nan32, f)
  | .inf true => (nan32, f ||| fNanGen)
  | .inf false => (0, f)
  | .fin m e nz =>
    if m = 0 then (if nz then 0xFF800000 else 0x7F800000, f ||| fOvf)
    else if m < 0 then (nan32, f ||| fNanGen)
    else let (r, q) := rsqrtApprox m.natAbs e; specialPack sat f (specialResult 2 x 1 false r q)

/-- `x / (1 + exp(-t))` to many bits; `t` in units of 2^-200, confined to ±400. -/
def sigmoidTimes (m e t : Int) : Int × Int :=
  let lim : Int := 400 * 2 ^ fxBits
  let t := max (-lim) (min lim t)
  let (r, q) := fxExp (-t)
  let den := 2 ^ (600 : Nat) + (if 0 ≤ q + 600 then r * 2 ^ (q + 600).toNat else r / 2 ^ (-(q + 600)).toNat)
  (m * 2 ^ (1400 : Nat) / den, e - 800)

/-- GELU(x) (03 Table 3.8). -/
def gelu32 (x : W32) (sat : Bool := false) : W32 × BitVec 8 :=
  let (a, f) := operand32 x
  match a with
  | .nan => (nan32, f)
  | .inf true => (0x80000000, f)
  | .inf false => (0x7F800000, f)
  | .fin m e nz =>
    if m = 0 then specialPack sat f (match specialResult 3 x 4 true 0 0 with | .fin n q b => .fin n q (if n = 0 then nz else b) | r => r) else
      let xf := fxOf m e
      let cap : Int := 30 * 2 ^ fxBits
      let xc := max (-cap) (min cap xf)
      let cube := xc * xc / 2 ^ fxBits * xc / 2 ^ fxBits
      let u := 79788456 * (xc + 44715 * cube / 1000000) / 100000000
      let (r, q) := sigmoidTimes m e (2 * u)
      specialPack sat f (specialResult 3 x 4 true r q)

/-- SiLU(x) (03 Table 3.8). -/
def silu32 (x : W32) (sat : Bool := false) : W32 × BitVec 8 :=
  let (a, f) := operand32 x
  match a with
  | .nan => (nan32, f)
  | .inf true => (0x80000000, f)
  | .inf false => (0x7F800000, f)
  | .fin m e nz =>
    if m = 0 then specialPack sat f (match specialResult 4 x 3 true 0 0 with | .fin n q b => .fin n q (if n = 0 then nz else b) | r => r) else
      let (r, q) := sigmoidTimes m e (fxOf m e)
      specialPack sat f (specialResult 4 x 3 true r q)

end Sys2Proof.Machine
end

