-- ==== Sys2Proof/Machine/Trackers.lean ====
section
/-! DEFINITION. Angle trackers: θ and ω, ticks, events, fallback and what a SWAP does to them (02 R47 to R53, R413, R414,
R417). The commands on them stand in TrackerCmds. -/

namespace Sys2Proof.Machine

/-! ## AT_RECORD (02 Table 2.11) -/

/-- AT_RECORD of tracker `k`. -/
def atRec (w : World) (k : Nat) : Bytes := actObj w 0x2100 0 k
def atMode (r : Bytes) : Nat := fieldLe r 2 0
def atN (r : Bytes) : Nat := 2 ^ fieldLe r 6 3
def atFbFixed (r : Bytes) : Bool := fieldLe r 7 7 == 1
def atScale (r : Bytes) : Nat := fieldLe r 13 8
def atEnc (r : Bytes) : Nat := fieldLe r 15 14
def atDir (r : Bytes) : Bool := fieldLe r 16 16 == 1
def atZEn (r : Bytes) : Bool := fieldLe r 17 17 == 1
def atAbsWidth (r : Bytes) : Nat := fieldLe r 18 18
def atLcSel (r : Bytes) : Nat := fieldLe r 27 24
def atOmegaMax (r : Bytes) : W32 := field32 r 32
def atOmegaMin (r : Bytes) : W32 := field32 r 64
def atOmegaFb (r : Bytes) : W32 := field32 r 96
def atOmegaSynField (r : Bytes) : W32 := field32 r 128
def atPhase (r : Bytes) : W32 := field32 r 160
def atLines (r : Bytes) : Nat := fieldLe r 223 192
def atStreamA (r : Bytes) : Nat := fieldLe r 241 224
def atStreamB (r : Bytes) : Nat := fieldLe r 259 242
def atStreamC (r : Bytes) : Nat := fieldLe r 277 260
def atTimeout (r : Bytes) : Nat := fieldLe r 327 312
def atResume (r : Bytes) : Nat := fieldLe r 351 344

/-- The epoch tracker of the active set (01 R20). -/
def epochTracker (w : World) : Nat := leNat (actObj w 0x2103 1 0)

/-- Tracker `k`, and the world with it changed. -/
def tracker (w : World) (k : Nat) : Tracker := nth {} w.mer.trackers k
def onTracker (k : Nat) (f : Tracker → Tracker) (w : World) : World :=
  onMer (fun m => { m with trackers := updNth m.trackers k f }) w

/-! ## Angle and rate -/

/-- A ratio rounded to G32. -/
def g32Ratio (num : Int) (den : Nat) : W32 :=
  if den = 0 then 0 else
    let k := den.log2 + 64
    let q := num.natAbs * 2 ^ k / den
    let sticky := b2n (num.natAbs * 2 ^ k % den ≠ 0)
    let m : Int := 2 * q + sticky
    (pack32 false (dy (if num < 0 then -m else m) (-(k + 1 : Nat)))).1

/-- The numerator `m * 2^(e + 200)` of a finite rate, and 0 for any other code. -/
def rateNum (om : W32) : Int :=
  match val32 om with
  | .fin m e _ => m * 2 ^ (e + 200).toNat
  | _ => 0

/-- What a rate times a time is divided by to give a turn: 2^200 of `rateNum`, 2^-16 ns of the time. -/
def turnUnit : Nat := 2 ^ 200 * 1000000000 * 65536

/-- The angle in ANGLE32 counts that rate `om` covers in `dt` units of 2^-16 ns, rounded down (02 R49, R56). -/
def angleSpan (om : W32) (dt : Int) : Int := rateNum om * dt * 2 ^ 32 / turnUnit

/-- The time, 2^-16 ns, that rate `om` takes for a span of ANGLE32 counts, rounded up; `none` where it never covers it. -/
def spanTime (om : W32) (span : Int) : Option Int :=
  if rateNum om = 0 then none else
    let n := span * (turnUnit : Int) * (if rateNum om < 0 then -1 else 1)
    some (-(-n / ((rateNum om).natAbs * 2 ^ 32 : Nat)))

/-- An angle advanced by a signed span. -/
def turn (th : W32) (span : Int) : W32 := th + BitVec.ofInt 32 span

/-- θ - a read as a two's complement value (02 R414). -/
def angleDiff (a b : W32) : Int := (a - b).toInt

/-- The span of `c` quadrature counts of a tracker, in ANGLE32 counts rounded down (02 R417). -/
def countSpan (r : Bytes) (c : Int) : Int :=
  if atLines r = 0 then 0 else c * 2 ^ 32 * atScale r / (4 * atLines r : Nat)

/-- θ of the quadrature count alone; DIR inverts it (02 R47, R417). -/
def countedU (r : Bytes) (t : Tracker) : Int := t.base.toNat + (if atDir r then -(countSpan r t.count) else countSpan r t.count)
def countedTheta (r : Bytes) (t : Tracker) : W32 := BitVec.ofInt 32 (countedU r t)

/-- ω from the edges, with its decay when they stop; `none` before a second edge (02 R417). -/
def encoderOmega (r : Bytes) (t : Tracker) (now : Nat) : Option W32 :=
  match t.edgeAt, t.edgeGap with
  | some te, some gap =>
    let dt := max gap (now - te)
    let fwd := t.edgeFwd != atDir r
    let n : Int := (atScale r * 1000000000 * 65536 : Nat)
    some (g32Ratio (if fwd then n else -n) (4 * atLines r * dt))
  | _, _ => none

/-- ω clamped in magnitude to [ω_min, ω_max], its sign kept (02 R49). -/
def clampOmega (r : Bytes) (om : W32) : W32 :=
  let neg := om.getLsbD 31
  let mag := om &&& 0x7FFFFFFF
  let mag := if lt32 mag (atOmegaMin r) then atOmegaMin r else if lt32 (atOmegaMax r) mag then atOmegaMax r else mag
  if neg then mag ||| 0x80000000 else mag

/-- The fallback rate (02 R49). -/
def fallbackRate (r : Bytes) (t : Tracker) : W32 :=
  if atFbFixed r || !t.wasValid then atOmegaFb r else clampOmega r t.validOmega

/-- A rate and an angle as DIR turns them (02 R47). -/
def dirRate (r : Bytes) (om : W32) : W32 := if atDir r then om ^^^ 0x80000000 else om
def dirAngle (r : Bytes) (th : W32) : W32 := if atDir r then -th else th

/-- The rate a SYNTHETIC tracker turns at (02 R47). -/
def synRate (r : Bytes) : W32 := dirRate r (atOmegaSynField r)

/-- The rate at which θ moves at an LC0 instant, 2^-16 ns (02 Table 2.10, R49). -/
def moveRate (r : Bytes) (t : Tracker) (now : Nat) : W32 :=
  match t.mode with
  | .off => 0
  | .acquiring | .fallback => fallbackRate r t
  | .valid => if atMode r = 1 then (encoderOmega r t now).getD (fallbackRate r t)
              else if atMode r = 4 then synRate r else t.omega

/-- ω as AT_STATE reports it: while an encoder is acquired, the measured ω from its second edge on (02 R49, R417). -/
def omegaOf (r : Bytes) (t : Tracker) (now : Nat) : W32 :=
  if t.mode = .acquiring ∧ atMode r = 1 then (encoderOmega r t now).getD (fallbackRate r t) else moveRate r t now

/-- The logical clock that θ follows: LC_SEL of a SYNTHETIC tracker and LC3 of STREAM_ABS while VALID, else LC0 (02 Table 2.10). -/
def thetaLc (r : Bytes) (t : Tracker) : Nat :=
  if t.mode = .valid then (if atMode r = 4 then atLcSel r else if atMode r = 3 then 3 else 0) else 0

/-- That clock at an LC0 instant. -/
def thetaClock (w : World) (r : Bytes) (t : Tracker) (now : Nat) : Int :=
  if thetaLc r t = 0 then now else lcAtInstant w (thetaLc r t) now

/-- θ at an LC0 instant, not taken modulo a turn: measured, interpolated or extrapolated (02 Table 2.10, R49). An encoder's is
interpolated from its last edge, never past the next count. -/
def thetaU (w : World) (k now : Nat) : Int :=
  let r := atRec w k
  let t := tracker w k
  if t.mode = .off then 0
  else if t.mode = .valid ∧ atMode r = 1 then
    let one : Int := (countSpan r 1).natAbs
    let span := angleSpan (moveRate r t now) ((now : Int) - (t.edgeAt.getD now : Int))
    countedU r t + max (-one) (min one span)
  else t.theta.toNat + angleSpan (moveRate r t now) (thetaClock w r t now - t.thetaAt)

/-- The angle on which crossings and passages are judged: the counted one of an encoder (02 R52). -/
def judgedU (w : World) (k now : Nat) : Int :=
  if (tracker w k).mode = .valid ∧ atMode (atRec w k) = 1 then countedU (atRec w k) (tracker w k) else thetaU w k now

/-- Where θ's travel was last brought up to date: the count of an encoder, else its anchor. -/
def anchorU (r : Bytes) (t : Tracker) : Int := if t.mode = .valid ∧ atMode r = 1 then countedU r t else t.theta.toNat

/-- The angle that tracker `k` has travelled, in either direction, up to an LC0 instant, ANGLE32 counts (02 R55, 06 R150). -/
def travelAt (w : World) (k now : Nat) : Int :=
  let r := atRec w k
  let t := tracker w k
  if t.mode = .off then t.odo else
    let d : Int := (thetaU w k now - anchorU r t).natAbs
    let before := if t.mode = .valid ∧ atMode r = 1 then decide (now < t.edgeAt.getD now) else decide (thetaClock w r t now < t.thetaAt)
    t.odo + (if before then -d else d)

/-- A change of what θ is measured by, at an LC0 instant: θ goes over to its new value the shorter way, and that is travel (02 R48). -/
def keepTravel (k now : Nat) (f : World → World) (w : World) : World :=
  let t := tracker w k
  let u := thetaU w k now
  let w' := f w
  let v := thetaU w' k now
  let v' := u + angleDiff (BitVec.ofInt 32 v) (BitVec.ofInt 32 u)
  let far : Int := (v' - anchorU (atRec w k) t).natAbs
  let rest : Int := (v - anchorU (atRec w' k) (tracker w' k)).natAbs
  onTracker k (fun x => { x with odo := t.odo + far - rest }) w'

/-- θ of tracker `k` now. -/
def thetaAt (w : World) (k : Nat) (frac : Nat := 0) : W32 := BitVec.ofInt 32 (thetaU w k (now16 w frac))

/-- ω of tracker `k` now. -/
def omegaNow (w : World) (k : Nat) (frac : Nat := 0) : W32 := omegaOf (atRec w k) (tracker w k) (now16 w frac)

/-- θ anchored at angle `u` as it stands at an LC0 instant, `odo` travelled; the boundary of the last tick keeps its distance, and a
passage counts from there. -/
def anchorAt (u odo : Int) (at_ : Int) (t : Tracker) : Tracker :=
  let th := BitVec.ofInt 32 u
  let shift : Int := th.toNat - u
  { t with theta := th, thetaAt := at_, tickU := t.tickU + shift, crossU := t.crossU + shift, fromU := th.toNat, armedU := [], odo := odo }

/-- θ held as it stands at an LC0 instant: extrapolation goes on from there. The count of an encoder in VALID holds its θ. -/
def anchorTheta (k now : Nat) (w : World) : World :=
  let r := atRec w k
  let t := tracker w k
  let u := thetaU w k now
  let c := thetaClock w r t now
  if t.mode = .valid ∧ atMode r = 1 then onTracker k (fun t => { t with theta := BitVec.ofInt 32 u, thetaAt := c }) w
  else onTracker k (anchorAt u (travelAt w k now) c) w

/-! ## Boundaries (02 R50, R51) -/

/-- The angle between two tick boundaries. -/
def stepSpan (r : Bytes) : Nat := 2 ^ 32 / atN r

/-- The angle of tick boundary `b` (02 R50). -/
def boundaryAngle (r : Bytes) (b : Nat) : W32 := atPhase r + BitVec.ofNat 32 (b * 2 ^ 32 / atN r)

/-- The boundary at or just behind an angle in the direction of motion (02 R51, R413), and how far behind it lies, signed. -/
def boundaryBehind (r : Bytes) (th : W32) (fwd : Bool) : Nat :=
  let off := (th - atPhase r).toNat
  if fwd then off / stepSpan r % atN r else (off + stepSpan r - 1) / stepSpan r % atN r
def leadBehind (r : Bytes) (th : W32) (fwd : Bool) : Int :=
  let off := (th - atPhase r).toNat % stepSpan r
  if fwd then off else -((stepSpan r - off) % stepSpan r : Nat)

/-- The boundary of the last tick taken as the one at or just behind the angle `u`. -/
def regrid (r : Bytes) (u : Int) (fwd : Bool) (t : Tracker) : Tracker :=
  let th := BitVec.ofInt 32 u
  { t with lastB := boundaryBehind r th fwd, tickU := u - leadBehind r th fwd, fromU := u, armedU := [] }

/-- A tick still delayed through a regrid is that of the boundary now just behind (02 R51, R413). -/
def regridDelayed (r : Bytes) (t : Tracker) : Tracker :=
  match t.delayed with
  | some (_, d) => { t with delayed := some (t.lastB, d), crossU := t.tickU, tickU := if d then t.tickU - stepSpan r else t.tickU + stepSpan r }
  | none => t

/-- The neighbour of a boundary in a direction. -/
def nextBoundary (r : Bytes) (b : Nat) (fwd : Bool) : Nat := if fwd then (b + 1) % atN r else (b + atN r - 1) % atN r

/-- Where that neighbour lies, of a boundary at `u`. -/
def nextU (r : Bytes) (u : Int) (fwd : Bool) : Int := if fwd then u + stepSpan r else u - stepSpan r

/-- One Nth of a turn at rate `om`, in 2^-16 ns rounded up: T_min at ω_max, the fallback interval at the fallback rate (02 R49, R51). -/
def interval16 (r : Bytes) (om : W32) : Nat :=
  let d := (rateNum om).natAbs * atN r
  (turnUnit + d - 1) / d

/-- A span of LC0 in 2^-16 ns is at least that interval. -/
def spanReaches (r : Bytes) (om : W32) (span : Int) : Bool := decide ((interval16 r om : Int) ≤ span)

/-- The LC0 instant at which θ, at its present motion, reaches an angle: the stamp of the edge on an encoder, else the instant
interpolated at ω; never later than now, and the anchor's where the motion does not lead there (02 R52). -/
def reachInstant (w : World) (k now : Nat) (target : Int) : Nat :=
  let r := atRec w k
  let t := tracker w k
  if t.mode = .valid ∧ atMode r = 1 then min now (t.edgeAt.getD now) else
    let c := t.thetaAt + ((spanTime (moveRate r t now) (target - t.theta.toNat)).getD 0)
    min now (if thetaLc r t = 0 then c.toNat else (lcInverse w (thetaLc r t) c).toNat)

/-! ## TICK pins (02 R53) -/

/-- TICK_OUT of pin `p`. -/
def tickOut (w : World) (p : Nat) : Nat := leNat (actObj w 0x2110 1 p)

/-- A pulse falls due on each enabled pin that the condition names, DELAY after the stamp. -/
def dueEdges (sel : Nat → Bool) (stamp : Nat) (w : World) : World :=
  eachW (upTo 4) (fun p w =>
    let o := tickOut w p
    if bit o 3 && sel o then
      let at_ := stamp + bits o 35 16 * 65536
      onMer (fun m => { m with edges := sUpd [] m.edges p (· ++ [at_]) }) w
    else w) w

/-- Level `on` of a TICK pin with polarity POL. -/
def pinLevel (o : Nat) (active : Bool) : PinLevel := if active != bit o 4 then .high else .low

/-- TICK pin `p` set. -/
def setTick (p : Nat) (l : PinLevel) (w : World) : World :=
  onDev (fun d => match p with
    | 0 => { d with tick0 := l }
    | 1 => { d with tick1 := l }
    | 2 => { d with tick2 := l }
    | _ => { d with tick3 := l }) w

/-- A TICK pin as a set that has just configured it holds it: inactive, no pulse due (02 R53). -/
def idlePin (p : Nat) (w : World) : World :=
  setTick p (if bit (tickOut w p) 3 then pinLevel (tickOut w p) false else .low)
    (onMer (fun m => { m with edges := sErase m.edges p, pulseEnd := sErase m.pulseEnd p }) w)

/-! ## Measurements of the stream modes (02 Table 2.10) -/

/-- A stream's value as an integer. -/
def streamInt (v : W32) (shift : Nat) : Int :=
  match val32 v with
  | .fin m e _ => if 0 ≤ e + shift then m * 2 ^ (e + shift).toNat else m / 2 ^ (-(e + shift)).toNat
  | _ => 0

/-- Every stream that the mode reads has had a sample since the last measurement. -/
def sampleComplete (r : Bytes) (t : Tracker) : Bool :=
  match atMode r with
  | 2 => t.newA && t.newB && t.newC
  | 3 => t.newA && (atAbsWidth r = 0 || t.newB)
  | _ => false

/-- The measurement of a complete sample: the streamed angle at its stamp less SRC_LATENCY with ω from successive ones, or a step of the
PLL. -/
def measured (r : Bytes) (now16 lc3 : Int) (t : Tracker) : Tracker :=
  let t' := { t with newA := false, newB := false, newC := false, freshRun := t.freshRun + 1 }
  if atMode r = 3 then
    let th := BitVec.ofInt 32 (if atAbsWidth r = 0 then streamInt t.srcA 16 else streamInt t.srcA 16 + streamInt t.srcB 0 % 65536)
    let at_ := lc3 - (fieldLe r 343 328 * 65536 : Nat)
    let dt := (at_ - t.mAt).toNat
    let om := if t.freshRun = 0 then 0 else if dt = 0 then t.mOmega
      else g32Ratio (angleDiff th t.mTheta * (1000000000 * 65536)) (2 ^ 32 * dt)
    { t' with mTheta := th, mOmega := om, mAt := at_ }
  else
    let (th, om, vq) := Config.gridPll (fieldLe r 295 280) t.mTheta t.mOmega t.srcA t.srcB t.srcC (now16 - t.mAt)
    { t' with mTheta := th, mOmega := om, mAt := now16, vq := vq }

/-- A VALID tracker takes a new measurement: θ goes over to it, the boundary of the last tick stays where it is. -/
def takeMeasured (k : Nat) (w : World) : World :=
  let r := atRec w k
  let t := tracker w k
  let u := thetaU w k (now16 w)
  let w := keepTravel k (now16 w) (onTracker k (fun t => { t with
    theta := dirAngle r t.mTheta, thetaAt := t.mAt, omega := dirRate r t.mOmega })) w
  let v := thetaU w k (now16 w)
  let shift := v - u - angleDiff (BitVec.ofInt 32 v) (BitVec.ofInt 32 u)
  onTracker k (fun x => { x with tickU := t.tickU + shift, crossU := t.crossU + shift, fromU := u + shift, armedU := [] }) w

/-- A finite value of a stream the tracker names. -/
def takeStream (r : Bytes) (s : Nat) (v : W32) (t : Tracker) : Tracker :=
  let a := atStreamA r == s
  let b := atStreamB r == s && (atMode r == 2 || atAbsWidth r == 1)
  let c := atStreamC r == s && atMode r == 2
  { t with srcA := if a then v else t.srcA, newA := t.newA || a, srcB := if b then v else t.srcB, newB := t.newB || b,
           srcC := if c then v else t.srcC, newC := t.newC || c }

/-- A delivered sample at a tracker. A value that is not finite is no fresh sample. -/
def trackerSample (k s : Nat) (v : W32) (w : World) : World :=
  let r := atRec w k
  if !(atMode r == 2 || atMode r == 3) || decide ((tracker w k).mode = .off) || !isFin32 v then w else
    let w := onTracker k (takeStream r s v) w
    if !sampleComplete r (tracker w k) then w else
      let w := onTracker k (measured r (now16 w) (lcNow w 3)) w
      if (tracker w k).mode = .valid then takeMeasured k w else w

/-- (2a - b - c)² + 3(b - c)², nine times the square of the space vector's magnitude (Clarke, amplitude invariant; log 92), in units of
2^-400. -/
def vector9 (t : Tracker) : Int :=
  let q := 2 * rateNum t.srcA - rateNum t.srcB - rateNum t.srcC
  let p := rateNum t.srcB - rateNum t.srcC
  q * q + 3 * (p * p)

/-- The space vector is at least V_MIN; |v_q| / |v| ≤ 0.05. -/
def vectorHigh (r : Bytes) (t : Tracker) : Bool :=
  let v := rateNum (pack32 false (unpackB16 (fieldLe r 311 296)).1).1
  decide (9 * (v * v) ≤ vector9 t)
def vqLocked (t : Tracker) : Bool := decide (3600 * (rateNum t.vq * rateNum t.vq) ≤ vector9 t)

/-! ## A tick (02 R50 to R53; 01 R20) -/

/-- Every stream the tracker reads has had a sample within SRC_TIMEOUT (02 Table 2.10). -/
def streamsFresh (w : World) (r : Bytes) : Bool :=
  let ok (s : Nat) := decide (nowNs w < (sGet {} w.trunks.streams s).lastArr + atTimeout r * 1000) && (sGet {} w.trunks.streams s).ever
  match atMode r with
  | 2 => ok (atStreamA r) && ok (atStreamB r) && ok (atStreamC r)
  | 3 => ok (atStreamA r) && (atAbsWidth r = 0 || ok (atStreamB r))
  | _ => true

/-- The source stands at an LC0 instant: edges or samples within SRC_TIMEOUT, the grid's vector not below V_MIN (02 Table 2.10). -/
def sourceGood (w : World) (k now : Nat) : Bool :=
  let r := atRec w k
  let t := tracker w k
  match atMode r with
  | 1 => (match t.edgeAt with | some te => decide (now < te + atTimeout r * 1000 * 65536) | none => false)
  | 2 => streamsFresh w r && vectorHigh r t
  | 3 => streamsFresh w r
  | _ => true

/-- Mode lock (02 Table 2.13). -/
def modeLock (r : Bytes) (t : Tracker) : Bool :=
  match atMode r with
  | 1 => decide (2 ≤ t.edgeRun) && (!atZEn r || t.zSeen)
  | 2 => vqLocked t
  | 3 => decide (2 ≤ t.freshRun)
  | _ => true

/-- ω as the source gives it. -/
def measuredOmega (r : Bytes) (t : Tracker) (now : Nat) : W32 :=
  if atMode r = 1 then (encoderOmega r t now).getD 0 else if atMode r = 4 then synRate r else dirRate r t.mOmega

/-- What must hold for RESUME_TICKS ticks: source, lock, and |ω| ≥ 1.0625 ω_min (02 Table 2.13). -/
def tickGood (w : World) (k now : Nat) : Bool :=
  let r := atRec w k
  let t := tracker w k
  atMode r == 4 || (sourceGood w k now && modeLock r t &&
    le32 ((mul32 (atOmegaMin r) 0x3F880000).1) (measuredOmega r t now &&& 0x7FFFFFFF))

/-- What AT_STATE, FRC_VALUE and LC_AT_BOUNDARY show of an LC0 instant (02 R57). -/
def timeSample (now : Nat) (w : World) : TimeSample :=
  { frcs := (upTo 4).map (fun n => (frc w.mer n * 65536 + now - now16 w) / 65536)
    lcs := (upTo 16).map (fun n => lcAtInstant w n now)
    trackers := w.mer.trackers
    angles := (upTo 8).map (fun k => (BitVec.ofInt 32 (thetaU w k now), omegaOf (atRec w k) (tracker w k) now)) }

/-- Tracker `k` as a boundary that changes it leaves it. -/
def resample (k : Nat) (w : World) : World :=
  match w.dev.boundaryDue with
  | some (lc0, _) =>
    let n := timeSample lc0 w
    onMer (fun m => { m with atBoundary := m.atBoundary.map (fun x => { x with
      trackers := updNth x.trackers k (fun _ => tracker w k), angles := updNth x.angles k (fun _ => nth (0, 0) n.angles k) }) }) w
  | none => w

/-- A SYNTHETIC tracker becomes VALID at its first tick, from the θ of that instant (02 Table 2.13). -/
def synValid (k stamp : Nat) (w : World) : World :=
  let r := atRec w k
  let w := anchorTheta k stamp w
  let w := onTracker k (fun t => { t with mode := .valid, wasValid := true, validOmega := synRate r, omega := synRate r }) w
  onTracker k (fun t => { t with thetaAt := thetaClock w r (tracker w k) stamp }) w

/-- A tick is produced at an LC0 instant: boundary, direction, stamp, count; TICK pins fall due; a tick of the epoch tracker is a tick
boundary, with what its epoch shows of it (02 R50, R53, R57; 01 R20). -/
def produceTick (k b : Nat) (u : Int) (fwd : Bool) (stamp : Nat) (w : World) : World :=
  let good := tickGood w k stamp
  let first := atMode (atRec w k) = 4 ∧ (tracker w k).mode = .acquiring
  let w := onTracker k (fun t => { t with
    tickCount := t.tickCount + 1, lastB := b, tickU := u, lastFwd := fwd, lastTickAt := stamp, delayed := none, sinceBack := false,
    goodTicks := if good then t.goodTicks + 1 else 0 }) w
  let w := if first then synValid k stamp w else w
  let count := (tracker w k).tickCount
  let w := dueEdges (fun o => bits o 2 0 = k && !bit o 5 && decide (count % 2 ^ bits o 9 6 = 0)) stamp w
  if k = epochTracker w && w.cfg.present then
    onMer (fun m => { m with atBoundary := some (timeSample stamp w) })
      (onDev (fun d => { d with boundaryDue := some (stamp, lcAtInstant w 3 stamp) }) w)
  else w

/-- θ has reached the neighbour of the boundary last crossed, in a direction (02 R50). -/
def hasReached (w : World) (k now : Nat) (fwd : Bool) : Bool :=
  let t := tracker w k
  let target := nextU (atRec w k) (if t.delayed.isSome then t.crossU else t.tickU) fwd
  if fwd then decide (target ≤ judgedU w k now) else decide (judgedU w k now ≤ target)

/-- The boundary that the next crossing in a direction is of. -/
def crossedB (r : Bytes) (t : Tracker) (fwd : Bool) : Nat :=
  if t.delayed.isSome then boundaryBehind r (BitVec.ofInt 32 (nextU r t.crossU fwd)) fwd else nextBoundary r t.lastB fwd

/-- A crossing: it produces its tick, or, sooner than T_min after the last, waits for it; a further one is skipped; one that comes too
soon after a switch-back passes without a tick (02 R50, R51). Whether a tick came is returned. -/
def crossing (k : Nat) (fwd : Bool) (frac : Nat) (w : World) : World × Bool :=
  let r := atRec w k
  let t := tracker w k
  let now := now16 w frac
  if t.mode ≠ .valid || !hasReached w k now fwd then (w, false)
  else if t.delayed.isSome then
    (onTracker k (fun t => { t with crossU := nextU r t.crossU fwd, skipped := t.skipped + 1 }) w, false)
  else
    let b := nextBoundary r t.lastB fwd
    let u := nextU r t.tickU fwd
    let stamp := reachInstant w k now u
    if spanReaches r (atOmegaMax r) ((stamp : Int) - t.lastTickAt) then (produceTick k b u fwd stamp w, true)
    else if t.sinceBack then (onTracker k (fun t => { t with lastB := b, tickU := u }) w, false)
    else (onTracker k (fun t => { t with delayed := some (b, fwd), crossU := u, overspeed := true, delays := t.delays + 1 }) w, false)

/-- The delayed tick, T_min after the last one: of the boundary whose crossing caused it, from which R50 goes on (02 R51). -/
def delayedTick (k : Nat) (frac : Nat) (w : World) : World × Bool :=
  let r := atRec w k
  let t := tracker w k
  let stamp := t.lastTickAt + interval16 r (atOmegaMax r)
  match t.delayed with
  | some (b, fwd) =>
    if t.mode = .off || decide (now16 w frac < stamp) then (w, false)
    else (produceTick k b (nextU r t.tickU fwd) fwd stamp w, true)
  | none => (w, false)

/-- The fallback generator runs (02 Table 2.12). -/
def fallbackRuns (t : Tracker) : Bool :=
  match t.mode with
  | .acquiring | .fallback => true
  | _ => false

/-- The instant of the next fallback tick: one fallback interval after the last tick, and not before θ's anchor (02 R49). -/
def fallbackStamp (r : Bytes) (t : Tracker) : Nat := max (t.lastTickAt + interval16 r (fallbackRate r t)) t.thetaAt.toNat

/-- A tick of the fallback generator. A delayed tick still due comes before it. -/
def fallbackTick (k : Nat) (frac : Nat) (w : World) : World × Bool :=
  let r := atRec w k
  let t := tracker w k
  let fwd := !(fallbackRate r t).getLsbD 31
  if fallbackRuns t && t.delayed.isNone && decide (fallbackStamp r t ≤ now16 w frac) then
    (produceTick k (nextBoundary r t.lastB fwd) (nextU r t.tickU fwd) fwd (fallbackStamp r t) w, true)
  else (w, false)

/-- A tracker whose counters alone are kept. -/
def resetTracker (t : Tracker) : Tracker :=
  { switches := t.switches, delays := t.delays, skipped := t.skipped, zMismatches := t.zMismatches, odo := t.odo }

/-- A change out of FALLBACK is counted, recorded and marked (02 R48). -/
def leaveFallback (k : Nat) (was : AtMode) (w : World) : World :=
  if was = .fallback then
    record 0x04 4 0x2100 k (onDev (fun d => { d with pendFallback := true })
      (onTracker k (fun t => { t with switches := t.switches + 1, switched := true }) w))
  else w

/-- A tracker enters FALLBACK: counted, recorded, marked in the epoch; after a loss of the source the edges count afresh (02 R48, R49,
R417). -/
def enterFallback (k : Nat) (lost : Bool) (w : World) : World :=
  let om := omegaNow w k
  let u := thetaU w k (now16 w)
  let odo := travelAt w k (now16 w)
  let w := onTracker k (fun t => anchorAt u odo (now16 w) { t with
    mode := .fallback, validOmega := om, switches := t.switches + 1, switched := true, goodTicks := 0,
    edgeAt := if lost then none else t.edgeAt, edgeGap := if lost then none else t.edgeGap,
    edgeRun := if lost then 0 else t.edgeRun, freshRun := if lost then 0 else t.freshRun }) w
  record 0x04 4 0x2100 k (onDev (fun d => { d with pendFallback := true }) w)

/-- A tracker takes the measured θ and is VALID again (02 R48, R51). -/
def enterValid (k frac : Nat) (w : World) : World :=
  let r := atRec w k
  let was := (tracker w k).mode
  let now := now16 w frac
  let om := measuredOmega r (tracker w k) now
  let w := keepTravel k now (onTracker k (fun t => { t with
    mode := .valid, theta := if atMode r = 1 then countedTheta r t else dirAngle r t.mTheta,
    thetaAt := if atMode r = 1 then now else t.mAt, omega := om, validOmega := om, wasValid := true,
    goodTicks := 0, zAligned := false, sinceBack := true })) w
  leaveFallback k was (onTracker k (regrid r (judgedU w k now) (!om.getLsbD 31)) w)

/-- What takes a VALID tracker to FALLBACK: |ω| below ω_min, or the source lost; that A and B of an encoder changed together only the
filter has seen (02 Tables 2.10 and 2.13). A SYNTHETIC tracker never falls back. -/
def mustFallBack (w : World) (k : Nat) (together : Bool) : Bool :=
  let r := atRec w k
  decide ((tracker w k).mode = .valid) && atMode r != 4 &&
  (lt32 (omegaNow w k &&& 0x7FFFFFFF) (atOmegaMin r) || !sourceGood w k (now16 w) || (atMode r == 1 && together))

/-! ## Events (02 R414) -/

/-- Entry `e` of the event list of tracker `k` in a set (02 Table 2.14). -/
def eventEntry (set : Store Bytes) (k e : Nat) : Nat := leNat (slice (objIn set 0x2102 0 k) (8 * e) 8)

/-- The entry's DIR enables a direction. -/
def eventDir (e : Nat) (fwd : Bool) : Bool := bit e (if fwd then 56 else 57)

/-- How many times an angle lies at or below `u`. -/
def turnsPast (a : W32) (u : Int) : Int := (u - a.toNat) / 2 ^ 32

/-- θ has passed the angle of entry `e` in a direction since its passages count, up to an LC0 instant (02 R414). -/
def passed (w : World) (k e : Nat) (fwd : Bool) (now : Nat) : Bool :=
  let a := BitVec.ofNat 32 (bits (eventEntry w.cfg.active k e) 31 0)
  let n0 := turnsPast a ((sFind (tracker w k).armedU e).getD (tracker w k).fromU)
  let n1 := turnsPast a (judgedU w k now)
  if fwd then decide (n0 < n1) else decide (n1 < n0)

/-- The instant of that passage. -/
def passInstant (w : World) (k e : Nat) (fwd : Bool) (now : Nat) : Nat :=
  let a := BitVec.ofNat 32 (bits (eventEntry w.cfg.active k e) 31 0)
  let n0 := turnsPast a ((sFind (tracker w k).armedU e).getD (tracker w k).fromU)
  reachInstant w k now (a.toNat + (if fwd then n0 + 1 else n0) * 2 ^ 32)

/-! ## A SWAP (02 R413, R414) -/

/-- The fields of a record that bind in its mode among the source fields; the streams bind in every mode (02 R47, R413). -/
def sourceFields (r : Bytes) : List Nat :=
  [atMode r, b2n (atDir r), atStreamA r, atStreamB r, atStreamC r] ++
  match atMode r with
  | 1 => [atEnc r, atLines r, atScale r, b2n (atZEn r)]
  | 3 => [atAbsWidth r]
  | 4 => [atLcSel r]
  | _ => []

/-- Events that stay disarmed through a SWAP: entries carried unchanged on a tracker that was not OFF (02 R414). -/
def keptDisarmed (old new : Store Bytes) (k : Nat) (t : Tracker) : List Nat :=
  if t.mode = .off then [] else t.disarmed.filter (fun e => eventEntry old k e == eventEntry new k e)

/-- One tracker at a SWAP at an LC0 instant, after the incoming set stands in the active one; its θ stands anchored at that instant under
the outgoing record (02 R413). -/
def swapTracker (old : Store Bytes) (hadSet : Bool) (now k : Nat) (w : World) : World :=
  let r0 := objIn old 0x2100 0 k
  let r := atRec w k
  let t := tracker w k
  let gone := !hadSet || atMode r0 = 0 || t.mode = .off
  let dis := keptDisarmed old w.cfg.active k t
  let fwd := !(omegaOf r0 t now).getLsbD 31
  let odo := t.odo + (if t.mode = .valid ∧ atMode r0 = 1 then ((angleDiff t.theta (countedTheta r0 t)).natAbs : Int) else 0)
  let w := if atMode r = 0 then leaveFallback k t.mode (onTracker k (fun t => { resetTracker t with odo := odo }) w)
    else if gone then
      onTracker k (fun t => { resetTracker t with
        mode := .acquiring, base := atPhase r, theta := atPhase r, thetaAt := now, lastTickAt := now,
        tickU := (atPhase r).toNat, fromU := (atPhase r).toNat, odo := odo }) w
    else if sourceFields r0 = sourceFields r then
      onTracker k (fun t => { regridDelayed r (regrid r (judgedU w k now) fwd t) with disarmed := dis }) w
    else
      let th := t.theta
      leaveFallback k t.mode (onTracker k (fun t => { regrid r th.toNat fwd t with
        mode := .acquiring, base := th, count := 0, thetaAt := now, wasValid := false, goodTicks := 0, delayed := none, sinceBack := false,
        edgeAt := none, edgeGap := none, edgeRun := 0, zSeen := false, zAligned := false, freshRun := 0,
        newA := false, newB := false, newC := false, disarmed := dis, odo := odo }) w)
  resample k w

/-- Every tracker taken to the incoming set. θ is held at the SWAP instant, under the outgoing record, by the caller. -/
def swapTrackers (old : Store Bytes) (hadSet : Bool) (now : Nat) (w : World) : World :=
  eachW (upTo 8) (swapTracker old hadSet now) w

end Sys2Proof.Machine
end

