-- ==== Sys2Proof/Machine/Sync.lean ====
section
/-! DEFINITION. Synchronisation objects with their token ledger, the fields of PARTITION_RECORD, a partition's serving
context, and how a teardown begins (09 R236, R252, Table 9.1; 12 Table 12.3). -/

namespace Sys2Proof.Machine

/-! ## PARTITION_RECORD (09 Table 9.1) -/

/-- The record of partition `p` in a set. -/
def partRec (set : Store Bytes) (p : Nat) : Bytes := objIn set 0x3000 0 p
def pSyncBase (r : Bytes) : Nat := fieldLe r 575 561
def pSyncCount (r : Bytes) : Nat := fieldLe r 560 545
def pMode (r : Bytes) : Nat := fieldLe r 509 508
def pPriority (r : Bytes) : Nat := fieldLe r 507 500
def pFaultLimit (r : Bytes) : Nat := fieldLe r 499 492
def pMaxBatch (r : Bytes) : Nat := fieldLe r 491 483
def pSpread (r : Bytes) : Nat := fieldLe r 482 481 + 1
def pAttTiles (r : Bytes) : Nat := fieldLe r 480 476 + 1
def pModel (r : Bytes) (i : Nat) : Nat := fieldLe r (412 + 8 * i + 7) (412 + 8 * i)
def pNModels (r : Bytes) : Nat := fieldLe r 411 408
def pRegimeEn (r : Bytes) : Bool := fieldLe r 407 407 == 1
def pRegimeTemplate (r : Bytes) : Nat := fieldLe r 406 395
def pRegimeElem (r : Bytes) : Nat := fieldLe r 394 379
def pShare (r : Bytes) : Nat := fieldLe r 378 372
def pStepLimit (r : Bytes) : Nat := fieldLe r 371 340
def pStallBound (r : Bytes) : Nat := fieldLe r 339 319
def pSlice (r : Bytes) : Nat := fieldLe r 318 303 * 256
def pWinSlots (r : Bytes) : Nat := fieldLe r 302 295
def pCodeLen (r : Bytes) : Nat := fieldLe r 294 284
def pShareLen (r : Bytes) : Nat := fieldLe r 283 270
def pShareBase (r : Bytes) : Nat := fieldLe r 269 256
def pCtxOf (r : Bytes) (tile : Nat) : Nat := fieldLe r (128 + tile) (128 + tile)
def pHasTile (r : Bytes) (tile : Nat) : Bool := fieldLe r tile tile == 1

/-- The tiles of a partition, rising. -/
def pTiles (r : Bytes) : List Nat := (upTo 128).filter (pHasTile r)

/-- The dies of a partition, rising. -/
def pDies (r : Bytes) : List Nat := (upTo 4).filter (fun d => (pTiles r).any (fun t => t / 32 = d))

/-- The partition is in the set with MODE SERVE or RESERVE. -/
def pInSet (set : Store Bytes) (p : Nat) : Bool := hasObj set 0x3000 0 p && pMode (partRec set p) ≠ 0

/-- The record of partition `p` in the active set. -/
def actPart (w : World) (p : Nat) : Bytes := partRec w.cfg.active p

/-- Partition `p` at run time. -/
def part (w : World) (p : Nat) : Part := sGet {} w.serving.parts p
def onPart (p : Nat) (f : Part → Part) (w : World) : World := onServing (fun s => { s with parts := sUpd {} s.parts p f }) w

/-- The code of a partition state (09 Table 9.2). -/
def partCode : PartMode → Nat
  | .off => 0 | .loading => 1 | .idle => 2 | .stepping => 3 | .teardown => 4 | .halted => 5 | .reservedIdle => 6

/-! ## Contexts -/

/-- The key of a hardware context: tile × 2 + context. -/
def ctxKey (tile ctx : Nat) : Nat := tile * 2 + ctx
def ctxAt (w : World) (key : Nat) : Ctx := sGet {} w.tiles.ctxs key
def onCtx (key : Nat) (f : Ctx → Ctx) (w : World) : World := onTiles (fun t => { t with ctxs := sUpd {} t.ctxs key f }) w

/-- The contexts of a partition's serving context, as keys. -/
def pCtxs (r : Bytes) : List Nat := (pTiles r).map (fun t => ctxKey t (pCtxOf r t))

/-! ## Synchronisation objects (01 R18; 12 Table 12.3) -/

/-- The ledger of an object: its partition's, or 32. -/
def syncLedgerOf (w : World) (obj : Nat) : Nat :=
  ((upTo 32).find? (fun p => pInSet w.cfg.active p && pSyncBase (actPart w p) ≤ obj &&
    obj < pSyncBase (actPart w p) + pSyncCount (actPart w p))).getD 32

/-- One synchronisation ledger changed. -/
def onSyncLedger (l : Nat) (f : SyncLedger → SyncLedger) (w : World) : World :=
  onCont (fun c => { c with sync := sUpd {} c.sync l f }) w

/-- Tokens an object holds. -/
def syncCount (w : World) (obj : Nat) : Nat := sGet 0 w.tiles.sync obj

/-- One token taken, where the object holds one. -/
def takeSync (obj : Nat) (w : World) : World :=
  if syncCount w obj = 0 then w else
    onSyncLedger (syncLedgerOf w obj) (fun l => { l with waited := l.waited + 1 })
      (onTiles (fun t => { t with sync := sUpd 0 t.sync obj (· - 1) }) w)

/-- A context that runs and may issue: in a step, not stopped by a fault, a teardown or STEP_END. -/
def ctxLive (c : Ctx) : Bool := c.running && !c.stopped && !c.atEnd

/-- A context waiting in SWAIT for the object takes its token; the lowest tile and context first (log 17). -/
def wakeSync (obj : Nat) (w : World) : World :=
  if syncCount w obj = 0 then w else
    match w.tiles.ctxs.find? (fun e => ctxLive e.2 && decide (e.2.wait = .sync obj)) with
    | some (k, _) => onCtx k (fun c => { c with wait := .none, pc := c.pc + 1 }) (takeSync obj w)
    | none => w

/-- One token posted; a context that waits for the object takes it. -/
def postSync (obj : Nat) (w : World) : World :=
  wakeSync obj (onSyncLedger (syncLedgerOf w obj) (fun l => { l with posted := l.posted + 1 })
    (onTiles (fun t => { t with sync := sUpd 0 t.sync obj (· + 1) }) w))

/-- An object emptied, its tokens counted WITHDRAWN or LOST (09 Table 9.5, 12 Table 12.1). -/
def emptySync (lost : Bool) (obj : Nat) (w : World) : World :=
  let n := syncCount w obj
  onSyncLedger (syncLedgerOf w obj)
    (fun l => if lost then { l with lost := l.lost + n } else { l with withdrawn := l.withdrawn + n })
    (onTiles (fun t => { t with sync := sErase t.sync obj }) w)

/-- The objects that hold tokens in a range. -/
def heldObjects (w : World) (base count : Nat) : List Nat :=
  (w.tiles.sync.map (·.1)).filter (fun o => base ≤ o && o < base + count)

/-! ## Teardown (09 R252, Table 9.5) -/

/-- A teardown begins: the partition is in TEARDOWN and issue stops in every context of it. -/
def beginTeardown (p cause reason : Nat) (w : World) : World :=
  match (part w p).mode with
  | .off | .teardown | .halted => w
  | _ =>
    let w := onPart p (fun q => { q with mode := .teardown, cause := cause, reason := reason }) w
    eachW (pCtxs (actPart w p)) (fun k => onCtx k (fun c => { c with stopped := true, running := false })) w

/-- A context fault: issue stops, LAST_FAULT is kept, the partition is torn down (04 R102). -/
def contextFault (key reason : Nat) (w : World) : World :=
  let c := ctxAt w key
  let w := onCtx key (fun c => { c with stopped := true, running := false, faults := c.faults + 1,
                                        faultReason := reason, faultPc := c.pc, faultEpoch := w.dev.epoch }) w
  let w := record 0x30 (key / 64) 0x7103 key w
  match c.part with
  | some p => beginTeardown p 1 reason w
  | none => w

end Sys2Proof.Machine
end

