-- ==== Sys2Proof/Machine/BasaltDesc.lean ====
section
/-! DEFINITION. The Basalt command descriptor: its fields (05 Table 5.2), the storage forms and items (05 Tables 5.1 and 5.4),
the checks of R121, and the cycle bounds of 05 Table 5.11. -/

namespace Sys2Proof.Machine

/-! ## Fields (05 Table 5.2) -/

def bOp (d : BitVec 512) : Nat := bits d.toNat 511 504
def bTag (d : BitVec 512) : Nat := bits d.toNat 503 496
def bTemplate (d : BitVec 512) : Nat := bits d.toNat 495 480
def bBatch (d : BitVec 512) : Nat := bits d.toNat 479 471
def bN (d : BitVec 512) : Nat := bits d.toNat 470 464
def bM (d : BitVec 512) : Nat := bits d.toNat 463 456
def bK (d : BitVec 512) : Nat := bits d.toNat 455 449
def bCap (d : BitVec 512) : Nat := bits d.toNat 448 441
def bQA (d : BitVec 512) : Nat := bits d.toNat 440 436
def bQB (d : BitVec 512) : Nat := bits d.toNat 435 431
def bQL (d : BitVec 512) : Nat := bits d.toNat 430 426
def bQX (d : BitVec 512) : Nat := bits d.toNat 425 421
def bQR (d : BitVec 512) : Nat := bits d.toNat 420 416
def bMode (d : BitVec 512) : Nat := bits d.toNat 415 412
def bChain (d : BitVec 512) : Bool := bit d.toNat 411
def bWarm (d : BitVec 512) : Bool := bit d.toNat 410
def bTransA (d : BitVec 512) : Bool := bit d.toNat 409
def bAsym (d : BitVec 512) : Bool := bit d.toNat 408
def bAcc (d : BitVec 512) : Bool := bit d.toNat 407
def bNeg (d : BitVec 512) : Bool := bit d.toNat 406
def bInstBase (d : BitVec 512) : Nat := bits d.toNat 402 390
def bInstStride (d : BitVec 512) : Nat := bits d.toNat 389 377
def bResBase (d : BitVec 512) : Nat := bits d.toNat 376 364
def bResStride (d : BitVec 512) : Nat := bits d.toNat 363 351
/-- OFF`i`: whether it selects the result block, and the word within the block. -/
def bOff (d : BitVec 512) (i : Nat) : Bool × Nat :=
  let v := bits d.toNat (350 - 14 * i) (337 - 14 * i)
  (bit v 13, v % 8192)
def bPostEn (d : BitVec 512) : Bool := bit d.toNat 238
def bSyncObj (d : BitVec 512) : Nat := bits d.toNat 237 223
def bTau (d : BitVec 512) : Int := signed 32 (bits d.toNat 191 160)
def bDelta (d : BitVec 512) : Int := signed 32 (bits d.toNat 159 128)
def bTol (d : BitVec 512) : Int := signed 32 (bits d.toNat 127 96)
def bSig (d : BitVec 512) : Nat := bits d.toNat 95 32

/-! ## Storage forms and items (05 Tables 5.1, 5.4 and 5.8) -/

def ceilDiv (a b : Nat) : Nat := (a + b - 1) / b
def wP (n : Nat) : Nat := ceilDiv (n * (n + 1)) 16
def wD (r c : Nat) : Nat := r * ceilDiv c 8
def wV (n k : Nat) : Nat := k * ceilDiv n 8
def wPiv (n : Nat) : Nat := ceilDiv n 32

/-- KFUP's time part and measurement part are run. -/
def kTime (d : BitVec 512) : Bool := bMode d % 2 = 1
def kMeas (d : BitVec 512) : Bool := decide (2 ≤ bMode d)

/-- The items of KFUP's packages with their sizes, in order: x, c, S, F, Sq, H, Sr, z; output x⁺, S⁺, ν, Se. -/
def kIn (d : BitVec 512) : List Nat :=
  let n := bN d
  let m := bM d
  (if kTime d then [wV n 1, wV n 1, wP n, wD n n, wP n] else [wV n 1, wP n]) ++
  (if kMeas d then [wD m n, wP m, wV m 1] else [])
def kOut (d : BitVec 512) : List Nat :=
  [wV (bN d) 1, wP (bN d)] ++ (if kMeas d then [wV (bM d) 1, wP (bM d)] else [])

/-- The items an opcode uses: offset number, size in words (05 Table 5.4). -/
def bItems (d : BitVec 512) : List (Nat × Nat) :=
  let n := bN d
  let m := bM d
  let k := bK d
  (match bOp d with
   | 1 | 2 => [(0, wP n), (1, wP n)]
   | 3 => [(0, wD m n), (1, wP n)] ++ (if k = 0 then [] else [(2, wV m k), (3, wV n k)])
   | 4 => [(0, wD n n), (1, wD n n), (2, wPiv n)]
   | 5 => [(0, if 5 ≤ bMode d then wD n n else wP n)] ++ (if bMode d = 5 then [(1, wPiv n)] else []) ++ [(2, wV n k), (3, wV n k)]
   | 6 => [(0, if bAsym d then wP n else if bTransA d then wD n m else wD m n), (1, wV n k), (2, wV m k)]
   | 7 => [(0, if bMode d = 2 then wD n n else wP n), (1, if bMode d = 2 then wD n n else wP n)] ++
          (if bMode d = 2 then [(2, wPiv n)] else []) ++ [(3, wV n k), (4, wV n k)] ++
          (if bWarm d then [(5, 1 + wV n k)] else [])
   | 8 => [(0, (kIn d).sum), (1, (kOut d).sum)]
   | 9 => [(0, wP n), (1, wV n 1), (2, wV n 1), (3, wV n 1), (4, wV n 1)] ++
          (if bWarm d then [(5, 1 + wV n 1)] else []) ++ [(6, wP n + wV n 2)]
   | _ => []) ++ [(7, 1)]

/-- Offsets that name outputs (05 Table 5.4). -/
def bOuts (op : Nat) : List Nat :=
  match op with
  | 1 | 2 | 8 => [1]
  | 3 => [1, 3]
  | 4 => [1, 2]
  | 5 => [3]
  | 6 => [2]
  | 7 => [4]
  | 9 => [4, 6]
  | _ => []

/-- The output may stand exactly on the input (05 Table 5.4 "in place allowed"). -/
def inPlace (op a b : Nat) : Bool :=
  match op with
  | 1 | 2 | 4 => a == 0 && b == 1
  | 5 => a == 2 && b == 3
  | _ => false

/-- Words of a block: its stride, or with stride 0 up to the last word of its items (05 R121). -/
def blockLen (d : BitVec 512) (res : Bool) : Nat :=
  let st := if res then bResStride d else bInstStride d
  if st ≠ 0 then st else
    (bItems d).foldl (fun a it => if (bOff d it.1).1 == res then max a ((bOff d it.1).2 + it.2) else a) 0

/-- First word of instance `i`'s block. -/
def blockBase (d : BitVec 512) (res : Bool) (i : Nat) : Nat :=
  if res then bResBase d + i * bResStride d else bInstBase d + i * bInstStride d

/-- The region a descriptor's blocks of one kind take: first word, words (05 R117). -/
def region (d : BitVec 512) (res : Bool) : Nat × Nat :=
  (blockBase d res 0, (bBatch d - 1) * (if res then bResStride d else bInstStride d) + blockLen d res)

/-! ## Checks (05 R120, R121, Table 5.3) -/

/-- Shapes by opcode (05 Table 5.3). -/
def limitsOk (d : BitVec 512) : Bool :=
  let n := bN d
  let m := bM d
  let k := bK d
  let c := bCap d
  match bOp d with
  | 1 | 2 | 4 => m == 0 && k == 0 && c == 0
  | 3 => decide (n ≤ m) && decide (m ≤ 192) && decide (k ≤ 96) && c == 0
  | 5 => m == 0 && decide (1 ≤ k) && decide (k ≤ 96) && c == 0
  | 6 => decide (1 ≤ m) && decide (m ≤ 192) && decide (1 ≤ k) && decide (k ≤ 96) && c == 0 && (!bAsym d || m == n)
  | 7 => m == 0 && decide (1 ≤ k) && decide (k ≤ 96) && decide (1 ≤ c)
  | 8 => (if bMode d = 1 then m == 0 else decide (1 ≤ m) && decide (m ≤ 95) && decide (m + n ≤ 96)) && k == 0 && c == 0
  | 9 => m == 0 && k == 0 && decide (1 ≤ c)
  | _ => false

/-- MODE by opcode. -/
def modeOk (d : BitVec 512) : Bool :=
  match bOp d with
  | 5 => decide (bMode d ≤ 6)
  | 7 => decide (bMode d ≤ 2)
  | 8 => decide (1 ≤ bMode d) && decide (bMode d ≤ 3)
  | _ => bMode d == 0

/-- The q fields that Table 5.5 leaves unused are zero. -/
def qOk (d : BitVec 512) : Bool :=
  let z (used : Bool) (q : Nat) := used || q == 0
  let (a, b, l, x, r) : Bool × Bool × Bool × Bool × Bool := match bOp d with
    | 1 | 2 | 4 => (true, false, true, false, true)
    | 3 => (true, true, true, false, true)
    | 6 => (true, true, false, true, false)
    | _ => (true, true, true, true, true)
  z a (bQA d) && z b (bQB d) && z l (bQL d) && z x (bQX d) && z r (bQR d)

/-- Two spans have a word in common. -/
def spansMeet (a b : Nat × Nat) : Bool := decide (a.1 < b.1 + b.2) && decide (b.1 < a.1 + a.2)

/-- No two items overlap but an output set exactly on an input where Table 5.4 permits. -/
def itemsOk (d : BitVec 512) : Bool :=
  let it := bItems d
  it.all (fun a => it.all (fun b =>
    let oa := bOff d a.1
    let ob := bOff d b.1
    !(decide (a.1 < b.1) && oa.1 == ob.1 && spansMeet (oa.2, a.2) (ob.2, b.2)) ||
      (inPlace (bOp d) a.1 b.1 && oa.2 == ob.2 && a.2 == b.2)))

/-- No two blocks overlap: those of a kind are a stride apart, a stride of 0 serving one block alone, and none meets one of the other
kind. -/
def blocksOk (d : BitVec 512) : Bool :=
  let il := blockLen d false
  let rl := blockLen d true
  let apart (st : Nat) : Bool := bBatch d == 1 || decide (0 < st)
  apart (bInstStride d) && apart (bResStride d) &&
  (upTo (bBatch d)).all (fun i => (upTo (bBatch d)).all (fun j =>
    il == 0 || rl == 0 || !spansMeet (blockBase d false i, il) (blockBase d true j, rl)))

/-- The engine accepts the descriptor (05 R12, R120, R121). -/
def bDescOk (d : BitVec 512) : Bool :=
  let op := bOp d
  let it := bItems d
  decide (1 ≤ op) && decide (op ≤ 9) && decide (1 ≤ bBatch d) && decide (bBatch d ≤ 256) &&
  decide (1 ≤ bN d) && decide (bN d ≤ 96) && decide (bTemplate d < 4096) && limitsOk d && modeOk d && qOk d &&
  bits d.toNat 405 403 == 0 && bits d.toNat 222 192 == 0 && bits d.toNat 31 0 == 0 &&
  (if op = 6 then decide (bTau d = 0) else decide (0 < bTau d)) &&
  (if op = 1 ∨ op = 2 ∨ op = 9 then decide (0 ≤ bDelta d) else decide (bDelta d = 0)) &&
  (if op = 7 ∨ op = 9 then decide (0 ≤ bTol d) else decide (bTol d = 0) && !bWarm d) &&
  (op == 6 || bits d.toNat 409 406 == 0) &&
  (upTo 7).all (fun i => (it.map (·.1)).contains i || decide (bOff d i = (false, 0))) &&
  (bOff d 7).1 &&
  it.all (fun a => let o := bOff d a.1; decide (o.2 + a.2 ≤ blockLen d o.1)) &&
  decide ((region d false).1 + (region d false).2 ≤ 8192) && decide ((region d true).1 + (region d true).2 ≤ 8192) &&
  itemsOk d && blocksOk d

/-! ## Cycle bounds (05 Table 5.11) -/

def cycChol (b n : Nat) : Nat := 40 + 18 * n + b * max (ceilDiv (n ^ 3) 768) n
def cycTri (b n k : Nat) : Nat := 20 + 6 * n + b * max (ceilDiv (k * n ^ 2) 512) n
def cycQr (b m n k : Nat) : Nat := 60 + 30 * n + b * max (ceilDiv (3 * m * n ^ 2 + 6 * m * n * k - n ^ 3) 768) (3 * n)
def cycMul (b m n k : Nat) : Nat := 20 + 2 * n + b * max (ceilDiv (m * n * k) 256) m

/-- The bound of a descriptor with `it` iterations (05 R141). -/
def cycBound (d : BitVec 512) (it : Nat) : Nat :=
  let b := bBatch d
  let n := bN d
  let m := bM d
  let k := bK d
  match bOp d with
  | 1 => cycChol b n
  | 2 => cycChol b n + 2 * n
  | 3 => cycQr b m n k
  | 4 => 40 + 24 * n + b * max (ceilDiv (n ^ 3) 384) (2 * n)
  | 5 => cycTri b n k
  | 6 => cycMul b m n k
  | 7 => 40 + cycMul b n n k + it * ((if bMode d = 1 then 3 else 2) * cycTri b n k + cycMul b n n k + 4 * n * b)
  | 8 =>
    40 + (if kTime d then cycMul b n n n + cycQr b (2 * n) n 0 + cycMul b n n 1 + 2 * n * b else 0) +
    (if kMeas d then cycMul b m n n + cycMul b m n 1 + cycQr b (m + n) (m + n) 0 + cycTri b m 1 + cycMul b n m 1 + 2 * (m + n) * b else 0)
  | _ => 60 * b + it * (cycChol b n + 2 * cycTri b n 1 + 12 * n * b)

/-! ## A template's chain (06 Table 6.1, R148) -/

/-- Fields of TEMPLATE_RECORD. -/
def tRec (set : Store Bytes) (t : Nat) : Bytes := objIn set 0x4100 0 t
def tSignature (r : Bytes) : Nat := fieldLe r 511 448
def tDepEn (r : Bytes) : Bool := fieldLe r 447 447 == 1
def tDep (r : Bytes) : Nat := fieldLe r 446 435
def tEngine (r : Bytes) : Nat := fieldLe r 434 430
def tBatch (r : Bytes) : Nat := fieldLe r 429 421
def tChainLen (r : Bytes) : Nat := fieldLe r 420 417
def tSlots (r : Bytes) : Nat := fieldLe r 416 405
def tRoutes (r : Bytes) : Nat := fieldLe r 404 397
def tTracker (r : Bytes) : Nat := fieldLe r 396 394
def tRelKind (r : Bytes) : Nat := fieldLe r 393 393
def tRelDiv (r : Bytes) : Nat := fieldLe r 392 389
def tRelPhase (r : Bytes) : Nat := fieldLe r 388 377
def tDeadline (r : Bytes) : Nat := fieldLe r 376 345
def tAsmLatest (r : Bytes) : Nat := fieldLe r 344 313
def tImgBase (r : Bytes) : Nat := fieldLe r 312 300
def tImgStride (r : Bytes) : Nat := fieldLe r 299 287
def tCopyDst (r : Bytes) : Nat := fieldLe r 286 274
def tCopyWords (r : Bytes) : Nat := fieldLe r 273 261
def tBuffers (r : Bytes) : Nat := fieldLe r 260 260
def tAltInst (r : Bytes) : Nat := fieldLe r 259 247
def tAltRes (r : Bytes) : Nat := fieldLe r 246 234
def tWarmSrc (r : Bytes) : Nat := fieldLe r 233 232
def tOvfAction (r : Bytes) : Nat := fieldLe r 231 231
def tCritical (r : Bytes) : Bool := fieldLe r 230 230 == 1
def tPriority (r : Bytes) : Nat := fieldLe r 229 222
def tMissAlarm (r : Bytes) : Nat := fieldLe r 221 214
def tPartner (r : Bytes) : Nat := fieldLe r 213 209

/-- Descriptor `i` of a template's chain in a set. -/
def tDesc (set : Store Bytes) (t i : Nat) : BitVec 512 := BitVec.ofNat 512 (leNat (slice (objIn set 0x4102 0 t) (64 * i) 64))

/-- The chain of a template in a set. -/
def tChain (set : Store Bytes) (t : Nat) : List (BitVec 512) := (upTo (tChainLen (tRec set t))).map (tDesc set t)

/-- A descriptor with the bases of a buffer (06 R148). -/
def rebase (r : Bytes) (first : BitVec 512) (buffer : Nat) (d : BitVec 512) : BitVec 512 :=
  if buffer = 0 then d else
    let i : Int := (bInstBase d : Int) + (tAltInst r : Int) - (bInstBase first : Int)
    let q : Int := (bResBase d : Int) + (tAltRes r : Int) - (bResBase first : Int)
    BitVec.ofNat 512 (setBits (setBits d.toNat 402 390 (unsigned 13 i)) 376 364 (unsigned 13 q))

/-- The chain as it is enqueued for a buffer. -/
def bufferChain (set : Store Bytes) (t buffer : Nat) : List (BitVec 512) :=
  let c := tChain set t
  c.map (rebase (tRec set t) (nth 0 c 0) buffer)

/-- The q of the output item of a descriptor that holds element `e` of its result block (05 Table 5.5, 06 R164). -/
def outQ (d : BitVec 512) (e : Nat) : Option Nat :=
  (bOuts (bOp d)).findSome? (fun i =>
    let (res, w) := bOff d i
    let size := (((bItems d).find? (fun it => it.1 = i)).map (·.2)).getD 0
    if res && decide (w * 8 ≤ e) && decide (e < (w + size) * 8) then
      let k := e - w * 8
      some (match bOp d, i with
        | 2, _ =>
          if (upTo (bN d)).any (fun r => r * (r + 1) / 2 + r = k) then bQA d else bQL d
        | 8, _ =>
          let sizes := kOut d
          let x := nth 0 sizes 0 * 8
          let s := x + nth 0 sizes 1 * 8
          let v := s + nth 0 sizes 2 * 8
          if k < x then bQX d else if k < s then bQL d else if k < v then bQB d else bQL d
        | 9, 6 => if k < 8 * wP (bN d) then bQL d else bQX d
        | 3, 3 => bQB d
        | 4, 2 => 0
        | 1, _ => bQL d
        | 3, _ => bQL d
        | 4, _ => bQL d
        | _, _ => bQX d)
    else none)

/-- The descriptor of a chain whose result block an element is read from: the last that writes its word, else the last whose block
reaches it (06 R164). -/
def resOwner (chain : List (BitVec 512)) (e : Nat) : BitVec 512 :=
  let writes (d : BitVec 512) : Bool := (bItems d).any (fun it =>
    (it.1 == 7 || (bOuts (bOp d)).contains it.1) && (bOff d it.1).1 &&
    decide ((bOff d it.1).2 * 8 ≤ e) && decide (e < ((bOff d it.1).2 + it.2) * 8))
  match chain.reverse.find? writes with
  | some d => d
  | none => (chain.reverse.find? (fun d => decide (e < 8 * blockLen d true))).getD (nth 0 chain (chain.length - 1))

/-- Words of a chain's result block. -/
def resLen (chain : List (BitVec 512)) : Nat := (chain.map (fun d => blockLen d true)).foldl max 0

/-- The q of element `e` as written by the last descriptor of the chain that writes it; none in no output item, or in the
status word (06 R164). -/
def routeQ (chain : List (BitVec 512)) (e : Nat) : Option Nat :=
  if chain.any (fun d => decide ((bOff d 7).2 * 8 ≤ e) && decide (e < (bOff d 7).2 * 8 + 8)) then none
  else chain.reverse.findSome? (fun d => outQ d e)

end Sys2Proof.Machine
end

