-- ==== Sys2Proof/Machine/BasaltMath.lean ====
section
/-! DEFINITION. The arithmetic of a Basalt engine: exact sums narrowed once, the reciprocal and square-root unit, small
pivots, and the factorisations, solves, products, filters and box QPs of one instance (05 R115, R116, R124 to R138, R418).
Matrices are lists of rows of signed codes, right-hand sides lists of columns. -/

namespace Sys2Proof.Machine

/-- What one instance has met: OVF, FLOOR, REG_COUNT (05 Table 5.9). -/
structure BFlags where
  ovf : Bool := false
  floor : Bool := false
  reg : Nat := 0
  deriving DecidableEq, Repr

/-- A computation of one instance. -/
abbrev BM (α : Type) : Type := StateM BFlags α

/-! ## Sums and the unit (05 R115, R116) -/

/-- A value at `q`, narrowed once to X32 at `qd` (03 R63). -/
def bNarrow (v : Int) (q qd : Nat) : BM Int := do
  let (r, f) := narrowX v q qd
  modify (fun s => { s with ovf := s.ovf || f != 0 })
  return r

/-- A sum of terms (value, q), formed exactly in X64 at the largest q among them (05 R115; 03 R63), as value and q. -/
def bSum (ts : List (Int × Nat)) : BM (Int × Nat) := do
  let q := ts.foldl (fun a t => max a t.2) 0
  let (r, f) := satInt 64 (ts.foldl (fun a t => a + t.1 * 2 ^ (q - t.2)) 0)
  modify (fun s => { s with ovf := s.ovf || f != 0 })
  return (r, q)

/-- A sum narrowed once to `qd`. -/
def bSumTo (ts : List (Int × Nat)) (qd : Nat) : BM Int := do
  let (v, q) ← bSum ts
  bNarrow v q qd

/-- 1 / x of a code at `q`, to `qd`. -/
def bRecip (x : Int) (q qd : Nat) : BM Int := do
  if x = 0 then
    modify (fun s => { s with ovf := true })
    return 2 ^ 31 - 1
  else
    let n : Int := 2 ^ (q + qd)
    bNarrow (if 0 < x then roundDiv n x.toNat else -(roundDiv n (-x).toNat)) 0 0

/-- √x of a code at `q`, to `qd`. -/
def bSqrt (x : Int) (q qd : Nat) : BM Int := do
  if x < 0 then
    modify (fun s => { s with ovf := true })
    return -(2 ^ 31)
  else
    -- twice the root at one further bit: floor of √(4 · x · 2^(2·qd - q)), with the remainder told apart
    let num : Nat := if q ≤ 2 * qd then 4 * x.toNat * 2 ^ (2 * qd - q) else 4 * x.toNat
    let den : Nat := if q ≤ 2 * qd then 1 else 2 ^ (q - 2 * qd)
    let r2 := isqrt (num / den)
    let r := r2 / 2
    let up := r2 % 2 = 1 && (decide (r2 * r2 * den < num) || r % 2 = 1)
    bNarrow (r + b2n up) 0 0

/-- 1 / √x of a code at `q`, to `qd`. -/
def bRsqrt (x : Int) (q qd : Nat) : BM Int := do
  if x ≤ 0 then
    modify (fun s => { s with ovf := true })
    return if x = 0 then 2 ^ 31 - 1 else -(2 ^ 31)
  else
    let num : Nat := 4 * 2 ^ (q + 2 * qd)
    let r2 := isqrt (num / x.toNat)
    let r := r2 / 2
    let up := r2 % 2 = 1 && (decide (r2 * r2 * x.toNat < num) || r % 2 = 1)
    bNarrow (r + b2n up) 0 0

/-! ## Matrices -/

abbrev Mat := List (List Int)
def mAt (a : Mat) (i j : Nat) : Int := nth 0 (nth [] a i) j
/-- The matrix with an element written. -/
def mSet (a : Mat) (i j : Nat) (v : Int) : Mat := updNth a i (fun r => updNth r j (fun _ => v))
def mZero (r c : Nat) : Mat := List.replicate r (List.replicate c 0)
def mTrans (a : Mat) (r c : Nat) : Mat := (upTo c).map (fun j => (upTo r).map (fun i => mAt a i j))
/-- Two rows exchanged. -/
def mSwap (a : Mat) (i j : Nat) : Mat := updNth (updNth a i (fun _ => nth [] a j)) j (fun _ => nth [] a i)
/-- A packed lower triangle read as symmetric. -/
def mSym (p : Mat) (n : Nat) : Mat := (upTo n).map (fun i => (upTo n).map (fun j => if j ≤ i then mAt p i j else mAt p j i))

/-! ## Small pivots (05 R124 to R126) -/

def bumpReg : BM Unit := modify (fun s => { s with reg := min 255 (s.reg + 1) })

/-- A pivot of CHOL, and of the factorisation within QPBOX. -/
def pivotChol (tau delta d : Int) : BM Int := do
  if d < tau then
    bumpReg
    let d ← bNarrow (d + delta) 0 0
    if d < tau then
      modify (fun s => { s with floor := true })
      return tau
    else return d
  else return d

/-- A pivot of LDL. -/
def pivotLdl (tau delta d : Int) : BM Int := do
  if |d| < tau then
    let sg : Int := if d < 0 then -1 else 1
    bumpReg
    let d ← bNarrow (d + sg * delta) 0 0
    if |d| < tau then
      modify (fun s => { s with floor := true })
      return sg * tau
    else return d
  else return d

/-- τ at `qt` against a divisor or a pivot of LU at `q`: one below τ in magnitude becomes ±τ (05 R123, R125). -/
def divisor (tau : Int) (qt : Nat) (d : Int) (q : Nat) : BM Int := do
  if |d| * 2 ^ qt < tau * 2 ^ q then
    bumpReg
    let v ← bNarrow tau qt q
    return if d < 0 then -v else v
  else return d

/-! ## CHOL and LDL (05 R127) -/

/-- CHOL of a symmetric matrix at qa: L at ql. -/
def bChol (tau delta : Int) (n qa ql qr : Nat) (a : Mat) : BM Mat :=
  (upTo n).foldlM (fun l j => do
    let d ← bSumTo ((mAt a j j, qa) :: (upTo j).map (fun k => (-(mAt l j k * mAt l j k), 2 * ql))) qa
    let d ← pivotChol tau delta d
    let p ← bSqrt d qa ql
    let r ← bRecip p ql qr
    let l := mSet l j j p
    (upTo (n - j - 1)).foldlM (fun l t => do
      let i := j + 1 + t
      let s ← bSumTo ((mAt a i j, qa) :: (upTo j).map (fun k => (-(mAt l i k * mAt l j k), 2 * ql))) qa
      let v ← bNarrow (s * r) (qa + qr) ql
      return mSet l i j v) l) (mZero n n)

/-- LDL: L at ql below the diagonal, D at qa on it. -/
def bLdl (tau delta : Int) (n qa ql qr : Nat) (a : Mat) : BM Mat := do
  let (l, _) ← (upTo n).foldlM (fun (lw : Mat × Mat) j => do
    let d ← bSumTo ((mAt a j j, qa) :: (upTo j).map (fun k => (-(mAt lw.2 j k * mAt lw.1 j k), qa + ql))) qa
    let d ← pivotLdl tau delta d
    let r ← bRecip d qa qr
    (upTo (n - j - 1)).foldlM (fun (lw : Mat × Mat) t => do
      let i := j + 1 + t
      let s ← bSumTo ((mAt a i j, qa) :: (upTo j).map (fun k => (-(mAt lw.2 i k * mAt lw.1 j k), qa + ql))) qa
      let v ← bNarrow (s * r) (qa + qr) ql
      let w ← bNarrow (v * d) (ql + qa) qa
      return (mSet lw.1 i j v, mSet lw.2 i j w)) (mSet lw.1 j j d, lw.2)) (mZero n n, mZero n n)
  return l

/-! ## LU (05 R125, R129) -/

/-- The index of the entry of largest magnitude, the lowest on a tie. -/
def argMax (l : List Int) : Nat :=
  ((upTo l.length).foldl (fun b i => if |nth 0 l b| < |nth 0 l i| then i else b) 0)

/-- LU: multipliers below the diagonal, U on and above it, at ql; and the rows exchanged. -/
def bLu (tau : Int) (n qa ql qr : Nat) (a : Mat) : BM (Mat × List Nat) := do
  let (_, f, piv) ← (upTo n).foldlM (fun (st : Mat × Mat × List Nat) j => do
    let (a, f, piv) := st
    let dot (i c k : Nat) : List (Int × Nat) := (upTo k).map (fun t => (-(mAt f i t * mAt f t c), 2 * ql))
    let cand ← (upTo (n - j)).mapM (fun t => bSumTo ((mAt a (j + t) j, qa) :: dot (j + t) j j) ql)
    let t := argMax cand
    let a := mSwap a j (j + t)
    let f := mSwap f j (j + t)
    let cand := updNth (updNth cand t (fun _ => nth 0 cand 0)) 0 (fun _ => nth 0 cand t)
    let p ← divisor tau ql (nth 0 cand 0) ql
    let r ← bRecip p ql qr
    let f := mSet f j j p
    let f ← (upTo (n - j - 1)).foldlM (fun f t => do
      let c := j + 1 + t
      let v ← bSumTo ((mAt a j c, qa) :: (upTo j).map (fun k => (-(mAt f j k * mAt f k c), 2 * ql))) ql
      return mSet f j c v) f
    let f ← (upTo (n - j - 1)).foldlM (fun f t => do
      let v ← bNarrow (nth 0 cand (t + 1) * r) (ql + qr) ql
      return mSet f (j + 1 + t) j v) f
    return (a, f, piv ++ [j + t])) (a, mZero n n, [])
  return (f, piv)

/-! ## Solves (05 R130, R418, Table 5.6) -/

/-- Where a mode takes element (i, k) of its matrix from the stored factor. -/
def triAt (mode : Nat) (f : Mat) (i k : Nat) : Int :=
  if 5 ≤ mode then mAt f i k else if mode = 1 ∨ mode = 3 then mAt f k i else mAt f i k

/-- The rows of B exchanged by PIV: a byte at or beyond n, or below i, exchanges nothing (05 R129). -/
def pivRows (piv : List Nat) (b : List Int) : List Int :=
  (upTo piv.length).foldl (fun b i =>
    let p := nth 0 piv i
    if i ≤ p ∧ p < b.length then updNth (updNth b i (fun _ => nth 0 b p)) p (fun _ => nth 0 b i) else b) b

/-- One right-hand side: τ at qt, factor at qf, right-hand side at qb, solution at qx, reciprocals at qr. -/
def bTri (tau : Int) (qt mode n qf qb qx qr : Nat) (f : Mat) (piv : List Nat) (b : List Int) : BM (List Int) := do
  let b := if mode = 5 then pivRows piv b else b
  let up := mode = 1 || mode = 3 || mode = 6
  (upTo n).foldlM (fun x t => do
    let i := if up then n - 1 - t else t
    let ks := if mode = 4 then [] else if up then (upTo (n - 1 - i)).map (· + (i + 1)) else upTo i
    let ts := (nth 0 b i, qb) :: ks.map (fun k => (-(triAt mode f i k * nth 0 x k), qf + qx))
    let v ← if mode = 2 ∨ mode = 3 ∨ mode = 5 then bSumTo ts qx
      else do
        let num ← bSumTo ts qb
        let d ← divisor tau qt (triAt mode f i i) qf
        let r ← bRecip d qf qr
        bNarrow (num * r) (qb + qr) qx
    return updNth x i (fun _ => v)) (List.replicate n 0)

/-! ## MUL (05 R131) -/

/-- A · B over columns, added to C or to zero, narrowed once: A at qa, B at qb, C at qx. -/
def bMul (m n qa qb qx : Nat) (neg : Bool) (a : Mat) (bs cs : List (List Int)) : BM (List (List Int)) :=
  (upTo bs.length).mapM (fun j => (upTo m).mapM (fun i =>
    bSumTo ((upTo n).map (fun k =>
        let p := mAt a i k * nth 0 (nth [] bs j) k
        (if neg then -p else p, qa + qb)) ++
      (match cs with | [] => [] | _ => [(mAt cs j i, qx)])) qx))

/-! ## QR (05 R128; log 25) -/

/-- A value `num / den` brought to one of the two codes next to it; an exact code stays (log 25). -/
def bEither (up : Bool) (num : Int) (den : Nat) : BM Int := bNarrow (num / den + b2n (up && decide (num % den ≠ 0))) 0 0

/-- One reflector applied to one column: a - v · (β · vᵀa), β at qr, the column at qc, v at ql; the scalar β · vᵀa is brought to qr and
the column to qd. `up` rounds the scalar (0) and element i (i + 1). -/
def reflect (up : Nat → Bool) (j m ql qr qc qd : Nat) (v : List Int) (beta : Int) (c : List Int) : BM (List Int) := do
  let (s, q) ← bSum ((upTo (m - j)).map (fun t => (nth 0 v (j + t) * nth 0 c (j + t), ql + qc)))
  let s ← bEither (up 0) (s * beta) (2 ^ q)
  (upTo m).mapM (fun i => do
    let (x, q) ← bSum (if i < j then [(nth 0 c i, qc)] else [(nth 0 c i, qc), (-(nth 0 v i * s), ql + qr)])
    bEither (up (i + 1)) (x * 2 ^ qd) (2 ^ q))

/-- QR of m × n columns at qa: Rᵀ (rows of the packed lower factor) at ql, and the first n rows of QᵀB at qb. The reflectors follow one
another, vectors and the reduced columns at ql, scalars at qr; which way each of these is rounded is free. Each diagonal is at least τ
(05 R115, R123, R125, R128). -/
def bQr (tau : Int) (m n qa qb ql qr : Nat) (cols rhs : List (List Int)) : BM (Mat × List (List Int)) := do
  let up (j what i : Nat) : Bool := Config.qrUp (cols ++ rhs) [qa, qb, ql, qr] j what i
  let (rt, cs, bs) ← (upTo n).foldlM (fun (st : Mat × List (List Int) × List (List Int)) j => do
    let (rt, cs, bs) := st
    let qc := if j = 0 then qa else ql
    let c := nth [] cs j
    let (ss, q) ← bSum ((upTo (m - j)).map (fun t => (nth 0 c (j + t) * nth 0 c (j + t), 2 * qc)))
    -- the norm at ql: √(ss · 2^(2·ql - q)), to one of the codes next to it
    let num : Nat := ss.toNat * 2 ^ (2 * ql)
    let root := isqrt (num / 2 ^ q)
    let norm ← bEither (up j 0 0) (2 * root + b2n (decide (root * root * 2 ^ q < num))) 2
    let v ← (upTo m).mapM (fun i =>
      if i < j then pure 0 else do
        let (x, q) ← bSum (if i = j then [(nth 0 c i, qc), (-norm, ql)] else [(nth 0 c i, qc)])
        bEither (up j 1 i) (x * 2 ^ ql) (2 ^ q))
    -- β = 2 / vᵀv, at qr
    let vv := (v.map (fun x => x * x)).sum.toNat
    let beta ← if vv = 0 then pure 0 else bEither (up j 2 0) (2 ^ (2 * ql + qr + 1)) vv
    let cs ← (upTo n).mapM (fun k => if j < k then reflect (fun i => up j (3 + k) i) j m ql qr qc ql v beta (nth [] cs k) else pure (nth [] cs k))
    let bs ← (upTo bs.length).mapM (fun k => reflect (fun i => up j (3 + n + k) i) j m ql qr qb qb v beta (nth [] bs k))
    return (mSet rt j j norm, cs, bs)) (mZero n n, cols, rhs)
  let rt ← (upTo n).mapM (fun i => (upTo n).mapM (fun j =>
    if i < j then pure 0
    else if i = j then divisor tau ql (max (mAt rt j j) 0) ql
    else pure (nth 0 (nth [] cs i) j)))
  return (rt, bs.map (fun b => b.take n))

/-! ## REFINE (05 R132, R138) -/

/-- A full solve with a factor: after CHOL, LDL or LU (05 R130). -/
def fullSolve (tau : Int) (mode n qa qf qb qx qr : Nat) (f : Mat) (piv : List Nat) (b : List Int) : BM (List Int) := do
  match mode with
  | 0 =>
    let y ← bTri tau qf 0 n qf qb qx qr f [] b
    bTri tau qf 1 n qf qx qx qr f [] y
  | 1 =>
    let y ← bTri tau qf 2 n qf qb qx qr f [] b
    let z ← bTri tau qf 4 n qa qx qx qr f [] y
    bTri tau qf 3 n qf qx qx qr f [] z
  | _ =>
    let y ← bTri tau qf 5 n qf qb qx qr f piv b
    bTri tau qf 6 n qf qx qx qr f [] y

/-- The largest magnitude of the columns. -/
def maxAbs (cs : List (List Int)) : Int := cs.foldl (fun a c => c.foldl (fun a v => max a |v|) a) 0

/-- The steps: X, RESULT, ITERS, RESID. -/
def refineGo (solve : List Int → BM (List Int)) (n qa qb qx : Nat) (tol : Int) (a : Mat) (bs : List (List Int)) :
    Nat → Nat → List (List Int) → BM (List (List Int) × Nat × Nat × Int)
  | left, it, xs => do
    let rs ← (upTo bs.length).mapM (fun j => (upTo n).mapM (fun i =>
      bSumTo ((mAt bs j i, qb) :: (upTo n).map (fun k => (-(mAt a i k * nth 0 (nth [] xs j) k), qa + qx))) qb))
    let resid := maxAbs rs
    if resid ≤ tol then return (xs, 0, it, resid)
    else match left with
      | 0 => return (xs, 1, it, resid)
      | left + 1 =>
        let ds ← rs.mapM solve
        let xs ← (upTo xs.length).mapM (fun j => (upTo n).mapM (fun i => bNarrow (mAt xs j i + mAt ds j i) qx qx))
        refineGo solve n qa qb qx tol a bs left (it + 1) xs

/-! ## QPBOX (05 R134, R135) -/

def clampTo (lo hi x : Int) : Int := min (max x lo) hi

/-- The steps: x, RESULT, ITERS, RESID at Q_X, and the workspace of the last step (factor, y, d). -/
def qpGo (d : BitVec 512) (h : Mat) (g lo hi : List Int) :
    Nat → Nat → List Int → Option (Mat × List Int × List Int) →
    BM (List Int × Nat × Nat × Int × Option (Mat × List Int × List Int))
  | left, it, x, ws => do
    let n := bN d
    let qx := bQX d
    let qb := bQB d
    let q := max qb qx
    let grad ← (upTo n).mapM (fun i =>
      bSumTo ((upTo n).map (fun j => (mAt h i j * nth 0 x j, bQA d + qx)) ++ [(nth 0 g i, qb)]) qb)
    let sx (v : Int) : Int := v * 2 ^ (q - qx)
    let sb (v : Int) : Int := v * 2 ^ (q - qb)
    let resid := (upTo n).foldl (fun (a : Int) i =>
      let xi := sx (nth 0 x i)
      max a |xi - clampTo (sx (nth 0 lo i)) (sx (nth 0 hi i)) (xi - sb (nth 0 grad i))|) 0
    let shown := roundDiv resid (2 ^ (q - qx))
    if resid ≤ sx (bTol d) then return (x, 0, it, shown, ws)
    else match left with
      | 0 => return (x, 1, it, shown, ws)
      | left + 1 =>
        let act (i : Nat) : Bool :=
          (decide (nth 0 x i ≤ nth 0 lo i) && decide (0 < nth 0 grad i)) ||
          (decide (nth 0 hi i ≤ nth 0 x i) && decide (nth 0 grad i < 0))
        let one ← if (upTo n).any act then bNarrow (2 ^ bQA d) 0 0 else pure 0
        let hr := (upTo n).map (fun i => (upTo n).map (fun j =>
          if act i || act j then (if i = j then one else 0) else mAt h i j))
        let l ← bChol (bTau d) (bDelta d) n (bQA d) (bQL d) (bQR d) hr
        let y ← bTri (bTau d) (bQA d) 0 n (bQL d) qb qx (bQR d) l [] (grad.map (fun v => -v))
        let s ← bTri (bTau d) (bQA d) 1 n (bQL d) qx qx (bQR d) l [] y
        let s := (upTo n).map (fun i => if act i then 0 else nth 0 s i)
        let x ← (upTo n).mapM (fun i => do
          let v ← bNarrow (nth 0 x i + nth 0 s i) qx qx
          return clampTo (nth 0 lo i) (nth 0 hi i) v)
        qpGo d h g lo hi left (it + 1) x (some (l, y, s))

end Sys2Proof.Machine
end

