-- ==== Sys2Proof/Machine/Basalt.lean ====
section
/-! DEFINITION. The nine Basalt commands on an engine's local memory: the descriptor at the head of the queue runs where its
holds allow, writes its outputs and status words, and waits for BASALT_RETIRE (05 R117 to R139). -/

namespace Sys2Proof.Machine

/-! ## Engines and their memory -/

def be (w : World) (e : Nat) : Be := sGet {} w.solver.engines e
def onBe (e : Nat) (f : Be → Be) (w : World) : World := onSolver (fun s => { s with engines := sUpd {} s.engines e f }) w

/-- Byte address of X32 element `k` of an engine's local memory (05 R114, R118). -/
def elAddr (e k : Nat) : Nat := e * 262144 + 4 * k
/-- Element `k`, signed. -/
def elGet (w : World) (e k : Nat) : Int := signed 32 (Mem.readNat w.solver.mem (elAddr e k) 4)
/-- The memory with element `k` written. -/
def elPut (e : Nat) (m : List Host.Cell) (k : Nat) (v : Int) : List Host.Cell := Mem.writeNat m (elAddr e k) 4 (unsigned 32 v)

/-- A place in local memory: engine, first element. -/
abbrev Place := Nat × Nat
def rdAt (w : World) (p : Place) (k : Nat) : Int := elGet w p.1 (p.2 + k)

/-- Items read in their storage forms (05 Table 5.1). -/
def rdP (w : World) (p : Place) (n : Nat) : Mat :=
  (upTo n).map (fun i => (upTo n).map (fun j => if j ≤ i then rdAt w p (i * (i + 1) / 2 + j) else 0))
def rdD (w : World) (p : Place) (r c : Nat) : Mat :=
  (upTo r).map (fun i => (upTo c).map (fun j => rdAt w p (i * (8 * ceilDiv c 8) + j)))
def rdV (w : World) (p : Place) (n k : Nat) : List (List Int) :=
  (upTo k).map (fun j => (upTo n).map (fun i => rdAt w p (j * (8 * ceilDiv n 8) + i)))
def rdPiv (w : World) (p : Place) (n : Nat) : List Nat :=
  (upTo n).map (fun i => bits (unsigned 32 (rdAt w p (i / 4))) (8 * (i % 4) + 7) (8 * (i % 4)))

/-- Items to write: element and value. -/
abbrev Writes := List (Nat × Int)
def wrP (p : Nat) (n : Nat) (a : Mat) : Writes :=
  (upTo n).flatMap (fun i => (upTo (i + 1)).map (fun j => (p + i * (i + 1) / 2 + j, mAt a i j)))
def wrD (p : Nat) (r c : Nat) (a : Mat) : Writes :=
  (upTo r).flatMap (fun i => (upTo c).map (fun j => (p + i * (8 * ceilDiv c 8) + j, mAt a i j)))
def wrV (p : Nat) (n : Nat) (cs : List (List Int)) : Writes :=
  (upTo cs.length).flatMap (fun j => (upTo n).map (fun i => (p + j * (8 * ceilDiv n 8) + i, nth 0 (nth [] cs j) i)))
def wrPiv (p : Nat) (piv : List Nat) : Writes :=
  (upTo (8 * wPiv piv.length)).map (fun e =>
    (p + e, signed 32 ((upTo 4).foldl (fun a j => a + nth 0 piv (4 * e + j) * 2 ^ (8 * j)) 0)))

/-- First element of item OFF`i` of an instance. -/
def itemAt (d : BitVec 512) (inst i : Nat) : Nat := (blockBase d (bOff d i).1 inst + (bOff d i).2) * 8

/-! ## Warm starts (05 R137) -/

/-- The start vectors and the COLD and WARM_IGNORED flags. -/
def warmStart (w : World) (e : Nat) (d : BitVec 512) (inst k : Nat) : List (List Int) × Nat :=
  let n := bN d
  let zero := List.replicate k (List.replicate n 0)
  if !bWarm d then (zero, 2 ^ 34) else
    let p := itemAt d inst 5
    if Mem.readNat w.solver.mem (elAddr e p) 8 = bSig d then (rdV w (e, p + 8) n k, 0)
    else (zero, 2 ^ 34 + 2 ^ 35)

/-! ## One instance: writes, RESULT, ITERS, RESID and the flags of its own -/

/-- What an instance yields. -/
structure BOut where
  writes : Writes := []
  result : Nat := 0
  iters : Nat := 0
  resid : Nat := 0
  extra : Nat := 0

/-- RESID of the status word: unsigned, saturating. -/
def residWord (r : Int) : Nat := min r.toNat (2 ^ 32 - 1)

/-- CHOL. -/
def runChol (w : World) (e : Nat) (d : BitVec 512) (i : Nat) : BM BOut := do
  let l ← bChol (bTau d) (bDelta d) (bN d) (bQA d) (bQL d) (bQR d) (rdP w (e, itemAt d i 0) (bN d))
  return { writes := wrP (itemAt d i 1) (bN d) l }

/-- LDL. -/
def runLdl (w : World) (e : Nat) (d : BitVec 512) (i : Nat) : BM BOut := do
  let l ← bLdl (bTau d) (bDelta d) (bN d) (bQA d) (bQL d) (bQR d) (rdP w (e, itemAt d i 0) (bN d))
  return { writes := wrP (itemAt d i 1) (bN d) l }

/-- QR. -/
def runQr (w : World) (e : Nat) (d : BitVec 512) (i : Nat) : BM BOut := do
  let n := bN d
  let m := bM d
  let cols := mTrans (rdD w (e, itemAt d i 0) m n) m n
  let rhs := if bK d = 0 then [] else rdV w (e, itemAt d i 2) m (bK d)
  let (rt, out) ← bQr (bTau d) m n (bQA d) (bQB d) (bQL d) (bQR d) cols rhs
  return { writes := wrP (itemAt d i 1) n rt ++ (if bK d = 0 then [] else wrV (itemAt d i 3) n out) }

/-- LU. -/
def runLu (w : World) (e : Nat) (d : BitVec 512) (i : Nat) : BM BOut := do
  let n := bN d
  let (f, piv) ← bLu (bTau d) n (bQA d) (bQL d) (bQR d) (rdD w (e, itemAt d i 0) n n)
  return { writes := wrD (itemAt d i 1) n n f ++ wrPiv (itemAt d i 2) piv }

/-- The factor a mode of TRI or REFINE reads. -/
def rdFactor (w : World) (e : Nat) (d : BitVec 512) (dense : Bool) (p : Nat) : Mat :=
  if dense then rdD w (e, p) (bN d) (bN d) else rdP w (e, p) (bN d)

/-- TRI. -/
def runTri (w : World) (e : Nat) (d : BitVec 512) (i : Nat) : BM BOut := do
  let n := bN d
  let mode := bMode d
  let f := rdFactor w e d (decide (5 ≤ mode)) (itemAt d i 0)
  let piv := if mode = 5 then rdPiv w (e, itemAt d i 1) n else []
  let qf := if mode = 4 then bQA d else bQL d
  let xs ← (rdV w (e, itemAt d i 2) n (bK d)).mapM (bTri (bTau d) qf mode n qf (bQB d) (bQX d) (bQR d) f piv)
  return { writes := wrV (itemAt d i 3) n xs }

/-- MUL. -/
def runMul (w : World) (e : Nat) (d : BitVec 512) (i : Nat) : BM BOut := do
  let n := bN d
  let m := bM d
  let a := if bAsym d then mSym (rdP w (e, itemAt d i 0) n) n
    else if bTransA d then mTrans (rdD w (e, itemAt d i 0) n m) n m else rdD w (e, itemAt d i 0) m n
  let cs := if bAcc d then rdV w (e, itemAt d i 2) m (bK d) else []
  let c ← bMul m n (bQA d) (bQB d) (bQX d) (bNeg d) a (rdV w (e, itemAt d i 1) n (bK d)) cs
  return { writes := wrV (itemAt d i 2) m c }

/-- REFINE. -/
def runRefine (w : World) (e : Nat) (d : BitVec 512) (i : Nat) : BM BOut := do
  let n := bN d
  let dense := bMode d = 2
  let a := if dense then rdFactor w e d true (itemAt d i 0) else mSym (rdP w (e, itemAt d i 0) n) n
  let f := rdFactor w e d dense (itemAt d i 1)
  let piv := if dense then rdPiv w (e, itemAt d i 2) n else []
  let bs := rdV w (e, itemAt d i 3) n (bK d)
  let (x, extra) := warmStart w e d i (bK d)
  let solve := fullSolve (bTau d) (bMode d) n (bQA d) (bQL d) (bQB d) (bQX d) (bQR d) f piv
  let (x, res, it, resid) ← refineGo solve n (bQA d) (bQB d) (bQX d) (bTol d) a bs (bCap d) 0 x
  return { writes := wrV (itemAt d i 4) n x, result := res, iters := it, resid := residWord resid, extra := extra }

/-- Places of the items of a package: sizes in words, first element. -/
def places : List Nat → Nat → List Nat
  | [], _ => []
  | s :: rest, p => p :: places rest (p + 8 * s)

/-- KFUP (05 R133, Table 5.8). -/
def runKfup (w : World) (e : Nat) (d : BitVec 512) (i : Nat) : BM BOut := do
  let n := bN d
  let m := bM d
  let ql := bQL d
  let pin := places (kIn d) (itemAt d i 0)
  let pout := places (kOut d) (itemAt d i 1)
  let time := kTime d
  let x0 := nth [] (rdV w (e, nth 0 pin 0) n 1) 0
  -- time update
  let (xm, sm) ← if time then do
      let c := nth [] (rdV w (e, nth 0 pin 1) n 1) 0
      let s := rdP w (e, nth 0 pin 2) n
      let f := rdD w (e, nth 0 pin 3) n n
      let sq := rdP w (e, nth 0 pin 4) n
      let xm ← (upTo n).mapM (fun r =>
        bSumTo ((upTo n).map (fun k => (mAt f r k * nth 0 x0 k, bQA d + bQX d)) ++ [(nth 0 c r, bQX d)]) (bQX d))
      let fs ← (upTo n).mapM (fun r => (upTo n).mapM (fun k =>
        bSumTo ((upTo n).map (fun t => (mAt f r t * mAt s t k, bQA d + ql))) ql))
      -- the array [F·S, Sq]ᵀ is 2n × n: column r holds row r of F·S, then row r of Sq
      let cols := (upTo n).map (fun r => nth [] fs r ++ nth [] sq r)
      let (rt, _) ← bQr (bTau d) (2 * n) n ql ql ql (bQR d) cols []
      pure (xm, rt)
    else pure (x0, rdP w (e, nth 0 pin 1) n)
  if !kMeas d then
    return { writes := wrV (nth 0 pout 0) n [xm] ++ wrP (nth 0 pout 1) n sm }
  -- measurement update
  let base := if time then 5 else 2
  let h := rdD w (e, nth 0 pin base) m n
  let sr := rdP w (e, nth 0 pin (base + 1)) m
  let z := nth [] (rdV w (e, nth 0 pin (base + 2)) m 1) 0
  let nu ← (upTo m).mapM (fun r =>
    bSumTo ((nth 0 z r, bQB d) :: (upTo n).map (fun k => (-(mAt h r k * nth 0 xm k), bQA d + bQX d))) (bQB d))
  let hs ← (upTo m).mapM (fun r => (upTo n).mapM (fun k =>
    bSumTo ((upTo n).map (fun t => (mAt h r t * mAt sm t k, bQA d + ql))) ql))
  -- column r of the transposed pre-array is row r of [[Sr, H·S], [0, S]]
  let cols := (upTo m).map (fun r => nth [] sr r ++ nth [] hs r) ++
    (upTo n).map (fun r => List.replicate m 0 ++ nth [] sm r)
  let (post, _) ← bQr (bTau d) (m + n) (m + n) ql ql ql (bQR d) cols []
  let se := (upTo m).map (fun r => (nth [] post r).take m)
  let kb := (upTo n).map (fun r => (nth [] post (m + r)).take m)
  let sp := (upTo n).map (fun r => ((nth [] post (m + r)).drop m).take n)
  let wv ← bTri (bTau d) ql 0 m ql (bQB d) (bQR d) (bQR d) se [] nu
  let xp ← (upTo n).mapM (fun r =>
    bSumTo ((nth 0 xm r, bQX d) :: (upTo m).map (fun k => (mAt kb r k * nth 0 wv k, ql + bQR d))) (bQX d))
  return { writes := wrV (nth 0 pout 0) n [xp] ++ wrP (nth 0 pout 1) n sp ++ wrV (nth 0 pout 2) m [nu] ++ wrP (nth 0 pout 3) m se }

/-- QPBOX. -/
def runQpbox (w : World) (e : Nat) (d : BitVec 512) (i : Nat) : BM BOut := do
  let n := bN d
  let col (k : Nat) : List Int := nth [] (rdV w (e, itemAt d i k) n 1) 0
  let lo := col 2
  let fixed := (upTo n).any (fun j => decide (nth 0 (col 3) j < nth 0 lo j))
  let hi := (upTo n).map (fun j => max (nth 0 (col 3) j) (nth 0 lo j))
  let (st, extra) := warmStart w e d i 1
  let x0 := (upTo n).map (fun j => clampTo (nth 0 lo j) (nth 0 hi j) (nth 0 (nth [] st 0) j))
  let (x, res, it, resid, ws) ← qpGo d (mSym (rdP w (e, itemAt d i 0) n) n) (col 1) lo hi (bCap d) 0 x0 none
  let p := itemAt d i 6
  let wsw : Writes := match ws with
    | none => []
    | some (l, y, s) => wrP p n l ++ wrV (p + 8 * wP n) n [y, s]
  return { writes := wrV (itemAt d i 4) n [x] ++ wsw, result := res, iters := it, resid := residWord resid,
           extra := extra + (if fixed then 2 ^ 36 else 0) }

/-! ## The command at the head of the queue -/

/-- The status word of an instance (05 Table 5.9); `pre` holds the assembler's CLAMPED and NAN_SLOT. -/
def bStatus (o : BOut) (f : BFlags) (pre : Nat) : Nat :=
  o.result * 2 ^ 56 + o.iters * 2 ^ 48 + f.reg * 2 ^ 40 + o.extra + pre + b2n f.floor * 2 ^ 33 + b2n f.ovf * 2 ^ 32 + o.resid

/-- The template of a number at run time. -/
def tmpl (w : World) (t : Nat) : Tmpl := sGet {} w.solver.tmpls t
def onTmpl (t : Nat) (f : Tmpl → Tmpl) (w : World) : World := onSolver (fun s => { s with tmpls := sUpd {} s.tmpls t f }) w

/-- A release of a template by number. -/
def releaseOf (w : World) (t num : Nat) : Option Release := (tmpl w t).releases.find? (fun r => r.num = num)
def onRelease (t num : Nat) (f : Release → Release) (w : World) : World :=
  onTmpl t (fun x => { x with releases := x.releases.map (fun r => if r.num = num then f r else r) }) w

/-- Whose local memory a template's words stand in: that of ENGINE of its record, wherever its work runs. An engine that runs
moved work keeps it in space of its own (12 R329; log 41). -/
def tHome (w : World) (t : Nat) : Nat := tEngine (tRec w.cfg.active t)

/-- The result region of an earlier solve, one that entered the queue before this descriptor's, is still held and meets this
descriptor's result region (05 R117). -/
def heldResult (w : World) (x : Be) (d : BeDesc) : Bool :=
  (x.holds.takeWhile (fun h => !(h.template == d.template && h.release == d.release))).any (fun h =>
    h.result && tHome w h.template == tHome w d.template && spansMeet (h.base, h.len) d.res)

/-- The descriptor at the head may run: not run already, accepted, its holds clear. -/
def headReady (w : World) (e : Nat) : Option BeDesc :=
  let x := be w e
  match x.queue with
  | d :: _ => if x.run.isNone && bDescOk d.desc && !heldResult w x d then some d else none
  | [] => none

/-- A Basalt command: every instance of the head descriptor is computed from the memory as it stands, then every output and
status word is written. -/
def runBasalt (op : Nat) (f : World → Nat → BitVec 512 → Nat → BM BOut) (e : Nat) (w : World) : World :=
  match headReady w e with
  | none => w
  | some q =>
    if bOp q.desc ≠ op then w else
      let d := q.desc
      let home := tHome w q.template
      let pre := match releaseOf w q.template q.release with | some r => r.pre | none => []
      let outs := (upTo (bBatch d)).map (fun i => (i, Id.run ((f w home d i).run {})))
      let mem := outs.foldl (fun m o =>
        let st := bStatus o.2.1 o.2.2 (sGet 0 pre o.1)
        let m := o.2.1.writes.foldl (fun m wr => elPut home m wr.1 wr.2) m
        Mem.writeNat m (elAddr home (itemAt d o.1 7)) 32 st) w.solver.mem
      let status := outs.map (fun o => BitVec.ofNat 64 (bStatus o.2.1 o.2.2 (sGet 0 pre o.1)))
      let fl := flagIf (outs.any (fun o => o.2.2.ovf)) fOvf
      onBe e (fun x => { x with run := some { flags := fl, status := status, start := nowNs w } }) (onSolver (fun s => { s with mem := mem }) w)

/-- CHOL. -/
def execChol (e : Fin 32) (s : State) : Host.Outcome State Fault Refusal := liveEffect (runBasalt 1 runChol e) s
/-- LDL. -/
def execLdl (e : Fin 32) (s : State) : Host.Outcome State Fault Refusal := liveEffect (runBasalt 2 runLdl e) s
/-- QR. -/
def execQr (e : Fin 32) (s : State) : Host.Outcome State Fault Refusal := liveEffect (runBasalt 3 runQr e) s
/-- LU. -/
def execLu (e : Fin 32) (s : State) : Host.Outcome State Fault Refusal := liveEffect (runBasalt 4 runLu e) s
/-- TRI. -/
def execTri (e : Fin 32) (s : State) : Host.Outcome State Fault Refusal := liveEffect (runBasalt 5 runTri e) s
/-- MUL. -/
def execMul (e : Fin 32) (s : State) : Host.Outcome State Fault Refusal := liveEffect (runBasalt 6 runMul e) s
/-- REFINE. -/
def execRefine (e : Fin 32) (s : State) : Host.Outcome State Fault Refusal := liveEffect (runBasalt 7 runRefine e) s
/-- KFUP. -/
def execKfup (e : Fin 32) (s : State) : Host.Outcome State Fault Refusal := liveEffect (runBasalt 8 runKfup e) s
/-- QPBOX. -/
def execQpbox (e : Fin 32) (s : State) : Host.Outcome State Fault Refusal := liveEffect (runBasalt 9 runQpbox e) s

end Sys2Proof.Machine
end

