-- ==== Sys2Proof/Machine/Templates.lean ====
section
/-! DEFINITION. Templates at run time: releases (06 R150, R151), deltas (06 R155, R156), assembly (06 R147 to R153, R159,
R160), the end of descriptors and chains (05 R117, R119, R140 to R143) and deadlines (02 R54, R55). -/

namespace Sys2Proof.Machine

/-! ## The slot entry (06 Table 6.2) and the route entry (06 Table 6.5) -/

def slotOf (set : Store Bytes) (t i : Nat) : Bytes := slice (objIn set 0x4101 0 t) (24 * i) 24
def sKind (s : Bytes) : Nat := fieldLe s 191 189
def sOwner (s : Bytes) : Nat := fieldLe s 188 187
def sWait (s : Bytes) : Bool := fieldLe s 186 186 == 1
def sDepth (s : Bytes) : Nat := fieldLe s 185 179
def sQ (s : Bytes) : Nat := fieldLe s 178 174
def sElem (s : Bytes) : Nat := fieldLe s 173 158
def sSource (s : Bytes) : Nat := fieldLe s 157 140
def sStep (s : Bytes) : Nat := fieldLe s 139 122
def sHi (s : Bytes) : Int := signed 32 (fieldLe s 63 32)
def sLo (s : Bytes) : Int := signed 32 (fieldLe s 31 0)

/-- The slots of a template in a set, in order, each with its number. -/
def tSlotList (set : Store Bytes) (t : Nat) : List (Nat × Bytes) := (upTo (tSlots (tRec set t))).map (fun i => (i, slotOf set t i))

def routeOf (set : Store Bytes) (t i : Nat) : Bytes := slice (objIn set 0x4103 0 t) (16 * i) 16
def rKind (r : Bytes) : Nat := fieldLe r 127 126
def rEarly (r : Bytes) : Bool := fieldLe r 125 125 == 1
def rHold (r : Bytes) : Nat := fieldLe r 124 123
def rStaleLimit (r : Bytes) : Nat := fieldLe r 122 115
def rElem (r : Bytes) : Nat := fieldLe r 114 99
def rBase (r : Bytes) : Nat := fieldLe r 98 75
def rField (r : Bytes) : Nat := fieldLe r 74 71
def rStep (r : Bytes) : Nat := fieldLe r 70 55
def rDefault (r : Bytes) : W32 := BitVec.ofNat 32 (fieldLe r 31 0)
def tRouteList (set : Store Bytes) (t : Nat) : List (Nat × Bytes) := (upTo (tRoutes (tRec set t))).map (fun i => (i, routeOf set t i))

/-- The templates of a set. -/
def tmplsOf (set : Store Bytes) : List Nat := instancesOf set 0x4100 0

/-- The engine that runs a template's work: where the mapping or a take-over puts it; none while it is stopped, shed, or on
a die that carries no work (09 R246, 12 R328, R330, R333). -/
def tmplEngine (w : World) (t : Nat) : Option Nat :=
  let x := tmpl w t
  let e := x.movedTo.getD ((sFind w.cfg.mapping.tmpls t).getD (tEngine (tRec w.cfg.active t)))
  if x.stoppedBy || w.cfg.mapping.shed.contains (0x4100 * 2 ^ 32 + t) || !dieGood (die w (e / 8)) then none else some e

/-! ## From angle to time (02 R54, R55) -/

/-- An angle span at ω_max in whole cycles, rounded down. -/
def figureCycles (omMax : W32) (span : Nat) : Nat :=
  let n := (rateNum omMax).natAbs
  if n = 0 then 0 else span * 700000000 * 2 ^ 200 / (2 ^ 32 * n)

/-- The instant of a release plus the figure of a span, in whole ns. -/
def figureInstant (w : World) (t : Nat) (r : Release) (span : Nat) : Nat :=
  (r.at_ + figureCycles (atOmegaMax (atRec w (tTracker (tRec w.cfg.active t)))) span * 10 * 65536 / 7) / 65536

/-! ## Releases (06 R150, R151) -/

/-- The release may still be published: before its deadline and not lost. -/
def inFlight (r : Release) : Bool := r.fail.isNone && !r.dead

/-- The deadline instant has been reached: the figure of DEADLINE after the release, and θ has travelled DEADLINE since, the later of the
two, cut to whole nanoseconds (02 R55, 06 R150, R162; 01 R22). -/
def deadlineMet (w : World) (t : Nat) (r : Release) : Bool :=
  let span := tDeadline (tRec w.cfg.active t)
  decide (figureInstant w t r span ≤ nowNs w) &&
  decide (r.travel + span ≤ travelAt w (tTracker (tRec w.cfg.active t)) (now16 w 65535))

/-- The release stands unpublished before its deadline instant, so that a further one is skipped; a skipped one has no deadline to wait
for (06 R151; log 87). -/
def unsettled (w : World) (t : Nat) (r : Release) : Bool := r.fail != some 3 && !r.dead && !deadlineMet w t r

/-- A template is released at an LC0 stamp, or the release is skipped. -/
def releaseTmpl (stamp : Nat) (t : Nat) (w : World) : World :=
  if (tmplEngine w t).isNone then w else
    let skip := (tmpl w t).releases.any (unsettled w t)
    let travel := travelAt w (tTracker (tRec w.cfg.active t)) stamp
    onTmpl t (fun x =>
      { x with nReleases := x.nReleases + 1, nextNum := x.nextNum + 1,
               releases := x.releases ++ [{ num := x.nextNum, at_ := stamp, travel := travel, fail := if skip then some 3 else none }] }) w

/-- The templates that tick count `c` of tracker `k` releases (06 R150). -/
def tickReleases (k c stamp : Nat) (w : World) : World :=
  eachW (tmplsOf w.cfg.active) (fun t w =>
    let r := tRec w.cfg.active t
    if tRelKind r = 0 ∧ tTracker r = k ∧ ((c : Int) - tRelPhase r) % (2 ^ tRelDiv r : Nat) = 0 then releaseTmpl stamp t w else w) w

/-! ## Deltas (06 R155, R156) -/

/-- Owners by SRC: 0 HOST, 1 ROUTE, 2 SEQUENCE (06 Table 6.3). -/
def deltaOk (w : World) (t slot inst src : Nat) : Bool :=
  let r := tRec w.cfg.active t
  let s := slotOf w.cfg.active t slot
  hasObj w.cfg.active 0x4100 0 t && decide (slot < tSlots r) && sKind s == 2 && sOwner s == src &&
  (inst == 0x1FF || decide (inst < tBatch r))

/-- A delta enters the pending bank at its production instant `prod`, or is refused, counted and recorded. -/
def enterDelta (t slot inst fmt : Nat) (value : W32) (src prod : Nat) (w : World) : World :=
  if !deltaOk w t slot inst src then
    record 0x22 (((tmplEngine w t).map (· / 8)).getD 15) 0x4100 t (onTmpl t (fun x => { x with nRefused := x.nRefused + 1 }) w)
  else
    let r := tRec w.cfg.active t
    let insts := if inst = 0x1FF then upTo (tBatch r) else [inst]
    let new : List Pending := insts.map (fun i =>
      { slot := slot, inst := i, fmt := fmt, value := value, prod := prod, for0 := true, for1 := tBuffers r == 1 })
    onTmpl t (fun x => { x with pending := x.pending.filter (fun p => !(p.slot == slot && insts.contains p.inst)) ++ new }) w

/-- A value in a format of Table 6.3 as X32 at `q`, with its flags (03 Table 3.7). -/
def deltaX32 (fmt : Nat) (v : W32) (q : Nat) : Int × BitVec 8 :=
  if fmt = 0 then (v.toInt, 0)
  else
    let (c, f) := if fmt = 2 then canon32 v else (v, 0)
    let (a, g) := operand32 c
    let (x, h) := toX32 q a
    (x, f ||| g ||| h)

/-! ## Assembly (06 R147 to R153) -/

/-- A value fitted to a slot: code, flags of the instance, ARITH_FLAGS (06 R153). -/
def fit (s : Bytes) (v : Int × BitVec 8) : Int × Nat × BitVec 8 :=
  let nan := v.2 &&& fNanIn != 0
  let out := v.2 &&& fOvf != 0 || decide (v.1 < sLo s) || decide (sHi s < v.1)
  (min (max v.1 (sLo s)) (sHi s), b2n out * 2 ^ 37 + b2n nan * 2 ^ 38, v.2)

/-- A stream's latest sample as X32 of a slot, and whether it is aged (06 R153). -/
def fill (w : World) (r : Release) (s : Bytes) (inst : Nat) : Int × Nat × BitVec 8 × Bool :=
  let x := sGet {} w.trunks.streams (sSource s + inst * sStep s)
  if !x.ever then let (v, p, f) := fit s (0, 0); (v, p, f, false)
  else
    let (v, p, f) := fit s (deltaX32 1 x.value (sQ s))
    (v, p, f, decide (x.lastArr < r.at_ / 65536))

/-- What an assembly gathers as it goes: memory, instance flags, ARITH_FLAGS, aged samples, deltas left. -/
structure Asm where
  mem : List Host.Cell
  pre : Store Nat := []
  flags : BitVec 8 := 0
  aged : Nat := 0
  pending : List Pending := []

/-- Words copied within an engine's local memory. -/
def copyWords (e dst src n : Nat) (m : List Host.Cell) : List Host.Cell :=
  Mem.write m (elAddr e (dst * 8)) (Mem.read m (elAddr e (src * 8)) (32 * n))

/-- An element written and its flags gathered. -/
def Asm.put (e inst el : Nat) (v : Int × Nat × BitVec 8 × Bool) (a : Asm) : Asm :=
  { a with mem := elPut e a.mem el v.1, pre := sUpd 0 a.pre inst (fun p => p ||| v.2.1), flags := a.flags ||| v.2.2.1,
           aged := a.aged + b2n v.2.2.2 }

/-- The slot order of an assembly: CARRY, WINDOW, MEAS, PARAM (06 R152). -/
def slotOrder (l : List (Nat × Bytes)) : List (Nat × Bytes) :=
  l.filter (fun s => sKind s.2 = 4) ++ l.filter (fun s => sKind s.2 = 3) ++ l.filter (fun s => sKind s.2 = 1) ++
  l.filter (fun s => sKind s.2 = 2)

/-- One slot of one instance. -/
def asmSlot (w : World) (e t : Nat) (r : Release) (buffer blk inst : Nat) (sl : Nat × Bytes) (a : Asm) : Asm :=
  let s := sl.2
  match sKind s with
  | 4 =>
    let o := sGet {} (tmpl w t).out inst
    if (if buffer = 0 then o.carried0 else o.carried1) then a else
      { a with mem := Mem.write a.mem (elAddr e ((blk + sElem s) * 8)) (slice o.block (sSource s * 32) (sStep s * 32)) }
  | 3 =>
    let el := blk * 8 + sElem s
    let a := { a with mem := Mem.write a.mem (elAddr e el) (Mem.read a.mem (elAddr e (el + 1)) (4 * (sDepth s - 1))) }
    a.put e inst (el + sDepth s - 1) (fill w r s inst)
  | 1 => a.put e inst (blk * 8 + sElem s) (fill w r s inst)
  | 2 =>
    match a.pending.find? (fun p => p.slot = sl.1 && p.inst = inst && decide (p.prod < nowNs w) && (if buffer = 0 then p.for0 else p.for1)) with
    | none => a
    | some p =>
      let (v, q, f) := fit s (deltaX32 p.fmt p.value (sQ s))
      let a := a.put e inst (blk * 8 + sElem s) (v, q, f, false)
      let p' := if buffer = 0 then { p with for0 := false } else { p with for1 := false }
      let rest := a.pending.filter (fun x => !(x.slot = p.slot && x.inst = p.inst))
      { a with pending := if p'.for0 || p'.for1 then rest ++ [p'] else rest }
  | _ => a

/-- Words of a descriptor's warm record, and of a chain's: a chain with several reads one item, each descriptor as much of it as its record
takes (05 Table 5.1, 06 R159; log 96). -/
def warmSize (d : BitVec 512) : Nat := (((bItems d).find? (fun it => it.1 = 5)).map (·.2)).getD 0
def warmWords (chain : List (BitVec 512)) : Nat := ((chain.filter bWarm).map warmSize).foldl max 0

/-- The templates whose TEMPLATE routes feed the vector slots of a descriptor's warm record (06 R159). -/
def warmProducers (set : Store Bytes) (t : Nat) (d : BitVec 512) : List Nat :=
  let (res, off) := bOff d 5
  let fed (s : Nat × Bytes) : Bool :=
    sKind s.2 == 2 && sOwner s.2 == 1 && !res && decide ((off + 1) * 8 ≤ sElem s.2) && decide (sElem s.2 < (off + warmSize d) * 8)
  let slots := ((tSlotList set t).filter fed).map (·.1)
  (tmplsOf set).filter (fun p => (tRouteList set p).any (fun r =>
    rKind r.2 == 0 && (upTo (tBatch (tRec set p))).any (fun i =>
      let x := rBase r.2 + i * rStep r.2
      x / 4096 == t && slots.contains (x % 4096))))

/-- The warm records of one instance (06 R159, R160). -/
def asmWarm (w : World) (e t buffer inst : Nat) (chain : List (BitVec 512)) (m : List Host.Cell) : List Host.Cell :=
  let src := tWarmSrc (tRec w.cfg.active t)
  let o := sGet {} (tmpl w t).out inst
  if src = 0 then m else
    (chain.filter bWarm).foldl (fun m d =>
      let p := elAddr e (itemAt d inst 5)
      let size := 32 * warmSize d
      match src with
      | 1 => Mem.writeNat m p 32 (if !(if buffer = 0 then o.carried0 else o.carried1) then o.sig else if buffer = 0 then o.sig0 else o.sig1)
      | 2 => Mem.writeNat m p 32 (((warmProducers w.cfg.active t d)[0]?.map (fun q => tSignature (tRec w.cfg.active q))).getD 0)
      | _ => Mem.write m p (padTo size (slice (actObj w 0x4106 0 t) (inst * (32 * warmWords chain)) size))) m

/-- The release that assembles next, with the buffer it takes: not started, not lost. -/
def nextAssembly (w : World) (t : Nat) : Option Release := (tmpl w t).releases.find? (fun r => !r.started && inFlight r)

/-- (a) of R152: fresh samples and DEP's solve of the same release, or the ASM_LATEST instant. -/
def asmFresh (w : World) (t : Nat) (r : Release) : Bool :=
  let set := w.cfg.active
  let rec_ := tRec set t
  let fresh := (tSlotList set t).all (fun s =>
    !((sKind s.2 == 1 || sKind s.2 == 3) && sWait s.2) ||
    (upTo (tBatch rec_)).all (fun i =>
      let x := sGet {} w.trunks.streams (sSource s.2 + i * sStep s.2)
      x.ever && decide (r.at_ / 65536 ≤ x.lastArr)))
  r.latest || (fresh && (!tDepEn rec_ || decide ((tmpl w (tDep rec_)).doneRel = some r.at_)))

/-- (b) of R152: the buffer's regions are not held. -/
def asmClear (w : World) (t e : Nat) : Bool :=
  (bufferChain w.cfg.active t (tmpl w t).nextBuffer).all (fun d =>
    (be w e).holds.all (fun h => tHome w h.template != tHome w t || (!spansMeet (h.base, h.len) (region d false) && !spansMeet (h.base, h.len) (region d true))))

/-- A template whose next release meets (a) and (b). -/
def asmReady (w : World) (t : Nat) : Bool :=
  match nextAssembly w t, tmplEngine w t with
  | some r, some e => asmFresh w t r && asmClear w t e
  | _, _ => false

/-- No other template of the engine goes first: higher PRIORITY, then lower number (06 R152). -/
def asmFirst (w : World) (t e : Nat) : Bool :=
  let pr (x : Nat) := tPriority (tRec w.cfg.active x)
  (tmplsOf w.cfg.active).all (fun u =>
    u == t || decide (tmplEngine w u ≠ some e) || !asmReady w u || decide (pr u < pr t) || (pr u == pr t && decide (t < u)))

/-! ## The queue (05 R114, R117, R119) -/

/-- The holds a chain takes as it enters the queue; an instance region that carries an output is held until publication. -/
def holdsOf (q : BeDesc) : List Hold :=
  let outHere := (bOuts (bOp q.desc)).any (fun i => !(bOff q.desc i).1)
  [{ base := q.inst.1, len := q.inst.2, template := q.template, release := q.release, idx := q.idx, untilPublished := outHere },
   { base := q.res.1, len := q.res.2, template := q.template, release := q.release, idx := q.idx, untilPublished := true, result := true }]

/-- Chains that wait enter while 32 entries hold them; the number bounds the work. -/
def admitChains : Nat → Be → Be
  | 0, x => x
  | k + 1, x =>
    match x.waiting with
    | c :: rest =>
      if x.queue.length + c.length ≤ 32 then
        let q := x.queue ++ c
        admitChains k { x with queue := q, waiting := rest, holds := x.holds ++ c.flatMap holdsOf, queueMax := max x.queueMax q.length }
      else x
    | [] => x

/-- A chain is enqueued, or waits for room. -/
def enqueueChain (e : Nat) (c : List BeDesc) (w : World) : World :=
  onBe e (fun x => admitChains 33 { x with waiting := x.waiting ++ [c] }) w

/-- ASSEMBLY_START: the template's next release is assembled into its buffer and its chain enqueued (06 R152). -/
def assemble (t : Nat) (w : World) : World :=
  match nextAssembly w t, tmplEngine w t with
  | some r, some e =>
    if !(asmReady w t && asmFirst w t e) then w else
      let set := w.cfg.active
      let rec_ := tRec set t
      let buffer := (tmpl w t).nextBuffer
      let chain := bufferChain set t buffer
      let first := nth 0 chain 0
      let home := tHome w t
      let slots := slotOrder (tSlotList set t)
      let a := (upTo (tBatch rec_)).foldl (fun (a : Asm) i =>
        let blk := blockBase first false i
        let a := { a with mem := copyWords home (blk + tCopyDst rec_) (tImgBase rec_ + i * tImgStride rec_) (tCopyWords rec_) a.mem }
        let a := slots.foldl (fun a s => asmSlot w home t r buffer blk i s a) a
        { a with mem := asmWarm w home t buffer i chain a.mem })
        { mem := w.solver.mem, pending := (tmpl w t).pending }
      let dep := tDepEn rec_ && decide ((tmpl w (tDep rec_)).doneRel ≠ some r.at_)
      let clamped := (a.pre.filter (fun p => bit p.2 37)).length
      let w := onSolver (fun s => { s with mem := a.mem }) w
      let carry (o : Nat × OutInst) : Nat × OutInst :=
        if buffer = 0 then (o.1, if o.2.carried0 then o.2 else { o.2 with carried0 := true, sig0 := o.2.sig })
        else (o.1, if o.2.carried1 then o.2 else { o.2 with carried1 := true, sig1 := o.2.sig })
      let w := onTmpl t (fun x => { x with
        pending := a.pending, nAged := x.nAged + a.aged, nClamped := x.nClamped + clamped,
        nextBuffer := (if tBuffers rec_ = 1 then 1 - buffer else 0), out := x.out.map carry }) w
      let w := onRelease t r.num (fun r => { r with
        started := true, buffer := buffer, depStale := dep, aged := a.aged, pre := a.pre, asmFlags := a.flags }) w
      enqueueChain e ((upTo chain.length).map (fun i =>
        let d := nth 0 chain i
        { desc := d, template := t, release := r.num, idx := i, asmFlags := if i = 0 then a.flags else 0,
          inst := region d false, res := region d true })) w
  | _, _ => w

/-- ASSEMBLY_START. -/
def execAssemblyStart (t : Fin 4096) (s : State) : Host.Outcome State Fault Refusal := liveEffect (assemble t) s

/-- ASM_LATEST_REACHED: assembly no longer waits for samples or for DEP (06 R152). -/
def execAsmLatestReached (t : Fin 4096) (s : State) : Host.Outcome State Fault Refusal :=
  liveEffect (fun w =>
    match nextAssembly w t with
    | some r =>
      if figureInstant w t r (tAsmLatest (tRec w.cfg.active t)) ≤ nowNs w then onRelease t r.num (fun r => { r with latest := true }) w
      else w
    | none => w) s

/-! ## Images that wait for holds (05 R117, 06 R147) -/

/-- A word of the local memory that a template's words stand in is held. -/
def wordHeld (w : World) (home word : Nat) : Bool :=
  w.solver.engines.any (fun e => e.2.holds.any (fun h => tHome w h.template == home && decide (h.base ≤ word) && decide (word < h.base + h.len)))

/-- Entries of images whose words are no longer held are written. -/
def drainImages (w : World) : World :=
  eachW ((w.solver.tmpls.filter (fun x => !x.2.imageDue.isEmpty)).map (·.1)) (fun t w =>
    let home := tHome w t
    let due := (tmpl w t).imageDue
    onTmpl t (fun x => { x with imageDue := due.filter (fun v => wordHeld w home (v.1 / 8)) }) (onSolver (fun s => { s with
      mem := (due.filter (fun v => !wordHeld w home (v.1 / 8))).foldl (fun m v => elPut home m v.1 v.2) s.mem }) w)) w

/-! ## Completion records (05 R140, Table 5.10) -/

/-- A descriptor ends: its completion record is queued and its flags enter ARITH_STICKY and ARITH_COUNT (03 R71). -/
def complete (e : Nat) (q : BeDesc) (result : Nat) (flags : BitVec 8) (status : List W64) (cycles : Nat) (w : World) : World :=
  let flagged := (status.filter (fun s => bits s.toNat 63 56 ≠ 0 || bits s.toNat 47 40 ≠ 0 || bits s.toNat 38 32 ≠ 0)).length
  let c : Completion := { template := bTemplate q.desc, tag := bTag q.desc, result := result, flags := flags, nFlagged := flagged,
                          cycles := cycles, endLc0 := nowNs w }
  let count (f : W64 → Nat) : Nat := (status.map f).sum
  onTiles (enterFlags (128 + e) flags) (onBe e (fun x => { x with
    fifo := x.fifo ++ [c], last := c,
    regPivots := x.regPivots + count (fun s => bits s.toNat 47 40)
    notConverged := x.notConverged + count (fun s => b2n (bits s.toNat 63 56 = 1))
    warmIgnored := x.warmIgnored + count (fun s => bits s.toNat 35 35)
    boxFixed := x.boxFixed + count (fun s => bits s.toNat 36 36) }) w)

/-- What is left of a solve leaves the queue: the descriptor that runs or comes next ends with a result, the later ones are discarded, its
holds end. The flags that the one has gathered, and the assembler's, are in its record (05 R121, R140, R142, R143; 03 R70, R71). -/
def dropChain (t num result : Nat) (w : World) : World :=
  drainImages (eachW (upTo 32) (fun e w =>
    let x := be w e
    let mine (q : BeDesc) : Bool := q.template == t && q.release == num
    let left := x.queue.filter mine ++ (x.waiting.flatten).filter mine
    let cyc := match x.run, x.queue with
      | some r, q :: _ => if mine q then (nowNs w - r.start) * 7 / 10 else 0
      | _, _ => 0
    let running := match x.queue with | q :: _ => mine q | [] => false
    let (flags, counted) := match x.run with
      | some r => if running then (r.flags, r.counted) else (0, 0)
      | none => (0, 0)
    if left.isEmpty && !x.holds.any (fun h => h.template == t && h.release == num) then w else
      let w := match left with
        | [] => w
        | q :: rest =>
          let w := complete e q result (flags ||| q.asmFlags) [] cyc w
          rest.foldl (fun w q => complete e q 4 q.asmFlags [] 0 w) w
      onBe e (fun x => admitChains 33 { x with
        run := if running then none else x.run
        queue := x.queue.filter (fun q => !mine q)
        waiting := (x.waiting.map (fun c => c.filter (fun q => !mine q))).filter (fun c => !c.isEmpty)
        holds := x.holds.filter (fun h => !(h.template == t && h.release == num))
        busy := x.busy + (cyc - counted)
        discarded := x.discarded + (if result = 4 then left.length else left.length - 1) }) w) w)

/-! ## Early routes and retirement (06 R165, 05 R140) -/

/-- Element `el` of instance `i`'s result block of a chain as it stands in local memory. -/
def resElem (w : World) (e : Nat) (chain : List (BitVec 512)) (i el : Nat) : Int :=
  elGet w e (blockBase (resOwner chain el) true i * 8 + el)

/-- The value of a route for a TEMPLATE slot: rescaled exactly, rounded once, saturating (06 R164). -/
def routeX32 (v : Int) (q sq : Nat) : W32 := wordX (narrowX v q sq).1

/-- EARLY routes of a solve that retired on time produce their deltas (06 R165). -/
def earlyRoutes (t e : Nat) (chain : List (BitVec 512)) (w : World) : World :=
  let set := w.cfg.active
  eachW (tRouteList set t) (fun r w =>
    if !(rEarly r.2 && rKind r.2 == 0) then w else
      eachW (upTo (tBatch (tRec set t))) (fun i w =>
        let x := rBase r.2 + i * rStep r.2
        let q := (routeQ (tChain set t) (rElem r.2)).getD 0
        let v := routeX32 (resElem w e chain i (rElem r.2)) q (sQ (slotOf set (x / 4096) (x % 4096)))
        enterDelta (x / 4096) (x % 4096) i 0 v 1 (nowNs w) w) w) w

/-- The slowest instance's ITERS. -/
def slowest (status : List W64) : Nat := (status.map (fun s => bits s.toNat 55 48)).foldl max 0

/-- A release misses its deadline: what is left of its chain is abandoned, and its engine counts the miss (05 R142). -/
def missRelease (t : Nat) (r : Release) (w : World) : World :=
  let w := onRelease t r.num (fun r => { r with dead := true, fail := some 1 }) w
  let w := match tmplEngine w t with
    | some e => onBe e (fun x => { x with abandoned := x.abandoned + 1 }) w
    | none => w
  dropChain t r.num 1 w

/-- BASALT_RETIRE: the head descriptor retires within its bound, or is refused under R121. -/
def retireBasalt (e cycles : Nat) (w : World) : World :=
  let x := be w e
  match x.queue with
  | [] => w
  | q :: rest =>
    match x.run with
    | none =>
      if bDescOk q.desc then w
      else
        let w := onBe e (fun x => { x with badDesc := x.badDesc + 1 }) w
        onRelease q.template q.release (fun r => { r with fail := some 5 }) (dropChain q.template q.release 2 w)
    | some r =>
      if cycBound q.desc (slowest r.status) < cycles then w else
        let w := complete e q 0 (r.flags ||| q.asmFlags) r.status cycles w
        let w := onBe e (fun x => admitChains 33 { x with
          queue := rest, run := none, commands := x.commands + 1, busy := x.busy + (cycles - r.counted)
          holds := x.holds.filter (fun h => !(h.template == q.template && h.release == q.release && h.idx == q.idx && !h.untilPublished)) }) w
        let w := drainImages w
        let w := if bPostEn q.desc then postSync (bSyncObj q.desc) w else w
        let last := match rest with | n :: _ => !(n.template == q.template && n.release == q.release) | [] => true
        if !last then w else
          match releaseOf w q.template q.release with
          | none => w
          | some rel =>
            let late := deadlineMet w q.template rel
            let w := onRelease q.template q.release (fun z => { z with doneAt := some (nowNs w), status := r.status }) w
            if !inFlight rel then w else if late then missRelease q.template rel w else
              earlyRoutes q.template (tHome w q.template) (bufferChain w.cfg.active q.template rel.buffer)
                (onTmpl q.template (fun z => { z with doneRel := some rel.at_ }) w)

/-- BASALT_RETIRE. -/
def execBasaltRetire (e : Fin 32) (cycles : Nat) (s : State) : Host.Outcome State Fault Refusal :=
  liveEffect (retireBasalt e cycles) s

/-! ## Deadlines (05 R142, 02 R55) and uncorrectable errors (05 R143) -/

/-- DEADLINE_REACHED: the deadline instant of the template's oldest release still before it. A solve not complete earlier is
missed and its chain abandoned; a release that a boundary has judged before leaves. -/
def deadlineReached (t : Nat) (w : World) : World :=
  match (tmpl w t).releases.find? (fun r => !r.dead) with
  | none => w
  | some r =>
    if !deadlineMet w t r then w
    else if r.judged then onTmpl t (fun x => { x with releases := x.releases.filter (fun z => z.num ≠ r.num) }) w
    else if r.fail.isSome || r.doneAt.isSome then onRelease t r.num (fun r => { r with dead := true }) w
    else missRelease t r w

/-- DEADLINE_REACHED. -/
def execDeadlineReached (t : Fin 4096) (s : State) : Host.Outcome State Fault Refusal := liveEffect (deadlineReached t) s

/-- An uncorrectable error in a word the running descriptor reads. -/
def basaltStruck (e : Nat) (w : World) : World :=
  match (be w e).queue, (be w e).run with
  | q :: _, some _ =>
    let w := onBe e (fun x => { x with uncorrectable := x.uncorrectable + 1 }) w
    onRelease q.template q.release (fun r => { r with fail := some 2 }) (dropChain q.template q.release 3 w)
  | _, _ => w

/-- BASALT_UNCORRECTABLE. -/
def execBasaltUncorrectable (e : Fin 32) (s : State) : Host.Outcome State Fault Refusal :=
  liveEffect (fun w => whenW (be w e).run.isSome (fun w => let a := draw 64 w; reportUnc (e / 8) 1 a.1.toNat (basaltStruck e a.2)) w) s

end Sys2Proof.Machine
end

