-- ==== Sys2Proof/Machine/AdmitRange.lean ====
section
/-! DEFINITION. The range analysis of admission: a magnitude bound for every item a chain reads or forms, and for every exact
sum, from the declared bounds (06 R149, R158, Table 6.4; log 37). -/

namespace Sys2Proof.Machine

/-! ## Bounds -/

/-- The unit of a real bound is 2^-96; a bound of a stored code is in units of 2^-64 codes. Both round up. -/
def one96 : Nat := 2 ^ 96
/-- A code's magnitude at `q` as a real bound. -/
def rgCode (c q : Nat) : Nat := c * 2 ^ (96 - q)
def mulUp (a b : Nat) : Nat := ceilDiv (a * b) one96
def sqrtUp (a : Nat) : Nat := let r := isqrt (a * one96); if r * r < a * one96 then r + 1 else r
/-- 1 / τ for a code τ at `q`. -/
def recipUp (tau q : Nat) : Nat := ceilDiv (2 ^ (96 + q)) (max 1 tau)

/-- What the analysis holds: bounds by element of the engine's memory, 1/L_jj of the factors CHOL has made by first element,
and the items that fail: descriptor, item. -/
structure RangeSt where
  m : Store Nat := []
  factors : Store Nat := []
  bad : List (Nat × Nat) := []
  deriving DecidableEq, Repr

abbrev RA (α : Type) : Type := StateM RangeSt α

/-- The bound of an element, read as a code at `q`. -/
def rgRd (e q : Nat) : RA Nat := do
  return sGet 0 (← get).m e * 2 ^ (32 - q)

/-- An element given a real bound, as a code at `q`. -/
def rgWr (e q b : Nat) : RA Unit := modify (fun s => { s with m := sInsert s.m e (ceilDiv b (2 ^ (32 - q))) })

/-- A condition on an item, with its descriptor. -/
def needB (ok : Bool) (di it : Nat) : RA Unit := modify (fun s => if ok || s.bad.contains (di, it) then s else { s with bad := s.bad ++ [(di, it)] })

/-- An X32 item holds its bound: B ≤ 2^(31-q) - 2^-q. -/
def fitB (di it q b : Nat) : RA Unit := needB (decide (b ≤ (2 ^ 31 - 1) * 2 ^ (96 - q))) di it

/-- An exact sum holds its terms: Σ|term| < 2^(63-q). -/
def sumB (di it q b : Nat) : RA Unit := needB (decide (b * 2 ^ q < 2 ^ (63 + 96))) di it

/-- Items that are no offset: reciprocals and sums. -/
def itRecip : Nat := 8
def itSum : Nat := 9
def itRhs : Nat := 10

/-- Bounds of a matrix as a list of rows. -/
abbrev BMat := List (List Nat)
def bmAt (a : BMat) (i j : Nat) : Nat := nth 0 (nth [] a i) j
def bmSym (a : BMat) (i j : Nat) : Nat := if j ≤ i then bmAt a i j else bmAt a j i

/-! ## Items in memory (05 Table 5.1) -/

/-- First element of an item of instance `i`, in the engine's memory. -/
def elemOf (d : BitVec 512) (i k : Nat) : Nat := (blockBase d (bOff d k).1 i + (bOff d k).2) * 8

/-- An item read and checked: rows by rows, each element at `q`. -/
def rgMat (di it q r c : Nat) (el : Nat → Nat → Nat) (dom : Nat → Nat → Bool) : RA BMat :=
  (upTo r).mapM (fun i => (upTo c).mapM (fun j => do
    if dom i j then
      let b ← rgRd (el i j) q
      fitB di it q b
      return b
    else return 0))

def rgPut (q r c : Nat) (el : Nat → Nat → Nat) (dom : Nat → Nat → Bool) (b : Nat → Nat → Nat) : RA Unit :=
  (upTo r).forM (fun i => (upTo c).forM (fun j => if dom i j then rgWr (el i j) q (b i j) else pure ()))

def lowDom (i j : Nat) : Bool := decide (j ≤ i)
def allDom (_ _ : Nat) : Bool := true
def pEl (e i j : Nat) : Nat := e + i * (i + 1) / 2 + j
def dEl (e c i j : Nat) : Nat := e + i * (8 * ceilDiv c 8) + j
def vEl (e n i j : Nat) : Nat := e + j * (8 * ceilDiv n 8) + i

def rgP (di it q n e : Nat) : RA BMat := rgMat di it q n n (pEl e) lowDom
def rgD (di it q r c e : Nat) : RA BMat := rgMat di it q r c (dEl e c) allDom
def rgV (di it q n k e : Nat) : RA BMat := rgMat di it q n k (vEl e n) allDom

/-! ## Declared bounds (06 R158; log 37) -/

/-- BOUND_LIST: block (1 result), element, bound as a code of its item. -/
def boundList (set : Store Bytes) (t : Nat) : List (Nat × Nat × Nat) :=
  let b := objIn set 0x4105 0 t
  (upTo (b.length / 8)).map (fun i => let v := leAt b (8 * i) 8; (bits v 16 16, bits v 15 0, bits v 63 32))

/-- The bound declared for the quantity whose place is element `x` of item `k`; an item without one fails. -/
def declB (bl : List (Nat × Nat × Nat)) (d : BitVec 512) (di k x q : Nat) : RA Nat := do
  let o := bOff d k
  match bl.find? (fun e => e.1 = b2n o.1 && e.2.1 = o.2 * 8 + x) with
  | some e =>
    fitB di k q (rgCode e.2.2 q)
    return rgCode e.2.2 q
  | none =>
    needB false di k
    return 0

/-- The declared bound of an item that has one, for a quantity that the rules also derive. -/
def declOr (bl : List (Nat × Nat × Nat)) (d : BitVec 512) (k x q b : Nat) : Nat :=
  let o := bOff d k
  match bl.find? (fun e => e.1 = b2n o.1 && e.2.1 = o.2 * 8 + x) with
  | some e => rgCode e.2.2 q
  | none => b

/-! ## Rules by opcode (06 Table 6.4) -/

def sumList (l : List Nat) : Nat := l.foldl (· + ·) 0
def maxList (l : List Nat) : Nat := l.foldl max 0

/-- CHOL of a symmetric matrix with bounds `a` at qa; what the row bounds of L are. -/
def rgChol (di it : Nat) (tau delta n qa ql qr : Nat) (a : BMat) : RA (List Nat) := do
  let reg := rgCode delta qa + rgCode tau qa
  let rows := (upTo n).map (fun i => sqrtUp (bmAt a i i + reg))
  fitB di it qa (maxList ((upTo n).map (fun i => bmAt a i i)) + reg)
  (upTo n).forM (fun i => do
    fitB di it ql (nth 0 rows i)
    (upTo (i + 1)).forM (fun j => sumB di itSum (max qa (2 * ql)) (bmAt a i j + j * mulUp (nth 0 rows i) (nth 0 rows j))))
  fitB di itRecip qr (sqrtUp (mulUp one96 (recipUp tau qa)))
  return rows

/-- The numerators of a triangular solve of one column: factor bounds at qf, right-hand side at qb, solution bound x at qx. -/
def rgSolve (di n qf qb qx : Nat) (unit : Bool) (f : Nat → Nat → Nat) (b : Nat → Nat) (x : Nat) (up : Bool) : RA Unit :=
  (upTo n).forM (fun i => do
    let ks := if up then (upTo (n - 1 - i)).map (· + (i + 1)) else upTo i
    let s := b i + sumList (ks.map (fun k => mulUp (f i k) x))
    sumB di itSum (max qb (qf + qx)) s
    if unit then pure () else fitB di itRhs qb s)

/-- TRI (05 Table 5.6). -/
def rgTri (bl : List (Nat × Nat × Nat)) (di : Nat) (d : BitVec 512) (i : Nat) : RA Unit := do
  let n := bN d
  let k := bK d
  let md := bMode d
  let qf := if md = 4 then bQA d else bQL d
  let e := elemOf d i 0
  let f ← if 5 ≤ md then rgD di 0 qf n n e else if md = 4 then rgMat di 0 qf n n (pEl e) (fun a b => a == b) else
    rgMat di 0 qf n n (pEl e) (fun a b => if md = 2 ∨ md = 3 then decide (b < a) else decide (b ≤ a))
  let b ← rgV di 2 (bQB d) n k (elemOf d i 2)
  let x ← declB bl d di 3 0 (bQX d)
  let unit := md = 2 || md = 3 || md = 5
  (upTo k).forM (fun j =>
    rgSolve di n qf (bQB d) (bQX d) unit (fun r c => if md = 4 then 0 else if md = 1 ∨ md = 3 then bmAt f c r else bmAt f r c)
      (fun r => if md = 5 then maxList ((upTo n).map (fun q => bmAt b q j)) else bmAt b r j) x (md = 1 || md = 3 || md = 6))
  let st ← get
  if unit then pure () else fitB di itRecip (bQR d) ((sFind st.factors e).getD (recipUp (bTau d).toNat qf))
  rgPut (bQX d) n k (vEl (elemOf d i 3) n) allDom (fun _ _ => x)

/-- MUL. -/
def rgMul (di : Nat) (d : BitVec 512) (i : Nat) : RA Unit := do
  let n := bN d
  let m := bM d
  let e := elemOf d i 0
  let a ← if bAsym d then rgP di 0 (bQA d) n e else if bTransA d then rgD di 0 (bQA d) n m e else rgD di 0 (bQA d) m n e
  let at_ (r c : Nat) : Nat := if bAsym d then bmSym a r c else if bTransA d then bmAt a c r else bmAt a r c
  let b ← rgV di 1 (bQB d) n (bK d) (elemOf d i 1)
  let c ← if bAcc d then rgV di 2 (bQX d) m (bK d) (elemOf d i 2) else pure []
  let out (r j : Nat) : Nat := bmAt c r j + sumList ((upTo n).map (fun k => mulUp (at_ r k) (bmAt b k j)))
  (upTo m).forM (fun r => (upTo (bK d)).forM (fun j => do
    sumB di itSum (max (bQA d + bQB d) (if bAcc d then bQX d else 0)) (out r j)
    fitB di 2 (bQX d) (out r j)))
  rgPut (bQX d) m (bK d) (vEl (elemOf d i 2) m) allDom out

/-- The norm bound of a list of bounds. -/
def normUp (l : List Nat) : Nat := sqrtUp (sumList (l.map (fun x => mulUp x x)))

/-- QR. -/
def rgQr (di : Nat) (d : BitVec 512) (i : Nat) : RA Unit := do
  let n := bN d
  let m := bM d
  let a ← rgD di 0 (bQA d) m n (elemOf d i 0)
  let col (j : Nat) : Nat := normUp ((upTo m).map (fun r => bmAt a r j))
  (upTo n).forM (fun j => do
    fitB di 1 (bQL d) (col j)
    sumB di itSum (2 * bQL d) (mulUp (col j) (col j)))
  fitB di itRecip (bQR d) (recipUp (bTau d).toNat (bQL d))
  if bK d = 0 then pure () else
    let b ← rgV di 2 (bQB d) m (bK d) (elemOf d i 2)
    let bc (j : Nat) : Nat := normUp ((upTo m).map (fun r => bmAt b r j))
    (upTo (bK d)).forM (fun j => fitB di 3 (bQB d) (bc j))
    rgPut (bQB d) n (bK d) (vEl (elemOf d i 3) n) allDom (fun _ j => bc j)
  rgPut (bQL d) n n (pEl (elemOf d i 1)) lowDom (fun r _ => col r)

/-- LDL: D and W by element 0 of the output's declared bound, L by element 1. -/
def rgLdl (bl : List (Nat × Nat × Nat)) (di : Nat) (d : BitVec 512) (i : Nat) : RA Unit := do
  let n := bN d
  let a ← rgP di 0 (bQA d) n (elemOf d i 0)
  let w ← declB bl d di 1 0 (bQA d)
  let l ← if n = 1 then pure 0 else declB bl d di 1 1 (bQL d)
  (upTo n).forM (fun r => (upTo (r + 1)).forM (fun j => sumB di itSum (bQA d + bQL d) (bmAt a r j + j * mulUp w l)))
  fitB di itRecip (bQR d) (recipUp (bTau d).toNat (bQA d))
  (upTo n).forM (fun r => (upTo (r + 1)).forM (fun j =>
    if r = j then rgWr (pEl (elemOf d i 1) r j) (bQA d) w else rgWr (pEl (elemOf d i 1) r j) (bQL d) l))

/-- LU: U by the output's declared bound, multipliers 1. -/
def rgLu (bl : List (Nat × Nat × Nat)) (di : Nat) (d : BitVec 512) (i : Nat) : RA Unit := do
  let n := bN d
  let a ← rgD di 0 (bQA d) n n (elemOf d i 0)
  let u ← declB bl d di 1 0 (bQL d)
  fitB di 1 (bQL d) one96
  (upTo n).forM (fun r => (upTo n).forM (fun c => sumB di itSum (max (bQA d) (2 * bQL d)) (bmAt a r c + min r c * u)))
  fitB di itRecip (bQR d) (recipUp (bTau d).toNat (bQL d))
  rgPut (bQL d) n n (dEl (elemOf d i 1) n) allDom (fun r c => if c < r then one96 else u)

/-- REFINE. -/
def rgRefine (bl : List (Nat × Nat × Nat)) (di : Nat) (d : BitVec 512) (i : Nat) : RA Unit := do
  let n := bN d
  let k := bK d
  let md := bMode d
  let a ← if md = 2 then rgD di 0 (bQA d) n n (elemOf d i 0) else rgP di 0 (bQA d) n (elemOf d i 0)
  let e := elemOf d i 1
  let f ← if md = 2 then rgD di 1 (bQL d) n n e else rgMat di 1 (bQL d) n n (pEl e) (fun r c => if md = 1 then decide (c < r) else decide (c ≤ r))
  let _ ← if md = 1 then rgMat di 1 (bQA d) n n (pEl e) (fun r c => r == c) else pure []
  let b ← rgV di 3 (bQB d) n k (elemOf d i 3)
  let x ← declB bl d di 4 0 (bQX d)
  let ra (r c : Nat) : Nat := if md = 2 then bmAt a r c else bmSym a r c
  (upTo k).forM (fun j => do
    let r := (upTo n).map (fun i => bmAt b i j + sumList ((upTo n).map (fun c => mulUp (ra i c) x)))
    let rmax := maxList r
    (upTo n).forM (fun i => do
      sumB di itSum (max (bQB d) (bQA d + bQX d)) (nth 0 r i)
      fitB di itRhs (bQB d) (nth 0 r i))
    rgSolve di n (bQL d) (bQB d) (bQX d) (md ≠ 0) (fun i c => bmAt f i c) (fun i => if md = 2 then rmax else nth 0 r i) x false
    if md = 1 then rgSolve di n (bQA d) (bQX d) (bQX d) false (fun _ _ => 0) (fun _ => x) x false else pure ()
    rgSolve di n (bQL d) (bQX d) (bQX d) (md = 1) (fun i c => if md = 2 then bmAt f i c else bmAt f c i) (fun _ => x) x true)
  let st ← get
  fitB di itRecip (bQR d)
    (if md = 1 then recipUp (bTau d).toNat (bQA d) else (sFind st.factors e).getD (recipUp (bTau d).toNat (bQL d)))
  rgPut (bQX d) n k (vEl (elemOf d i 4) n) allDom (fun _ _ => x)

/-- QPBOX. -/
def rgQp (bl : List (Nat × Nat × Nat)) (di : Nat) (d : BitVec 512) (i : Nat) : RA Unit := do
  let n := bN d
  let qx := bQX d
  let h ← rgP di 0 (bQA d) n (elemOf d i 0)
  let g ← rgV di 1 (bQB d) n 1 (elemOf d i 1)
  let lo ← rgV di 2 qx n 1 (elemOf d i 2)
  let hi ← rgV di 3 qx n 1 (elemOf d i 3)
  let x := maxList ((upTo n).map (fun r => max (bmAt lo r 0) (bmAt hi r 0)))
  fitB di 4 qx x
  let grad := (upTo n).map (fun r => bmAt g r 0 + sumList ((upTo n).map (fun c => mulUp (bmSym h r c) x)))
  grad.forM (fun b => do
    sumB di itSum (max (bQA d + qx) (bQB d)) b
    fitB di itRhs (bQB d) b)
  let hr := (upTo n).map (fun r => (upTo n).map (fun c => if r = c then max one96 (bmAt h r c) else bmAt h r c))
  let rows ← rgChol di 6 (bTau d).toNat (bDelta d).toNat n (bQA d) (bQL d) (bQR d) hr
  let y ← declB bl d di 6 (8 * wP n) qx
  rgSolve di n (bQL d) (bQB d) qx false (fun r _ => nth 0 rows r) (fun r => nth 0 grad r) y false
  rgSolve di n (bQL d) qx qx false (fun _ c => nth 0 rows c) (fun _ => y) y true
  let w := elemOf d i 6
  rgPut qx n 1 (vEl (elemOf d i 4) n) allDom (fun _ _ => x)
  rgPut (bQL d) n n (pEl w) lowDom (fun r _ => nth 0 rows r)
  rgPut qx n 2 (vEl (w + 8 * wP n) n) allDom (fun _ _ => y)

/-- KFUP: x⁺ and w by declared bounds, w at the place of Se. -/
def rgKf (bl : List (Nat × Nat × Nat)) (di : Nat) (d : BitVec 512) (i : Nat) : RA Unit := do
  let n := bN d
  let m := bM d
  let ql := bQL d
  let pkg (l : List Nat) (k : Nat) : Nat := 8 * sumList (l.take k)
  let ein (k : Nat) : Nat := elemOf d i 0 + pkg (kIn d) k
  let eout (k : Nat) : Nat := elemOf d i 1 + pkg (kOut d) k
  let x ← rgV di 0 (bQX d) n 1 (ein 0)
  let s ← rgP di 0 ql n (ein (if kTime d then 2 else 1))
  let (xm, sm, srow) ← if kTime d then do
      let c ← rgV di 0 (bQX d) n 1 (ein 1)
      let f ← rgD di 0 (bQA d) n n (ein 3)
      let sq ← rgP di 0 ql n (ein 4)
      let xm := (upTo n).map (fun r => bmAt c r 0 + sumList ((upTo n).map (fun k => mulUp (bmAt f r k) (bmAt x k 0))))
      let fs (r j : Nat) : Nat := sumList ((upTo n).map (fun k => if j ≤ k then mulUp (bmAt f r k) (bmAt s k j) else 0))
      let rows := (upTo n).map (fun r => normUp ((upTo n).map (fs r) ++ (upTo (r + 1)).map (fun j => bmAt sq r j)))
      xm.forM (fun b => do
        sumB di itSum (bQA d + bQX d) b
        fitB di 1 (bQX d) b)
      (upTo n).forM (fun r => do
        (upTo n).forM (fun j => do
          sumB di itSum (bQA d + ql) (fs r j)
          fitB di 0 ql (fs r j))
        sumB di itSum (2 * ql) (mulUp (nth 0 rows r) (nth 0 rows r))
        fitB di 1 ql (nth 0 rows r))
      -- S⁻ is bounded by the rows, and by the bound that the designer declares for S (06 R158; log 97)
      let decl := declOr bl d 1 (pkg (kOut d) 1) ql (maxList rows)
      pure (xm, (upTo n).map (fun r => (upTo n).map (fun c => if c ≤ r then min decl (nth 0 rows r) else 0)), rows)
    else pure ((upTo n).map (fun r => bmAt x r 0), s, (upTo n).map (fun r => normUp ((upTo (r + 1)).map (fun j => bmAt s r j))))
  let xp ← declB bl d di 1 0 (bQX d)
  let sp ← if kMeas d then do
      let k0 := if kTime d then 5 else 2
      let h ← rgD di 0 (bQA d) m n (ein k0)
      let sr ← rgP di 0 ql m (ein (k0 + 1))
      let z ← rgV di 0 (bQB d) m 1 (ein (k0 + 2))
      let nu := (upTo m).map (fun r => bmAt z r 0 + sumList ((upTo n).map (fun k => mulUp (bmAt h r k) (nth 0 xm k))))
      let hs (r j : Nat) : Nat := sumList ((upTo n).map (fun k => if j ≤ k then mulUp (bmAt h r k) (bmAt sm k j) else 0))
      -- a row of H·S⁻ by its elements, or by the rows of S⁻ that it sums
      let hsRow (r : Nat) : Nat := min (normUp ((upTo n).map (hs r))) (sumList ((upTo n).map (fun k => mulUp (bmAt h r k) (nth 0 srow k))))
      let se := (upTo m).map (fun r => normUp (hsRow r :: (upTo (r + 1)).map (fun j => bmAt sr r j)))
      let sp := (upTo n).map (fun r => min (nth 0 srow r) (normUp ((upTo (r + 1)).map (fun j => bmAt sm r j))))
      let oSe := pkg (kOut d) 3
      let w ← declB bl d di 1 oSe (bQR d)
      nu.forM (fun b => do
        sumB di itSum (max (bQB d) (bQA d + bQX d)) b
        fitB di 1 (bQB d) b)
      (upTo m).forM (fun r => do
        (upTo n).forM (fun j => do
          sumB di itSum (bQA d + ql) (hs r j)
          fitB di 0 ql (hs r j))
        sumB di itSum (2 * ql) (mulUp (nth 0 se r) (nth 0 se r))
        fitB di 1 ql (nth 0 se r))
      (upTo n).forM (fun r => do
        fitB di 1 ql (nth 0 sp r)
        sumB di itSum (max (bQX d) (ql + bQR d)) (nth 0 xm r + m * mulUp (nth 0 sp r) w))
      rgSolve di m ql (bQB d) (bQR d) false (fun r _ => nth 0 se r) (fun r => nth 0 nu r) w false
      rgPut (bQB d) m 1 (vEl (eout 2) m) allDom (fun r _ => nth 0 nu r)
      rgPut ql m m (pEl (eout 3)) lowDom (fun r _ => nth 0 se r)
      pure sp
    else pure ((upTo n).map (fun r => maxList ((upTo n).map (bmAt sm r))))
  fitB di itRecip (bQR d) (recipUp (bTau d).toNat ql)
  rgPut (bQX d) n 1 (vEl (eout 0) n) allDom (fun _ _ => xp)
  rgPut ql n n (pEl (eout 1)) lowDom (fun r _ => declOr bl d 1 (pkg (kOut d) 1) ql (nth 0 sp r))

/-- One descriptor of a chain, for one instance. -/
def rgDesc (bl : List (Nat × Nat × Nat)) (di : Nat) (d : BitVec 512) (i : Nat) : RA Unit :=
  match bOp d with
  | 1 => do
    let a ← rgP di 0 (bQA d) (bN d) (elemOf d i 0)
    let rows ← rgChol di 1 (bTau d).toNat (bDelta d).toNat (bN d) (bQA d) (bQL d) (bQR d) a
    modify (fun s => { s with factors := sInsert s.factors (elemOf d i 1) (sqrtUp (mulUp one96 (recipUp (bTau d).toNat (bQA d)))) })
    rgPut (bQL d) (bN d) (bN d) (pEl (elemOf d i 1)) lowDom (fun r _ => nth 0 rows r)
  | 2 => rgLdl bl di d i
  | 3 => rgQr di d i
  | 4 => rgLu bl di d i
  | 5 => rgTri bl di d i
  | 6 => rgMul di d i
  | 7 => rgRefine bl di d i
  | 8 => rgKf bl di d i
  | 9 => rgQp bl di d i
  | _ => pure ()

/-! ## Where the instance block's bounds come from -/

/-- A bound raised to a code's magnitude. -/
def raise (m : Store Nat) (e c : Nat) : Store Nat := sInsert m e (max (sGet 0 m e) (c * 2 ^ 64))

/-- The elements that the image and the slots of a template put into the block of instance `i` (buffer 0): constants, copied
constants, MEAS, WINDOW and PARAM slots (06 R147, R149). -/
def startBounds (set : Store Bytes) (t i : Nat) : Store Nat :=
  let r := tRec set t
  let d := nth 0 (tChain set t) 0
  let base := blockBase d false i * 8
  let img := imageConstants set t
  let m := img.foldl (fun m e => raise m e.1 e.2.natAbs) []
  let m := (upTo (tCopyWords r * 8)).foldl (fun m k =>
    let src := (tImgBase r + i * tImgStride r) * 8 + k
    raise m (base + tCopyDst r * 8 + k) (maxList ((img.filter (fun e => e.1 = src)).map (fun e => e.2.natAbs)))) m
  (tSlotList set t).foldl (fun m s =>
    let b := max (sLo s.2).natAbs (sHi s.2).natAbs
    match sKind s.2 with
    | 1 | 2 => raise m (base + sElem s.2) b
    | 3 => (upTo (sDepth s.2)).foldl (fun m k => raise m (base + sElem s.2 + k) b) m
    | _ => m) m
where
  /-- IMAGE: element of the local memory and value (log 27). -/
  imageConstants (set : Store Bytes) (t : Nat) : List (Nat × Int) :=
    let b := objIn set 0x4104 0 t
    (upTo (b.length / 8)).map (fun i => let v := leAt b (8 * i) 8; (bits v 15 0, signed 32 (bits v 63 32)))

/-- The elements a CARRY slot copies for instance `i`: source and destination. -/
def carryPairs (set : Store Bytes) (t i : Nat) : List (Nat × Nat × Nat) :=
  let d := nth 0 (tChain set t) 0
  ((tSlotList set t).filter (fun s => sKind s.2 = 4)).flatMap (fun s =>
    (upTo (8 * sStep s.2)).map (fun k =>
      (s.1, blockBase d true i * 8 + sSource s.2 * 8 + k, blockBase d false i * 8 + sElem s.2 * 8 + k)))

/-- The chain run over bounds. -/
def rgChain (set : Store Bytes) (t i : Nat) (m : Store Nat) : RangeSt :=
  let chain := tChain set t
  ((upTo chain.length).forM (fun k => rgDesc (boundList set t) k (nth 0 chain k) i) { m := m }).2

/-- The items of a template that the analysis refuses, as descriptor and item; 16 + slot for a CARRY whose bound does not
settle: the second pass carries what the first pass found. -/
def rangeFailures (set : Store Bytes) (t i : Nat) : List (Nat × Nat) :=
  let m := startBounds set t i
  let one := rgChain set t i m
  let pairs := carryPairs set t i
  let m2 := pairs.foldl (fun m p => sInsert m p.2.2 (max (sGet 0 m p.2.2) (sGet 0 one.m p.2.1))) m
  let two := rgChain set t i m2
  two.bad ++ ((pairs.filter (fun p => decide (sGet 0 one.m p.2.1 < sGet 0 two.m p.2.1))).map (fun p => (0, 16 + p.1))).dedup

/-! ## Forms of items, for CARRY (06 R149) -/

/-- A storage form: P n, D r c, V n k, pivots. -/
inductive Form where
  | p (n : Nat)
  | d (r c : Nat)
  | v (n k : Nat)
  | piv (n : Nat)
  deriving DecidableEq, Repr

def Form.size : Form → Nat
  | .p n => wP n
  | .d r c => wD r c
  | .v n k => wV n k
  | .piv n => wPiv n

/-- The items of a descriptor as block, word, form and q, a package or a warm record taken apart. -/
def formItems (d : BitVec 512) : List (Bool × Nat × Form × Nat) :=
  let n := bN d
  let m := bM d
  let k := bK d
  let at_ (i w : Nat) (f : Form) (q : Nat) : List (Bool × Nat × Form × Nat) := [((bOff d i).1, (bOff d i).2 + w, f, q)]
  let run (i : Nat) (l : List (Form × Nat)) : List (Bool × Nat × Form × Nat) :=
    (l.foldl (fun (a : List (Bool × Nat × Form × Nat) × Nat) f => (a.1 ++ at_ i a.2 f.1 f.2, a.2 + f.1.size)) ([], 0)).1
  match bOp d with
  | 1 | 2 => at_ 0 0 (.p n) (bQA d) ++ at_ 1 0 (.p n) (bQL d)
  | 3 => at_ 0 0 (.d m n) (bQA d) ++ at_ 1 0 (.p n) (bQL d) ++
         (if k = 0 then [] else at_ 2 0 (.v m k) (bQB d) ++ at_ 3 0 (.v n k) (bQB d))
  | 4 => at_ 0 0 (.d n n) (bQA d) ++ at_ 1 0 (.d n n) (bQL d) ++ at_ 2 0 (.piv n) 0
  | 5 => at_ 0 0 (if 5 ≤ bMode d then .d n n else .p n) (if bMode d = 4 then bQA d else bQL d) ++
         (if bMode d = 5 then at_ 1 0 (.piv n) 0 else []) ++ at_ 2 0 (.v n k) (bQB d) ++ at_ 3 0 (.v n k) (bQX d)
  | 6 => at_ 0 0 (if bAsym d then .p n else if bTransA d then .d n m else .d m n) (bQA d) ++ at_ 1 0 (.v n k) (bQB d) ++
         at_ 2 0 (.v m k) (bQX d)
  | 7 => at_ 0 0 (if bMode d = 2 then .d n n else .p n) (bQA d) ++ at_ 1 0 (if bMode d = 2 then .d n n else .p n) (bQL d) ++
         (if bMode d = 2 then at_ 2 0 (.piv n) 0 else []) ++ at_ 3 0 (.v n k) (bQB d) ++ at_ 4 0 (.v n k) (bQX d) ++
         (if bWarm d then at_ 5 1 (.v n k) (bQX d) else [])
  | 8 =>
    run 0 ((if kTime d then [(.v n 1, bQX d), (.v n 1, bQX d), (.p n, bQL d), (.d n n, bQA d), (.p n, bQL d)]
            else [(.v n 1, bQX d), (.p n, bQL d)]) ++
           (if kMeas d then [(.d m n, bQA d), (.p m, bQL d), (.v m 1, bQB d)] else [])) ++
    run 1 ([(.v n 1, bQX d), (.p n, bQL d)] ++ (if kMeas d then [(.v m 1, bQB d), (.p m, bQL d)] else []))
  | 9 => at_ 0 0 (.p n) (bQA d) ++ at_ 1 0 (.v n 1) (bQB d) ++ at_ 2 0 (.v n 1) (bQX d) ++ at_ 3 0 (.v n 1) (bQX d) ++
         at_ 4 0 (.v n 1) (bQX d) ++ (if bWarm d then at_ 5 1 (.v n 1) (bQX d) else []) ++
         run 6 [(.p n, bQL d), (.v n 2, bQX d)]
  | _ => []

/-- A CARRY slot joins items of one form and q: some item of a result block and some item of an instance block, met at the
same place, cover the words copied. -/
def carryOk (set : Store Bytes) (t : Nat) (s : Bytes) : Bool :=
  let items := (tChain set t).flatMap formItems
  let first := nth 0 (tChain set t) 0
  let base (d : BitVec 512) (res : Bool) : Nat := if res then bResBase d else bInstBase d
  let placed := (tChain set t).flatMap (fun d => (formItems d).map (fun f => (f.1, base d f.1 + f.2.1, f.2.2.1, f.2.2.2)))
  let src := bResBase first + sSource s
  let dst := bInstBase first + sElem s
  let cover (f : Bool × Nat × Form × Nat) (a : Nat) : Bool := decide (f.2.1 ≤ a) && decide (a + sStep s ≤ f.2.1 + f.2.2.1.size)
  !items.isEmpty &&
  placed.any (fun a => a.1 && cover a src && placed.any (fun b =>
    !b.1 && cover b dst && decide (a.2.2 = b.2.2) && src - a.2.1 == dst - b.2.1))

end Sys2Proof.Machine
end

