-- ==== Sys2Proof/Machine/Publish.lean ====
section
/-! DEFINITION. Publication at a tick boundary: what is published, what is not, where routes deliver, how stale
destinations hold (05 R142, R143, 06 R164 to R168, Table 6.6), and what a SWAP does to templates (06 R147, R156). -/

namespace Sys2Proof.Machine

/-! ## Route destinations (06 R164, R166, 07 R175) -/

/-- Destination of a route for instance `i`: its number. -/
def routeDest (r : Bytes) (i : Nat) : Nat := rBase r + i * rStep r

/-- The key of a destination: kind, number, loop field, and for a TEMPLATE slot the instance. -/
def destKey (r : Bytes) (i : Nat) : Nat :=
  ((rKind r * 2 ^ 26 + routeDest r i) * 16 + (if rKind r = 1 then rField r else 0)) * 512 + (if rKind r = 0 then i else 0)

/-- The bits of LOOP_RECORD that a loop field code names: code, low bit (07 Table 7.4). -/
def loopFieldLow (code : Nat) : Option Nat :=
  match code with
  | 1 => some 466
  | 2 => some 498
  | 3 => some 530
  | _ => none

/-- A G32 value written in the 32 bits at `lo` of a record of the active set. -/
def writeActive32 (index inst lo : Nat) (v : W32) (w : World) : World :=
  if hasObj w.cfg.active index 0 inst then
    onCfg (fun c => { c with active := putObj c.active index 0 inst (setField (objIn c.active index 0 inst) (lo + 31) lo v.toNat) }) w
  else w

/-- A value delivered to a loop field or to a generator's TARGET (07 R175, R192). -/
def deliverG32 (r : Bytes) (i : Nat) (v : W32) (w : World) : World :=
  if rKind r = 1 then
    match loopFieldLow (rField r) with
    | some lo => writeActive32 0x5010 (routeDest r i) lo v w
    | none => w
  else if rKind r = 2 then writeActive32 0x5020 (routeDest r i) 50 v w
  else w

/-- A ROUTE delta for the TEMPLATE slot of a route, at a production instant. -/
def deliverDelta (r : Bytes) (i : Nat) (v : W32) (prod : Nat) (w : World) : World :=
  enterDelta (routeDest r i / 4096) (routeDest r i % 4096) i 0 v 1 prod w

/-- A destination due a value and given none: its stale run, and DEFAULT where HOLD calls for it (06 R166). The second
component says that DEFAULT was newly applied. -/
def staleDest (r : Bytes) (i prod : Nat) (w : World) : World × Bool :=
  let d := sGet {} w.solver.dests (destKey r i)
  let run := d.run + 1
  let now := !d.defaulted && (rHold r == 2 || (rHold r == 1 && decide (rStaleLimit r ≤ run)))
  let w := onSolver (fun s => { s with dests := sPut {} s.dests (destKey r i) { stale := true, run := run, defaulted := d.defaulted || now } }) w
  if !now then (w, false)
  else if rKind r = 0 then (deliverDelta r i (rDefault r) prod w, true)
  else (deliverG32 r i (rDefault r) w, true)

/-- Every stale destination of a list of routes and instances, none twice, none of those seen: which have been, and whether DEFAULT was
newly applied. -/
def staleAll (seen : List Nat) (prod : Nat) : List (Bytes × Nat) → World → World × List Nat × Bool
  | [], w => (w, seen, false)
  | (r, i) :: rest, w =>
    if seen.contains (destKey r i) then staleAll seen prod rest w else
      let (w, a) := staleDest r i prod w
      let (w, seen, b) := staleAll (destKey r i :: seen) prod rest w
      (w, seen, a || b)

/-- A destination is marked stale: STALE_INPUT of a loop, STALE_TARGET of a generator (06 R166, 07 Table 7.3, R194). -/
def loopStale (w : World) (l : Nat) : Bool :=
  w.solver.dests.any (fun d => d.2.stale && decide (d.1 / 512 / 16 = 2 ^ 26 + l))
def genStale (w : World) (g : Nat) : Bool :=
  w.solver.dests.any (fun d => d.2.stale && decide (d.1 / 512 / 16 = 2 * 2 ^ 26 + g))

/-- FLAGS of a loop as they stand: STALE_INPUT beside those its updates keep (07 R174, R199). -/
def loopFlags (w : World) (l : Nat) : BitVec 16 :=
  (sGet {} w.halo.loops l).flags ||| (if loopStale w l then BitVec.ofNat 16 (2 ^ 10) else 0)
/-- FLAGS of a generator as they stand: STALE_TARGET beside those its steps keep (07 R192, R194). -/
def genFlags (w : World) (g : Nat) : BitVec 8 :=
  (sGet {} w.halo.gens g).flags ||| (if genStale w g then BitVec.ofNat 8 (2 ^ 4) else 0)

/-! ## One release (06 R164, R166, R168) -/

/-- OVF of an instance status word (05 Table 5.9). -/
def stOvf (s : W64) : Bool := bit s.toNat 32

/-- Instances of a release that OVF_ACTION withholds (06 R168). -/
def withheldInsts (rec : Bytes) (r : Release) : List Nat :=
  if tOvfAction rec = 1 then (upTo (tBatch rec)).filter (fun i => stOvf (nth 0 r.status i)) else []

/-- The holds of a solve end and chains that waited enter. -/
def releaseHolds (t num : Nat) (w : World) : World :=
  drainImages (eachW (upTo 32) (fun e w =>
    if (be w e).holds.any (fun h => h.template == t && h.release == num) then
      onBe e (fun x => admitChains 33 { x with holds := x.holds.filter (fun h => !(h.template == t && h.release == num)) }) w
    else w) w)

/-- The result block of instance `i`, without the later rewriting of the region: each word from the block of the descriptor that wrote it
last (06 R164). -/
def resBlock (w : World) (e : Nat) (chain : List (BitVec 512)) (i : Nat) : Bytes :=
  (upTo (resLen chain)).flatMap (fun k => Mem.read w.solver.mem (elAddr e ((blockBase (resOwner chain (8 * k)) true i + k) * 8)) 32)

/-- What a judged release leaves to its destinations: those that received a value, those due one that received none. -/
structure Judged where
  got : List Nat := []
  due : List (Nat × Bytes × Nat) := []

/-- The release flags of RELEASE_STATUS that its instances give. -/
def releaseFlags (r : Release) (x : Tmpl) : Tmpl :=
  { x with
    aged := min r.aged 255
    clamped := min (r.pre.filter (fun p => bit p.2 37)).length 255
    depStale := r.depStale
    warmAny := r.status.any (fun s => bit s.toNat 35)
    ovfAny := r.status.any stOvf
    noted := x.noted + r.aged + (r.pre.filter (fun p => bit p.2 37)).length +
      (r.status.map (fun s => bits s.toNat 47 40 + bits s.toNat 34 34)).foldl (· + ·) 0 }

/-- A solve is published: outputs, routes, status; `prod` is the boundary's instant in whole ns. -/
def publishRelease (t prod : Nat) (r : Release) (a : World × Judged) : World × Judged :=
  let w := a.1
  let set := w.cfg.active
  let rec_ := tRec set t
  let chain := bufferChain set t r.buffer
  let e := tHome w t
  let off := withheldInsts rec_ r
  let insts := upTo (tBatch rec_)
  let blocks := insts.map (fun i => (i, resBlock w e chain i))
  let out := blocks.foldl (fun o b =>
    if off.contains b.1 then sUpd {} o b.1 (fun x => { x with stale := true })
    else sPut {} o b.1
      { fresh := w.dev.epoch + 1, stale := false, status := nth 0 r.status b.1, block := b.2, sig := tSignature rec_,
        carried0 := false, carried1 := false, sig0 := (sGet {} o b.1).sig0, sig1 := (sGet {} o b.1).sig1 }) (tmpl w t).out
  let routes := (tRouteList set t).flatMap (fun x => insts.map (fun i => (x.2, i)))
  let sent := routes.filter (fun x => !off.contains x.2)
  let w' := sent.foldl (fun w x =>
    let q := (routeQ (tChain set t) (rElem x.1)).getD 0
    let v := signed 32 (leAt (nth [] (blocks.map (·.2)) x.2) (4 * rElem x.1) 4)
    let w := onSolver (fun s => { s with dests := sErase s.dests (destKey x.1 x.2) }) w
    if rKind x.1 = 0 then
      if rEarly x.1 then w
      else deliverDelta x.1 x.2 (routeX32 v q (sQ (slotOf set (routeDest x.1 x.2 / 4096) (routeDest x.1 x.2 % 4096)))) prod w
    else deliverG32 x.1 x.2 (pack32 false (ofX v q)).1 w) w
  let w' := onTmpl t (fun x => releaseFlags r { x with
    out := out, outcome := 0, staleRun := 0, missAlarm := false, defaulted := false,
    releases := x.releases.filter (fun z => z.num ≠ r.num) }) w'
  (releaseHolds t r.num w',
   { got := a.2.got ++ sent.map (fun x => destKey x.1 x.2),
     due := a.2.due ++ (routes.filter (fun x => off.contains x.2)).map (fun x => (t, x.1, x.2)) })

/-- A release is unpublished with an outcome. -/
def unpublishRelease (t code : Nat) (r : Release) (a : World × Judged) : World × Judged :=
  let w := a.1
  let set := w.cfg.active
  let rec_ := tRec set t
  let insts := upTo (tBatch rec_)
  let source := ((tmplEngine w t).map (· / 8)).getD 15
  let alarm := decide (tMissAlarm rec_ ≠ 0) && decide ((tmpl w t).staleRun + 1 = tMissAlarm rec_)
  let w := onTmpl t (fun x => releaseFlags r { x with
    out := insts.foldl (fun o i => sUpd {} o i (fun y => { y with stale := true })) x.out
    outcome := code, staleRun := min (x.staleRun + 1) 255, missAlarm := x.missAlarm || alarm
    nUnpublished := x.nUnpublished + 1, nSkipped := x.nSkipped + b2n (code == 3)
    releases := if r.dead then x.releases.filter (fun z => z.num ≠ r.num)
      else x.releases.map (fun z => if z.num = r.num then { z with judged := true } else z) }) w
  let w := record 0x20 source 0x4100 t w
  let w := if alarm then record 0x21 source 0x4100 t w else w
  (releaseHolds t r.num (dropChain t r.num 4 w),
   { a.2 with due := a.2.due ++ (tRouteList set t).flatMap (fun x => insts.map (fun i => (t, x.2, i))) })

/-! ## The boundary (01 R26 step 1) -/

/-- A solve that a boundary publishes: retired on time, earlier than the boundary (01 R22). -/
def publishable (prod : Nat) (r : Release) : Bool :=
  r.fail.isNone && match r.doneAt with | some e => decide (e < prod) | none => false

/-- A release that a boundary finds unpublished: withheld, or lost with its deadline instant past (06 R166). -/
def unpublishable (r : Release) : Option Nat :=
  if r.judged then none else match r.fail with
  | some 4 => some 4
  | some c => if r.dead then some c else none
  | none => none

/-- Solves about to be published whose result region holds a struck word are lost, and counted so (05 R143). -/
def strikeResults (prod : Nat) (w : World) : World × List (Nat × Nat) :=
  (tmplsOf w.cfg.active).foldl (fun (a : World × List (Nat × Nat)) t =>
    match tmplEngine a.1 t with
    | none => a
    | some e =>
      ((tmpl a.1 t).releases.filter (publishable prod)).foldl (fun a r =>
        let chain := bufferChain a.1.cfg.active t r.buffer
        let reg := region (nth 0 chain (chain.length - 1)) true
        if (be a.1 e).struck.any (fun x => decide (reg.1 ≤ x.1) && decide (x.1 < reg.1 + reg.2)) then
          (onBe e (fun x => { x with uncorrectable := x.uncorrectable + 1 })
            (onRelease t r.num (fun z => { z with fail := some 2, dead := true }) a.1), a.2 ++ [(t, r.at_)])
        else a) a) (w, [])

/-- Consumers of an EARLY route of a lost solve are withheld with it (06 R165). -/
def withholdConsumers (t at_ : Nat) (w : World) : World :=
  let set := w.cfg.active
  let early := (tRouteList set t).filter (fun r => rEarly r.2 && rKind r.2 == 0)
  eachW (tmplsOf set) (fun c w =>
    let fed := tDepEn (tRec set c) && tDep (tRec set c) == t &&
      early.any (fun r => (upTo (tBatch (tRec set t))).any (fun i => routeDest r.2 i / 4096 == c))
    if fed then
      ((tmpl w c).releases.filter (fun r => r.at_ = at_ && r.fail.isNone)).foldl
        (fun w r => onRelease c r.num (fun z => { z with fail := some 4 }) w) w
    else w) w

/-- Releases lost to an uncorrectable error in a running descriptor whose EARLY routes have delivered nothing withhold no
consumer; those lost after retirement do (06 R165). -/
def publishAll (stamp : Nat) (w : World) : World :=
  let prod := stamp / 65536
  let (w, struck) := strikeResults prod w
  let w := eachW struck (fun x => withholdConsumers x.1 x.2) w
  let (w, j) := (tmplsOf w.cfg.active).foldl (fun (a : World × Judged) t =>
    (tmpl a.1 t).releases.foldl (fun a r =>
      if publishable prod r then publishRelease t prod r a
      else match unpublishable r with
        | some c => unpublishRelease t c r a
        | none => a) a) (w, {})
  -- destinations due a value that received none, template by template
  let (w, _) := (tmplsOf w.cfg.active).foldl (fun (a : World × List Nat) t =>
    let mine := (j.due.filter (fun d => d.1 = t)).map (·.2)
    if mine.isEmpty then a else
      let (w, seen, new) := staleAll a.2 prod mine a.1
      let any := mine.any (fun d => (sGet {} w.solver.dests (destKey d.1 d.2)).defaulted)
      (onTmpl t (fun x => { x with defaulted := any, nDefaulted := x.nDefaulted + b2n new }) w, seen)) (w, j.got)
  onSolver (fun s => { s with engines := s.engines.map (fun e => (e.1, { e.2 with fifo := [] })) }) w

/-! ## A SWAP (06 R147, R156, R160) -/

/-- The constants of a template's image: VALUE and ELEMENT, an element of the engine's local memory (log 27). An element of
an instance block stands in both buffers. -/
def imageEntries (set : Store Bytes) (t : Nat) : List (Nat × Int) :=
  let b := objIn set 0x4104 0 t
  let l := (upTo (b.length / 8)).map (fun i => let v := leAt b (8 * i) 8; (bits v 15 0, signed 32 (bits v 63 32)))
  let r := tRec set t
  let regs := (tChain set t).map (fun d => region d false)
  let first := nth 0 (tChain set t) 0
  let inBlock (k : Nat) : Bool := regs.any (fun g => decide (g.1 * 8 ≤ k) && decide (k < (g.1 + g.2) * 8))
  (if tBuffers r = 1 then (l.filter (fun e => inBlock e.1)).map (fun e => (e.1 + tAltInst r * 8 - bInstBase first * 8, e.2)) else []) ++ l

/-- The image of a template written to the local memory of its engine, where a hold makes it wait at its end (05 R117). -/
def loadImage (t : Nat) (w : World) : World :=
  drainImages (onTmpl t (fun x => { x with imageDue := imageEntries w.cfg.active t }) w)

/-- The blocks of both buffers of a template copied from one engine's memory, as it stood, to another's (06 R147). -/
def moveBlocks (old : List Host.Cell) (from_ to_ t : Nat) (w : World) : World :=
  let set := w.cfg.active
  let regs := (upTo (1 + tBuffers (tRec set t))).flatMap (fun b =>
    (bufferChain set t b).flatMap (fun d => [region d false, region d true]))
  onSolver (fun s =>
    { s with mem := regs.foldl (fun m r =>
        Mem.write (Mem.clear m (elAddr to_ (r.1 * 8)) (r.2 * 32)) (elAddr to_ (r.1 * 8)) (Mem.read old (elAddr from_ (r.1 * 8)) (r.2 * 32))) s.mem }) w

/-- A template whose SIGNATURE changes: its pending deltas are discarded and counted refused; its published output stays, with
the signature that published it (06 R156, R160). -/
def resigned (x : Tmpl) : Tmpl := { x with pending := [], imageDue := [], nRefused := x.nRefused + x.pending.length }

/-- A template kept with the same SIGNATURE: its pending values are still to be applied to every buffer it now has (06 R156). With another
BUFFERS the first assembled release uses buffer 0 (06 R148). -/
def rebuffered (was buffers : Nat) (x : Tmpl) : Tmpl :=
  if was = buffers then x else
    { x with nextBuffer := 0, pending := x.pending.map (fun p => { p with for0 := true, for1 := buffers == 1 }) }

/-- A template that comes in or goes: only its counters stay (06 R156, R160). -/
def freshTmpl (x : Tmpl) : Tmpl :=
  { nextNum := x.nextNum, nReleases := x.nReleases, nUnpublished := x.nUnpublished, nSkipped := x.nSkipped, nAged := x.nAged,
    nClamped := x.nClamped, nRefused := x.nRefused + x.pending.length, nDefaulted := x.nDefaulted, noted := x.noted }

/-- One template at a SWAP, the incoming set standing in the active one: its releases go on where it is unchanged in
SIGNATURE and engine, else they end with the outgoing set (log 28). -/
def swapTemplate (old : Store Bytes) (mem : List Host.Cell) (oldEngine : Option Nat) (t : Nat) (w : World) : World :=
  let new := w.cfg.active
  let had := hasObj old 0x4100 0 t
  let has := hasObj new 0x4100 0 t
  let ro := tRec old t
  let rn := tRec new t
  let same := had && has && decide (tSignature ro = tSignature rn)
  let w := onTmpl t (fun x => { x with movedTo := none, stoppedBy := false }) w
  let engine := tmplEngine w t
  let w := if same && decide (engine = oldEngine) then w else
    (tmpl w t).releases.foldl (fun w r => releaseHolds t r.num (dropChain t r.num 4 w)) (onTmpl t (fun x => { x with doneRel := none }) w)
  let w := if same && decide (engine = oldEngine) then w else onTmpl t (fun x => { x with releases := [] }) w
  let w := onTmpl t (if same then rebuffered (tBuffers ro) (tBuffers rn)
    else fun x => { (if had && has then resigned else freshTmpl) x with nextBuffer := 0 }) w
  let fresh := !same || objIn old 0x4104 0 t != objIn new 0x4104 0 t || tBuffers ro != tBuffers rn || tAltInst ro != tAltInst rn ||
    tAltRes ro != tAltRes rn
  if engine.isNone then w
  else if fresh || oldEngine.isNone then loadImage t w
  else if tEngine rn ≠ tEngine ro then moveBlocks mem (tEngine ro) (tEngine rn) t (loadImage t w)
  else w

/-- Every template of the outgoing and of the incoming set, and the destinations that no route of the incoming set feeds. -/
def swapTemplates (old : Store Bytes) (engines : List (Nat × Option Nat)) (w : World) : World :=
  let new := w.cfg.active
  let gone := (tmplsOf old).filter (fun t => !(tmplsOf new).contains t)
  let mem := w.solver.mem
  let w := eachW (tmplsOf new ++ gone) (fun t => swapTemplate old mem ((engines.find? (fun e => e.1 = t)).bind (·.2)) t) w
  let keys := (tmplsOf new).flatMap (fun t => (tRouteList new t).flatMap (fun r => (upTo (tBatch (tRec new t))).map (destKey r.2)))
  onSolver (fun s => { s with dests := s.dests.filter (fun d => keys.contains d.1) }) w

end Sys2Proof.Machine
end

