-- ==== Sys2Proof/Machine/Cells.lean ====
section
/-! DEFINITION. Trunk and cell records, the placement of loops on engines, credits and allowance, and the command ledger (10
R264, R279, R280, Tables 10.2 and 10.10; 09 R246). -/

namespace Sys2Proof.Machine

/-! ## TRUNK_RECORD (10 Table 10.2) and CELL_RECORD (10 Table 10.10) -/

def trunkRec (w : World) (t : Nat) : Bytes := actObj w 0x6000 0 t
def trMac (r : Bytes) : Nat := fieldLe r 255 208
def trEtype (r : Bytes) : Nat := fieldLe r 207 192
def trPtpEtype (r : Bytes) : Nat := fieldLe r 191 176
def trDomain (r : Bytes) : Nat := fieldLe r 175 168
def trLatBound (r : Bytes) : Nat := fieldLe r 167 144
def trJitter (r : Bytes) : Nat := fieldLe r 143 128
def trAckTimeout (r : Bytes) : Nat := fieldLe r 127 112
def trSyncLog (r : Bytes) : Nat := fieldLe r 108 105
def trRateMin (r : Bytes) : Nat := fieldLe r 104 103
def trRateMax (r : Bytes) : Nat := fieldLe r 102 101
def trRole (r : Bytes) : Nat := fieldLe r 100 99
def trAnEn (r : Bytes) : Bool := fieldLe r 98 98 == 1
def trEnable (r : Bytes) : Bool := fieldLe r 97 97 == 1

/-- The key of a cell: trunk × 256 + cell. -/
def cellKey (t c : Nat) : Nat := t * 256 + c
def cellRecIn (set : Store Bytes) (k : Nat) : Bytes := objIn set 0x6010 0 k
def cellRec (w : World) (k : Nat) : Bytes := cellRecIn w.cfg.active k
def clMac (r : Bytes) : Nat := fieldLe r 511 464
def clSlots (r : Bytes) : Nat := fieldLe r 463 458
def clEnable (r : Bytes) : Bool := fieldLe r 457 457 == 1
def clAckDelay (r : Bytes) : Nat := fieldLe r 456 441
def clSampleDelay (r : Bytes) : Nat := fieldLe r 440 417
def clCfgId (r : Bytes) : Nat := fieldLe r 416 385
/-- Set `n` of a cell: PERIOD, PHASE, FMT_MASK, N_CH. -/
def clPeriod (r : Bytes) (n : Nat) : Nat := fieldLe r (96 * n + 95) (96 * n + 64)
def clPhase (r : Bytes) (n : Nat) : Nat := fieldLe r (96 * n + 63) (96 * n + 32)
def clFmt (r : Bytes) (n : Nat) : Nat := fieldLe r (96 * n + 31) (96 * n + 16)
def clChans (r : Bytes) (n : Nat) : Nat := fieldLe r (96 * n + 4) (96 * n)

/-- The enabled cells of a set, as keys, rising. -/
def cellsOf (set : Store Bytes) : List Nat := (instancesOf set 0x6010 0).filter (fun k => clEnable (cellRecIn set k))

/-- A trunk and a cell at run time. -/
def trunk (w : World) (t : Nat) : Trunk := sGet {} w.trunks.trunks t
def onTrunk (t : Nat) (f : Trunk → Trunk) (w : World) : World := onTrunks (fun s => { s with trunks := sUpd {} s.trunks t f }) w
def cell (w : World) (k : Nat) : CellRt := sGet {} w.trunks.cells k
def onCell (k : Nat) (f : CellRt → CellRt) (w : World) : World := onTrunks (fun s => { s with cells := sUpd {} s.cells k f }) w
def stream (w : World) (n : Nat) : StreamRt := sGet {} w.trunks.streams n
def onStream (n : Nat) (f : StreamRt → StreamRt) (w : World) : World :=
  onTrunks (fun s => { s with streams := sUpd {} s.streams n f }) w

/-- One more in counter `c` of TRUNK_COUNTERS, 1 to 14 (10 Table 10.17). -/
def countTrunk (t c : Nat) (w : World) : World := onTrunk t (fun x => { x with counters := sUpd 0 x.counters c (· + 1) }) w

/-- A frame sent on a trunk, counted. -/
def sendTrunk (t : Nat) (b : Bytes) (w : World) : World := emit (.trunk t b (frameCheck b)) (countTrunk t 2 w)

/-! ## LOOP_RECORD (07 Table 7.2) -/

def loopRecIn (set : Store Bytes) (l : Nat) : Bytes := objIn set 0x5010 0 l
def loopRec (w : World) (l : Nat) : Bytes := loopRecIn w.cfg.active l
def lpRef (r : Bytes) : W32 := field32 r 530
def lpFfOffset (r : Bytes) : W32 := field32 r 498
def lpBandC (r : Bytes) : W32 := field32 r 466
def lpVNom (r : Bytes) : W32 := field32 r 434
def lpFfGain (r : Bytes) : W32 := field32 r 402
def lpKAdapt (r : Bytes) : W32 := field32 r 370
def lpFTarget (r : Bytes) : W32 := field32 r 338
def lpHMax (r : Bytes) : W32 := field32 r 306
def lpHMin (r : Bytes) : W32 := field32 r 274
def lpIMax (r : Bytes) : W32 := field32 r 242
def lpIGain (r : Bytes) : W32 := field32 r 210
def lpAlpha (r : Bytes) : W32 := field32 r 178
def lpMAdapt (r : Bytes) : Nat := fieldLe r 177 170
def lpDwellMin (r : Bytes) : Nat := fieldLe r 169 150
def lpHInit (r : Bytes) : W32 := field32 r 118
def lpLead (r : Bytes) : Nat := fieldLe r 117 102
def lpTs (r : Bytes) : Nat := fieldLe r 101 82
def lpInitClosed (r : Bytes) : Bool := fieldLe r 81 81 == 1
def lpCritical (r : Bytes) : Bool := fieldLe r 80 80 == 1
def lpTracker (r : Bytes) : Nat := fieldLe r 79 77
def lpStamp (r : Bytes) : Bool := fieldLe r 76 76 == 1
def lpRefGen (r : Bytes) : Nat := fieldLe r 75 64
def lpRefMode (r : Bytes) : Bool := fieldLe r 63 63 == 1
def lpFfMode (r : Bytes) : Nat := fieldLe r 62 61
def lpIntEn (r : Bytes) : Bool := fieldLe r 60 60 == 1
def lpPol (r : Bytes) : Bool := fieldLe r 59 59 == 1
def lpOpenLevel (r : Bytes) : Nat := fieldLe r 58 55
def lpLevels (r : Bytes) : Nat := fieldLe r 54 52
def lpOutput (r : Bytes) : Nat := fieldLe r 51 48
def lpCell (r : Bytes) : Nat := fieldLe r 47 40
def lpTrunk (r : Bytes) : Nat := fieldLe r 39 36
def lpFfStream (r : Bytes) : Nat := fieldLe r 35 18
def lpStream (r : Bytes) : Nat := fieldLe r 17 0

/-- The loops of a set. -/
def loopsOf (set : Store Bytes) : List Nat := instancesOf set 0x5010 0

/-- A loop at run time. -/
def loop (w : World) (l : Nat) : LoopRt := sGet {} w.halo.loops l
def onLoop (l : Nat) (f : LoopRt → LoopRt) (w : World) : World := onHalo (fun h => { h with loops := sUpd {} h.loops l f }) w
def shadow (w : World) (l : Nat) : CmdShadow := sGet {} w.halo.shadows l
def onShadow (l : Nat) (f : CmdShadow → CmdShadow) (w : World) : World :=
  onHalo (fun h => { h with shadows := sUpd {} h.shadows l f }) w

/-- FLAGS of a loop (07 Table 7.3). -/
def lfClosed : Nat := 0
def lfPending : Nat := 1
def lfSat : Nat := 2
def lfPreload : Nat := 3
def lfHLimit : Nat := 4
def lfEnd : Nat := 5
def lfLate : Nat := 6
def lfCredit : Nat := 7
def lfLimited : Nat := 8
def lfNoSlope : Nat := 9
def lfArith : Nat := 11
def lfInject : Nat := 12
def lfWindow : Nat := 13
def setFlag (i : Nat) (b : Bool) (f : BitVec 16) : BitVec 16 :=
  if b then f ||| BitVec.ofNat 16 (2 ^ i) else f &&& ~~~ BitVec.ofNat 16 (2 ^ i)
def hasFlag (i : Nat) (f : BitVec 16) : Bool := bit f.toNat i

/-! ## Credits and allowance (10 R279, R287) -/

/-- The allowance Q_T of a trunk at a rate (10 Table 10.15). -/
def allowanceOf (rate : Nat) : Nat :=
  match rate with
  | 0 => 1
  | 1 => 4
  | _ => 10

/-- A total divided among engines, the remainder to the lowest-numbered ones. -/
def divide (total : Nat) (es : List Nat) : List (Nat × Nat) :=
  (upTo es.length).map (fun i => (nth 0 es i, total / es.length + b2n (decide (i < total % es.length))))

/-- The engines of a mapping that hold loops of the active set chosen by `p`, rising. -/
def homesOf (w : World) (p : Bytes → Bool) : List Nat :=
  (upTo 16).filter (fun e => (loopsOf w.cfg.active).any (fun l => p (loopRec w l) && sFind w.cfg.mapping.loops l == some e))

/-- Where the share of a home engine stands now: there, or where its loops have been taken over; none while its die is lost
and no loop of it has been taken over (10 R279). -/
def shareNow (w : World) (p : Bytes → Bool) (h : Nat) : Option Nat :=
  if dieGood (die w (h / 4)) then some h else
    ((loopsOf w.cfg.active).find? (fun l => p (loopRec w l) && sFind w.cfg.mapping.loops l == some h && !(loop w l).stopped &&
      dieGood (die w ((loop w l).engine / 4)))).map (fun l => (loop w l).engine)

/-- What engine `e` holds of a total: the shares that stand with it. -/
def shareOf (w : World) (p : Bytes → Bool) (total e : Nat) : Nat :=
  ((divide total (homesOf w p)).filter (fun s => shareNow w p s.1 == some e)).foldl (fun a s => a + s.2) 0

/-- The loops of a cell, and those of a trunk. -/
def ofCell (k : Nat) (r : Bytes) : Bool := cellKey (lpTrunk r) (lpCell r) == k
def ofTrunk (t : Nat) (r : Bytes) : Bool := lpTrunk r == t

/-- The engine that an issued command is held against: its loop's present one (10 R279). -/
def heldBy (w : World) (l e : Nat) : Nat := if hasObj w.cfg.active 0x5010 0 l then (loop w l).engine else e

/-- Commands of a cell that wait at its trunk and have not expired. -/
def waitingOf (w : World) (k : Nat) : List TxCmd := (trunk w (k / 256)).queue.filter (fun c => c.cell = k % 256 && !c.expired)

/-- Commands of a cell handed off and neither acknowledged nor expired. -/
def outstandingCount (w : World) (k : Nat) : Nat := (waitingOf w k).length + (cell w k).outstanding.length

/-- Credits engine `e` holds of a cell that are free. -/
def freeCredits (w : World) (k e : Nat) : Nat :=
  shareOf w (ofCell k) (clSlots (cellRec w k)) e -
    (((waitingOf w k).filter (fun c => heldBy w c.loop c.engine == e)).length +
     ((cell w k).outstanding.filter (fun c => heldBy w c.loop c.engine == e)).length)

/-- Allowance entries engine `e` holds of a trunk that are free. -/
def freeAllowance (w : World) (t e : Nat) : Nat :=
  shareOf w (ofTrunk t) (allowanceOf (trRateMin (trunkRec w t))) e -
    ((trunk w t).queue.filter (fun c => heldBy w c.loop c.engine == e)).length

/-- A command may be handed to Bedrock (10 R279): the cell is CONFIGURED, outputs are enabled, a credit and an allowance
entry are free. -/
def mayHand (w : World) (t c e : Nat) : Bool :=
  w.cfg.present && w.dev.outLive && decide ((cell w (cellKey t c)).mode = .configured) &&
  decide (0 < freeCredits w (cellKey t c) e) && decide (0 < freeAllowance w t e)

/-- A command handed to its trunk: numbered, queued, counted issued (log 67). -/
def handCommand (t : Nat) (c : TxCmd) (w : World) : World :=
  let k := cellKey t c.cell
  let num := (cell w k).cmdSeq
  onCell k (fun x => { x with nCommands := x.nCommands + 1, cmdSeq := (num + 1) % 65536, expired := x.expired.filter (· ≠ num) })
    (onTrunk t (fun x => { x with queue := x.queue ++ [{ c with number := num }], issued := x.issued + 1 }) w)

/-- A command that waits, as the ledger sees it. -/
def TxCmd.asOut (c : TxCmd) : OutCmd := { number := c.number, loop := c.loop, engine := c.engine, exec := c.exec }

/-- Outstanding commands of a cell expire, those that still wait at its trunk among them: these keep their place in the queue, since
Bedrock withdraws none (10 R271, R280; 07 R182). -/
def expireCmds (k : Nat) (gone : OutCmd → Bool) (w : World) : World :=
  let late (c : TxCmd) : Bool := c.cell == k % 256 && !c.expired && gone c.asOut
  let nums := ((cell w k).outstanding.filter gone).map (·.number) ++ ((trunk w (k / 256)).queue.filter late).map (·.number)
  onCell k (fun x => { x with
      expired := x.expired ++ nums, outstanding := x.outstanding.filter (fun o => !gone o), nExpired := x.nExpired + nums.length })
    (onTrunk (k / 256) (fun x => { x with
      expired := x.expired + nums.length, queue := x.queue.map (fun c => if late c then { c with expired := true } else c) }) w)

/-- Commands that wait at a trunk are discarded and count as expired: credit and allowance return (07 R182, 12 R327). -/
def dropQueued (t : Nat) (gone : TxCmd → Bool) (w : World) : World :=
  let lost := (trunk w t).queue.filter (fun c => gone c && !c.expired)
  let w := onTrunk t (fun x => { x with queue := x.queue.filter (fun c => !gone c), expired := x.expired + lost.length }) w
  eachW lost (fun c => onCell (cellKey t c.cell) (fun x => { x with nExpired := x.nExpired + 1 })) w

end Sys2Proof.Machine
end

