-- ==== Sys2Proof/Machine/Crypto.lean ====
section
/-! DEFINITION. SHA-256, HMAC-SHA-256, HMAC_DRBG, and ECDSA and ECDH on P-256: the published algorithms that 11 R296 and 13
R345, R350 name and the manual does not restate (log 10). -/

namespace Sys2Proof.Machine

/-! ## SHA-256 -/

/-- The first 64 primes: none of them has a divisor from 2 to 17. -/
def shaPrimes : List Nat := (upTo 312).filter (fun n => decide (2 ≤ n) && (upTo 18).all (fun d => decide (d < 2) || decide (n ≤ d) || n % d != 0))

/-- The largest number whose `k`-th power is at most `x`, found bit by bit from its high bits. -/
def rootBits (k x : Nat) : Nat → Nat → Nat
  | 0, r => r
  | b + 1, r => rootBits k x b (if (r + 2 ^ b) ^ k ≤ x then r + 2 ^ b else r)

/-- The first 32 bits of the fractional part of the `k`-th root of a prime: the algorithm's constants are such (log 10). -/
def rootFraction (k p : Nat) : Nat := rootBits k (p * 2 ^ (32 * k)) 37 0 % 2 ^ 32

/-- The constants of the 64 rounds: of cube roots. -/
def shaK : List Nat := shaPrimes.map (rootFraction 3)

/-- The eight chaining words. -/
structure ShaState where
  a : W32
  b : W32
  c : W32
  d : W32
  e : W32
  f : W32
  g : W32
  h : W32

/-- The words before the first block: of square roots. -/
def shaInit : ShaState :=
  let r (i : Nat) : W32 := BitVec.ofNat 32 (rootFraction 2 (nth 0 shaPrimes i))
  { a := r 0, b := r 1, c := r 2, d := r 3, e := r 4, f := r 5, g := r 6, h := r 7 }

/-- One round. -/
def shaRound (s : ShaState) (kw : W32) : ShaState :=
  let s1 := s.e.rotateRight 6 ^^^ s.e.rotateRight 11 ^^^ s.e.rotateRight 25
  let ch := (s.e &&& s.f) ^^^ (~~~ s.e &&& s.g)
  let t1 := s.h + s1 + ch + kw
  let s0 := s.a.rotateRight 2 ^^^ s.a.rotateRight 13 ^^^ s.a.rotateRight 22
  let maj := (s.a &&& s.b) ^^^ (s.a &&& s.c) ^^^ (s.b &&& s.c)
  { a := t1 + (s0 + maj), b := s.a, c := s.b, d := s.c, e := s.d + t1, f := s.e, g := s.f, h := s.g }

/-- The rounds over a schedule of 16 words, held newest last. -/
def shaRounds : List Nat → List W32 → ShaState → ShaState
  | [], _, s => s
  | k :: ks, ws, s =>
    let w := ws.headD 0
    let x := nth 0 ws 1
    let y := nth 0 ws 14
    let s0 := x.rotateRight 7 ^^^ x.rotateRight 18 ^^^ (x >>> 3)
    let s1 := y.rotateRight 17 ^^^ y.rotateRight 19 ^^^ (y >>> 10)
    shaRounds ks (ws.tail ++ [w + s0 + nth 0 ws 9 + s1]) (shaRound s (BitVec.ofNat 32 k + w))

/-- One block of 64 bytes. -/
def shaBlock (s : ShaState) (b : Bytes) : ShaState :=
  let ws := (upTo 16).map (fun i => BitVec.ofNat 32 (beAt b (4 * i) 4))
  let r := shaRounds shaK ws s
  { a := s.a + r.a, b := s.b + r.b, c := s.c + r.c, d := s.d + r.d, e := s.e + r.e, f := s.f + r.f, g := s.g + r.g, h := s.h + r.h }

/-- Blocks of 64 bytes; the number bounds the work. -/
def shaBlocks : Nat → Bytes → ShaState → ShaState
  | 0, _, s => s
  | k + 1, b, s => shaBlocks k (b.drop 64) (shaBlock s (b.take 64))

/-- SHA-256 (FIPS 180-4). -/
def sha256 (m : Bytes) : Bytes :=
  let zeros := (119 - m.length % 64) % 64
  let p := m ++ [0x80] ++ List.replicate zeros 0 ++ beBytes 8 (8 * m.length)
  let s := shaBlocks (p.length / 64) p shaInit
  [s.a, s.b, s.c, s.d, s.e, s.f, s.g, s.h].flatMap (fun w => beBytes 4 w.toNat)

/-- HMAC-SHA-256 (RFC 2104). -/
def hmac (key m : Bytes) : Bytes :=
  let k := padTo 64 (if 64 < key.length then sha256 key else key)
  sha256 (k.map (· ^^^ 0x5c) ++ sha256 (k.map (· ^^^ 0x36) ++ m))

/-- The bytes of an ASCII prefix. -/
def ascii (s : String) : Bytes := s.toList.map (fun c => BitVec.ofNat 8 c.toNat)

/-! ## HMAC_DRBG (NIST SP 800-90A) -/

/-- The update of (Key, V) with provided data. -/
def drbgUpdate (key v data : Bytes) : Bytes × Bytes :=
  let k := hmac key (v ++ [0] ++ data)
  let v := hmac k v
  if data.isEmpty then (k, v) else
    let k := hmac k (v ++ [1] ++ data)
    (k, hmac k v)

/-- `n` blocks of 32 bytes, and V after them. -/
def drbgBlocks (key : Bytes) : Nat → Bytes → Bytes × Bytes
  | 0, v => ([], v)
  | n + 1, v =>
    let v := hmac key v
    let (r, z) := drbgBlocks key n v
    (v ++ r, z)

/-! ## P-256 (FIPS 186-4) -/

def ecP : Nat := 2 ^ 256 - 2 ^ 224 + 2 ^ 192 + 2 ^ 96 - 1
def ecN : Nat := 0xFFFFFFFF00000000FFFFFFFFFFFFFFFFBCE6FAADA7179E84F3B9CAC2FC632551
def ecB : Nat := 0x5AC635D8AA3A93E7B3EBBD55769886BC651D06B0CC53B0F63BCE3C3E27D2604B
def ecGx : Nat := 0x6B17D1F2E12C4247F8BCE6E563A440F277037D812DEB33A0F4A13945D898C296
def ecGy : Nat := 0x4FE342E2FE1A7F9B8EE7EB4A7C0F9E162BCE33576B315ECECBB6406837BF51F5

/-- A power modulo `m`, by the bits of the exponent from the lowest; the number bounds the work. -/
def powMod (m : Nat) : Nat → Nat → Nat → Nat
  | 0, _, _ => 1
  | k + 1, b, e => (if e % 2 = 1 then b else 1) * powMod m k (b * b % m) (e / 2) % m

/-- The inverse modulo a prime. -/
def invMod (m a : Nat) : Nat := powMod m 256 (a % m) (m - 2)

/-- A point in Jacobian coordinates; z = 0 is the point at infinity. -/
structure EcPoint where
  x : Nat
  y : Nat
  z : Nat
  deriving DecidableEq, Repr

def ecZero : EcPoint := ⟨1, 1, 0⟩
def ecG : EcPoint := ⟨ecGx, ecGy, 1⟩

/-- Difference modulo p. -/
def fsub (a b : Nat) : Nat := (a + ecP - b % ecP) % ecP

/-- Twice a point. -/
def ecDouble (p : EcPoint) : EcPoint :=
  if p.z = 0 ∨ p.y = 0 then ecZero else
    let yy := p.y * p.y % ecP
    let s := 4 * p.x * yy % ecP
    let zz := p.z * p.z % ecP
    let m := 3 * fsub p.x zz * (p.x + zz) % ecP
    let x := fsub (m * m) (2 * s)
    ⟨x, fsub (m * fsub s x) (8 * yy * yy), 2 * p.y * p.z % ecP⟩

/-- The sum of two points. -/
def ecAdd (p q : EcPoint) : EcPoint :=
  if p.z = 0 then q else if q.z = 0 then p else
    let zz := p.z * p.z % ecP
    let ww := q.z * q.z % ecP
    let u := p.x * ww % ecP
    let v := q.x * zz % ecP
    let s := p.y * ww * q.z % ecP
    let t := q.y * zz * p.z % ecP
    if u = v then (if s = t then ecDouble p else ecZero) else
      let h := fsub v u
      let r := fsub t s
      let hh := h * h % ecP
      let hhh := h * hh % ecP
      let uh := u * hh % ecP
      let x := fsub (fsub (r * r) hhh) (2 * uh)
      ⟨x, fsub (r * fsub uh x) (s * hhh), h * p.z * q.z % ecP⟩

/-- A multiple of a point, by the bits of the scalar from the lowest. -/
def ecMul : Nat → Nat → EcPoint → EcPoint
  | 0, _, _ => ecZero
  | k + 1, e, p => if e % 2 = 1 then ecAdd p (ecMul k (e / 2) (ecDouble p)) else ecMul k (e / 2) (ecDouble p)

/-- The affine coordinates, none at infinity. -/
def ecAffine (p : EcPoint) : Option (Nat × Nat) :=
  if p.z = 0 then none else
    let i := invMod ecP p.z
    let ii := i * i % ecP
    some (p.x * ii % ecP, p.y * ii * i % ecP)

/-- A SEC1 uncompressed point of 65 bytes. -/
def ecBytes (p : EcPoint) : Bytes :=
  match ecAffine p with
  | some (x, y) => 0x04 :: beBytes 32 x ++ beBytes 32 y
  | none => [0]

/-- The point that 65 bytes spell, on the curve. -/
def ecOfBytes (b : Bytes) : Option EcPoint :=
  let x := beAt b 1 32
  let y := beAt b 33 32
  if b.length = 65 ∧ beAt b 0 1 = 4 ∧ x < ecP ∧ y < ecP ∧ y * y % ecP = fsub (x * x * x + ecB) (3 * x) then some ⟨x, y, 1⟩
  else none

/-- The public point of a scalar. -/
def ecPublic (d : Nat) : Bytes := ecBytes (ecMul 256 d ecG)

/-- The x-coordinate of the shared point of a scalar and a peer's point. -/
def ecdh (d : Nat) (peer : Bytes) : Option Bytes :=
  (ecOfBytes peer).bind (fun p => (ecAffine (ecMul 256 d p)).map (fun a => beBytes 32 a.1))

/-- ECDSA with SHA-256: the signature `sig` (r, then s) of a message under a public key. -/
def ecdsaVerify (key m sig : Bytes) : Bool :=
  match ecOfBytes key with
  | none => false
  | some q =>
    let r := beAt sig 0 32
    let s := beAt sig 32 32
    if sig.length ≠ 64 ∨ r = 0 ∨ ecN ≤ r ∨ s = 0 ∨ ecN ≤ s then false else
      let e := beNat (sha256 m)
      let i := invMod ecN s
      match ecAffine (ecAdd (ecMul 256 (e * i % ecN) ecG) (ecMul 256 (r * i % ecN) q)) with
      | some (x, _) => decide (x % ecN = r)
      | none => false

/-- The deterministic nonce of RFC 6979: candidates until one serves; the number bounds the work. -/
def signWith (d e : Nat) : Nat → Bytes → Bytes → Bytes
  | 0, _, _ => []
  | t + 1, key, v =>
    let v := hmac key v
    let k := beNat v
    let next := fun (_ : Unit) =>
      let key' := hmac key (v ++ [0])
      signWith d e t key' (hmac key' v)
    if k = 0 ∨ ecN ≤ k then next () else
      match ecAffine (ecMul 256 k ecG) with
      | none => next ()
      | some (x, _) =>
        let r := x % ecN
        let s := invMod ecN k * (e + r * d) % ecN
        if r = 0 ∨ s = 0 then next () else beBytes 32 r ++ beBytes 32 s

/-- ECDSA with SHA-256 and the nonce of RFC 6979 (13 R345). -/
def ecdsaSign (d : Nat) (m : Bytes) : Bytes :=
  let h := sha256 m
  let e := beNat h
  let x := beBytes 32 d ++ beBytes 32 (e % ecN)
  let (k, v) := drbgUpdate (List.replicate 32 0) (List.replicate 32 1) x
  signWith d e 8 k v

end Sys2Proof.Machine
end

