-- ==== Sys2Proof/Machine/AdmitTemplate.lean ====
section
/-! DEFINITION. Admission of templates: report entries (09 R261), the die ring, signatures and chains (06 R146, R148), slots and
routes (06 R149, R155, R159, R164, R165), release spacing (06 R151), the sums of R163 with the waits of 09 R257, buffers, and
the words of local memory. -/

namespace Sys2Proof.Machine

/-! ## Report entries (09 Tables 9.6 and 9.7) -/

/-- One failure: CHECK, INDEX, INSTANCE, NEEDED, AVAILABLE. -/
structure Fail where
  check : Nat
  index : Nat
  inst : Nat
  needed : Nat := 0
  available : Nat := 0
  deriving DecidableEq, Repr

/-- A failure where a condition does not hold. -/
def failUnless (ok : Bool) (check index inst : Nat) (needed : Nat := 0) (available : Nat := 0) : List Fail :=
  if ok then [] else [{ check := check, index := index, inst := inst, needed := needed, available := available }]

/-- A failure where more is needed than there is. -/
def failOver (check index inst needed available : Nat) : List Fail :=
  failUnless (decide (needed ≤ available)) check index inst needed available

/-- An entry of the report; NEEDED and AVAILABLE saturate. -/
def failBytes (c : Nat) (f : Fail) : Bytes :=
  leBytes 16 (f.check * 2 ^ 120 + c * 2 ^ 117 + f.index * 2 ^ 96 + f.inst * 2 ^ 72 + min f.needed (2 ^ 32 - 1) * 2 ^ 32 +
    min f.available (2 ^ 32 - 1))

/-! ## The ring of dies (01 R14, 09 R246) -/

/-- The next die clockwise, C0, C1, C3, C2. -/
def nextDie (d : Nat) : Nat :=
  match d with
  | 0 => 1
  | 1 => 3
  | 3 => 2
  | _ => 0

/-- The next die clockwise among those that carry work. -/
def nextAlive (dies : List Nat) (d : Nat) : Nat :=
  let a := nextDie d
  let b := nextDie a
  let c := nextDie b
  if dies.contains a then a else if dies.contains b then b else if dies.contains c then c else d

/-- The engine with the same index on a die's clockwise neighbour: `per` engines a die. -/
def partnerOf (dies : List Nat) (per e : Nat) : Nat := nextAlive dies (e / per) * per + e % per

/-! ## Where the work of a case runs -/

/-- A case: the dies alive, what lies where, whether only critical work runs (09 R256, R260). -/
structure Case where
  dies : List Nat
  map : Mapping
  critical : Bool
  deriving DecidableEq, Repr

/-- The Basalt engine of a template in a placement. -/
def placedTmpl (map : Mapping) (set : Store Bytes) (t : Nat) : Nat := (sFind map.tmpls t).getD (tEngine (tRec set t))
/-- The Halo engine of a loop in a placement. -/
def placedLoop (map : Mapping) (l : Nat) : Nat := sGet 0 map.loops l

/-- The templates and the loops that run in a case. -/
def caseTmpls (set : Store Bytes) (c : Case) : List Nat :=
  (tmplsOf set).filter (fun t => (!c.critical || tCritical (tRec set t)) && !c.map.shed.contains (0x4100 * 2 ^ 32 + t))
def caseLoops (set : Store Bytes) (c : Case) : List Nat :=
  (loopsOf set).filter (fun l => (!c.critical || lpCritical (loopRecIn set l)) && !c.map.shed.contains (0x5010 * 2 ^ 32 + l))

/-! ## Signature and chain (06 R146) -/

/-- A descriptor with TAG, SIG, POST_EN, SYNC_OBJ, KCAP, TAU, DELTA and TOL zero. -/
def sigDesc (d : BitVec 512) : Bytes :=
  let z := [(503, 496), (95, 32), (238, 238), (237, 223), (448, 441), (191, 160), (159, 128), (127, 96)]
  leBytes 64 (z.foldl (fun v f => setBits v f.1 f.2 0) d.toNat)

/-- A slot entry with LO, HI, SOURCE and STEP zero. -/
def sigSlot (s : Bytes) : Bytes := [(31, 0), (63, 32), (157, 140), (139, 122)].foldl (fun v f => setField v f.1 f.2 0) s

/-- SIGNATURE of a template. -/
def signatureOf (set : Store Bytes) (t : Nat) : Nat :=
  let v := beAt (sha256 ((tChain set t).flatMap sigDesc ++ (tSlotList set t).flatMap (fun s => sigSlot s.2))) 0 8
  if v = 0 then 1 else v

/-- The chain and the lists of a template: lengths, SIG, TEMPLATE, BATCH, CHAIN, R121 in both buffers, the copy area. -/
def chainFails (set : Store Bytes) (t : Nat) : List Fail :=
  let r := tRec set t
  let chain := tChain set t
  let sig := signatureOf set t
  let first := nth 0 chain 0
  let len (index n : Nat) : List Fail := failUnless ((objIn set index 0 t).length == n) 1 index t
  len 0x4101 (tSlots r * 24) ++ len 0x4102 (tChainLen r * 64) ++ len 0x4103 (tRoutes r * 16) ++
  failUnless (chain.all (fun d => bSig d == sig)) 1 0x4102 t ++
  failUnless (chain.all (fun d => bTemplate d == t)) 1 0x4102 t ++
  failUnless (chain.all (fun d => bBatch d == tBatch r)) 1 0x4100 t ++
  failUnless ((upTo chain.length).all (fun i => bChain (nth 0 chain i) == decide (i + 1 < chain.length))) 1 0x4102 t ++
  failUnless ((upTo (1 + tBuffers r)).all (fun b => (bufferChain set t b).all bDescOk)) 1 0x4102 t ++
  failUnless (decide (tCopyWords r = 0) || (decide (tCopyDst r + tCopyWords r ≤ blockLen first false) &&
    decide (tImgBase r + (tBatch r - 1) * tImgStride r + tCopyWords r ≤ 8192))) 1 0x4100 t

/-! ## Slots (06 R149, R154, R159) -/

/-- Elements of an instance block, and words of a result block. -/
def instElems (set : Store Bytes) (t : Nat) : Nat := 8 * blockLen (nth 0 (tChain set t) 0) false
def resWords (set : Store Bytes) (t : Nat) : Nat := resLen (tChain set t)

/-- Slots lie within the block; CARRY joins items of one form and q. -/
def slotFails (set : Store Bytes) (t : Nat) : List Fail :=
  let n := instElems set t
  failUnless ((tSlotList set t).all (fun s =>
    match sKind s.2 with
    | 1 => decide (sElem s.2 < n) && decide (sSource s.2 + (tBatch (tRec set t) - 1) * sStep s.2 < 262144)
    | 2 => decide (sElem s.2 < n)
    | 3 => decide (sElem s.2 + sDepth s.2 ≤ n) && decide (sSource s.2 + (tBatch (tRec set t) - 1) * sStep s.2 < 262144)
    | _ => carryOk set t s.2)) 1 0x4101 t

/-- WARM_SRC ROUTE has one producer for each warm record, and a record to feed; WARM_HOST has one item for each instance (06 R159). -/
def warmFails (set : Store Bytes) (t : Nat) : List Fail :=
  let r := tRec set t
  let ds := (tChain set t).filter bWarm
  failUnless (decide (tWarmSrc r ≠ 2) || (!ds.isEmpty && ds.all (fun d => (warmProducers set t d).length == 1))) 1 0x4100 t ++
  failUnless (decide (tWarmSrc r ≠ 3) || ([0, tBatch r * warmWords ds * 32].contains (objIn set 0x4106 0 t).length)) 1 0x4106 t

/-! ## Routes (06 R155, R164, R165) -/

/-- A route's source lies in an output item, and its destination takes it. -/
def routeOk (set : Store Bytes) (t : Nat) (x : Bytes) : Bool :=
  let b := tBatch (tRec set t)
  let insts := upTo b
  (routeQ (tChain set t) (rElem x)).isSome &&
  match rKind x with
  | 0 => insts.all (fun i =>
      let d := routeDest x i
      let u := d / 4096
      hasObj set 0x4100 0 u && decide (d % 4096 < tSlots (tRec set u)) && sKind (slotOf set u (d % 4096)) == 2 &&
      sOwner (slotOf set u (d % 4096)) == 1 && decide (i < tBatch (tRec set u)) &&
      (!rEarly x || (tDepEn (tRec set u) && tDep (tRec set u) == t)))
  | 1 => insts.all (fun i => decide (routeDest x i < 16384))
  | _ => insts.all (fun i => decide (routeDest x i < 4096))

def routeFails (set : Store Bytes) (t : Nat) : List Fail :=
  failUnless ((tRouteList set t).all (fun x => routeOk set t x.2)) 1 0x4103 t

/-- DEP is a template of the set, released by the same tracker on the same ticks (06 Table 6.1). -/
def depFails (set : Store Bytes) (t : Nat) : List Fail :=
  let r := tRec set t
  let p := tRec set (tDep r)
  failUnless (!tDepEn r || (hasObj set 0x4100 0 (tDep r) && tTracker p == tTracker r && tRelKind p == tRelKind r &&
    tRelDiv p == tRelDiv r && tRelPhase p == tRelPhase r && tDep r != t)) 1 0x4100 t

/-! ## Releases (06 R151) -/

def atRecIn (set : Store Bytes) (k : Nat) : Bytes := objIn set 0x2100 0 k
def tOmegaMax (set : Store Bytes) (t : Nat) : W32 := atOmegaMax (atRecIn set (tTracker (tRec set t)))

/-- The events of a tracker that release a template: angle, directions. -/
def releaseEvents (set : Store Bytes) (t : Nat) : List Nat :=
  let k := tTracker (tRec set t)
  ((upTo 64).map (eventEntry set k)).filter (fun e => bits e 35 32 == 1 && bits e 55 36 == t && bits e 57 56 != 0)

/-- The least travel from one event's firing to another's: the spacing of their angles whichever way each is passed; an event enabled in one
direction fires again a turn later, one enabled in both may as soon as it is armed again. -/
def eventGap (a b : Nat) (same : Bool) : Nat :=
  let d := (bits b 31 0 + 2 ^ 32 - bits a 31 0) % 2 ^ 32
  if same then (if eventDir a true && eventDir a false then 2 ^ 30 else 2 ^ 32) else min d (2 ^ 32 - d)

/-- The shortest release spacing in ANGLE32 counts (06 R151). -/
def releaseGap (set : Store Bytes) (t : Nat) : Nat :=
  let r := tRec set t
  if tRelKind r = 0 then 2 ^ tRelDiv r * 2 ^ 32 / atN (atRecIn set (tTracker r))
  else
    let es := releaseEvents set t
    let gaps := (upTo es.length).flatMap (fun i => (upTo es.length).map (fun j => eventGap (nth 0 es i) (nth 0 es j) (i == j)))
    max (2 ^ 30) (gaps.foldl min (2 ^ 32))

def spacingFails (set : Store Bytes) (t : Nat) : List Fail :=
  failUnless (decide (tDeadline (tRec set t) ≤ releaseGap set t)) 1 0x4100 t

/-! ## Bounds (06 R154, R163; 09 R257) -/

/-- A span of a template's tracker in cycles. -/
def figureIn (set : Store Bytes) (t span : Nat) : Nat := figureCycles (tOmegaMax set t) span

/-- ASM(b) (06 R154). -/
def asmBound (set : Store Bytes) (t : Nat) : Nat :=
  let r := tRec set t
  let slots := (tSlotList set t).map (·.2)
  let of (k : Nat) := slots.filter (fun s => sKind s = k)
  let v := match tWarmSrc r with | 0 => 0 | 3 => warmWords (tChain set t) | _ => 1
  64 + tBatch r * (tCopyWords r + sumList ((of 4).map sStep) + v + (of 1).length + sumList ((of 3).map sDepth) + 2 * (of 2).length)

/-- Σ chain bounds, KCAP iterations charged (06 R161). -/
def chainBound (set : Store Bytes) (t : Nat) : Nat := sumList ((tChain set t).map (fun d => cycBound d (bCap d)))

/-- The whole numbers x = m + k·q with lo ≤ x ≤ hi. -/
def countIn (m : Int) (q : Nat) (lo hi : Int) : Nat := ((hi - m) / q - (lo - 1 - m) / q).toNat

/-- n_u (09 R257): releases of `u` that one release of `t` may meet. -/
def meets (set : Store Bytes) (t u : Nat) : Nat :=
  let rt := tRec set t
  let ru := tRec set u
  if tTracker rt = tTracker ru ∧ tRelKind rt = 0 ∧ tRelKind ru = 0 then
    let n := atN (atRecIn set (tTracker rt))
    let up (x : Nat) : Int := ceilDiv (x * n) (2 ^ 32)
    let mu := 2 ^ tRelDiv ru
    let starts := (upTo (mu / min mu (2 ^ tRelDiv rt))).map (fun j => tRelPhase rt + j * 2 ^ tRelDiv rt)
    maxList (starts.map (fun c => countIn ((tRelPhase ru : Int) - c) mu (1 - up (tDeadline ru)) (up (tDeadline rt) - 1)))
  else ceilDiv (figureIn set t (tDeadline rt)) (max 1 (figureCycles (tOmegaMax set u) (releaseGap set u))) + 1

/-- The left-hand side of R163 for a template among the templates of its engine. -/
def wcetOf (set : Store Bytes) (c : Case) (t : Nat) : Nat :=
  let others := (caseTmpls set c).filter (fun u => u ≠ t ∧ placedTmpl c.map set u = placedTmpl c.map set t)
  figureIn set t (tAsmLatest (tRec set t)) + sumList (others.map (fun u => meets set t u * asmBound set u)) + asmBound set t +
    sumList (others.map (fun u => meets set t u * chainBound set u)) + chainBound set t

def epochOf (set : Store Bytes) : Nat := leNat (objIn set 0x2103 1 0)

/-- The longest tick interval of a tracker: 1 / (ω_min × N), in cycles, rounded up (02 R49). -/
def longestTick (set : Store Bytes) (k : Nat) : Nat :=
  let r := atRecIn set k
  let n := (rateNum (atOmegaMin r)).natAbs * atN r
  ceilDiv (700000000 * 2 ^ 200) (max 1 n)

/-- R163 and the buffers of a template. -/
def boundFails (set : Store Bytes) (c : Case) (t : Nat) : List Fail :=
  let r := tRec set t
  let dep := if tDepEn r then failOver 3 0x4100 t (wcetOf set c (tDep r)) (figureIn set t (tAsmLatest r)) else []
  let every := tRelKind r == 0 && tTracker r == epochOf set && tRelDiv r == 0
  let gap := figureIn set t (releaseGap set t) * (1 + tBuffers r)
  failOver 3 0x4100 t (wcetOf set c t) (figureIn set t (tDeadline r)) ++ dep ++
  (if every then [] else failOver 4 0x4100 t (longestTick set (epochOf set)) gap)

/-! ## Local memory -/

/-- The words a template takes of its engine's local memory: every region of both buffers, and the copy sources. -/
def tmplSpans (set : Store Bytes) (t : Nat) : List (Nat × Nat) :=
  let r := tRec set t
  (upTo (1 + tBuffers r)).flatMap (fun b => (bufferChain set t b).flatMap (fun d => [region d false, region d true])) ++
  (if tCopyWords r = 0 then [] else (upTo (tBatch r)).map (fun i => (tImgBase r + i * tImgStride r, tCopyWords r)))

/-- Distinct words of some templates whose words stand in one local memory. -/
def memWordsOf (set : Store Bytes) (ts : List Nat) : Nat :=
  let spans := ts.flatMap (tmplSpans set)
  ((upTo 8192).filter (fun w => spans.any (fun s => decide (s.1 ≤ w) && decide (w < s.1 + s.2)))).length

/-- Words engine `e` must hold: its own templates, those moved to it, and the replicas it keeps for critical work (12 R329). -/
def basaltWords (set : Store Bytes) (c : Case) (e : Nat) : Nat :=
  let ts := caseTmpls set c
  let here := ts.filter (fun t => placedTmpl c.map set t = e)
  let kept := ts.filter (fun t => tCritical (tRec set t) && partnerOf c.dies 8 (placedTmpl c.map set t) == e && placedTmpl c.map set t != e)
  sumList ((upTo 32).map (fun h => memWordsOf set (here.filter (fun t => tEngine (tRec set t) = h)) +
    memWordsOf set (kept.filter (fun t => tEngine (tRec set t) = h))))

def basaltFails (set : Store Bytes) (c : Case) : List Fail :=
  (upTo 32).flatMap (fun e => failOver 0x0A 0x4000 e (basaltWords set c e) 8192)

/-! ## All of it -/

/-- The checks of a template that no case changes. -/
def tmplFails (set : Store Bytes) (t : Nat) : List Fail :=
  chainFails set t ++ slotFails set t ++ depFails set t ++ warmFails set t ++ routeFails set t ++ spacingFails set t ++
  (((upTo (tBatch (tRec set t))).flatMap (rangeFailures set t)).dedup).map (fun b =>
    { check := 1, index := 0x4102, inst := t, needed := b.1, available := b.2 })

end Sys2Proof.Machine
end

