-- ==== Sys2Proof/Machine/Scalar.lean ====
section
/-! DEFINITION. The scalar sequencer (04 R89 to R91): the instruction word decoded (Tables 4.2 and 4.3), what each instruction does, and
the stall count (04 R101). A scalar command acts where it is what the word at the context's program counter spells (log 12). -/

namespace Sys2Proof.Machine

/-! ## Memory of a tile (04 R92) -/

/-- The address of a byte of a tile's scratchpad (04 R92). -/
def padAddr (tile b : Nat) : Nat := tile * 327680 + b
/-- Bytes of a tile's scratchpad. -/
def padRead (w : World) (tile b n : Nat) : Bytes := Mem.read w.tiles.scratch (padAddr tile b) n
def padWrite (tile b : Nat) (v : Bytes) (w : World) : World :=
  onTiles (fun t => { t with scratch := Mem.write t.scratch (padAddr tile b) v }) w

/-- First byte of a context's code region (09 Table 9.1 CODE_LEN: at the end of the share). -/
def codeByte (rec : Bytes) : Nat := (pShareBase rec + pShareLen rec - pCodeLen rec) * 32

/-- `n` bytes from a code word index, if they stand in the code region (04 R91; log 13). -/
def codeBytes (w : World) (tile : Nat) (rec : Bytes) (idx n : Nat) : Option Nat :=
  if idx * 8 + n ≤ pCodeLen rec * 32 then some (leNat (padRead w tile (codeByte rec + idx * 8) n)) else none

/-- The partition record of a context. -/
def ctxRec (w : World) (key : Nat) : Bytes := match (ctxAt w key).part with | some p => actPart w p | none => []

/-! ## The instruction word (04 Tables 4.2 and 4.3) -/

/-- The scalar instruction that a 64-bit word spells on a context; none for a reserved OP or a non-zero reserved bit. Fields that the OP's
action does not name are not looked at (log 12). -/
def decodeScalar (c : TileCtx) (v : Nat) : Option Instr :=
  let rd := Fin.ofNat 16 (bits v 55 52)
  let ra := Fin.ofNat 16 (bits v 51 48)
  let rb := Fin.ofNat 16 (bits v 47 44)
  let imm := BitVec.ofNat 32 v
  if bits v 36 32 ≠ 0 then none else
    match bits v 63 56 with
    | 0x01 => some (.li c rd imm)
    | 0x02 => some (.add c rd ra rb)
    | 0x03 => some (.addi c rd ra imm)
    | 0x04 => some (.sub c rd ra rb)
    | 0x05 => some (.and c rd ra rb)
    | 0x06 => some (.or c rd ra rb)
    | 0x07 => some (.xor c rd ra rb)
    | 0x08 => some (.shli c rd ra imm)
    | 0x09 => some (.shri c rd ra imm)
    | 0x10 => some (.jmp c imm)
    | 0x11 => some (.bz c ra imm)
    | 0x12 => some (.bnz c ra imm)
    | 0x13 => some (.dbnz c ra imm)
    | 0x20 => some (.issue c ra rb (BitVec.ofNat 6 (bits v 43 38)) (bit v 37) imm)
    | 0x21 => some (.waittag c rd imm)
    | 0x22 => some (.fence c)
    | 0x30 => some (.spost c imm)
    | 0x31 => some (.swait c imm)
    | 0x3F => some (.stepEnd c)
    | _ => none

/-- The key of a command's context. -/
def TileCtx.key (c : TileCtx) : Nat := ctxKey c.tile c.ctx

/-- The word at the program counter of a context; none where it stands outside the code region. -/
def codeWord (w : World) (c : TileCtx) : Option Nat :=
  codeBytes w c.tile (ctxRec w (TileCtx.key c)) (ctxAt w (TileCtx.key c)).pc 8

/-- The instruction at the program counter of a context. -/
def nextInstr (w : World) (c : TileCtx) : Option Instr := (codeWord w c).bind (decodeScalar c)

/-! ## Running a scalar instruction -/

/-- Both contexts of the tile are resident (04 R89). -/
def tileShared (w : World) (tile : Nat) : Bool :=
  (ctxAt w (ctxKey tile 0)).part.isSome && (ctxAt w (ctxKey tile 1)).part.isSome

/-- The context's slice runs, or the tile is not shared (04 R111, 09 R248). -/
def inSlice (w : World) (key : Nat) : Bool := !tileShared w (key / 2) || sGet 0 w.tiles.slice (key / 2) == key % 2

/-- The context executes its next scalar instruction: it is in a step, no wait is outstanding, its slice runs and no
command of its own waits to be issued again (04 R90, R102, R111). -/
def mayRun (w : World) (key : Nat) : Bool :=
  let c := ctxAt w key
  ctxLive c && decide (c.wait = .none) && c.parked.isEmpty && inSlice w key

/-- The scalar instruction `i` is what the context executes next: the word at its program counter spells it. -/
def fetches (w : World) (c : TileCtx) (i : Instr) : Bool := mayRun w (TileCtx.key c) && decide (nextInstr w c = some i)

/-- A context that may run executes the word at its program counter: the effect where the word spells the command, a context fault with
reason BAD_CMD where it spells none (04 R12, Table 4.11), and nothing where it spells another (log 12). -/
def runScalar (c : TileCtx) (i : Instr) (f : World → World) (w : World) : World :=
  if mayRun w (TileCtx.key c) then
    match nextInstr w c with
    | none => contextFault (TileCtx.key c) 3 w
    | some j => if j = i then f w else w
  else w

/-- A scalar instruction that acts on its context alone. -/
def scalar (c : TileCtx) (i : Instr) (f : Ctx → Ctx) : World → World := runScalar c i (onCtx (TileCtx.key c) f)

/-- A scalar register (04 R89). -/
def sReg (x : Ctx) (r : Fin 16) : W32 := sGet 0 x.s r

/-- The context with a scalar register written and the program counter at the next instruction. -/
def setS (rd : Fin 16) (v : W32) (x : Ctx) : Ctx := { x with s := sPut 0 x.s rd v, pc := x.pc + 1 }

/-- The context with the program counter at IMM where the condition holds, else at the next instruction. -/
def branch (cond : Bool) (imm : W32) (x : Ctx) : Ctx := { x with pc := if cond then imm.toNat else x.pc + 1 }

/-! ## Arithmetic (04 Table 4.3) -/

/-- LI. -/
def execLi (c : TileCtx) (rd : Fin 16) (imm : W32) (s : State) : Host.Outcome State Fault Refusal :=
  liveEffect (scalar c (.li c rd imm) (setS rd imm)) s
/-- ADD. -/
def execAdd (c : TileCtx) (rd ra rb : Fin 16) (s : State) : Host.Outcome State Fault Refusal :=
  liveEffect (scalar c (.add c rd ra rb) (fun x => setS rd (sReg x ra + sReg x rb) x)) s
/-- ADDI. -/
def execAddi (c : TileCtx) (rd ra : Fin 16) (imm : W32) (s : State) : Host.Outcome State Fault Refusal :=
  liveEffect (scalar c (.addi c rd ra imm) (fun x => setS rd (sReg x ra + imm) x)) s
/-- SUB. -/
def execSub (c : TileCtx) (rd ra rb : Fin 16) (s : State) : Host.Outcome State Fault Refusal :=
  liveEffect (scalar c (.sub c rd ra rb) (fun x => setS rd (sReg x ra - sReg x rb) x)) s
/-- AND. -/
def execAnd (c : TileCtx) (rd ra rb : Fin 16) (s : State) : Host.Outcome State Fault Refusal :=
  liveEffect (scalar c (.and c rd ra rb) (fun x => setS rd (sReg x ra &&& sReg x rb) x)) s
/-- OR. -/
def execOr (c : TileCtx) (rd ra rb : Fin 16) (s : State) : Host.Outcome State Fault Refusal :=
  liveEffect (scalar c (.or c rd ra rb) (fun x => setS rd (sReg x ra ||| sReg x rb) x)) s
/-- XOR. -/
def execXor (c : TileCtx) (rd ra rb : Fin 16) (s : State) : Host.Outcome State Fault Refusal :=
  liveEffect (scalar c (.xor c rd ra rb) (fun x => setS rd (sReg x ra ^^^ sReg x rb) x)) s
/-- SHLI: by IMM[4:0]. -/
def execShli (c : TileCtx) (rd ra : Fin 16) (imm : W32) (s : State) : Host.Outcome State Fault Refusal :=
  liveEffect (scalar c (.shli c rd ra imm) (fun x => setS rd (sReg x ra <<< (imm.toNat % 32)) x)) s
/-- SHRI: logically, by IMM[4:0]. -/
def execShri (c : TileCtx) (rd ra : Fin 16) (imm : W32) (s : State) : Host.Outcome State Fault Refusal :=
  liveEffect (scalar c (.shri c rd ra imm) (fun x => setS rd (sReg x ra >>> (imm.toNat % 32)) x)) s

/-! ## Control flow (04 Table 4.3) -/

/-- JMP. -/
def execJmp (c : TileCtx) (imm : W32) (s : State) : Host.Outcome State Fault Refusal :=
  liveEffect (scalar c (.jmp c imm) (branch true imm)) s
/-- BZ. -/
def execBz (c : TileCtx) (ra : Fin 16) (imm : W32) (s : State) : Host.Outcome State Fault Refusal :=
  liveEffect (scalar c (.bz c ra imm) (fun x => branch (sReg x ra == 0) imm x)) s
/-- BNZ. -/
def execBnz (c : TileCtx) (ra : Fin 16) (imm : W32) (s : State) : Host.Outcome State Fault Refusal :=
  liveEffect (scalar c (.bnz c ra imm) (fun x => branch (sReg x ra != 0) imm x)) s
/-- DBNZ: the register goes down by one first. -/
def execDbnz (c : TileCtx) (ra : Fin 16) (imm : W32) (s : State) : Host.Outcome State Fault Refusal :=
  liveEffect (scalar c (.dbnz c ra imm) (fun x =>
    let v := sReg x ra - 1
    { branch (v != 0) imm x with s := sPut 0 x.s ra v })) s

/-! ## Waits -/

/-- The command of a serial has retired: it is neither in the scoreboard nor parked (04 R100). -/
def retired (x : Ctx) (serial : Nat) : Bool :=
  x.sb.all (fun e => e.serial != serial) && x.parked.all (fun e => e.serial != serial)

/-- No command issued by the context is unretired (04 Table 4.3). An open window is one (04 R107). -/
def allRetired (x : Ctx) : Bool := x.sb.isEmpty && x.parked.isEmpty

/-- A context's outstanding WAITTAG or FENCE completes once its condition holds. A tag that no command of the context has carried has
nothing to wait for and status 0 (log 99). -/
def wakeCtx (x : Ctx) : Ctx :=
  match x.wait with
  | .tag rd t =>
    if retired x (sGet 0 x.tagSerial t) then
      { x with wait := .none, s := sPut 0 x.s rd (sGet 0 x.status t), pc := x.pc + 1 }
    else x
  | .fence => if allRetired x then { x with wait := .none, pc := x.pc + 1 } else x
  | _ => x

/-- WAITTAG: s[RD] becomes the status word once the latest command of the tag has retired. -/
def execWaittag (c : TileCtx) (rd : Fin 16) (imm : W32) (s : State) : Host.Outcome State Fault Refusal :=
  liveEffect (scalar c (.waittag c rd imm) (fun x => wakeCtx { x with wait := .tag rd (imm.toNat % 256) })) s
/-- FENCE. -/
def execFence (c : TileCtx) (s : State) : Host.Outcome State Fault Refusal :=
  liveEffect (scalar c (.fence c) (fun x => wakeCtx { x with wait := .fence })) s
/-- SPOST: one token of object IMM[14:0]. -/
def execSpost (c : TileCtx) (imm : W32) (s : State) : Host.Outcome State Fault Refusal :=
  liveEffect (runScalar c (.spost c imm) (fun w =>
    postSync (imm.toNat % 32768) (onCtx (TileCtx.key c) (fun x => { x with pc := x.pc + 1 }) w))) s
/-- SWAIT: one token of object IMM[14:0] is taken, now or when one is posted. -/
def execSwait (c : TileCtx) (imm : W32) (s : State) : Host.Outcome State Fault Refusal :=
  liveEffect (runScalar c (.swait c imm) (fun w =>
    let k := TileCtx.key c
    let obj := imm.toNat % 32768
    if syncCount w obj = 0 then onCtx k (fun x => { x with wait := .sync obj }) w
    else onCtx k (fun x => { x with pc := x.pc + 1 }) (takeSync obj w))) s
/-- STEP_END: the context's part of the batch step is over. -/
def execStepEnd (c : TileCtx) (s : State) : Host.Outcome State Fault Refusal :=
  liveEffect (fun w => scalar c (.stepEnd c) (fun x => { x with atEnd := true, endAt := nowNs w }) w) s

/-! ## The stall count (04 R101) -/

/-- Cycles of the 700 MHz clock in a span of nanoseconds, whole (00 Table 0.4). -/
def cyclesOfNs (n : Nat) : Nat := n * 7 / 10

/-- The stall count of a context: the cycles since its next command first could not issue. -/
def stallCount (w : World) (x : Ctx) : Nat :=
  match x.stallSince with
  | some t => cyclesOfNs (nowNs w - t)
  | none => 0

/-- The next command of a context cannot issue: the count runs on, or begins. -/
def stalled (w : World) (x : Ctx) : Ctx := { x with stallSince := some (x.stallSince.getD (nowNs w)) }

/-- The next command of a context issues: the count restarts at zero, and the epoch keeps its longest. -/
def unstalled (w : World) (x : Ctx) : Ctx := { x with stallSince := none, stallMax := max x.stallMax (stallCount w x) }

end Sys2Proof.Machine
end

