-- ==== Sys2Proof/Machine/TileCmd.lean ====
section
/-! DEFINITION. Tile commands and DMA descriptors as words, the checks at issue (04 R93 to R95, R103), the scoreboard
(04 R99, R100), ISSUE, STALL_TIMEOUT (04 R101), retirement with the status word (04 R112), and the end and start of slices (04 R111). -/

namespace Sys2Proof.Machine

/-! ## The command word (04 Tables 4.5 and 4.6) -/

def cOp (c : BitVec 256) : Nat := bits c.toNat 255 248
def cNr (c : BitVec 256) : Nat := bits c.toNat 247 245
def cNw (c : BitVec 256) : Nat := bits c.toNat 244 243
def cSat (c : BitVec 256) : Bool := bit c.toNat 242
def cPass (c : BitVec 256) : Nat := bits c.toNat 241 240
def cTag (c : BitVec 256) : Nat := bits c.toNat 239 232
/-- Bits `hi` to `lo` of OPFIELD. -/
def cField (c : BitVec 256) (hi lo : Nat) : Nat := bits c.toNat hi lo
/-- First word and length of range slot `i`. -/
def cBase (c : BitVec 256) (i : Nat) : Nat := bits c.toNat (223 - 28 * i) (210 - 28 * i)
def cLen (c : BitVec 256) (i : Nat) : Nat := bits c.toNat (209 - 28 * i) (196 - 28 * i)
def cRange (c : BitVec 256) (i : Nat) : Nat × Nat := (cBase c i, cLen c i)

/-! ## The DMA descriptor (04 Table 4.13) -/

def dKind (d : BitVec 256) : Nat := bits d.toNat 255 248
def dSrc (d : BitVec 256) : Nat := bits d.toNat 247 244
def dDst (d : BitVec 256) : Nat := bits d.toNat 243 240
def dTarget (d : BitVec 256) : Nat := bits d.toNat 239 238
def dDie (d : BitVec 256) : Nat := bits d.toNat 237 236
def dSplit (d : BitVec 256) : Bool := bit d.toNat 235
def dSat (d : BitVec 256) : Bool := bit d.toNat 233
def dRope (d : BitVec 256) : Bool := bit d.toNat 232
def dFar (d : BitVec 256) : Nat := bits d.toNat 231 192
def dFarStride (d : BitVec 256) : Nat := bits d.toNat 191 168
def dRows (d : BitVec 256) : Nat := bits d.toNat 167 155
def dRowLen (d : BitVec 256) : Nat := bits d.toNat 154 141
def dLocalStride (d : BitVec 256) : Nat := bits d.toNat 140 127
def dRopePos (d : BitVec 256) : Nat := bits d.toNat 126 113
def dRopeBase (d : BitVec 256) : W32 := BitVec.ofNat 32 (bits d.toNat 112 81)

/-! ## Formats (04 Table 4.12) -/

/-- Bytes of `n` consecutive elements. -/
def fmtBytes (fmt n : Nat) : Nat :=
  match fmt with
  | 0 | 2 => 2 * n
  | 1 | 3 => 4 * n
  | 4 | 5 => n
  | _ => (n + 1) / 2
/-- The format carries B8 scales. -/
def fmtScaled (fmt : Nat) : Bool := fmt == 5 || fmt == 6
/-- Bytes of the scales of a row of `n` elements. -/
def scaleBytes (fmt n : Nat) : Nat := if fmtScaled fmt then (n + 31) / 32 else 0
/-- Bytes of one far row in a format: data, then scales (04 R103). -/
def farRow (fmt n : Nat) : Nat := fmtBytes fmt n + scaleBytes fmt n
/-- Words that hold `b` bytes. -/
def wordsOf (b : Nat) : Nat := (b + 31) / 32

/-- A load path of Table 3.7, or equal codes. -/
def loadPath (a b : Nat) : Bool :=
  decide (a < 7 && b < 7) && (a == b || (decide (a < 4) && decide (2 ≤ b)) || ((a == 5 || a == 6) && (b == 2 || b == 3)))
/-- A store path of Table 3.7, or equal codes. -/
def storePath (a b : Nat) : Bool := decide (a < 7 && b < 7) && (a == b || a == 2 || a == 3)

/-! ## Form checks (04 R12, R93, R96 to R98, R103, R107) -/

/-- Table 4.12 code of the operands of a MATMUL (04 Table 4.8). -/
def mmFmt (c : BitVec 256) : Nat :=
  match cField c 55 54 with
  | 0 => 6
  | 1 => if cField c 53 53 = 1 then 5 else 4
  | 2 => 2
  | _ => 3
def mmScaled (c : BitVec 256) : Bool := cField c 53 53 == 1
def mmBank (c : BitVec 256) : Nat := cField c 52 52
def mmAcc (c : BitVec 256) : Bool := cField c 51 51 == 1
def mmM (c : BitVec 256) : Nat := cField c 50 42
def mmN (c : BitVec 256) : Nat := cField c 41 35
def mmKTot (c : BitVec 256) : Nat := cField c 34 21
def mmKOff (c : BitVec 256) : Nat := cField c 20 12
def mmKG (c : BitVec 256) : Nat := cField c 11 3
/-- K_TOT in groups of 32. -/
def mmGTot (c : BitVec 256) : Nat := (mmKTot c + 31) / 32

/-- MATMUL is well formed (04 R80, R88, R96, Table 4.8). -/
def mmOk (c : BitVec 256) : Bool :=
  let f := cField c 55 54
  (if f = 0 then mmScaled c else if f = 1 then true else !mmScaled c) &&
  decide (8 ≤ mmM c) && decide (mmM c ≤ 256) && mmM c % 8 == 0 && decide (1 ≤ mmN c) && decide (mmN c ≤ 64) &&
  decide (1 ≤ mmKTot c) && decide (mmKTot c ≤ 8192) && decide (mmKOff c < mmGTot c) &&
  decide (1 ≤ mmKG c) && decide (mmKG c ≤ mmGTot c - mmKOff c) && cField c 2 0 == 0 &&
  decide (1 ≤ cPass c) && (cPass c == 1 || decide (f ≤ 1)) &&
  cNr c == (if mmScaled c then 4 else 2) && cNw c == 0

/-- Fields of TACC, TACC_LOAD, VLD and VST (04 Table 4.9). -/
def tFmt (c : BitVec 256) : Nat := cField c 55 52
def tBank (c : BitVec 256) : Nat := cField c 51 51
def tClear (c : BitVec 256) : Bool := cField c 50 50 == 1
def tM (c : BitVec 256) : Nat := cField c 49 41
def tN (c : BitVec 256) : Nat := cField c 40 34
def tReg (c : BitVec 256) : Nat := cField c 33 29
def tCount (c : BitVec 256) : Nat := cField c 28 26 + 1

/-- Fields of VOP, VSF and VRED (04 Table 4.10). -/
def vSub (c : BitVec 256) : Nat := cField c 55 51
def vD (c : BitVec 256) : Nat := cField c 50 46
def vA (c : BitVec 256) : Nat := cField c 45 41
def vB (c : BitVec 256) : Nat := cField c 40 36
def vC (c : BitVec 256) : Nat := cField c 35 31
def vCount (c : BitVec 256) : Nat := cField c 30 28 + 1

/-- Fields of the window commands (04 Table 4.14). -/
def wSlot (c : BitVec 256) : Nat := cField c 55 53
def wDir (c : BitVec 256) : Nat := cField c 52 51
def wRights (c : BitVec 256) : Nat := cField c 50 49
def wOffset (c : BitVec 256) : Nat := cField c 48 35

/-- A vector operand group ends at or below v31 (04 Table 4.10). -/
def groupOk (r n : Nat) : Bool := decide (r + n ≤ 32)

/-- The descriptor is well formed for its opcode on a tile of die `die` (04 R103, R105, R80, Tables 4.12 and 4.13). DIE beside another
TARGET than 1, SPLIT where the load does not split, and ROPE_EN on a store are held to be refused so (log 98). -/
def descOk (op die : Nat) (d : BitVec 256) : Bool :=
  dKind d == op - 0x1F && bits d.toNat 80 0 == 0 && !bit d.toNat 234 &&
  (match op with
   | 0x20 => loadPath (dSrc d) (dDst d)
   | 0x21 => storePath (dSrc d) (dDst d)
   | _ => loadPath (dSrc d) (dDst d) || storePath (dSrc d) (dDst d)) &&
  decide (1 ≤ dRows d) && decide (dRows d ≤ 4096) && decide (1 ≤ dRowLen d) && decide (dRowLen d ≤ 8192) &&
  (op == 0x20 || decide (wordsOf (fmtBytes (dSrc d) (dRowLen d)) ≤ dLocalStride d)) &&
  (op == 0x21 || decide (wordsOf (fmtBytes (dDst d) (dRowLen d)) ≤ dLocalStride d)) &&
  (if op = 0x22 then dTarget d == 0 && dDie d == 0 && dFar d == 0 && dFarStride d == 0
   else dTarget d != 3 && (if dTarget d = 1 then dDie d != die else dDie d == 0)) &&
  (!dSplit d || (op == 0x20 && dSrc d == 3 && decide (4 ≤ dDst d))) &&
  (!dRope d || (op != 0x21 && (dRowLen d == 64 || dRowLen d == 128)))

/-- Range slots that a command names beyond NR + NW: the lo parts of a SPLIT load (04 R103; log 18). -/
def splitSlots (c d : BitVec 256) : List Nat :=
  if cOp c = 0x20 && dSplit d then (if fmtScaled (dDst d) then [2, 3] else [2]) else []

/-- NR and NW that a command's opcode and fields call for; none where the fields are not well formed. OPFIELD fields that an opcode's table
does not give it, a right in RPUT and RGET and a transfer of more than 128 words are held to be refused so (log 98). -/
def shapeOf (die : Nat) (c d : BitVec 256) : Option (Nat × Nat) :=
  let sc (b : Bool) : Nat := if b then 2 else 1
  match cOp c with
  | 0x00 => if cField c 55 0 = 0 then some (0, 0) else none
  | 0x01 => if mmOk c then some (cNr c, 0) else none
  | 0x02 => if decide (tFmt c < 7) && decide (1 ≤ tM c) && decide (tM c ≤ 256) && decide (1 ≤ tN c) && decide (tN c ≤ 64) &&
              cField c 25 0 == 0 && tReg c == 0 && cField c 28 26 == 0 then some (0, sc (fmtScaled (tFmt c))) else none
  | 0x03 => if tFmt c == 3 && !tClear c && decide (1 ≤ tM c) && decide (tM c ≤ 256) && decide (1 ≤ tN c) && decide (tN c ≤ 64) &&
              cField c 25 0 == 0 && tReg c == 0 && cField c 28 26 == 0 then some (1, 0) else none
  | 0x10 => if loadPath (tFmt c) 3 && groupOk (tReg c) (tCount c) && cField c 51 34 == 0 && cField c 25 0 == 0 then
              some (sc (fmtScaled (tFmt c)), 0) else none
  | 0x11 => if storePath 3 (tFmt c) && groupOk (tReg c) (tCount c) && cField c 51 34 == 0 && cField c 25 0 == 0 then
              some (0, sc (fmtScaled (tFmt c))) else none
  | 0x12 => if decide (vSub c ≤ 9) && groupOk (vD c) (vCount c) && groupOk (vA c) (vCount c) && groupOk (vB c) (vCount c) &&
              groupOk (vC c) (vCount c) && cField c 27 0 == 0 then some (0, 0) else none
  | 0x13 => if decide (vSub c ≤ 4) && groupOk (vD c) (vCount c) && groupOk (vA c) (vCount c) && cField c 27 0 == 0 then
              some (0, 0) else none
  | 0x14 => if decide (vSub c ≤ 2) && groupOk (vA c) (vCount c) && cField c 27 0 == 0 then some (0, 0) else none
  | 0x20 => if descOk 0x20 die d then some (0, sc (fmtScaled (dDst d))) else none
  | 0x21 => if descOk 0x21 die d then some (sc (fmtScaled (dSrc d)), 0) else none
  | 0x22 => if descOk 0x22 die d then some (sc (fmtScaled (dSrc d)), sc (fmtScaled (dDst d))) else none
  | 0x30 => if cField c 48 0 == 0 then
              (match wRights c with | 1 => some (1, 0) | 2 => some (0, 1) | 3 => some (0, 1) | _ => none) else none
  | 0x31 => if cField c 52 0 == 0 then some (0, 0) else none
  | 0x32 => if wRights c == 0 && cField c 34 0 == 0 && decide (cLen c 0 ≤ 128) then some (1, 0) else none
  | 0x33 => if wRights c == 0 && cField c 34 0 == 0 && decide (cLen c 0 ≤ 128) then some (0, 1) else none
  | _ => none

/-- The bank an opcode names belongs to the context (04 R89). -/
def bankOk (shared : Bool) (ctx : Nat) (c : BitVec 256) : Bool :=
  !shared ||
  (match cOp c with
   | 0x01 => mmBank c == ctx
   | 0x02 | 0x03 => tBank c == ctx
   | _ => true)

/-- Range slots in use. -/
def usedSlots (c d : BitVec 256) : List Nat := upTo (cNr c + cNw c) ++ splitSlots c d

/-- The command's form is right: no reserved code or bit, slots as declared, a bank of its own (04 R93, Table 4.11 BAD_CMD). -/
def formOk (shared : Bool) (die ctx : Nat) (c d : BitVec 256) : Bool :=
  decide (shapeOf die c d = some (cNr c, cNw c)) && bits c.toNat 231 224 == 0 &&
  (cPass c == 1 || cOp c == 0x01) && bankOk shared ctx c &&
  (upTo 6).all (fun i => if (usedSlots c d).contains i then decide (1 ≤ cLen c i) else decide (cRange c i = (0, 0)))

/-! ## Ranges (04 R94) -/

/-- Read and write ranges. -/
def cReads (c : BitVec 256) : List (Nat × Nat) := (upTo (cNr c)).map (cRange c)
def cWrites (c d : BitVec 256) : List (Nat × Nat) :=
  ((upTo (cNw c)).map (fun i => cRange c (cNr c + i))) ++ (splitSlots c d).map (cRange c)

/-- Two ranges have a word in common (04 R99). -/
def overlaps (a b : Nat × Nat) : Bool := decide (a.1 < b.1 + b.2) && decide (b.1 < a.1 + a.2)
def overlapsAny (a : Nat × Nat) (l : List (Nat × Nat)) : Bool := l.any (overlaps a)

/-- Words of a strided block: rows of `words` words, `stride` apart. -/
def stridedWords (rows stride words : Nat) : Nat := (rows - 1) * stride + words

/-- Parts a MATMUL operand holds: hi, and lo behind it where a pass uses it (03 R80; log 19). -/
def mmPartsA (c : BitVec 256) : Nat := if cPass c = 3 then 2 else 1
def mmPartsB (c : BitVec 256) : Nat := if 2 ≤ cPass c then 2 else 1

/-- Words of one part of an operand, and of its scales, of `rows` rows. -/
def mmWords (c : BitVec 256) (rows : Nat) : Nat := wordsOf (fmtBytes (mmFmt c) (rows * mmGTot c * 32))
def mmScaleWords (c : BitVec 256) (rows : Nat) : Nat := wordsOf (rows * mmGTot c)

/-- The words each slot must hold for the operand footprint (04 R94). -/
def footprint (c d : BitVec 256) : List (Nat × Nat) :=
  let loc (fmt : Nat) := stridedWords (dRows d) (dLocalStride d) (wordsOf (fmtBytes fmt (dRowLen d)))
  let sca (fmt : Nat) := wordsOf (dRows d * scaleBytes fmt (dRowLen d))
  let both (fmt i : Nat) := if fmtScaled fmt then [(i, loc fmt), (i + 1, sca fmt)] else [(i, loc fmt)]
  match cOp c with
  | 0x01 =>
    if mmScaled c then
      [(0, mmPartsA c * mmWords c (mmM c)), (1, mmPartsA c * mmScaleWords c (mmM c)),
       (2, mmPartsB c * mmWords c (mmN c)), (3, mmPartsB c * mmScaleWords c (mmN c))]
    else [(0, mmPartsA c * mmWords c (mmM c)), (1, mmPartsB c * mmWords c (mmN c))]
  | 0x02 | 0x03 =>
    (0, tM c * wordsOf (fmtBytes (tFmt c) (tN c))) ::
      (if fmtScaled (tFmt c) then [(1, wordsOf (tM c * scaleBytes (tFmt c) (tN c)))] else [])
  | 0x10 | 0x11 =>
    (0, wordsOf (fmtBytes (tFmt c) (64 * tCount c))) ::
      (if fmtScaled (tFmt c) then [(1, wordsOf (scaleBytes (tFmt c) (64 * tCount c)))] else [])
  | 0x20 => both (dDst d) 0 ++ (if dSplit d then both (dDst d) 2 else [])
  | 0x21 => both (dSrc d) 0
  | 0x22 => both (dSrc d) 0 ++ both (dDst d) (if fmtScaled (dSrc d) then 2 else 1)
  | _ => []

/-- The ranges stand in the share, clear of the code region and of each other (04 R94). -/
def rangesOk (rec : Bytes) (c d : BitVec 256) : Bool :=
  let share := (pShareBase rec, pShareLen rec)
  let code := (pShareBase rec + pShareLen rec - pCodeLen rec, pCodeLen rec)
  let inside (r : Nat × Nat) : Bool := decide (r.1 + r.2 ≤ 10240) && decide (share.1 ≤ r.1) && decide (r.1 + r.2 ≤ share.1 + share.2)
  (cReads c ++ cWrites c d).all inside && (cWrites c d).all (fun r => !overlaps r code) &&
  (cReads c).all (fun r => !overlapsAny r (cWrites c d)) && (footprint c d).all (fun f => decide (f.2 ≤ cLen c f.1))

/-- The cycle bound of MATMUL, twice over so that the factor 1/2 of G4 stays whole (04 R88, Tables 4.1 and 4.7). Every other
non-pre-emptible command is bounded below 4,096 by its fields. -/
def cycleOk (c : BitVec 256) : Bool :=
  if cOp c = 0x01 then
    let f2 := match mmFmt c with | 6 => 1 | 4 | 5 => 2 | 2 => 4 | _ => 8
    decide (32 + mmKG c * f2 * max (mmM c) 32 * cPass c ≤ 8192)
  else true

/-- Thirty-two bytes at a code word index, if they stand in the code region (04 R91; log 13). -/
def codeAt (w : World) (tile : Nat) (rec : Bytes) (idx : Nat) : Option (BitVec 256) :=
  (codeBytes w tile rec idx 32).map (BitVec.ofNat 256)

/-! ## The scoreboard (04 R99) -/

/-- The command may issue. -/
def sbFree (sb : List SbEntry) (c d : BitVec 256) : Bool :=
  decide (sb.length < 32) && sb.all (fun e =>
    (cWrites c d).all (fun r => !overlapsAny r (cWrites e.cmd e.desc) && !overlapsAny r (cReads e.cmd)) &&
    (cReads c).all (fun r => !overlapsAny r (cWrites e.cmd e.desc)))

/-- Commands parked by a slice end issue again, in program order (04 R111); the list bounds the work. -/
def reissue (w : World) : List SbEntry → Ctx → Ctx
  | [], x => { unstalled w x with parked := [] }
  | e :: rest, x =>
    if sbFree x.sb e.cmd e.desc then reissue w rest { x with sb := x.sb ++ [e] }
    else { stalled w x with parked := e :: rest }

/-- Parked commands issue again in the context's slice. -/
def reissueIn (w : World) (key : Nat) (x : Ctx) : Ctx :=
  if x.parked.isEmpty || !ctxLive x || !inSlice w key then x else reissue w x.parked x

/-- A command's range bases with s[RA] added under MASK; a base beyond 14 bits stands as it is for the check (04 R91). -/
def patchCmd (mask : BitVec 6) (v : Nat) (c : BitVec 256) : BitVec 256 × Bool :=
  (upTo 6).foldl (fun (a : BitVec 256 × Bool) i =>
    if mask.toNat.testBit i then
      let b := (cBase a.1 i + v) % 2 ^ 32
      (BitVec.ofNat 256 (setBits a.1.toNat (223 - 28 * i) (210 - 28 * i) b), a.2 && decide (b < 16384))
    else a) (c, true)

/-- A descriptor with s[RB] added to FAR_ADDR. -/
def patchDesc (farp : Bool) (v : Nat) (d : BitVec 256) : BitVec 256 :=
  if farp then BitVec.ofNat 256 (setBits d.toNat 231 192 (dFar d + v)) else d

/-- DMA_LD, DMA_ST or DMA_LC. -/
def isDma (op : Nat) : Bool := op == 0x20 || op == 0x21 || op == 0x22

/-- A checked command issues or stalls (04 R99, R101). -/
def issueChecked (key : Nat) (c d : BitVec 256) (w : World) : World :=
  onCtx key (fun x =>
    if sbFree x.sb c d then
      let e : SbEntry := { cmd := c, desc := d, serial := x.nextSerial }
      { unstalled w x with sb := x.sb ++ [e], tagSerial := sPut 0 x.tagSerial (cTag c) x.nextSerial,
                           nextSerial := x.nextSerial + 1, pc := x.pc + 1 }
    else stalled w x) w

/-- The command at a code word and its descriptor, patched, and whether every patched base still fits its field; none where either stands
outside the code region. -/
def patched (w : World) (c : TileCtx) (ra rb : Fin 16) (mask : BitVec 6) (farp : Bool) (imm : W32) :
    Option (BitVec 256 × BitVec 256 × Bool) :=
  let k := TileCtx.key c
  let x := ctxAt w k
  (codeAt w c.tile (ctxRec w k) imm.toNat).bind (fun raw =>
    let (cmd, fits) := patchCmd mask (sReg x ra).toNat raw
    let desc := if isDma (cOp cmd) then codeAt w c.tile (ctxRec w k) (cField cmd 31 0) else some 0
    desc.map (fun d => (cmd, patchDesc (farp && (cOp cmd == 0x20 || cOp cmd == 0x21)) (sReg x rb).toNat d, fits)))

/-- A patched command checked, and issued, stalled or refused by a context fault. The reason BAD_CMD goes before BAD_RANGE, and that before
CYCLE_BOUND (log 20). -/
def issueOne (c : TileCtx) (ra rb : Fin 16) (mask : BitVec 6) (farp : Bool) (imm : W32) (w : World) : World :=
  let k := TileCtx.key c
  match patched w c ra rb mask farp imm with
  | none => contextFault k 3 w
  | some (cmd, d, fits) =>
    if !formOk (tileShared w c.tile) (c.tile / 32) c.ctx cmd d || (isDma (cOp cmd) && cField cmd 55 32 != 0) then contextFault k 3 w
    else if !fits || !rangesOk (ctxRec w k) cmd d then contextFault k 2 w
    else if !cycleOk cmd then contextFault k 4 w
    else issueChecked k cmd d w

/-- ISSUE: the command at IMM is patched, checked and enters the scoreboard, or stalls, or faults (04 R91, R94, R95, R99,
R102). -/
def execIssue (c : TileCtx) (ra rb : Fin 16) (mask : BitVec 6) (farp : Bool) (imm : W32) (s : State) :
    Host.Outcome State Fault Refusal :=
  liveEffect (runScalar c (.issue c ra rb mask farp imm) (issueOne c ra rb mask farp imm)) s

/-- The next command of a context to issue: the first parked one, else the one its ISSUE names. -/
def nextIssue (w : World) (c : TileCtx) : Option (BitVec 256 × BitVec 256) :=
  match (ctxAt w (TileCtx.key c)).parked with
  | e :: _ => some (e.cmd, e.desc)
  | [] =>
    match nextInstr w c with
    | some (.issue _ ra rb mask farp imm) => (patched w c ra rb mask farp imm).map (fun p => (p.1, p.2.1))
    | _ => none

/-- A context has stalled for longer than its STALL_BOUND, and its next command still cannot issue (04 R101). -/
def stallOver (w : World) (c : TileCtx) : Bool :=
  let x := ctxAt w (TileCtx.key c)
  ctxLive x && decide (pStallBound (ctxRec w (TileCtx.key c)) < stallCount w x) &&
  (match nextIssue w c with
   | some (cmd, d) => !sbFree x.sb cmd d
   | none => false)

/-- STALL_TIMEOUT: the stall count of a context has passed its STALL_BOUND (04 R101). -/
def execStallTimeout (tile : Fin 128) (ctx : Fin 2) (s : State) : Host.Outcome State Fault Refusal :=
  let c : TileCtx := ⟨tile, ctx⟩
  liveEffect (fun w => whenW (stallOver w c) (fun w =>
    contextFault (TileCtx.key c) 1 (onCtx (TileCtx.key c) (unstalled w) w)) w) s

/-! ## Execution by a unit -/

/-- Units (04 Table 4.7): tensor, vector, far channel, window table, mesh channel, none. -/
def unitOf (op : Nat) : Nat :=
  if op = 0 then 5 else if op < 0x10 then 0 else if op < 0x20 then 1 else if op < 0x30 then 2 else if op < 0x32 then 3 else 4

/-- The command a unit has to execute: the oldest of its commands that it has not completed (04 R95: within one unit, in issue order). An
open window is not under way. -/
def headOf (x : Ctx) (unit : Nat) : Option SbEntry :=
  x.sb.find? (fun e => unitOf (cOp e.cmd) == unit && !e.done && !(cOp e.cmd == 0x30 && e.begun))

/-- The command a unit takes next: none where one is under way, or where issue has stopped (04 R102: commands already running complete, and
no other begins). -/
def nextFor (x : Ctx) (unit : Nat) : Option SbEntry := (headOf x unit).filter (fun e => !e.begun && !x.stopped)

/-- The entry of a serial changed. -/
def onEntry (key serial : Nat) (f : SbEntry → SbEntry) (w : World) : World :=
  onCtx key (fun x => { x with sb := x.sb.map (fun e => if e.serial = serial then f e else e) }) w

/-- A unit's next command runs where its opcode is the row's: the effect answers flags. A context out of its slice has no command left to
begin (04 R111). -/
def runUnit (c : TileCtx) (op : Nat) (f : SbEntry → World → BitVec 8 × World) (w : World) : World :=
  let k := TileCtx.key c
  match nextFor (ctxAt w k) (unitOf op) with
  | some e =>
    if cOp e.cmd = op then
      let (fl, w) := f e w
      onEntry k e.serial (fun e => { e with begun := true, done := true, flags := e.flags ||| fl }) w
    else w
  | none => w

/-- NOP. -/
def execNop (c : TileCtx) (s : State) : Host.Outcome State Fault Refusal :=
  liveEffect (runUnit c 0x00 (fun _ w => (0, w))) s

/-! ## Retirement (04 R100, R112) -/

/-- The status word (04 Table 4.15). -/
def statusWord (e : SbEntry) : W32 := BitVec.ofNat 32 (cTag e.cmd * 2 ^ 24 + e.result * 2 ^ 8 + e.flags.toNat)

/-- An entry leaves the scoreboard: its status is kept under its tag if it is the tag's latest, waits end, parked commands
issue, and its flags enter ARITH_STICKY and ARITH_COUNT of the tile (03 R71). -/
def retireEntry (key : Nat) (e : SbEntry) (w : World) : World :=
  let w := onCtx key (fun x =>
    let x := { x with
      sb := x.sb.filter (fun f => f.serial != e.serial)
      status := if sGet 0 x.tagSerial (cTag e.cmd) = e.serial then sPut 0 x.status (cTag e.cmd) (statusWord e) else x.status }
    wakeCtx (reissueIn w key x)) w
  onTiles (enterFlags (key / 2) e.flags) w

/-- Number of the mesh neighbour in a direction within the die's 4 × 8 mesh: north, east, south, west (04 "Windows"). -/
def neighbour (tile dir : Nat) : Option Nat :=
  let d := tile / 32 * 32
  let i := tile % 32 / 8
  let j := tile % 8
  match dir with
  | 0 => if 0 < i then some (d + (i - 1) * 8 + j) else none
  | 1 => if j < 7 then some (d + i * 8 + (j + 1)) else none
  | 2 => if i < 3 then some (d + (i + 1) * 8 + j) else none
  | _ => if 0 < j then some (d + i * 8 + (j - 1)) else none

/-- The key of a window slot. -/
def winKey (tile slot : Nat) : Nat := tile * 8 + slot
def onWin (k : Nat) (f : Window → Window) (w : World) : World :=
  onTiles (fun t => { t with windows := sUpd {} t.windows k f }) w

/-- An accepted window transfer has completed when its command retires (04 R108). -/
def transferDone (tile : Nat) (e : SbEntry) (w : World) : World :=
  if unitOf (cOp e.cmd) = 4 && e.result = 0 then
    match neighbour tile (wDir e.cmd) with
    | some n => onWin (winKey n (wSlot e.cmd)) (fun v => { v with inFlight := v.inFlight - 1 }) w
    | none => w
  else w

/-- TILE_COMMAND_RETIRE: the oldest command whose unit has completed it retires. -/
def execTileCommandRetire (c : TileCtx) (s : State) : Host.Outcome State Fault Refusal :=
  liveEffect (fun w =>
    let k := TileCtx.key c
    match (ctxAt w k).sb.find? (fun e => e.done) with
    | some e => retireEntry k e (transferDone c.tile e w)
    | none => w) s

/-! ## Slices (04 R111, 09 R248) -/

/-- A step of the context's partition is in RUN: it has started, and not every context has reached STEP_END (09 Table 9.3). -/
def inRun (w : World) (key : Nat) : Bool :=
  match (ctxAt w key).part with
  | some p => decide ((part w p).mode = .stepping) && !(pCtxs (actPart w p)).all (fun k => (ctxAt w k).atEnd)
  | none => false

/-- The slice of the context in its slice is over: its SLICE less the overrun it owes has passed, or it has no step in RUN (04 R111,
09 R248). -/
def sliceOver (w : World) (tile cur : Nat) : Bool :=
  let k := ctxKey tile cur
  !inRun w k || decide (pSlice (ctxRec w k) - (ctxAt w k).overrun ≤ cyclesOfNs (nowNs w - sGet 0 w.tiles.sliceAt tile))

/-- Every unit has finished what it executed for a context: a DMA command is parked where it stands, an open window is no unit's
(04 R111). -/
def unitsDone (x : Ctx) : Bool := x.sb.all (fun e => e.done || isDma (cOp e.cmd) || cOp e.cmd == 0x30)

/-- A context's slice begins: its parked commands issue again. -/
def beginSlice (tile ctx : Nat) (w : World) : World :=
  let k := ctxKey tile ctx
  let w := onTiles (fun t => { t with slice := sPut 0 t.slice tile ctx, sliceAt := sPut 0 t.sliceAt tile (nowNs w) }) w
  onCtx k (fun x => reissueIn w k { x with
    offSince := none
    offCycles := x.offCycles + (match x.offSince with | some t => cyclesOfNs (nowNs w - t) | none => 0) }) w

/-- SLICE_END: the running context stops issuing; its commands not begun leave the scoreboard and its DMA command is parked. The slice is
then no context's until SLICE_START. -/
def execSliceEnd (tile : Fin 128) (s : State) : Host.Outcome State Fault Refusal :=
  liveEffect (fun w =>
    let cur := sGet 0 w.tiles.slice tile
    whenW (tileShared w tile && decide (cur < 2) && sliceOver w tile cur) (fun w =>
      let w := onCtx (ctxKey tile cur) (fun x =>
        { x with sb := x.sb.filter (fun e => e.begun), parked := x.sb.filter (fun e => !e.begun) ++ x.parked,
                 offSince := some (nowNs w) }) w
      onTiles (fun t => { t with slice := sPut 0 t.slice tile (2 + cur), sliceAt := sPut 0 t.sliceAt tile (nowNs w) }) w) w) s

/-- SLICE_START: every unit has finished, and the slice of a context begins, the other's having ended. The overrun, at most 4,096 cycles, is the ending context's
to give back. -/
def execSliceStart (tile : Fin 128) (ctx : Fin 2) (s : State) : Host.Outcome State Fault Refusal :=
  liveEffect (fun w =>
    let cur := sGet 0 w.tiles.slice tile
    let ended := cur - 2
    whenW (decide (2 ≤ cur) && 1 - ended == ctx.val && unitsDone (ctxAt w (ctxKey tile ended))) (fun w =>
      let o := min 4096 (cyclesOfNs (nowNs w - sGet 0 w.tiles.sliceAt tile))
      beginSlice tile (1 - ended) (onCtx (ctxKey tile ended) (fun x => { x with overrun := o, overrunMax := max x.overrunMax o }) w)) w) s

/-- A context in its slice whose partition has no step in RUN yields at once to the other, which has one (09 R248). -/
def yieldSlice (tile : Nat) (w : World) : World :=
  let cur := sGet 0 w.tiles.slice tile
  if tileShared w tile && decide (cur < 2) && !inRun w (ctxKey tile cur) && inRun w (ctxKey tile (1 - cur)) &&
      unitsDone (ctxAt w (ctxKey tile cur)) then
    beginSlice tile (1 - cur) (onCtx (ctxKey tile cur) (fun x => { x with overrun := 0 }) w)
  else w

end Sys2Proof.Machine
end

