-- ==== Sys2Proof/Machine/TileUnits.lean ====
section
/-! DEFINITION. The tensor and vector units: MATMUL, TACC, TACC_LOAD, VLD, VST, VOP, VSF and VRED (04 R96 to R98), with rows
of elements read and written in the formats of 04 Table 4.12. -/

namespace Sys2Proof.Machine

/-! ## Elements in bytes -/

/-- Element `i` of a string in a format, with the flags of reading it; `e` is its block's scale. -/
def elemAt (fmt : Nat) (data : Bytes) (i e : Nat) : Acc × BitVec 8 :=
  let (a, f) : Acc × BitVec 8 := match fmt with
    | 0 => unpackB16 (leAt data (2 * i) 2)
    | 1 | 3 => unpack32 (BitVec.ofNat 32 (leAt data (4 * i) 4))
    | 2 => unpackG16 (leAt data (2 * i) 2)
    | 4 => (unpackG8 (leAt data i 1), 0)
    | 5 => (readBlock true e (leAt data i 1), 0)
    | _ => (readBlock false e (bits (leAt data (i / 2) 1) (4 * (i % 2) + 3) (4 * (i % 2))), 0)
  (a, f ||| nanIn a)

/-- A row of `n` elements with its scales. -/
def rowRead (fmt n : Nat) (data scales : Bytes) : List Acc × BitVec 8 :=
  let l := (upTo n).map (fun i => elemAt fmt data i (leAt scales (i / 32) 1))
  (l.map (·.1), orFlags (l.map (·.2)))

/-- G4 codes in bytes, the lower index in bits 3:0 (03 R58). -/
def nibbles : List Nat → Bytes
  | a :: b :: rest => BitVec.ofNat 8 (a + 16 * b) :: nibbles rest
  | [a] => [BitVec.ofNat 8 a]
  | [] => []

/-- Blocks of 32 along a row, each with its scale: data codes, scales, flags (03 R74). -/
def quantRow (g8 : Bool) : Nat → List Acc → List Nat × Bytes × BitVec 8
  | 0, _ => ([], [], 0)
  | k + 1, xs =>
    let (e, cs, f) := quantBlock g8 (xs.take 32)
    let (cs', es, f') := quantRow g8 k (xs.drop 32)
    (cs ++ cs', BitVec.ofNat 8 e :: es, f ||| f')

/-- A row written in a format: data, scales, flags (03 R65 to R69, R74). -/
def rowWrite (fmt : Nat) (sat : Bool) (xs : List Acc) : Bytes × Bytes × BitVec 8 :=
  let one (k : Nat) (f : Acc → Nat × BitVec 8) : Bytes × Bytes × BitVec 8 :=
    let l := xs.map f
    ((l.map (fun p => leBytes k p.1)).flatten, [], orFlags (l.map (·.2)))
  match fmt with
  | 0 => one 2 (packB16 sat)
  | 1 | 3 => one 4 (fun x => let (c, f) := pack32 sat x; (c.toNat, f))
  | 2 => one 2 (packG16 sat)
  | 4 => one 1 packG8
  | 5 => let (cs, es, f) := quantRow true ((xs.length + 31) / 32) xs; (cs.map (BitVec.ofNat 8), es, f)
  | _ => let (cs, es, f) := quantRow false ((xs.length + 31) / 32) xs; (nibbles cs, es, f)

/-! ## MATMUL (04 R96) -/

/-- The key of an accumulator entry. -/
def bankKey (tile bank row col : Nat) : Nat := (tile * 2 + bank) * 16384 + row * 64 + col
def bankGet (w : World) (k : Nat) : Acc := sGet accZero w.tiles.banks k

/-- The values of one part of an operand's row along K in the groups reduced; elements at or beyond K_TOT are zeros. -/
def mmRow (c : BitVec 256) (data scales : Bytes) (row : Nat) : List Acc × BitVec 8 :=
  let kPad := mmGTot c * 32
  let l := (upTo (32 * mmKG c)).map (fun k =>
    let k := mmKOff c * 32 + k
    if mmKTot c ≤ k then (accZero, (0 : BitVec 8))
    else elemAt (mmFmt c) data (row * kPad + k) (leAt scales (row * mmGTot c + k / 32) 1))
  (l.map (·.1), orFlags (l.map (·.2)))

/-- Exact products of two rows (03 R73). -/
def products (a b : List Acc) : List Acc × BitVec 8 :=
  let l := (a.zip b).map (fun p => accMul p.1 p.2)
  (l.map (·.1), orFlags (l.map (·.2)))

/-- The row of 03 Table 3.10 whose bound applies to a reduction of length `k`: the next longer one; beyond the table, its own length. -/
def boundRow (k : Nat) : Nat := ([32, 256, 1024, 4096, 8192].find? (fun r => decide (k ≤ r))).getD k

/-- A reduction outside normal service: any value within the bound of 03 R85 of the exact sum (log 21). -/
def boundedSum (w : World) (acc : Acc) (ps : List Acc) (r : Acc) (idx : Nat) : Acc :=
  if !w.dev.bounded then r else
    let exact := (ps.foldl (fun a p => (accAdd a p).1) acc)
    let mag := ps.foldl (fun a p => (accAdd a (accAbs p)).1) (accAbs acc)
    let k := boundRow ps.length
    match exact, mag, r with
    | .fin em ee _, .fin mm me _, .fin rm re _ =>
      let off : Int := (Config.fresh 32 (w.free + idx)).toInt
      let (n, q) := roundSig 24 rm re
      let cand := dy (n + off) q
      let err := accAbs (accAdd cand (dy (-em) ee)).1
      -- err * (2^24 - K) <= K * mag
      if accLe (accMul err (dy ((2 ^ 24 : Int) - k) 0)).1 (accMul (dy mm me) (dy k 0)).1 then cand else r
    | _, _, _ => r

/-- The parts of an operand a pass uses: hi or lo of A and of B (03 R80). -/
def passParts (p : Nat) : Nat × Nat :=
  match p with
  | 0 => (0, 0)
  | 1 => (0, 1)
  | _ => (1, 0)

/-- One element of the product over the passes of the command. -/
def mmElement (w : World) (e : SbEntry) (rowA rowB : Nat → List Acc × BitVec 8) (start : Acc) (idx : Nat) : Acc × BitVec 8 :=
  (upTo (cPass e.cmd)).foldl (fun (a : Acc × BitVec 8) p =>
    let (pa, pb) := passParts p
    let (ra, fa) := rowA pa
    let (rb, fb) := rowB pb
    let (ps, fp) := products ra rb
    let (r, fr) := reduceSum a.1 ps
    (boundedSum w a.1 ps r (idx * 4 + p), a.2 ||| fa ||| fb ||| fp ||| fr)) (start, 0)

/-- MATMUL on the operands of an entry. -/
def runMatmul (tile : Nat) (e : SbEntry) (w : World) : BitVec 8 × World :=
  let c := e.cmd
  let slotB := if mmScaled c then 2 else 1
  let data (slot : Nat) := padRead w tile (cBase c slot * 32) (cLen c slot * 32)
  let dA := data 0
  let dB := data slotB
  let sA := if mmScaled c then data 1 else []
  let sB := if mmScaled c then data 3 else []
  let part (d s : Bytes) (rows p row : Nat) : List Acc × BitVec 8 :=
    mmRow c (d.drop (p * mmWords c rows * 32)) (s.drop (p * mmScaleWords c rows * 32)) row
  let cells := (upTo (mmM c)).flatMap (fun i => (upTo (mmN c)).map (fun j => (i, j)))
  let res := cells.map (fun ij =>
    let k := bankKey tile (mmBank c) ij.1 ij.2
    let start := if mmAcc c then bankGet w k else accZero
    let (a, f) := mmElement w e (fun p => part dA sA (mmM c) p ij.1) (fun p => part dB sB (mmN c) p ij.2) start
                    (ij.1 * 64 + ij.2)
    (k, a, f))
  let w := onTiles (fun t => { t with banks := res.foldl (fun b r => sPut accZero b r.1 r.2.1) t.banks }) w
  (orFlags (res.map (·.2.2)), { w with free := w.free + (if w.dev.bounded then 4 * 16384 else 0) })

/-- MATMUL. -/
def execMatmul (c : TileCtx) (s : State) : Host.Outcome State Fault Refusal :=
  liveEffect (runUnit c 0x01 (runMatmul c.tile)) s

/-! ## TACC and TACC_LOAD (04 R97) -/

/-- Rows written from slot `i`: each row padded to a whole word, its scales packed in the next slot (04 R97, R103). -/
def rowsOut (tile : Nat) (c : BitVec 256) (i stride fmt : Nat) (sat : Bool) (rows : List (List Acc)) (w : World) : BitVec 8 × World :=
  (upTo rows.length).foldl (fun (a : BitVec 8 × World) r =>
    let xs := nth [] rows r
    let (d, sc, f) := rowWrite fmt sat xs
    let w := padWrite tile ((cBase c i + r * stride) * 32) (padTo (wordsOf d.length * 32) d) a.2
    let w := if sc.isEmpty then w else padWrite tile (cBase c (i + 1) * 32 + r * sc.length) sc w
    (a.1 ||| f, w)) (0, w)

/-- TACC on an entry. -/
def runTacc (tile : Nat) (e : SbEntry) (w : World) : BitVec 8 × World :=
  let c := e.cmd
  let rows := (upTo (tM c)).map (fun i => (upTo (tN c)).map (fun j => bankGet w (bankKey tile (tBank c) i j)))
  let nan := orFlags (rows.map (fun r => orFlags (r.map nanIn)))
  let (f, w) := rowsOut tile c 0 (wordsOf (fmtBytes (tFmt c) (tN c))) (tFmt c) (cSat c) rows w
  let lo := bankKey tile (tBank c) 0 0
  let w := if tClear c then
      onTiles (fun t => { t with banks := t.banks.filter (fun b => decide (b.1 < lo) || decide (lo + 16384 ≤ b.1)) }) w else w
  (f ||| nan, w)

/-- TACC. -/
def execTacc (c : TileCtx) (s : State) : Host.Outcome State Fault Refusal :=
  liveEffect (runUnit c 0x02 (runTacc c.tile)) s

/-- TACC_LOAD on an entry. -/
def runTaccLoad (tile : Nat) (e : SbEntry) (w : World) : BitVec 8 × World :=
  let c := e.cmd
  let stride := wordsOf (4 * tN c)
  (upTo (tM c)).foldl (fun (a : BitVec 8 × World) i =>
    let (xs, f) := rowRead 3 (tN c) (padRead a.2 tile ((cBase c 0 + i * stride) * 32) (4 * tN c)) []
    let put (b : Store Acc) (j : Nat) := sPut accZero b (bankKey tile (tBank c) i j) (nth accZero xs j)
    (a.1 ||| f, onTiles (fun t => { t with banks := (upTo (tN c)).foldl put t.banks }) a.2)) (0, w)

/-- TACC_LOAD. -/
def execTaccLoad (c : TileCtx) (s : State) : Host.Outcome State Fault Refusal :=
  liveEffect (runUnit c 0x03 (runTaccLoad c.tile)) s

/-! ## Vector registers (04 R89) -/

/-- Lane `i` counted from lane 0 of v`r`, over consecutive registers. -/
def lane (x : Ctx) (r i : Nat) : W32 := sGet 0 x.v (r * 64 + i)
/-- Consecutive lanes written from lane 0 of v`r`. -/
def setLanes (r : Nat) (vs : List W32) (x : Ctx) : Ctx :=
  { x with v := (upTo vs.length).foldl (fun v i => sPut 0 v (r * 64 + i) (nth 0 vs i)) x.v }
/-- The lanes of a group of `n` registers. -/
def group (x : Ctx) (r n : Nat) : List W32 := (upTo (64 * n)).map (lane x r)

/-- VLD on an entry. -/
def runVld (tile key : Nat) (e : SbEntry) (w : World) : BitVec 8 × World :=
  let c := e.cmd
  let n := 64 * tCount c
  let (xs, f) := rowRead (tFmt c) n (padRead w tile (cBase c 0 * 32) (fmtBytes (tFmt c) n))
                   (if fmtScaled (tFmt c) then padRead w tile (cBase c 1 * 32) (scaleBytes (tFmt c) n) else [])
  let l := if tFmt c = 3 then (upTo n).map (fun i => (BitVec.ofNat 32 (padRead w tile (cBase c 0 * 32 + 4 * i) 4 |> leNat), (0 : BitVec 8)))
           else xs.map (pack32 (cSat c))
  ((if tFmt c = 3 then 0 else f) ||| orFlags (l.map (·.2)), onCtx key (setLanes (tReg c) (l.map (·.1))) w)

/-- VLD: equal codes copy bits (04 Table 4.12). -/
def execVld (c : TileCtx) (s : State) : Host.Outcome State Fault Refusal :=
  liveEffect (runUnit c 0x10 (runVld c.tile (TileCtx.key c))) s

/-- VST on an entry. -/
def runVst (tile key : Nat) (e : SbEntry) (w : World) : BitVec 8 × World :=
  let c := e.cmd
  let ls := group (ctxAt w key) (tReg c) (tCount c)
  if tFmt c = 3 then (0, padWrite tile (cBase c 0 * 32) ((ls.map (fun v => leBytes 4 v.toNat)).flatten) w)
  else
    let xs := ls.map operand32
    let (f, w) := rowsOut tile c 0 0 (tFmt c) (cSat c) [xs.map (·.1)] w
    (f ||| orFlags (xs.map (·.2)), w)

/-- VST. -/
def execVst (c : TileCtx) (s : State) : Host.Outcome State Fault Refusal :=
  liveEffect (runUnit c 0x11 (runVst c.tile (TileCtx.key c))) s

/-! ## VOP, VSF, VRED (04 R98, Table 4.10) -/

/-- One lane of a VOP: lanes of VA, VB, VC, and lane 0 of VA and VB. -/
def vopLane (sub : Nat) (sat : Bool) (a b c a0 b0 : W32) : W32 × BitVec 8 :=
  match sub with
  | 0 => add32 a b sat
  | 1 => sub32 a b sat
  | 2 => mul32 a b sat
  | 3 => fma32 a b c sat
  | 4 => max32 a b
  | 5 => min32 a b
  | 6 => neg32 a
  | 7 => abs32 a
  | 8 => canon32 a0
  | _ => mul32 a b0 sat

/-- VOP on an entry. -/
def runVop (key : Nat) (e : SbEntry) (w : World) : BitVec 8 × World :=
  let c := e.cmd
  let x := ctxAt w key
  let l := (upTo (64 * vCount c)).map (fun i =>
    vopLane (vSub c) (cSat c) (lane x (vA c) i) (lane x (vB c) i) (lane x (vC c) i) (lane x (vA c) 0) (lane x (vB c) 0))
  (orFlags (l.map (·.2)), onCtx key (setLanes (vD c) (l.map (·.1))) w)

/-- VOP. -/
def execVop (c : TileCtx) (s : State) : Host.Outcome State Fault Refusal :=
  liveEffect (runUnit c 0x12 (runVop (TileCtx.key c))) s

/-- One special function of R79. -/
def vsfLane (sub : Nat) (sat : Bool) (a : W32) : W32 × BitVec 8 :=
  match sub with
  | 0 => exp32 a sat
  | 1 => recip32 a sat
  | 2 => rsqrt32 a sat
  | 3 => gelu32 a sat
  | _ => silu32 a sat

/-- VSF on an entry. -/
def runVsf (key : Nat) (e : SbEntry) (w : World) : BitVec 8 × World :=
  let c := e.cmd
  let l := (group (ctxAt w key) (vA c) (vCount c)).map (vsfLane (vSub c) (cSat c))
  (orFlags (l.map (·.2)), onCtx key (setLanes (vD c) (l.map (·.1))) w)

/-- VSF. -/
def execVsf (c : TileCtx) (s : State) : Host.Outcome State Fault Refusal :=
  liveEffect (runUnit c 0x13 (runVsf (TileCtx.key c))) s

/-- VRED on an entry: the reduction of R76 from +0, or of R78, to lane 0 of VD. -/
def runVred (key : Nat) (e : SbEntry) (w : World) : BitVec 8 × World :=
  let c := e.cmd
  let os := (group (ctxAt w key) (vA c) (vCount c)).map operand32
  let xs := os.map (·.1)
  let (r, f) := match vSub c with
    | 0 => let (r, f) := reduceSum accZero xs; (boundedSum w accZero xs r 0, f)
    | 1 => reduceExt accMax (.inf true) xs
    | _ => reduceExt accMin (.inf false) xs
  let (v, g) := pack32 (cSat c) r
  let w := { w with free := w.free + (if w.dev.bounded then 1 else 0) }
  (orFlags (os.map (·.2)) ||| f ||| g, onCtx key (fun x => { x with v := sPut 0 x.v (vD c * 64) v }) w)

/-- VRED. -/
def execVred (c : TileCtx) (s : State) : Host.Outcome State Fault Refusal :=
  liveEffect (runUnit c 0x14 (runVred (TileCtx.key c))) s

end Sys2Proof.Machine
end

