-- ==== Sys2Proof/Machine/Dma.lean ====
section
/-! DEFINITION. DMA_LD, DMA_ST and DMA_LC (04 R103 to R106), rotary codes (04 R105), and the windows: WOPEN, WCLOSE, RPUT,
RGET, the judgement of a transfer and the retirement of a window (04 R107 to R110). -/

namespace Sys2Proof.Machine

/-! ## Rotary codes (04 R105; log 22) -/

/-- ln of a value in [1, 2) in units of 2^-200: twice the artanh series of (m - 1) / (m + 1), terms left, power, divisor. -/
def fxLnGo : Nat → Int → Int → Nat → Int
  | 0, _, _, _ => 0
  | k + 1, t, z2, n => t / n + fxLnGo k (t * z2 / 2 ^ fxBits) z2 (n + 2)

/-- ln of a positive dyadic value in units of 2^-200. -/
def fxLn (m : Nat) (e : Int) : Int :=
  let k : Int := topBit m + e
  let x : Int := (m : Int) * 2 ^ fxBits / 2 ^ m.log2
  let one : Int := 2 ^ fxBits
  let z := (x - one) * one / (x + one)
  2 * fxLnGo 70 z (z * z / one) 1 + k * fxLn2

/-- 2π in units of 2^-400. -/
def twoPi400 : Int :=
  16224754493461942477724542702601789038322303200358530407182382075230461810747980997491046721853633630855133559454655152472

/-- The Taylor sum of cos or sin on units of 2^-200: terms left, term, index of the term, minus the square of the argument. -/
def fxTrigGo : Nat → Int → Nat → Int → Int
  | 0, t, _, _ => t
  | k + 1, t, n, q => t + fxTrigGo k (t * q / 2 ^ fxBits / ((n + 1) * (n + 2))) (n + 2) q

/-- cos (or sin) of a G32 argument: within 2 ulp of the exact value (04 R105). -/
def trig32 (sine : Bool) (x : W32) : W32 × BitVec 8 :=
  let (a, f) := operand32 x
  match a with
  | .nan => (nan32, f)
  | .inf _ => (nan32, f ||| fNanGen)
  | .fin m e _ =>
    let v : Int := if 0 ≤ e + 400 then m * 2 ^ (e + 400).toNat else m / 2 ^ (-(e + 400)).toNat
    let r := v % twoPi400
    let r := (if 2 * r < twoPi400 then r else r - twoPi400) / 2 ^ 200
    let q := -(r * r / 2 ^ fxBits)
    let s := if sine then fxTrigGo 60 r 1 q else fxTrigGo 60 (2 ^ fxBits) 0 q
    specialPack false f (specialResult (if sine then 6 else 5) x 2 false s (-200))

/-- φ = (ROPE_POS + r) × b^(-2i / ROW_LEN), rounded once to G32; the base must be positive and finite, else a value of
the part's own (log 22). -/
def ropeAngle (pos i len : Nat) (base : W32) : W32 :=
  match val32 base with
  | .fin m e _ =>
    if 0 < m then
      let (n, q) := fxExp (-(2 * (i : Int) * fxLn m.toNat e / len))
      (pack32 false (dy (pos * n) q)).1
    else Config.ropeOpen (base.toNat * 2 ^ 24 + pos * 128 + i)
  | _ => Config.ropeOpen (base.toNat * 2 ^ 24 + pos * 128 + i)

/-- Pairs of a row rotated in G32: SAT, position, length, base, index of the pair. -/
def ropeRow (sat : Bool) (pos len : Nat) (base : W32) : Nat → List Acc → List Acc × BitVec 8
  | i, a :: b :: rest =>
    let phi := ropeAngle pos i len base
    let (cs, f1) := trig32 false phi
    let (sn, f2) := trig32 true phi
    let (x0, g0) := pack32 sat a
    let (x1, g1) := pack32 sat b
    let (p, h1) := mul32 x0 cs sat
    let (q, h2) := mul32 x1 sn sat
    let (x, h3) := sub32 p q sat
    let (r, h4) := mul32 x0 sn sat
    let (t, h5) := mul32 x1 cs sat
    let (y, h6) := add32 r t sat
    let (l, g) := ropeRow sat pos len base (i + 1) rest
    (val32 x :: val32 y :: l, orFlags [f1, f2, g0, g1, h1, h2, h3, h4, h5, h6, g])
  | _, l => (l, 0)

/-! ## Bursts (04 R104; log 23) -/

/-- Elements of a burst: 64 of one row, so at most 256 far bytes in every format, with their scales in the block-scaled ones. -/
def burstLen : Nat := 64

/-- Bursts of a row, and of a command. -/
def rowBursts (d : BitVec 256) : Nat := (dRowLen d + burstLen - 1) / burstLen
def allBursts (d : BitVec 256) : Nat := dRows d * rowBursts d

/-- Row, first element and elements of burst `i`. -/
def burstAt (d : BitVec 256) (i : Nat) : Nat × Nat × Nat :=
  let first := i % rowBursts d * burstLen
  (i / rowBursts d, first, min burstLen (dRowLen d - first))

/-- Elements of a row from element `first` converted: data and scales in, data and scales out (hi), and the lo parts of a SPLIT (03 R80).
Rotation comes before the conversion (04 R105). Equal codes without rotation copy bits (04 Table 4.12). -/
def convertPart (d : BitVec 256) (sat : Bool) (r first n : Nat) (data scales : Bytes) : Bytes × Bytes × Bytes × Bytes × BitVec 8 :=
  if dSrc d = dDst d && !dRope d && !dSplit d then (data, scales, [], [], 0)
  else
    let (xs, f) := rowRead (dSrc d) n data scales
    let (xs, g) := if dRope d then ropeRow sat (dRopePos d + r) (dRowLen d) (dRopeBase d) (first / 2) xs else (xs, 0)
    let (hd, hs, h) := rowWrite (dDst d) sat xs
    if dSplit d then
      let (back, _) := rowRead (dDst d) n hd hs
      let rest := (xs.zip back).map (fun p => accAdd p.1 (accNegate p.2))
      let (ld, ls, k) := rowWrite (dDst d) sat (rest.map (·.1))
      (hd, hs, ld, ls, orFlags [f, g, h, k, orFlags (rest.map (·.2))])
    else (hd, hs, [], [], orFlags [f, g, h])

/-- First byte in slot `i` of element `first` of row `r` in a format, and of its scale in slot `i + 1` (04 R103). -/
def localAt (e : SbEntry) (i r first fmt : Nat) : Nat × Nat :=
  ((cBase e.cmd i + r * dLocalStride e.desc) * 32 + fmtBytes fmt first,
   cBase e.cmd (i + 1) * 32 + r * scaleBytes fmt (dRowLen e.desc) + first / 32)

/-- Elements written into scratchpad slots `i` (data) and `i + 1` (scales) in a format. -/
def partIn (tile : Nat) (e : SbEntry) (i r first fmt : Nat) (data scales : Bytes) (w : World) : World :=
  let (a, b) := localAt e i r first fmt
  let w := padWrite tile a data w
  if scales.isEmpty then w else padWrite tile b scales w

/-- `n` elements read from scratchpad slots `i` and `i + 1` in a format. -/
def partOut (w : World) (tile : Nat) (e : SbEntry) (i r first n fmt : Nat) : Bytes × Bytes :=
  let (a, b) := localAt e i r first fmt
  (padRead w tile a (fmtBytes fmt n), padRead w tile b (scaleBytes fmt n))

/-! ## Far memory (04 R104; log 23) -/

/-- First far byte of element `first` of row `r` in a format, and of its scale: each row's data, then its scales (04 R103). -/
def farAt (d : BitVec 256) (r first fmt : Nat) : Nat × Nat :=
  let a := dFar d + r * dFarStride d
  (a + fmtBytes fmt first, a + fmtBytes fmt (dRowLen d) + first / 32)

/-- Bytes from the first far byte to past the last. -/
def farExtent (fmt : Nat) (d : BitVec 256) : Nat := (dRows d - 1) * dFarStride d + farRow fmt (dRowLen d)

/-- The die whose Stratum a descriptor names: the tile's own, or DIE. -/
def farDie (c : TileCtx) (d : BitVec 256) : Nat := if dTarget d = 1 then dDie d else c.tile / 32

/-- The partition of a context; 32, a partition that no part has, where none is resident. -/
def farPart (w : World) (c : TileCtx) : Nat := (ctxAt w (TileCtx.key c)).part.getD 32

/-- d_h and KV_FMT of a model, and the bytes of one of its pages (08 Tables 8.2 and 8.7). -/
def mdHead (r : Bytes) : Nat := if fieldLe r 53 53 = 1 then 128 else 64
def mdKvFmt (r : Bytes) : Nat := fieldLe r 45 42
def pageBytes (r : Bytes) : Nat := mdHead r * farRow (mdKvFmt r) 64

/-- Bytes of tier T3 that admission gave a partition: SWAP_FRAMES frames of its model's pages (08 Table 8.9). -/
def swapBytes (set : Store Bytes) (p : Nat) : Nat :=
  fieldLe (objIn set 0x3820 0 p) 215 192 * pageBytes (objIn set 0x3100 0 (pModel (partRec set p) 0))

/-- The far range lies in the pages that admission gave the partition: on the die, or in its swap space (04 R104). -/
def farOk (w : World) (c : TileCtx) (fmt : Nat) (d : BitVec 256) : Bool :=
  decide (dFar d + farExtent fmt d ≤
    if dTarget d = 2 then swapBytes w.cfg.active (farPart w c)
    else 65536 * sGet 0 w.cfg.mapping.pages (farPart w c * 4 + farDie c d))

/-- First byte of the far space of a partition on a die. -/
def farBase (p die : Nat) : Nat := (4 + p * 4 + die) * 2 ^ 32

/-- First byte of the far space that a descriptor of a context addresses. -/
def farStart (w : World) (c : TileCtx) (d : BitVec 256) : Nat := farBase (farPart w c) (farDie c d)

/-- The Stratum of a die is cleared: its pages outside the partitions, and their far spaces. -/
def clearStratum (d : Nat) (w : World) : World :=
  onTiles (fun t => { t with
    stratum := (upTo 32).foldl (fun m p => Mem.clear m (farBase p d) (2 ^ 32)) (Mem.clear t.stratum (d * 2 ^ 32) (2 ^ 32)) }) w

/-- `n` far bytes from an address; host memory answers with bytes of the host's own. -/
def farRead (w : World) (c : TileCtx) (d : BitVec 256) (a n : Nat) : Bytes × World :=
  if dTarget d = 2 then let (v, w) := draw (8 * n) w; (leBytes n v.toNat, w)
  else (Mem.read w.tiles.stratum (farStart w c d + a) n, w)

/-- Far bytes written; those to host memory leave the device over the swap session. -/
def farWrite (c : TileCtx) (d : BitVec 256) (a : Nat) (v : Bytes) (w : World) : World :=
  if v.isEmpty then w
  else if dTarget d = 2 then
    emit (.swapWrite (fieldLe (objIn w.cfg.active 0x3820 0 (farPart w c)) 111 109) (farPart w c) a v) w
  else onTiles (fun t => { t with stratum := Mem.write t.stratum (farStart w c d + a) v }) w

/-- The SAT that acts on a DMA conversion: the descriptor's, or the command's (04 Tables 4.5 and 4.13). -/
def dmaSat (e : SbEntry) : Bool := cSat e.cmd || dSat e.desc

/-- Burst `i` of a DMA_LD. -/
def loadBurst (c : TileCtx) (e : SbEntry) (i : Nat) (w : World) : BitVec 8 × World :=
  let d := e.desc
  let (r, first, n) := burstAt d i
  let (a, b) := farAt d r first (dSrc d)
  let (data, w) := farRead w c d a (fmtBytes (dSrc d) n)
  let (scales, w) := farRead w c d b (scaleBytes (dSrc d) n)
  let (hd, hs, ld, ls, f) := convertPart d (dmaSat e) r first n data scales
  let w := partIn c.tile e 0 r first (dDst d) hd hs w
  (f, if dSplit d then partIn c.tile e 2 r first (dDst d) ld ls w else w)

/-- Burst `i` of a DMA_ST. -/
def storeBurst (c : TileCtx) (e : SbEntry) (i : Nat) (w : World) : BitVec 8 × World :=
  let d := e.desc
  let (r, first, n) := burstAt d i
  let (data, sc) := partOut w c.tile e 0 r first n (dSrc d)
  let (hd, hs, _, _, f) := convertPart d (dmaSat e) r first n data sc
  let (a, b) := farAt d r first (dDst d)
  (f, farWrite c d b hs (farWrite c d a hd w))

/-- Burst `i` of a DMA_LC: LOCAL_STRIDE is the stride of both sides. -/
def copyBurst (c : TileCtx) (e : SbEntry) (i : Nat) (w : World) : BitVec 8 × World :=
  let d := e.desc
  let (r, first, n) := burstAt d i
  let (data, sc) := partOut w c.tile e 0 r first n (dSrc d)
  let (hd, hs, _, _, f) := convertPart d (dmaSat e) r first n data sc
  (f, partIn c.tile e (if fmtScaled (dSrc d) then 2 else 1) r first (dDst d) hd hs w)

/-! ## The far channel -/

/-- The far channel's command on a context, where its opcode is the row's: the next one, or the one it resumes, in the context's slice and
while issue has not stopped (04 R102, R111, 09 Table 9.5: a teardown stops DMA commands at the end of a burst). -/
def farHead (w : World) (c : TileCtx) (op : Nat) : Option SbEntry :=
  let x := ctxAt w (TileCtx.key c)
  (headOf x 2).filter (fun e => cOp e.cmd == op && !x.stopped && inSlice w (TileCtx.key c))

/-- The next `n` bursts of a DMA command, or the rest of them; the command is complete with its last. -/
def moveBursts (c : TileCtx) (e : SbEntry) (n : Nat) (f : SbEntry → Nat → World → BitVec 8 × World) (w : World) : World :=
  let total := allBursts e.desc
  let stop := min total (e.bursts + n)
  let (fl, w) := (upTo (stop - e.bursts)).foldl (fun (a : BitVec 8 × World) j =>
    let (g, w) := f e (e.bursts + j) a.2
    (a.1 ||| g, w)) (0, w)
  onEntry (TileCtx.key c) e.serial (fun e =>
    { e with begun := true, done := decide (stop = total), bursts := stop, flags := e.flags ||| fl }) w

/-- A far command faults with FAR_BOUNDS before any byte moves, or moves its next bursts (04 R104). -/
def runFar (c : TileCtx) (op n : Nat) (fmt : BitVec 256 → Nat) (f : SbEntry → Nat → World → BitVec 8 × World) (w : World) : World :=
  match farHead w c op with
  | some e =>
    if !e.begun && !farOk w c (fmt e.desc) e.desc then
      contextFault (TileCtx.key c) 5 (onCtx (TileCtx.key c) (fun x => { x with sb := x.sb.filter (fun g => g.serial != e.serial) }) w)
    else moveBursts c e n f w
  | none => w

/-- DMA_LD: so many bursts more, or the rest (04 R103, R104; log 23). -/
def execDmaLd (r : DmaRun) (s : State) : Host.Outcome State Fault Refusal :=
  liveEffect (runFar r.c 0x20 r.bursts dSrc (loadBurst r.c)) s
/-- DMA_ST. -/
def execDmaSt (r : DmaRun) (s : State) : Host.Outcome State Fault Refusal :=
  liveEffect (runFar r.c 0x21 r.bursts dDst (storeBurst r.c)) s
/-- DMA_LC: no far range. -/
def execDmaLc (r : DmaRun) (s : State) : Host.Outcome State Fault Refusal :=
  liveEffect (fun w => match farHead w r.c 0x22 with
    | some e => moveBursts r.c e r.bursts (copyBurst r.c) w
    | none => w) s

/-! ## Windows -/

def winAt (w : World) (k : Nat) : Window := sGet {} w.tiles.windows k

/-- A command that faults leaves the scoreboard as it faults: it was never begun (04 R102). -/
def windowFault (key : Nat) (e : SbEntry) (w : World) : World :=
  contextFault key 6 (onCtx key (fun x => { x with sb := x.sb.filter (fun g => g.serial != e.serial) }) w)

/-- The range a window command names. -/
def winRange (c : BitVec 256) : Nat × Nat := cRange c 0

/-- WOPEN breaks R107: slot open or not assigned to the context, no such neighbour, or a range in another open window. -/
def wopenBad (w : World) (tile key : Nat) (c : BitVec 256) : Bool :=
  (winAt w (winKey tile (wSlot c))).isOpen || !bit (pWinSlots (ctxRec w key)) (wSlot c) ||
  (neighbour tile (wDir c)).isNone ||
  (upTo 8).any (fun i => let v := winAt w (winKey tile i); v.isOpen && overlaps (v.base, v.len) (winRange c))

/-- The next command of a unit, where its opcode is the row's. -/
def nextOp (w : World) (key op : Nat) : Option SbEntry :=
  (nextFor (ctxAt w key) (unitOf op)).filter (fun e => cOp e.cmd == op)

/-- WOPEN. -/
def execWopen (c : TileCtx) (s : State) : Host.Outcome State Fault Refusal :=
  liveEffect (fun w =>
    let k := TileCtx.key c
    match nextOp w k 0x30 with
    | some e =>
      if wopenBad w c.tile k e.cmd then windowFault k e w
      else
        let (b, l) := winRange e.cmd
        onEntry k e.serial (fun e => { e with begun := true })
          (onWin (winKey c.tile (wSlot e.cmd)) (fun _ =>
            { isOpen := true, closing := false, ctx := k, base := b, len := l, rights := wRights e.cmd, dir := wDir e.cmd,
              serial := e.serial, inFlight := 0 }) w)
    | none => w) s

/-- WCLOSE: the window enters its closing state; the command ends with the window. A slot with no open window of the context has
nothing to close (log 24). -/
def execWclose (c : TileCtx) (s : State) : Host.Outcome State Fault Refusal :=
  liveEffect (fun w =>
    let k := TileCtx.key c
    match nextOp w k 0x31 with
    | some e =>
      let v := winAt w (winKey c.tile (wSlot e.cmd))
      if v.isOpen && v.ctx == k && !v.closing then
        onEntry k e.serial (fun e => { e with begun := true }) (onWin (winKey c.tile (wSlot e.cmd)) (fun v => { v with closing := true }) w)
      else onEntry k e.serial (fun e => { e with begun := true, done := true }) w
    | none => w) s

/-- A mesh command begins, or faults where no neighbour lies in its direction (04 R110). -/
def meshBegin (c : TileCtx) (op : Nat) (w : World) : World :=
  let k := TileCtx.key c
  match nextOp w k op with
  | some e =>
    if (neighbour c.tile (wDir e.cmd)).isNone then windowFault k e w
    else onEntry k e.serial (fun e => { e with begun := true }) w
  | none => w

/-- RPUT: its flits leave; the owner judges at arrival (04 R108). -/
def execRput (c : TileCtx) (s : State) : Host.Outcome State Fault Refusal := liveEffect (meshBegin c 0x32) s
/-- RGET. -/
def execRget (c : TileCtx) (s : State) : Host.Outcome State Fault Refusal := liveEffect (meshBegin c 0x33) s

/-- The judgement of a transfer (04 R108, R109): 0 accepted, else RESULT of Table 4.15. A window open toward another
neighbour is closed to this one (log 24). -/
def judgeTransfer (v : Window) (e : SbEntry) : Nat :=
  if !v.isOpen || v.closing || v.dir != (wDir e.cmd + 2) % 4 then 1
  else if (cOp e.cmd == 0x32 && v.rights == 1) || (cOp e.cmd == 0x33 && v.rights == 2) then 2
  else if v.len < wOffset e.cmd + (winRange e.cmd).2 then 3
  else 0

/-- WINDOW_TRANSFER_ARRIVE: the first flit of the context's mesh transfer reaches the owner, which accepts it in full or
drops it (04 R108, R109). -/
def execWindowTransferArrive (c : TileCtx) (s : State) : Host.Outcome State Fault Refusal :=
  liveEffect (fun w =>
    let k := TileCtx.key c
    match (ctxAt w k).sb.find? (fun e => unitOf (cOp e.cmd) == 4 && e.begun && !e.done) with
    | none => w
    | some e =>
      match neighbour c.tile (wDir e.cmd) with
      | none => w
      | some n =>
        let v := winAt w (winKey n (wSlot e.cmd))
        let r := judgeTransfer v e
        if r = 0 then
          let (b, l) := winRange e.cmd
          let far := (v.base + wOffset e.cmd) * 32
          let w := if cOp e.cmd = 0x32 then padWrite n far (padRead w c.tile (b * 32) (l * 32)) w
                   else padWrite c.tile (b * 32) (padRead w n far (l * 32)) w
          onEntry k e.serial (fun e => { e with done := true })
            (onWin (winKey n (wSlot e.cmd)) (fun v => { v with inFlight := v.inFlight + 1 }) w)
        else
          onEntry k e.serial (fun e => { e with done := true, result := r })
            (onTiles (fun t => { t with winDropped := sUpd 0 t.winDropped n (· + 1),
                                        winNack := sUpd 0 t.winNack c.tile (· + 1) }) w)) s

/-- WINDOW_RETIRE: a closing window with no transfer under way frees its slot and its scoreboard entry, and its WCLOSE
completes (04 R108). -/
def execWindowRetire (tile : Fin 128) (slot : Fin 8) (s : State) : Host.Outcome State Fault Refusal :=
  liveEffect (fun w =>
    let k := winKey tile slot
    let v := winAt w k
    whenW (v.isOpen && v.closing && v.inFlight == 0) (fun w =>
      let w := onWin k (fun _ => {}) w
      let w := onCtx v.ctx (fun x => { x with
        sb := x.sb.map (fun e => if cOp e.cmd = 0x31 && wSlot e.cmd = slot && e.begun then { e with done := true } else e) }) w
      match (ctxAt w v.ctx).sb.find? (fun e => e.serial == v.serial) with
      | some e => retireEntry v.ctx e w
      | none => w) w) s

end Sys2Proof.Machine
end

