-- ==== Sys2Proof/Machine/HaloMath.lean ====
section
/-! DEFINITION. Halo arithmetic in G32 (07 R172), profile generator law (07 R193, R194) and injector values (07 R196). -/

namespace Sys2Proof.Machine

/-! ## Operations without flags (07 R172) -/

def hAdd (a b : W32) : W32 := (add32 a b).1
def hSub (a b : W32) : W32 := (sub32 a b).1
def hMul (a b : W32) : W32 := (mul32 a b).1
def hAbs (a : W32) : W32 := (abs32 a).1
def hNeg (a : W32) : W32 := (neg32 a).1
def hMin (a b : W32) : W32 := (min32 a b).1
def hMax (a b : W32) : W32 := (max32 a b).1
/-- A quotient: a product with recip (07 R172). -/
def hDiv (a b : W32) : W32 := hMul a (recip32 b).1
/-- An integer as G32. -/
def hInt (i : Int) : W32 := g32 i 0
/-- clamp(x, lo, hi). -/
def hClamp (x lo hi : W32) : W32 := hMin (hMax x lo) hi
/-- -1, 0 or +1 by the sign of a value. -/
def hSign (a : W32) : W32 := if lt32 a 0 then 0xBF800000 else if lt32 0 a then 0x3F800000 else 0

/-- 10^-9, 10^9 and 10^-6 as G32 (07 R172). -/
def hNano : W32 := 0x3089705F
def hGiga : W32 := hInt 1000000000
def hMicro : W32 := g32Ratio 1 1000000
def hTwo : W32 := hInt 2

/-- A value rounded to an integer under R65; none where it is not finite. -/
def hRound (a : W32) : Option Int :=
  match val32 a with
  | .fin m e _ => some (roundAt 0 m e)
  | _ => none

/-- Square root (07 R172; log 6). -/
def sqrt32 (x : W32) : W32 :=
  match val32 x with
  | .nan => nan32
  | .inf n => if n then nan32 else x
  | .fin m e nz =>
    if m = 0 then (if nz then 0x80000000 else 0) else if m < 0 then nan32 else
      let (m, e) := if e % 2 = 0 then (m.toNat, e) else (2 * m.toNat, e - 1)
      (specialPack false 0 (specialResult 7 x 2 false (isqrt (m * 2 ^ 200) : Nat) (e / 2 - 100))).1

/-- Integer cube root, one bit at a time. -/
def icbrtGo : Nat → Nat → Nat → Nat
  | 0, _, r => r
  | k + 1, n, r => let c := r + 2 ^ k; icbrtGo k n (if c * c * c ≤ n then c else r)

/-- Cube root (07 R172; log 6). -/
def cbrt32 (x : W32) : W32 :=
  match val32 x with
  | .nan => nan32
  | .inf _ => x
  | .fin m e nz =>
    if m = 0 then (if nz then 0x80000000 else 0) else
      let k := (e % 3).toNat
      let n := m.natAbs * 2 ^ k * 2 ^ 300
      let r := icbrtGo (n.log2 / 3 + 1) n 0
      (specialPack false 0 (specialResult 8 x 2 false (if m < 0 then -(r : Int) else r) ((e - k) / 3 - 100))).1

/-! ## PROFILE_RECORD (07 Table 7.6) -/

def genRec (w : World) (g : Nat) : Bytes := actObj w 0x5020 0 g
def gnJMax (r : Bytes) : W32 := field32 r 146
def gnAMax (r : Bytes) : W32 := field32 r 114
def gnVMax (r : Bytes) : W32 := field32 r 82
def gnTarget (r : Bytes) : W32 := field32 r 50
def gnPInit (r : Bytes) : W32 := field32 r 18
def gnPeriod (r : Bytes) : Nat := fieldLe r 17 2
def gnMode (r : Bytes) : Nat := fieldLe r 1 0

/-- A generator at run time. -/
def gen (w : World) (g : Nat) : GenRt := sGet {} w.halo.gens g
def onGen (g : Nat) (f : GenRt → GenRt) (w : World) : World := onHalo (fun h => { h with gens := sUpd {} h.gens g f }) w

/-- grow_limited(x, L) where `old` is the value replaced (07 R194). -/
def growLimited (x lim old : W32) : W32 :=
  if le32 (hAbs x) lim || le32 (hAbs x) (hAbs old) then x else hMul (hSign x) (hMax lim (hAbs old))

/-- vstop(s) (07 R193). -/
def vstop (j a s : W32) : W32 :=
  let a2 := hMul a a
  let j2 := hMul j j
  if le32 s (hDiv (hMul a2 a) j2) then cbrt32 (hMul j (hMul s s))
  else
    let root := sqrt32 (hAdd (hDiv (hMul (hMul a2 a) a) j2) (hMul (hMul (hInt 8) a) s))
    hDiv (hAdd (hDiv (hNeg a2) j) root) hTwo

/-- One step of a TRACK generator (07 R193). -/
def genStep (r : Bytes) (x : GenRt) : GenRt :=
  let d := hMul (hInt (gnPeriod r)) hMicro
  let j := gnJMax r
  let am := gnAMax r
  let vm := gnVMax r
  let e := hSub (gnTarget r) x.p
  let d2 := hMul d d
  if le32 (hAbs e) (hMul j (hMul d2 d)) && le32 (hAbs x.v) (hMul j d2) && le32 (hAbs x.a) (hMul j d) then
    { x with p := gnTarget r, v := 0, a := 0, flags := 1 }
  else
    let vd := hMul (hSign e) (hMin vm (vstop j am (hAbs e)))
    let dv := hSub vd x.v
    let ad := hMul (hSign dv) (hMin am (sqrt32 (hMul (hMul hTwo j) (hAbs dv))))
    let jk := hClamp (hDiv (hSub ad x.a) d) (hNeg j) j
    let a1 := growLimited (hAdd x.a (hMul jk d)) am x.a
    let v1 := growLimited (hAdd x.v (hMul (hDiv (hAdd x.a a1) hTwo) d)) vm x.v
    let p1 := hAdd x.p (hMul (hDiv (hAdd x.v v1) hTwo) d)
    let f := b2n (le32 vm (hAbs v1)) * 2 + b2n (le32 am (hAbs a1)) * 4 + b2n (le32 j (hAbs jk)) * 8
    { x with p := p1, v := v1, a := a1, flags := BitVec.ofNat 8 f }

/-! ## INJECTOR_RECORD (07 Table 7.7) -/

def injRec (w : World) (i : Nat) : Bytes := actObj w 0x5030 0 i
def ijTonePhase (r : Bytes) (i : Nat) : Nat := fieldLe r (256 + 96 * i + 95) (256 + 96 * i + 64)
def ijToneAmpl (r : Bytes) (i : Nat) : W32 := field32 r (256 + 96 * i + 32)
def ijToneFreq (r : Bytes) (i : Nat) : W32 := field32 r (256 + 96 * i)
def ijSweep (r : Bytes) : Nat := fieldLe r 255 224
def ijF1 (r : Bytes) : W32 := field32 r 192
def ijF0 (r : Bytes) : W32 := field32 r 160
def ijDuration (r : Bytes) : Nat := fieldLe r 159 128
def ijAmpl (r : Bytes) : W32 := field32 r 96
def ijTones (r : Bytes) : Nat := fieldLe r 82 78
def ijChip (r : Bytes) : Nat := fieldLe r 77 54
def ijSeed (r : Bytes) : Nat := fieldLe r 53 23
def ijOrder (r : Bytes) : Nat := fieldLe r 22 18
def ijLoop (r : Bytes) : Nat := fieldLe r 17 4
def ijPoint (r : Bytes) : Nat := fieldLe r 3 3
def ijKind (r : Bytes) : Nat := fieldLe r 2 0

/-- The second tap of the polynomial of an order (07 Table 7.8). -/
def prbsTap (n : Nat) : Option Nat :=
  match n with
  | 7 => some 6
  | 9 => some 5
  | 10 => some 7
  | 11 => some 9
  | 15 => some 14
  | 17 => some 14
  | 20 => some 17
  | 23 => some 18
  | 31 => some 28
  | _ => none

/-- The register after `k` shifts: the last stage leaves, its sum with the tap enters (log 30). -/
def prbsReg (n m : Nat) : Nat → Nat → Nat
  | 0, r => r
  | k + 1, r => prbsReg n m k ((r * 2 + b2n (xor (bit r (n - 1)) (bit r (m - 1)))) % 2 ^ n)

/-- Bit `k` of the sequence. -/
def prbsBit (n seed k : Nat) : Bool :=
  match prbsTap n with
  | some m => bit (prbsReg n m (k % (2 ^ n - 1)) (seed % 2 ^ n)) (n - 1)
  | none => false

/-- A phase in turns reduced modulo one turn, exactly. -/
def turnFrac (x : W32) : W32 :=
  match val32 x with
  | .fin m e _ => if 0 ≤ e then 0 else (pack32 false (dy (m % 2 ^ (-e).toNat) e)).1
  | _ => nan32

/-- sin of a phase in turns (07 R172, R196). -/
def sinTurn (x : W32) : W32 := (trig32 true (hMul (g32Ratio (twoPi400 / 2 ^ 300) (2 ^ 100)) (turnFrac x))).1

/-- The value of an injector, `tau` ns after its start instant (07 R196). -/
def injValue (r : Bytes) (tau : Nat) : W32 :=
  let a := ijAmpl r
  match ijKind r with
  | 1 => if prbsBit (ijOrder r) (ijSeed r) (if ijChip r = 0 then 0 else tau / ijChip r) then a else hNeg a
  | 2 =>
    let t := hMul (hInt (min tau (ijSweep r * 1000) : Nat)) hNano
    let big := hMul (hInt (ijSweep r)) hMicro
    hMul a (sinTurn (hAdd (hMul (ijF0 r) t) (hDiv (hMul (hSub (ijF1 r) (ijF0 r)) (hMul t t)) (hMul hTwo big))))
  | 3 =>
    let t := hMul (hInt (min tau (ijSweep r * 1000) : Nat)) hNano
    let big := hMul (hInt (ijSweep r)) hMicro
    let q := hDiv (ijF1 r) (ijF0 r)
    hMul a (sinTurn (hDiv (hMul (hMul (ijF0 r) big) (hSub (Config.haloPow q (hDiv t big)) (hInt 1))) (Config.haloLn q)))
  | 4 =>
    let t := hMul (hInt tau) hNano
    hMul a ((upTo (ijTones r)).foldl (fun s i =>
      hAdd s (hMul (ijToneAmpl r i) (sinTurn (hAdd (hMul (ijToneFreq r i) t) (g32 (ijTonePhase r i) (-32)))))) 0)
  | _ => 0

end Sys2Proof.Machine
end

