-- ==== Sys2Proof/Machine/Halo.lean ====
section
/-! DEFINITION. Halo at run time: loop updates, commands, band adaptation, opening and closing, profile steps, injectors and
capture channels (07 R170 to R200), and what a SWAP does to them (07 R191, R198). -/

namespace Sys2Proof.Machine

/-- A Halo engine. -/
def he (w : World) (e : Nat) : He := sGet {} w.halo.engines e
def onHe (e : Nat) (f : He → He) (w : World) : World := onHalo (fun h => { h with engines := sUpd {} h.engines e f }) w

def inj (w : World) (i : Nat) : InjRt := sGet {} w.halo.injs i
def onInj (i : Nat) (f : InjRt → InjRt) (w : World) : World := onHalo (fun h => { h with injs := sUpd {} h.injs i f }) w
def cap (w : World) (c : Nat) : CapRt := sGet {} w.halo.caps c
def onCap (c : Nat) (f : CapRt → CapRt) (w : World) : World := onHalo (fun h => { h with caps := sUpd {} h.caps c f }) w

/-- The injectors of the active set on a loop, at a point. -/
def injsOf (w : World) (l point : Nat) : List Nat :=
  (instancesOf w.cfg.active 0x5030 0).filter (fun i =>
    ijLoop (injRec w i) == l && ijPoint (injRec w i) == point && decide (ijKind (injRec w i) ≠ 0))

/-- The injector acts at a sample instant: from its start instant to its end (07 R195, R196). -/
def injActs (w : World) (i t1 : Nat) : Bool :=
  match (inj w i).ts with
  | some ts => decide (ts ≤ t1) && (ijDuration (injRec w i) == 0 || decide (t1 < ts + ijDuration (injRec w i) * 1000))
  | none => false

/-- inj(point) of R176. -/
def injAt (w : World) (l point t1 : Nat) : W32 :=
  match (injsOf w l point).find? (fun i => injActs w i t1) with
  | some i => injValue (injRec w i) (t1 - (inj w i).ts.getD 0)
  | none => 0

/-! ## CAPTURE_RECORD (07 Table 7.9) -/

def capRec (w : World) (c : Nat) : Bytes := actObj w 0x5040 0 c
def cpPre (r : Bytes) : Nat := fieldLe r 105 86
def cpEntries (r : Bytes) : Nat := fieldLe r 85 65
def cpPage (r : Bytes) : Nat := fieldLe r 64 33
def cpDecim (r : Bytes) : Nat := fieldLe r 32 25
def cpTrigInj (r : Bytes) : Nat := fieldLe r 24 23
def cpTrig (r : Bytes) : Nat := fieldLe r 22 21
def cpSignal (r : Bytes) : Nat := fieldLe r 20 17
def cpLoop (r : Bytes) : Nat := fieldLe r 16 3

/-- Injector `k` of an engine: the k-th of those admission placed there, in ascending number (07 Table 7.9). -/
def engineInj (w : World) (e k : Nat) : Option Nat :=
  ((instancesOf w.cfg.active 0x5030 0).filter (fun i => sFind w.cfg.mapping.injs i == some e))[k]?

/-- An armed injector whose start has come starts at this update, and triggers the channels that name it (07 R196, R198). -/
def startInjs (l t1 : Nat) (w : World) : World :=
  eachW (injsOf w l 0 ++ injsOf w l 1) (fun i w =>
    match (inj w i).armed with
    | some at_ =>
      if at_ ≤ t1 then
        let w := onInj i (fun _ => { armed := none, ts := some t1 }) w
        eachW (instancesOf w.cfg.active 0x5040 0) (fun c w =>
          if cpTrig (capRec w c) = 2 && engineInj w ((sFind w.cfg.mapping.caps c).getD 16) (cpTrigInj (capRec w c)) == some i &&
             decide ((cap w c).state = .armed) then onCap c (fun x => { x with pending := some t1 }) w else w) w
      else w
    | none => w) w

/-! ## Issue (07 R182 to R184, R186) -/

/-- What an update works on. -/
structure Upd where
  l : Nat
  rcd : Bytes
  q : QSample
  issued : Bool := false

/-- |ω_a| of R184: never below ω_min of the tracker. -/
def angleRate (w : World) (u : Upd) : W32 := hMax (hAbs u.q.omega) (atOmegaMin (atRec w (lpTracker u.rcd)))

/-- dwell of R178 in ns (07 R184). -/
def dwellOf (w : World) (u : Upd) : Nat :=
  if lpStamp u.rcd then
    let aw := angleRate w u
    let d := hDiv (hMul (hInt (lpDwellMin u.rcd)) (hMax (atOmegaMax (atRec w (lpTracker u.rcd))) aw)) aw
    max (lpDwellMin u.rcd) ((hRound d).getD 0).toNat
  else lpDwellMin u.rcd

/-- The target angle of a command stamped in angle (07 R184). -/
def targetAngle (w : World) (u : Upd) (texec : Nat) : W32 :=
  let k := (hRound (hMul (hMul (hMul (angleRate w u) (hInt ((texec : Int) - u.q.ta))) hNano) (hInt (2 ^ 32)))).getD 0
  turn u.q.theta (if lt32 u.q.omega 0 then -k else k)

/-- The band adaptation (07 R186). -/
def adapt (r : Bytes) (x : LoopRt) : LoopRt :=
  if x.swCount < lpMAdapt r then x else
    let fobs := hDiv (hMul (hInt (lpMAdapt r)) hGiga) (hMul hTwo x.wElapsed)
    let factor := hClamp (hAdd (hInt 1) (hMul (lpKAdapt r) (hSub (hDiv fobs (lpFTarget r)) (hInt 1)))) (g32 1 (-1)) hTwo
    let h := hClamp (hMul x.h factor) (lpHMin r) (lpHMax r)
    { x with h := h, swCount := 0, wElapsed := 0, flags := setFlag lfHLimit (h == lpHMin r || h == lpHMax r) x.flags }

/-- issue(): the command goes to Bedrock against a credit, or CREDIT_WAIT is set (07 R182, R183). `law` is false while the
loop is open: no adaptation runs (07 R189). -/
def issueCmd (new tx : Nat) (law : Bool) (u : Upd) (w : World) : World × Bool :=
  let x := loop w u.l
  let texec := max tx (max (u.q.ta + lpLead u.rcd) (x.lastExec + dwellOf w u))
  let t := lpTrunk u.rcd
  if !mayHand w t (lpCell u.rcd) x.engine then
    (onHe x.engine (fun h => { h with creditWaits := h.creditWaits + 1 })
      (onLoop u.l (fun x => { x with flags := setFlag lfCredit true x.flags, nCreditWaits := x.nCreditWaits + 1 }) w), false)
  else
    let c : TxCmd := {
      cell := lpCell u.rcd, output := lpOutput u.rcd, level := new, loop := u.l, engine := x.engine, exec := texec,
      angle := if lpStamp u.rcd then some (lpTracker u.rcd, targetAngle w u texec) else none,
      epoch := BitVec.ofNat 32 w.dev.epoch }
    let w := onHe x.engine (fun h => { h with commands := h.commands + 1 }) (handCommand t c w)
    let spacing := hInt ((texec : Int) - x.lastExec)
    (onLoop u.l (fun x =>
      let x := { x with level := new, lastExec := texec, nCommands := x.nCommands + 1,
                        flags := setFlag lfCredit false (setFlag lfEnd false x.flags) }
      if hasFlag lfWindow x.flags then
        let x := { x with wElapsed := hAdd x.wElapsed spacing, swCount := x.swCount + 1 }
        if law then adapt u.rcd x else x
      else { x with flags := setFlag lfWindow true x.flags, wElapsed := 0, swCount := 0 }) w, true)

/-- decide() (07 R178). -/
def decideCmd (e c : W32) (slopeOk : Bool) (u : Upd) (w : World) : World × Bool :=
  let x := loop w u.l
  let hi := hAdd c x.h
  let lo := hSub c x.h
  let dt : Int := (u.q.t1 : Int) - x.t0
  let found : Option (Int × Int) :=
    if lt32 hi e then some (1, 0)
    else if lt32 e lo then some (-1, 0)
    else if slopeOk then
      let s := hDiv (hSub e x.e0) (hInt dt)
      let step (dir : Int) (gap : W32) : Option (Int × Int) :=
        let q := hMul gap (recip32 s).1
        let reach : Int := (u.q.ta : Int) + lpLead u.rcd + lpTs u.rcd - u.q.t1
        if isFin32 q && !accLt (dy reach 0) (val32 q) then some (dir, (u.q.t1 : Int) + (hRound q).getD 0) else none
      if lt32 0 s then step 1 (hSub hi e) else if lt32 s 0 then step (-1) (hSub lo e) else none
    else none
  match found with
  | none => (w, false)
  | some (dir, tx) =>
    let new : Int := (x.level : Int) + (if lpPol u.rcd then -dir else dir)
    if new < 0 ∨ (lpLevels u.rcd : Int) < new then
      (onLoop u.l (fun x => { x with flags := setFlag lfEnd true x.flags, nEndLevel := x.nEndLevel + 1 }) w, false)
    else issueCmd new.toNat tx.toNat true u w

/-! ## The update (07 R176, R177, R189, R190) -/

/-- ff() and whether the DC-link voltage was raised (07 R187). -/
def feedForward (w : World) (r : Bytes) : W32 × Bool :=
  match lpFfMode r with
  | 1 =>
    let v := (stream w (lpFfStream r)).value
    let q := hDiv (lpVNom r) (hInt 4)
    let low := isNan32 v || lt32 v q
    (hMul (lpFfOffset r) (hMul (lpVNom r) (recip32 (if low then q else v)).1), low)
  | 2 => (hAdd (lpFfOffset r) (hMul (lpFfGain r) (gen w (lpRefGen r)).a), false)
  | _ => (lpFfOffset r, false)

/-- An open loop's update: one command to OPEN_LEVEL (07 R189, R191). -/
def openUpdate (u : Upd) (w : World) : World × Bool :=
  let x := loop w u.l
  if lpOpenLevel u.rcd = 15 || !(x.first || x.level != lpOpenLevel u.rcd) || decide (u.q.t1 < x.lastExec) then (w, false) else
    let (w, sent) := issueCmd (lpOpenLevel u.rcd) 0 false u w
    let done (x : LoopRt) : LoopRt :=
      { x with first := false, initExec := (if x.first && lpInitClosed u.rcd then some x.lastExec else x.initExec) }
    (if sent then onLoop u.l done w else w, sent)

/-- The preload of a closing loop (07 R190). -/
def preload (r : Bytes) (e : W32) (x : LoopRt) : LoopRt :=
  let d := hSub (lpBandC r) e
  let x := if lpIntEn r then
      { x with integ := hClamp d (hNeg (lpIMax r)) (lpIMax r), flags := setFlag lfPreload (lt32 (lpIMax r) (hAbs d)) x.flags }
    else x
  { x with flags := setFlag lfPending false (setFlag lfWindow false x.flags), swCount := 0, wElapsed := 0 }

/-- The integrator (07 R176, R185). -/
def integrate (r : Bytes) (e : W32) (dt : Int) (x : LoopRt) : LoopRt :=
  let step := hMul (hMul (hMul (lpIGain r) (hSub e (lpBandC r))) (hInt dt)) hNano
  let i := hClamp (hAdd x.integ step) (hNeg (lpIMax r)) (lpIMax r)
  { x with integ := i, flags := setFlag lfSat (hAbs i == lpIMax r) x.flags }

/-- The procedure of R176 from its error on; whether a command was issued. -/
def updateWith (e : W32) (slopeOk : Bool) (u : Upd) (w : World) : World × Bool :=
  let x := loop w u.l
  let seen (w : World) : World := onLoop u.l (fun x => { x with e0 := e, t0 := u.q.t1 }) w
  let inflight := decide (u.q.t1 < x.lastExec)
  if !hasFlag lfClosed x.flags then
    let (w, s) := openUpdate u w
    (seen w, s)
  else if hasFlag lfPending x.flags then
    (seen (if inflight then w else onLoop u.l (preload u.rcd e) w), false)
  else
    let w := if lpIntEn u.rcd && slopeOk then onLoop u.l (integrate u.rcd e ((u.q.t1 : Int) - x.t0)) w else w
    let c := hSub (lpBandC u.rcd) (loop w u.l).integ
    let (w, s) := if inflight then (w, false) else decideCmd e c slopeOk u w
    (seen (onLoop u.l (fun x => { x with flags := setFlag lfNoSlope (!slopeOk) x.flags }) w), s)

/-- One entry of a capture channel, 16 bytes (07 R197). -/
def captureEntry (w : World) (u : Upd) (value : W32) (sent : Bool) (count : Nat) : Bytes :=
  let x := loop w u.l
  leBytes 16 (u.q.t1 * 2 ^ 64 + value.toNat * 2 ^ 32 + x.level * 2 ^ 29 + b2n (hasFlag lfInject x.flags) * 2 ^ 28 +
    b2n sent * 2 ^ 27 + count % 65536)

/-- A capture channel of the loop after an update (07 R197, R198). -/
def captureUpdate (u : Upd) (signals : List W32) (sent : Bool) (c : Nat) (w : World) : World :=
  let r := capRec w c
  let x := cap w c
  let trig := decide (x.state = .armed) && (match x.pending with | some p => decide (p ≤ u.q.t1) | none => false)
  let x := if trig then { x with state := .triggered, trigT := u.q.t1, pending := none, left := cpEntries r - cpPre r, decim := 0 } else x
  let on := decide (x.state = .armed) || decide (x.state = .triggered)
  if !on then w
  else if x.decim ≠ 0 then onCap c (fun _ => { x with decim := x.decim - 1 }) w
  else
    let d := ((sFind w.cfg.mapping.caps c).getD 0) / 4
    let a := d * 2 ^ 32 + cpPage r * 65536 + x.idx * 16
    let w := onTiles (fun t => { t with stratum := Mem.write t.stratum a (captureEntry w u (nth 0 signals (cpSignal r)) sent x.count) }) w
    let last := decide (x.state = .triggered) && decide (x.left ≤ 1)
    onCap c (fun _ => { x with
      state := if last then .frozen else x.state, left := x.left - 1, decim := cpDecim r - 1, count := x.count + 1,
      idx := if x.idx + 1 < cpEntries r then x.idx + 1 else 0 }) w

/-- An update of a loop by a sample (07 R176). -/
def loopUpdate (s : QSample) (w : World) : World :=
  let l := s.loop
  let r := loopRec w l
  let w := startInjs l s.t1 w
  let w := if (loop w l).discard then
      onLoop l (fun x => { x with discard := false, level := (shadow w l).level, lastExec := (shadow w l).lastExec }) w
    else w
  let x := loop w l
  let u : Upd := { l := l, rcd := r, q := s }
  let slopeOk := decide (x.t0 ≠ 0) && decide ((s.t1 : Int) - x.t0 ≤ 4 * lpTs r)
  let ref := if lpRefMode r then (gen w (lpRefGen r)).p else lpRef r
  let rf := hAdd x.rf (hMul (lpAlpha r) (hSub ref x.rf))
  let ff := feedForward w r
  let ir := injAt w l 0 s.t1
  let im := injAt w l 1 s.t1
  let e := hSub (hAdd (hAdd rf ff.1) ir) (hAdd s.y im)
  let acting := (injsOf w l 0 ++ injsOf w l 1).any (fun i => injActs w i s.t1)
  let w := onHe x.engine (fun h => { h with updates := h.updates + 1 }) (onLoop l (fun x =>
    { x with rf := rf, flags := setFlag lfInject acting x.flags }) w)
  let (w, sent) :=
    if !isFin32 e then
      (onHe x.engine (fun h => { h with arith := h.arith + 1 })
        (onLoop l (fun x => { x with flags := setFlag lfArith true x.flags, nArith := x.nArith + 1 }) w), false)
    else
      updateWith e slopeOk u (onLoop l (fun x => { x with flags := setFlag lfLimited ff.2 (setFlag lfArith false x.flags) }) w)
  let z := loop w l
  let signals := [s.y, e, z.rf, hSub (lpBandC r) z.integ, z.h, z.integ, hInt z.level, hAdd ir im, ff.1]
  eachW ((instancesOf w.cfg.active 0x5040 0).filter (fun c => cpLoop (capRec w c) = l)) (captureUpdate u signals sent) w

/-- The loop takes updates on this engine: in the set, placed there, its die serving, not struck (12 R333, Table 12.1). -/
def loopRuns (w : World) (l e : Nat) : Bool :=
  let x := loop w l
  hasObj w.cfg.active 0x5010 0 l && w.cfg.present && x.engine == e && !x.stopped && !x.struck && dieGood (die w (e / 4))

/-- HALO_LOOP_UPDATE: the sample at the head of an engine's input queue. -/
def haloUpdate (e : Nat) (w : World) : World :=
  match (he w e).queue with
  | [] => w
  | s :: rest =>
    let w := onHe e (fun h => { h with queue := rest }) w
    if loopRuns w s.loop e then loopUpdate s w else w

/-- HALO_LOOP_UPDATE. -/
def execHaloLoopUpdate (e : Fin 16) (s : State) : Host.Outcome State Fault Refusal := liveEffect (haloUpdate e) s

/-- COMMAND_DISCARD_NOTICE: the next update takes LEVEL and LAST_EXEC from the command shadow (07 R182). -/
def execCommandDiscardNotice (l : Fin 16384) (s : State) : Host.Outcome State Fault Refusal :=
  liveEffect (fun w => whenW (hasObj w.cfg.active 0x5010 0 l) (onLoop l (fun x => { x with discard := true })) w) s

/-! ## Opening and closing (07 R188 to R190) -/

/-- LOOP_CTRL taking effect at a boundary: 0 opens, 1 closes. -/
def loopCtrl (l v : Nat) (w : World) : World :=
  onLoop l (fun x =>
    if v = 0 then { x with flags := setFlag lfClosed false (setFlag lfPending false x.flags) }
    else if hasFlag lfClosed x.flags then x
    else { x with flags := setFlag lfSat false (setFlag lfPending true (setFlag lfClosed true x.flags)), first := false }) w

/-- INIT_CLOSED: the automatic close at the first boundary whose LC3 stamp is later than the first command (07 R191). -/
def autoClose (boundaryLc3 : Int) (w : World) : World :=
  eachW (loopsOf w.cfg.active) (fun l w =>
    match (loop w l).initExec with
    | some t => if (t : Int) < boundaryLc3 / 65536 then onLoop l (fun x => { x with initExec := none }) (loopCtrl l 1 w) else w
    | none => w) w

/-! ## Profile generators (07 R192, R193) -/

/-- PROFILE_STEP: a TRACK generator steps every PERIOD µs of LC3. -/
def profileStep (g : Nat) (w : World) : World :=
  let r := genRec w g
  let x := gen w g
  let ok := w.cfg.present && hasObj w.cfg.active 0x5020 0 g && gnMode r == 1 && !x.stopped && !x.struck &&
    dieGood (die w (x.engine / 4)) && decide (x.stepAt + gnPeriod r * 1000 ≤ lc3Ns w)
  if ok then onGen g (fun x => { genStep r x with stepAt := x.stepAt + gnPeriod r * 1000 }) w else w

/-- PROFILE_STEP. -/
def execProfileStep (g : Fin 4096) (s : State) : Host.Outcome State Fault Refusal := liveEffect (profileStep g) s

/-! ## Injectors and capture channels (07 R196, R198) -/

/-- INJECTING of a loop none of whose injectors acts any longer is cleared (07 Table 7.3). -/
def injSettle (l : Nat) (w : World) : World :=
  if (injsOf w l 0 ++ injsOf w l 1).any (fun i => (inj w i).ts.isSome) then w
  else onLoop l (fun x => { x with flags := setFlag lfInject false x.flags }) w

/-- INJ_START taking effect at a boundary, or an event: the injector waits for its loop's next update. -/
def injArm (i at_ : Nat) (w : World) : World :=
  if hasObj w.cfg.active 0x5030 0 i && ijKind (injRec w i) ≠ 0 then
    injSettle (ijLoop (injRec w i)) (onInj i (fun _ => { armed := some at_, ts := none }) w)
  else w

/-- An injector stopped. -/
def injHalt (i : Nat) (w : World) : World := injSettle (ijLoop (injRec w i)) (onInj i (fun _ => {}) w)

/-- INJECTOR_END: t_s + DURATION_US has passed (07 R196). -/
def execInjectorEnd (i : Fin 64) (s : State) : Host.Outcome State Fault Refusal :=
  liveEffect (fun w =>
    match (inj w i).ts with
    | some ts =>
      let d := ijDuration (injRec w i)
      if d ≠ 0 && decide (ts + d * 1000 ≤ lc3Ns w) then injHalt i w else w
    | none => w) s

/-- CAP_ARM taking effect at a boundary: 1 arms, 2 triggers an ARMED channel of TRIG 0 (07 R198). -/
def capArm (c v at_ : Nat) (w : World) : World :=
  if !hasObj w.cfg.active 0x5040 0 c then w
  else if v = 1 then onCap c (fun x => { x with state := .armed, pending := none, left := 0, decim := 0 }) w
  else if v = 2 && cpTrig (capRec w c) == 0 && decide ((cap w c).state = .armed) then onCap c (fun x => { x with pending := some at_ }) w
  else w

/-- An angle event triggers a channel of TRIG 1 (02 Table 2.15). -/
def capEvent (c at_ : Nat) (w : World) : World :=
  if hasObj w.cfg.active 0x5040 0 c && cpTrig (capRec w c) == 1 && decide ((cap w c).state = .armed) then
    onCap c (fun x => { x with pending := some at_ }) w
  else w

/-! ## A SWAP (07 R191, R198, R192) -/

/-- A loop activated afresh: open, every RO field at reset but H; LEVEL and LAST_EXEC as given (07 R191; 12 Table 12.1). -/
def freshLoop (r : Bytes) (engine level lastExec : Nat) (x : LoopRt) : LoopRt :=
  { h := lpHInit r, first := true, engine := engine, level := level, lastExec := lastExec,
    nCommands := x.nCommands, nCreditWaits := x.nCreditWaits, nEndLevel := x.nEndLevel, nArith := x.nArith, nLate := x.nLate }

/-- The fields whose change makes a closed loop close again: coefficients and SH fields (07 R191). -/
def loopShape (r : Bytes) : Nat := fieldLe r 465 0

/-- One loop at a SWAP; the incoming set and its mapping stand in force. A loop stopped with a lost die is activated afresh. -/
def swapLoop (old : Store Bytes) (l : Nat) (w : World) : World :=
  let r := loopRec w l
  let r0 := loopRecIn old l
  let e := (sFind w.cfg.mapping.loops l).getD 16
  let carried := hasObj old 0x5010 0 l && lpStream r == lpStream r0 && lpTrunk r == lpTrunk r0 && lpCell r == lpCell r0 &&
    lpOutput r == lpOutput r0 && lpLevels r == lpLevels r0 && !(loop w l).stopped
  if carried then
    onLoop l (fun x =>
      let x := { x with engine := e, stopped := false }
      if hasFlag lfClosed x.flags && loopShape r != loopShape r0 then
        { x with flags := setFlag lfSat false (setFlag lfPending true x.flags) }
      else x) w
  else onShadow l (fun _ => {}) (onLoop l (freshLoop r e 0 0) w)

/-- One generator at a SWAP: a new one starts at P_INIT, which is also its TARGET (07 Table 7.6); one carried with its MODE and
P_INIT keeps its outputs (log 31). -/
def swapGen (old : Store Bytes) (g : Nat) (w : World) : World :=
  let r := genRec w g
  let e := (sFind w.cfg.mapping.gens g).getD 16
  let kept := hasObj old 0x5020 0 g && !(gen w g).stopped && fieldLe r 49 0 == fieldLe (objIn old 0x5020 0 g) 49 0
  if kept then onGen g (fun x => { x with engine := e, stopped := false }) w
  else onGen g (fun _ => { p := gnPInit r, engine := e, stepAt := lc3Ns w }) (writeActive32 0x5020 g 50 (gnPInit r) w)

/-- Loops, generators, injectors and capture channels at a SWAP. -/
def swapHalo (old : Store Bytes) (w : World) : World :=
  let new := w.cfg.active
  let w := eachW (loopsOf new) (swapLoop old) w
  let w := eachW (instancesOf new 0x5020 0) (swapGen old) w
  let same (index i : Nat) : Bool := withoutRo index 0 i (objIn old index 0 i) == withoutRo index 0 i (objIn new index 0 i)
  let w := onHalo (fun h => { h with
    loops := h.loops.filter (fun x => hasObj new 0x5010 0 x.1)
    shadows := h.shadows.filter (fun x => hasObj new 0x5010 0 x.1)
    gens := h.gens.filter (fun x => hasObj new 0x5020 0 x.1)
    injs := h.injs.filter (fun x => hasObj old 0x5030 0 x.1 && hasObj new 0x5030 0 x.1 && same 0x5030 x.1 && hasObj new 0x5010 0 (ijLoop (injRec w x.1)))
    caps := h.caps.filter (fun x => hasObj new 0x5040 0 x.1) }) w
  let w := eachW ((loopsOf new).filter (fun l => hasFlag lfInject (loop w l).flags)) injSettle w
  eachW (instancesOf new 0x5040 0) (fun c w =>
    if hasObj old 0x5040 0 c && same 0x5040 c then w else onCap c (fun _ => { state := .armed }) w) w

end Sys2Proof.Machine
end

