-- ==== Sys2Proof/Machine/AdmitHalo.lean ====
section
/-! DEFINITION. Admission of Halo work: loop groups and their placement (07 R171, 09 R246), the load of an engine (07 R201), what
a loop and a generator must meet (07 R180, R187, R191, R193). -/

namespace Sys2Proof.Machine

/-! ## Records of a set -/

def genRecIn (set : Store Bytes) (g : Nat) : Bytes := objIn set 0x5020 0 g
def injRecIn (set : Store Bytes) (i : Nat) : Bytes := objIn set 0x5030 0 i
def capRecIn (set : Store Bytes) (c : Nat) : Bytes := objIn set 0x5040 0 c
def trunkRecIn (set : Store Bytes) (t : Nat) : Bytes := objIn set 0x6000 0 t

/-- The generator a loop names, where it uses one (07 Table 7.2). -/
def genOf (set : Store Bytes) (l : Nat) : Option Nat :=
  let r := loopRecIn set l
  if (lpRefMode r || lpFfMode r == 2) && hasObj set 0x5020 0 (lpRefGen r) then some (lpRefGen r) else none

/-- Cell, set and channel of a stream number (10 R282). -/
def streamCell (s : Nat) : Nat := s / 64
def streamSet (s : Nat) : Nat := s / 16 % 4
def streamChan (s : Nat) : Nat := s % 16
def streamDecim (set : Store Bytes) (s : Nat) : Nat := fieldLe (objIn set 0x6020 0 s) 31 24

/-- A stream whose cell, set and channel are in use, and that is mapped (10 R283). -/
def streamUsed (set : Store Bytes) (s : Nat) : Bool :=
  let r := cellRecIn set (streamCell s)
  hasObj set 0x6010 0 (streamCell s) && clEnable r && decide (0 < clPeriod r (streamSet s)) &&
  decide (streamChan s < clChans r (streamSet s)) && decide (0 < streamDecim set s)

/-- Samples a second of a stream as it is delivered, in all (07 R201, 08 R208). -/
def streamRate (set : Store Bytes) (s : Nat) : ℚ :=
  if streamUsed set s then 1000000000 / (clPeriod (cellRecIn set (streamCell s)) (streamSet s) * streamDecim set s : ℕ) else 0

def sumQ (l : List ℚ) : ℚ := l.foldl (· + ·) 0
def upQ (q : ℚ) : Nat := q.ceil.toNat

/-! ## Groups (07 R171, 09 R246) -/

/-- A loop group: its loops and generators. Injectors and capture channels follow their loop. -/
structure Group where
  loops : List Nat
  gens : List Nat
  deriving DecidableEq, Repr

/-- The groups of some loops, by lowest loop number; then the generators that no loop names. -/
def groupsOf (set : Store Bytes) (loops gens : List Nat) : List Group :=
  let first (l : Nat) : Bool :=
    match genOf set l with
    | none => true
    | some g => (loops.find? (fun m => genOf set m = some g)) == some l
  (loops.filter first).map (fun l =>
    match genOf set l with
    | none => { loops := [l], gens := [] }
    | some g => { loops := loops.filter (fun m => genOf set m = some g), gens := [g] }) ++
  (gens.filter (fun g => !loops.any (fun l => genOf set l = some g))).map (fun g => { loops := [], gens := [g] })

/-- Engines so far: loops and generators by number. -/
structure Placed where
  loops : Store Nat := []
  gens : Store Nat := []
  deriving DecidableEq, Repr

def injsOn (set : Store Bytes) (p : Placed) (e : Nat) : List Nat :=
  (instancesOf set 0x5030 0).filter (fun i => sFind p.loops (ijLoop (injRecIn set i)) == some e)
def capsOn (set : Store Bytes) (p : Placed) (e : Nat) : List Nat :=
  (instancesOf set 0x5040 0).filter (fun c => sFind p.loops (cpLoop (capRecIn set c)) == some e)

/-! ## The load of an engine (07 R201) -/

/-- The loop samples of one stream by window: its interval ends lie at `base + k · step`; a window from `x` of W meets those
with x ≤ end and end - JITTER ≤ x + W. In units of 1/7 ns, 2,048 cycles are 20,480. -/
def windowCount (x base step jitter : Nat) : Nat :=
  -- ends y with x ≤ y ≤ x + W + jitter, y ≡ base mod step
  countIn (base : Int) step (x : Int) ((x + 20480 + jitter : Nat) : Int)

/-- Each loop's samples: first interval end, step, jitter, in 1/7 ns (10 R285). -/
def arrivals (set : Store Bytes) (l : Nat) : List (Nat × Nat × Nat) :=
  let s := lpStream (loopRecIn set l)
  let c := cellRecIn set (streamCell s)
  let t := trunkRecIn set (streamCell s / 256)
  if streamUsed set s then
    [(7 * (clPhase c (streamSet s) + clSampleDelay c + trLatBound t), 7 * (clPeriod c (streamSet s) * streamDecim set s), 7 * trJitter t)]
  else []

/-- The largest number of loop samples that can reach the loops within any 2,048 cycles: some window opens at an interval's end. -/
def worstWindow (set : Store Bytes) (loops : List Nat) : Nat :=
  let a := loops.flatMap (arrivals set)
  let hyper := a.foldl (fun h x => Nat.lcm h x.2.1) 1
  maxList (a.flatMap (fun x => (upTo (hyper / x.2.1)).map (fun k =>
    let at_ := hyper + x.1 + k * x.2.1
    sumList (a.map (fun y => windowCount at_ y.1 y.2.1 y.2.2)))))

/-- Replicas an engine keeps: critical loops whose partner it is, and their generators (12 R329). -/
def keptLoops (set : Store Bytes) (dies : List Nat) (p : Placed) (e : Nat) : List Nat :=
  (p.loops.filter (fun x => lpCritical (loopRecIn set x.1) && partnerOf dies 4 x.2 == e && x.2 != e)).map (·.1)
def keptGens (set : Store Bytes) (dies : List Nat) (p : Placed) (e : Nat) : List Nat :=
  ((keptLoops set dies p e).filterMap (genOf set)).dedup

/-- What R201 asks of an engine. -/
def haloFails (set : Store Bytes) (dies : List Nat) (p : Placed) (e : Nat) : List Fail :=
  let loops := (p.loops.filter (fun x => x.2 = e)).map (·.1)
  let gens := (p.gens.filter (fun x => x.2 = e)).map (·.1)
  let ovr (n a : Nat) := failOver 5 0x5000 e n a
  ovr (loops.length + (keptLoops set dies p e).length) 1024 ++ ovr (gens.length + (keptGens set dies p e).length) 256 ++
  ovr (injsOn set p e).length 4 ++ ovr (capsOn set p e).length 4 ++
  ovr (upQ (sumQ (loops.map (fun l => (1000000000 : ℚ) / (lpTs (loopRecIn set l) : ℕ))))) 102400000 ++
  ovr (worstWindow set loops) 512 ++
  ovr (upQ (sumQ (gens.map (fun g => (1000000 : ℚ) / (gnPeriod (genRecIn set g) : ℕ))))) 25600000

/-- The engines of the dies that carry work, rising. -/
def haloEngines (dies : List Nat) : List Nat := (upTo 16).filter (fun e => dies.contains (e / 4))

/-- A group put on an engine. -/
def putGroup (g : Group) (e : Nat) (p : Placed) : Placed :=
  { loops := g.loops.foldl (fun s l => sInsert s l e) p.loops, gens := g.gens.foldl (fun s x => sInsert s x e) p.gens }

/-- Each group goes to the lowest-numbered engine that still meets R201 with it; where none does, to the lowest, which then
fails its check (09 R246). -/
def placeGroups (set : Store Bytes) (dies : List Nat) (groups : List Group) : Placed :=
  groups.foldl (fun p g =>
    let es := haloEngines dies
    let fits (e : Nat) : Bool :=
      let q := putGroup g e p
      (haloFails set dies q e).isEmpty && (haloFails set dies q (partnerOf dies 4 e)).isEmpty
    putGroup g ((es.find? fits).getD (nth 0 es 0)) p) {}

/-- Engines of injectors and capture channels: those of their loops. -/
def followLoops (set : Store Bytes) (p : Placed) : Store Nat × Store Nat :=
  ((instancesOf set 0x5030 0).filterMap (fun i => (sFind p.loops (ijLoop (injRecIn set i))).map (fun e => (i, e))),
   (instancesOf set 0x5040 0).filterMap (fun c => (sFind p.loops (cpLoop (capRecIn set c))).map (fun e => (c, e))))

/-! ## A loop, a generator (07 R171, R180, R187, R191, R193) -/

/-- Tenths of a nanosecond in one byte time (10 Table 10.15). -/
def byteTenths (rate : Nat) : Nat :=
  match rate with
  | 0 => 32
  | 1 => 16
  | _ => 8

/-- Bytes of a SAMPLE frame of `n` channels (10 Table 10.4). -/
def sampleLen (n : Nat) : Nat := max 64 (40 + 2 * n)

/-- The least LEAD of a loop, ns (07 R180). -/
def leastLead (set : Store Bytes) (l : Nat) : Nat :=
  let r := loopRecIn set l
  let s := lpStream r
  let n := clChans (cellRecIn set (streamCell s)) (streamSet s)
  let home := trunkRecIn set (lpTrunk r)
  ceilDiv ((sampleLen n + 8) * byteTenths (trRateMin (trunkRecIn set (streamCell s / 256))) + 72 * byteTenths (trRateMin home)) 10 +
    6000 + trLatBound home

/-- A loop that a SWAP over the active set would carry (07 R191). -/
def loopCarried (active set : Store Bytes) (l : Nat) : Bool :=
  let r := loopRecIn set l
  let r0 := loopRecIn active l
  hasObj active 0x5010 0 l && lpStream r == lpStream r0 && lpTrunk r == lpTrunk r0 && lpCell r == lpCell r0 &&
  lpOutput r == lpOutput r0 && lpLevels r == lpLevels r0

/-- What a loop must meet; `carried` says whether a SWAP would carry its state. -/
def loopFails (carried : Bool) (set : Store Bytes) (l : Nat) : List Fail :=
  let r := loopRecIn set l
  failOver 5 0x5010 l (leastLead set l) (lpLead r) ++
  failUnless (lpOpenLevel r == 15 || decide (lpOpenLevel r < lpLevels r + 1)) 1 0x5010 l ++
  failUnless (lpOpenLevel r != 15 || carried) 1 0x5010 l ++
  failUnless (!(lpRefMode r || lpFfMode r == 2) || (hasObj set 0x5020 0 (lpRefGen r) &&
    (lpFfMode r != 2 || gnMode (genRecIn set (lpRefGen r)) != 0))) 1 0x5010 l

/-- J_MAX × D ≤ A_MAX and A_MAX × D ≤ V_MAX, exactly (07 R193). -/
def genOk (r : Bytes) : Bool :=
  decide (rateNum (gnJMax r) * gnPeriod r ≤ rateNum (gnAMax r) * 1000000) &&
  decide (rateNum (gnAMax r) * gnPeriod r ≤ rateNum (gnVMax r) * 1000000)

def genFails (set : Store Bytes) (g : Nat) : List Fail := failUnless (genOk (genRecIn set g)) 1 0x5020 g

end Sys2Proof.Machine
end

