-- ==== Sys2Proof/Machine/Models.lean ====
section
/-! DEFINITION. What a model computes for one sequence of a step (08 R204 to R207), attention over pages and staging (08 R212,
R213), and the pages that a flush writes (08 R215 to R217): functions of the descriptor, the weights, the token and the
cache. -/

namespace Sys2Proof.Machine

/-! ## MODEL_DESC (08 Table 8.2) -/

def mdRopeBase (r : Bytes) : W32 := field32 r 224
def mdEps (r : Bytes) : W32 := field32 r 192
def mdWeightBytes (r : Bytes) : Nat := fieldLe r 191 160
def mdLibMask (r : Bytes) : Nat := fieldLe r 131 128
def mdMaxCtx (r : Bytes) : Nat := fieldLe r 127 114
def mdDff (r : Bytes) : Nat := fieldLe r 113 100
def mdD (r : Bytes) : Nat := fieldLe r 99 89
def mdFeat (r : Bytes) : Nat := fieldLe r 88 78
def mdHq (r : Bytes) : Nat := fieldLe r 77 71
def mdHkv (r : Bytes) : Nat := fieldLe r 70 66
def mdOut (r : Bytes) : Nat := fieldLe r 65 59
def mdLayers (r : Bytes) : Nat := fieldLe r 58 54
def mdLayerNorm (r : Bytes) : Bool := fieldLe r 52 52 == 1
def mdSilu (r : Bytes) : Bool := fieldLe r 51 51 == 1
def mdGated (r : Bytes) : Bool := fieldLe r 50 50 == 1
def mdWfmt (r : Bytes) : Nat := fieldLe r 49 46
/-- Page lists of a sequence of the model (08 R215). -/
def mdLists (r : Bytes) : Nat := 2 * mdLayers r * mdHkv r

/-! ## MODEL_WEIGHTS (08 R206, Table 8.3) -/

/-- A row's elements on the reduction axis, filled to whole groups of 32 (08 R206, 04 R96). -/
def padK (k : Nat) : Nat := (k + 31) / 32 * 32

/-- The tensors in order, with the projections of one of `n` equal shares of the heads (08 R233): code, rows, elements of a row (0 for a
vector of G32). Codes: 0 W_in; in layer l from 16(l + 1): 0 and 1 a, 2 W_q, 3 W_k, 4 W_v, 5 W_o, 6 and 7 f, 8 W_1, 9 W_3, 10 W_2; after
the layers 0 and 1 z, 2 W_out. -/
def tensorsOn (r : Bytes) (n : Nat) : List (Nat × Nat × Nat) :=
  let d := mdD r
  let qd := mdHq r * mdHead r / max 1 n
  let kd := mdHkv r * mdHead r / max 1 n
  let gain (c : Nat) : List (Nat × Nat × Nat) := (c, d, 0) :: (if mdLayerNorm r then [(c + 1, d, 0)] else [])
  [(0, d, mdFeat r)] ++
  (upTo (mdLayers r)).flatMap (fun l =>
    let b := 16 * (l + 1)
    gain b ++ [(b + 2, qd, d), (b + 3, kd, d), (b + 4, kd, d), (b + 5, d, mdHq r * mdHead r)] ++ gain (b + 6) ++
    [(b + 8, mdDff r, d)] ++ (if mdGated r then [(b + 9, mdDff r, d)] else []) ++ [(b + 10, d, mdDff r)]) ++
  gain (16 * (mdLayers r + 1)) ++ [(16 * (mdLayers r + 1) + 2, mdOut r, d)]

/-- The tensors of MODEL_WEIGHTS. -/
def tensorList (r : Bytes) : List (Nat × Nat × Nat) := tensorsOn r 1

/-- The tensor is a Q, K or V projection, whose rows follow the heads. -/
def perHead (r : Bytes) (code : Nat) : Bool :=
  decide (16 ≤ code) && decide (code < 16 * (mdLayers r + 1)) && decide (2 ≤ code % 16) && decide (code % 16 ≤ 4)

/-- Bytes of a row of a matrix, and of a tensor. -/
def matRow (r : Bytes) (k : Nat) : Nat := farRow (mdWfmt r) (padK k)
def tensorBytes (r : Bytes) (t : Nat × Nat × Nat) : Nat := if t.2.2 = 0 then 4 * t.2.1 else t.2.1 * matRow r t.2.2

/-- The next multiple of 64. -/
def up64 (n : Nat) : Nat := (n + 63) / 64 * 64

/-- Offset of the tensor with a code, and the end of the last one before it. -/
def tensorAt (r : Bytes) (code : Nat) : List (Nat × Nat × Nat) → Nat → Nat
  | [], e => e
  | t :: ts, e => if t.1 = code then up64 e else tensorAt r code ts (up64 e + tensorBytes r t)

/-- The end of the last tensor of a list laid out in order. -/
def tensorsEnd (r : Bytes) (l : List (Nat × Nat × Nat)) : Nat := l.foldl (fun e t => up64 e + tensorBytes r t) 0

/-- WEIGHT_BYTES: the end of the last tensor. -/
def weightBytes (r : Bytes) : Nat := tensorsEnd r (tensorList r)

/-- The weights of a model on die `i` of `n`: the tensors in order, each on a 64-byte boundary, the projections those of the die's own
heads (08 R233, 09 R241; log 34). -/
def regionImage (r w : Bytes) (n i : Nat) : Bytes :=
  (tensorsOn r n).foldl (fun out t =>
    let bytes := tensorBytes r t
    let at_ := tensorAt r t.1 (tensorList r) 0 + (if perHead r t.1 then i * bytes else 0)
    padTo (up64 out.length) out ++ slice w at_ bytes) []

/-- A vector of G32. -/
def vecOf (r w : Bytes) (code n : Nat) : List W32 :=
  let o := tensorAt r code (tensorList r) 0
  (upTo n).map (fun i => BitVec.ofNat 32 (leAt w (o + 4 * i) 4))

/-- The activation operand converted to WFMT on the load path (08 R207). -/
def activation (r : Bytes) (x : List Acc) : List Acc :=
  let x := x ++ List.replicate (padK x.length - x.length) accZero
  let (d, s, _) := rowWrite (mdWfmt r) false x
  (rowRead (mdWfmt r) x.length d s).1

/-! ## Reductions of a step (03 R76, R77, R85) -/

/-- Drained to G32, and to G16. -/
def drain32 (x : Acc) : W32 := (pack32 false x).1
def drain16 (x : Acc) : BitVec 16 := BitVec.ofNat 16 (packG16 false x).1
def val16 (c : BitVec 16) : Acc := (unpackG16 c.toNat).1

/-- How a step reduces: a sum of terms in segments, its accumulator held in G32 between them or in the tensor unit, where the first number
tells the step's sums apart; and the elements at which the mapping cuts a tensor's rows (03 R77). -/
structure StepSums where
  sum : Nat → Bool → List (List Acc) → Acc
  cuts : Nat → List Nat

/-- Segments in ascending order, each starting from the accumulator left by the one before, converted where it crosses in G32 (03 R77). -/
def segSum (crossing : Bool) : Acc → List (List Acc) → Acc
  | a, [] => a
  | a, [s] => (reduceSum a s).1
  | a, s :: rest =>
    let v := (reduceSum a s).1
    segSum crossing (if crossing then val32 (drain32 v) else v) rest

/-- Normal service: the order of R76 and R77 under the mapping. -/
def orderedSums (cuts : Nat → List Nat) : StepSums := { sum := fun _ c l => segSum c accZero l, cuts := cuts }

/-- Outside normal service: values within the bounds of R85, any bits within them (log 21). -/
def boundedSums (w : World) (cuts : Nat → List Nat) : StepSums :=
  { sum := fun n c l => boundedSum w accZero l.flatten (segSum c accZero l) n, cuts := cuts }

/-- A row's terms cut at the elements of a list. -/
def cutAt (l : List Acc) (cuts : List Nat) : List (List Acc) :=
  let ends := cuts.filter (fun c => decide (0 < c) && c % 32 == 0 && decide (c < l.length)) ++ [l.length]
  (upTo ends.length).map (fun i =>
    let from_ := if i = 0 then 0 else nth 0 ends (i - 1)
    (l.drop from_).take (nth 0 ends i - from_))

/-- A matrix by a vector: exact products, each row reduced, at the internal width. -/
def matVec (q : StepSums) (r w : Bytes) (code rows k : Nat) (x : List Acc) : List Acc :=
  let a := activation r x
  let o := tensorAt r code (tensorList r) 0
  let n := padK k
  (upTo rows).map (fun i =>
    let b := slice w (o + i * matRow r k) (matRow r k)
    let data := fmtBytes (mdWfmt r) n
    let (wr, _) := rowRead (mdWfmt r) n (b.take data) (b.drop data)
    q.sum (code * 65536 + i) true (cutAt (products a wr).1 (q.cuts code)))

/-! ## Normalisation and activation (08 R204, R207) -/

/-- The mean of G32 values: the reduction of R78 divided by their number. -/
def mean32 (q : StepSums) (n : Nat) (xs : List W32) : W32 := hMul (drain32 (q.sum n false [xs.map val32])) (g32Ratio 1 xs.length)

/-- norm(x, gain): RMS or LAYER. -/
def normOf (q : StepSums) (r w : Bytes) (code : Nat) (x : List W32) : List W32 :=
  let g := vecOf r w code (mdD r)
  let scale (v : W32) : W32 := (rsqrt32 (hAdd v (mdEps r))).1
  if mdLayerNorm r then
    let b := vecOf r w (code + 1) (mdD r)
    let mu := mean32 q (code * 65536) x
    let c := x.map (fun v => hSub v mu)
    let s := scale (mean32 q (code * 65536 + 1) (c.map (fun v => hMul v v)))
    ((g.zip c).zip b).map (fun p => hAdd (hMul (hMul p.1.1 p.1.2) s) p.2)
  else
    let s := scale (mean32 q (code * 65536) (x.map (fun v => hMul v v)))
    (g.zip x).map (fun p => hMul (hMul p.1 p.2) s)

/-- act(). -/
def actOf (r : Bytes) (v : W32) : W32 := if mdSilu r then (silu32 v).1 else (gelu32 v).1

/-! ## Attention (08 R212, R213) -/

/-- A row rotated at a position and held in G16. -/
def rotated (r : Bytes) (pos : Nat) (row : List Acc) : List Acc :=
  (ropeRow false pos (mdHead r) (mdRopeBase r) 0 row).1.map (fun a => val16 (drain16 a))

/-- Row `i` of a page: the values of `n` elements in KV_FMT under their scales (08 Table 8.7). -/
def pageRow (r page : Bytes) (i n : Nat) : List Acc :=
  let b := slice page (i * farRow (mdKvFmt r) n) (farRow (mdKvFmt r) n)
  (rowRead (mdKvFmt r) n (b.take (fmtBytes (mdKvFmt r) n)) (b.drop (fmtBytes (mdKvFmt r) n))).1

/-- A block of attention: keys by position, rotated, and values by head dimension. -/
structure KvBlock where
  keys : List (List Acc)
  vals : List (List Acc)

/-- The keys of a K page whose first row stands at a position: rotated as they are loaded, then converted (04 R105; 08 R213). -/
def pageKeys (r : Bytes) (pos : Nat) (page : Bytes) : List (List Acc) :=
  (upTo 64).map (fun i => rotated r (pos + i) (pageRow r page i (mdHead r)))

/-- Staged k rows whose first stands at a position, loaded with rotation (08 R216). -/
def stagedKeys (r : Bytes) (pos : Nat) (rows : List (List (BitVec 16))) : List (List Acc) :=
  (upTo rows.length).map (fun i => rotated r (pos + i) ((nth [] rows i).map val16))

/-- The values of a V page, and of staged v rows transposed, by head dimension. -/
def pageVals (r page : Bytes) : List (List Acc) := (upTo (mdHead r)).map (fun d => (pageRow r page d 64).map (fun a => val16 (drain16 a)))
def stagedVals (r : Bytes) (rows : List (List (BitVec 16))) : List (List Acc) :=
  (upTo (mdHead r)).map (fun d => rows.map (fun row => val16 (nth 0 row d)))

/-- 1 / sqrt(d_h) in G32. -/
def headScale (r : Bytes) : W32 := if mdHead r = 128 then 0x3DB504F3 else 0x3E000000

/-- One query head over its blocks: the three passes, and whether a score is NaN. Head `n` tells its sums from the step's others. -/
def attendHead (s : StepSums) (n : Nat) (r : Bytes) (blocks : List KvBlock) (q : List Acc) : List (BitVec 16) × Bool :=
  let at_ (i j : Nat) : Nat := (2 ^ 12 + n) * 2 ^ 20 + i * 128 + j
  let scores := (upTo blocks.length).map (fun i =>
    let ks := (nth { keys := [], vals := [] } blocks i).keys
    (upTo ks.length).map (fun j => drain32 (s.sum (at_ i j) false [(products q (nth [] ks j)).1])))
  let m := scores.foldl (fun m s => hMax m (drain32 (reduceExt accMax (.inf true) (s.map val32)).1)) 0xFF800000
  let weights := scores.map (fun s => s.map (fun v => val16 (drain16 (val32 (exp32 (hMul (headScale r) (hSub v m))).1))))
  let ell := (upTo weights.length).foldl (fun l i => hAdd l (drain32 (s.sum (at_ i 64) false [nth [] weights i]))) 0
  let inv := (recip32 ell).1
  ((upTo (mdHead r)).map (fun d =>
    let o := s.sum (at_ 1024 d) false ((weights.zip blocks).map (fun p => (products p.1 (nth [] p.2.vals d)).1))
    drain16 (val32 (hMul (drain32 o) inv))), scores.any (fun b => b.any isNan32))

/-- The cache of one (layer, KV head): pages of K and V, staged rows of K and V. -/
structure KvCache where
  kPages : List Bytes := []
  vPages : List Bytes := []
  k : List (List (BitVec 16)) := []
  v : List (List (BitVec 16)) := []

/-- The blocks in position order, 64 positions each but the last: keys and values each from its own list's page, or from its staged rows
where that list has no page for the positions. -/
def kvBlocks (r : Bytes) (c : KvCache) : List KvBlock :=
  let nk := c.kPages.length
  let nv := c.vPages.length
  (upTo ((64 * nk + c.k.length + 63) / 64)).map (fun i =>
    { keys := if i < nk then pageKeys r (64 * i) (nth [] c.kPages i) else stagedKeys r (64 * i) ((c.k.drop (64 * (i - nk))).take 64)
      vals := if i < nv then pageVals r (nth [] c.vPages i) else stagedVals r ((c.v.drop (64 * (i - nv))).take 64) })

/-! ## A layer and a model (08 R204) -/

/-- What a step gives for a sequence: its outputs (a layer: its hidden state), the rows appended by layer and KV head, and the KV heads, by
number in the same order, whose scores held a NaN. -/
structure StepOut where
  y : List W32
  rows : List (List (BitVec 16) × List (BitVec 16)) := []
  nan : List Nat := []

/-- One layer at position `p`. -/
def layerStep (sums : StepSums) (r w : Bytes) (p l : Nat) (cache : Nat → KvCache) (x : List W32) : StepOut :=
  let b := 16 * (l + 1)
  let dh := mdHead r
  let g := mdHq r / mdHkv r
  let h := (normOf sums r w b x).map val32
  let q := (matVec sums r w (b + 2) (mdHq r * dh) (mdD r) h).map (fun a => val16 (drain16 a))
  let k := (matVec sums r w (b + 3) (mdHkv r * dh) (mdD r) h).map drain16
  let v := (matVec sums r w (b + 4) (mdHkv r * dh) (mdD r) h).map drain16
  let rows := (upTo (mdHkv r)).map (fun j => (slice16 k (j * dh) dh, slice16 v (j * dh) dh))
  let heads := (upTo (mdHkv r)).map (fun j =>
    let (kr, vr) := nth ([], []) rows j
    let c := cache (l * mdHkv r + j)
    let blocks := kvBlocks r { c with k := c.k ++ [kr], v := c.v ++ [vr] }
    let out := (upTo g).map (fun i =>
      attendHead sums (l * 64 + j * g + i) r blocks (rotated r p ((q.drop ((j * g + i) * dh)).take dh)))
    (out.flatMap (·.1), out.any (·.2)))
  let o := heads.flatMap (·.1)
  let x := (x.zip (matVec sums r w (b + 5) (mdD r) (mdHq r * dh) (o.map val16))).map (fun z => hAdd z.1 (drain32 z.2))
  let h := (normOf sums r w (b + 6) x).map val32
  let up := (matVec sums r w (b + 8) (mdDff r) (mdD r) h).map (fun a => actOf r (drain32 a))
  let up := if mdGated r then (up.zip (matVec sums r w (b + 9) (mdDff r) (mdD r) h)).map (fun z => hMul z.1 (drain32 z.2)) else up
  { y := (x.zip (matVec sums r w (b + 10) (mdD r) (mdDff r) (up.map val32))).map (fun z => hAdd z.1 (drain32 z.2))
    rows := rows
    nan := ((upTo (mdHkv r)).filter (fun j => (nth ([], false) heads j).2)).map (l * mdHkv r + ·) }
where
  slice16 (l : List (BitVec 16)) (o n : Nat) : List (BitVec 16) := (l.drop o).take n

/-- A step of a model for one sequence: the N_OUT risk outputs, and what its layers leave. -/
def modelStep (sums : StepSums) (r w : Bytes) (p : Nat) (cache : Nat → KvCache) (token : List W32) : StepOut :=
  let x := (matVec sums r w 0 (mdD r) (mdFeat r) (token.map val32)).map drain32
  let a := (upTo (mdLayers r)).foldl (fun (a : StepOut) l =>
    let b := layerStep sums r w p l cache a.y
    { y := b.y, rows := a.rows ++ b.rows, nan := a.nan ++ b.nan }) { y := x }
  let z := 16 * (mdLayers r + 1)
  { a with y := (matVec sums r w (z + 2) (mdOut r) (mdD r) ((normOf sums r w z a.y).map val32)).map drain32 }

/-! ## Flushes (08 R217) -/

/-- A page of 64 staged rows: keys along the head dimension, values transposed, along the positions. -/
def pageOf (r : Bytes) (isV : Bool) (rows : List (List (BitVec 16))) : Bytes :=
  let out := if isV then (upTo (mdHead r)).map (fun d => rows.map (fun row => val16 (nth 0 row d))) else rows.map (·.map val16)
  out.flatMap (fun row => let (d, s, _) := rowWrite (mdKvFmt r) false row; d ++ s)

end Sys2Proof.Machine
end

