-- ==== Sys2Proof/Machine/Pds.lean ====
section
/-! DEFINITION. The Paveyn Dictionary Service as datagrams: the random source and the identity that sessions use (13 R346,
R350), messages in and out (11 R292, R294, R295), aborts (11 Table 11.12) and page requests (11 R307). -/

namespace Sys2Proof.Machine

/-! ## The random source (13 R350) -/

def onRng (f : Rng → Rng) (w : World) : World := onGarnet (fun g => { g with rng := f g.rng }) w

/-- 384 bits of conditioned entropy, and the world in which they have been drawn. -/
def entropy (w : World) : Bytes × World := (padTo 48 (Config.entropy w.free), { w with free := w.free + 1 })

/-- The source is seeded at its first start. -/
def rngSeed (w : World) : World :=
  let (e, w) := entropy w
  let (k, v) := drbgUpdate (List.replicate 32 0) (List.replicate 32 1) e
  onRng (fun r => { r with running := true, fail := false, key := k, v := v, requests := 0, seededAt := nowNs w }) w

/-- A reseed with 384 bits. -/
def rngReseedNow (w : World) : World :=
  let (e, w) := entropy w
  onRng (fun r =>
    let (k, v) := drbgUpdate r.key r.v e
    { r with key := k, v := v, requests := 0, seededAt := nowNs w, reseeds := r.reseeds + 1 }) w

/-- `n` blocks of 32 random bytes; none while the source delivers nothing. A reseed comes after every 65,536 requests. -/
def rngDraw (n : Nat) (w : World) : Option (Bytes × World) :=
  if !w.garnet.rng.running || w.garnet.rng.fail then none else
    let w := if 65536 ≤ w.garnet.rng.requests then rngReseedNow w else w
    let r := w.garnet.rng
    let (out, v) := drbgBlocks r.key n r.v
    let (k, v) := drbgUpdate r.key v []
    some (out, onRng (fun r => { r with key := k, v := v, requests := r.requests + 1 }) w)

/-- A random scalar in [1, n - 1] of P-256. -/
def rngScalar (w : World) : Option (Nat × World) :=
  (rngDraw 1 w).map (fun r => (beNat r.1 % (ecN - 1) + 1, r.2))

/-! ## Identity (13 R346) -/

/-- The first of the candidates c, c + 1, … that lies in [1, n - 1]; the number bounds the work. -/
def identityFrom (s : Bytes) : Nat → Nat → Nat
  | 0, _ => 1
  | k + 1, c =>
    let d := beNat (hmac s (ascii "GX4 identity" ++ [BitVec.ofNat 8 c]))
    if d = 0 ∨ ecN ≤ d then identityFrom s k (c + 1) else d

/-- The private identity scalar, its public point, and K_sys. -/
def identityScalar (g : Garnet) : Nat := identityFrom (g.seed.getD []) 256 0
def identityPub (g : Garnet) : Bytes := if g.seed.isNone then List.replicate 65 0 else ecPublic (identityScalar g)

/-- The valid copy of a SYSTEM record with the higher count (13 R349). -/
def readCopy {α : Type} (a b : SysCopy α) : Option α :=
  if a.valid && (!b.valid || decide (b.count ≤ a.count)) then some a.value
  else if b.valid then some b.value else none

/-- The floor record and the owner record in use. -/
def floorNow (g : Garnet) : FloorRec := (readCopy g.floorA g.floorB).getD {}
def ownerNow (g : Garnet) : OwnerRec := (readCopy g.ownerA g.ownerB).getD {}

/-- A change writes the older copy, one count up (13 R349). -/
def writeCopy {α : Type} (a b : SysCopy α) (v : α) : SysCopy α × SysCopy α :=
  let newer := if a.valid && (!b.valid || decide (b.count ≤ a.count)) then a.count else b.count
  let c : SysCopy α := ⟨newer + 1, true, v⟩
  if a.valid && (!b.valid || decide (b.count ≤ a.count)) then (a, c) else (c, b)

/-! ## Ports and sessions -/

def hostPort (w : World) (p : Nat) : HostPort := nth {} w.link.ports p
def onPort (p : Nat) (f : HostPort → HostPort) (w : World) : World := onLink (fun l => { l with ports := updNth l.ports p f }) w
def session (w : World) (n : Nat) : Session := nth {} w.link.sessions n
def onSession (n : Nat) (f : Session → Session) (w : World) : World :=
  onLink (fun l => { l with sessions := updNth l.sessions n f }) w

/-- SESSION_TIMEOUT in ns (11 R298). -/
def sessionTimeoutNs (w : World) : Nat := leNat (actObj w 0x1101 1 0) * 1000000

/-- Hosts are served: READY_QUIET onward (11 R313). -/
def hostsServed (w : World) : Bool := decide (8 ≤ devCode w.dev.state)

/-- HOST_PORT ENABLE of a port; its reset value until a set is swapped in (11 R291). -/
def portEnabled (w : World) (p : Nat) : Bool := actField w 0x1110 p 0 0 == 1

/-- A port carries frames: enabled by HOST_PORT and its link up (11 Table 11.2). -/
def portCarries (w : World) (p : Nat) : Bool := portEnabled w p && (hostPort w p).up

/-- The link-local address of a port: its MAC in modified EUI-64 form; and the configured one (11 Table 11.1). -/
def linkLocal (p : Nat) : BitVec 128 :=
  let mac := (Config.portMac (16 + p)).toNat
  BitVec.ofNat 128 (0xFE80 * 2 ^ 112 + ((bits mac 47 24) ^^^ 2 ^ 17) * 2 ^ 40 + 0xFFFE * 2 ^ 24 + bits mac 23 0)
def configuredAddr (w : World) (p : Nat) : BitVec 128 := BitVec.ofNat 128 (actField w 0x1110 p 255 128)

/-- The addresses a port answers on: those it has, less those found in use elsewhere. -/
def portAddrs (w : World) (p : Nat) : List (BitVec 128) :=
  ((linkLocal p :: (if configuredAddr w p = 0 then [] else [configuredAddr w p])).filter
    (fun a => !(hostPort w p).duplicate.contains a))

/-- UDP port of the service and hop limit of a port (11 Table 11.2). -/
def pdsPort (w : World) (p : Nat) : Nat := actField w 0x1110 p 111 96
def hopLimit (w : World) (p : Nat) : Nat := actField w 0x1110 p 119 112

/-- The way to a peer: an open session goes on under the new configured address after a SWAP (11 R291). -/
def routeTo (w : World) (x : Peer) : Route :=
  { port := x.port, mac := x.mac, src := if x.own = linkLocal x.port then x.own else configuredAddr w x.port, dst := x.ip,
    hop := hopLimit w x.port, sport := pdsPort w x.port, dport := x.udp }

/-- Duplicate address detection begins on an address: a solicitation for it is sent (11 Table 11.1; log 93). -/
def detect (p : Nat) (a : BitVec 128) (w : World) : World :=
  if a = 0 || !portCarries w p then w else
    emit (.neighborSolicit p a) (onPort p (fun x => { x with
      nTx := x.nTx + 1, duplicate := x.duplicate.filter (· ≠ a), detecting := (a, nowNs w) :: x.detecting.filter (fun e => e.1 ≠ a) }) w)

/-! ## Sending (11 R292, R294) -/

/-- The largest body. -/
def pdsBody : Nat := 1396

/-- FLAGS bits (11 Table 11.3). -/
def fRsp : Nat := 128
def fAborted : Nat := 64
def fDieLost : Nat := 32
def fSwappedOut : Nat := 16
def fBounded : Nat := 8
def fShadow : Nat := 4

/-- A header of 24 bytes. -/
def pdsHeader (type sess flags len counter : Nat) (reqId : BitVec 32) (frag : Nat) : Bytes :=
  [0x50, 0x44, 0x01, BitVec.ofNat 8 type, BitVec.ofNat 8 sess, BitVec.ofNat 8 flags] ++ beBytes 2 len ++ beBytes 8 counter ++
  beBytes 4 reqId.toNat ++ beBytes 2 frag ++ [0, 0]

/-- A message leaves on its port; nothing leaves on one that is held down (11 Table 11.2). -/
def sendOn (p : Nat) (o : Out) (w : World) : World :=
  whenW (portCarries w p) (fun w => emit o (onPort p (fun x => { x with nTx := x.nTx + 1 }) w)) w

/-- One message of a session to a peer: counted, tagged with K_dh. A counter never passes 2^63 (11 R294). -/
def sendPds (x : Peer) (n type flags : Nat) (reqId : BitVec 32) (frag : Nat) (body : Bytes) (w : World) : World :=
  let s := session w n
  if 2 ^ 63 < s.txNext then w else
  let tag := hmac s.kdh (pdsHeader type n flags body.length s.txNext reqId frag ++ body)
  sendOn x.port (.pds (routeTo w x) n type flags s.txNext reqId frag body tag)
    (onSession n (fun s => { s with txNext := s.txNext + 1 }) w)

/-- A message without session or tag: CHALLENGE. -/
def sendBare (x : Peer) (type : Nat) (reqId : BitVec 32) (body : Bytes) (w : World) : World :=
  sendOn x.port (.pds (routeTo w x) 0xFF type fRsp 0 reqId 0 body []) w

/-- Pieces of at most `k` bytes, at least one; the number bounds the work. -/
def pieces (k : Nat) : Nat → Bytes → List Bytes
  | 0, b => [b]
  | n + 1, b => if b.length ≤ k then [b] else b.take k :: pieces k n (b.drop k)

/-- The bodies of a response's fragments: SNAPSHOT, LEDGER and PUBLISH repeat their leading bytes in every fragment (11 Tables
11.8 and 11.9, R305). -/
def fragments (type : Nat) (body : Bytes) : List Bytes :=
  let head := if type = 0x12 ∨ type = 0x1A then 8 else if type = 0x17 then 12 else 0
  (pieces (pdsBody - head) body.length (body.drop head)).map (fun b => body.take head ++ b)

/-- A body sent in as many messages as it needs; MORE is clear only in the last (11 R292). -/
def sendBody (x : Peer) (n type flags : Nat) (reqId : BitVec 32) (body : Bytes) (w : World) : World :=
  let fs := fragments type body
  eachW (upTo fs.length) (fun i => sendPds x n type flags reqId (i + (if i + 1 < fs.length then 2 ^ 15 else 0)) (nth [] fs i)) w

/-- The open request with a REQ_ID: its SHADOW flag and whom it came from. -/
def openReq (s : Session) (reqId : BitVec 32) : OpenReq :=
  (s.open_.find? (fun r => r.reqId = reqId)).getD { reqId := reqId, peer := s.peer }

/-- FLAGS of a response: SHADOW as the request had it, BOUNDED by ARITH_MODE (11 R293). -/
def responseFlags (w : World) (flags : Nat) (r : OpenReq) : Nat :=
  fRsp ||| flags ||| (if r.shadow then fShadow else 0) ||| (if w.dev.bounded then fBounded else 0)

/-- A response: it goes to whom the request came from, the request is answered and the response cached (11 R291, R292, R295). -/
def respond (n type flags : Nat) (reqId : BitVec 32) (body : Bytes) (w : World) : World :=
  if !(session w n).live then w else
    let r := openReq (session w n) reqId
    let fl := responseFlags w flags r
    sendBody r.peer n type fl reqId body (onSession n (fun s => { s with
      open_ := s.open_.filter (fun x => x.reqId ≠ reqId)
      cache := ((reqId, type, fl, body) :: s.cache).take 64 }) w)

/-- A refused request: an abort record (11 Table 11.12), counted. -/
def abortReq (n type : Nat) (reqId : BitVec 32) (code : Nat) (w : World) (detail : Nat := 0) : World :=
  if !(session w n).live then w else
    respond n type fAborted reqId (beBytes 2 code ++ [0, 0] ++ beBytes 4 detail)
      (onSession n (fun s => { s with nAborts := s.nAborts + 1 }) w)

/-! ## Receiving (11 R292, R294, R295) -/

/-- A message taken apart. -/
structure PdsMsg where
  type : Nat
  sess : Nat
  flags : Nat
  counter : Nat
  reqId : BitVec 32
  body : Bytes
  /-- header and body, which the tag covers -/
  signed : Bytes
  tag : Bytes

/-- The reserved bytes of a body are zero, and its own fields carry no reserved code (11 R292, 00 R12; log 44). -/
def bodyClean (type : Nat) (b : Bytes) : Bool :=
  let short (n : Nat) : Bool := decide (b.length < n)
  match type with
  | 0x01 => short 4 || (decide (beAt b 0 1 ≤ 7) && beAt b 1 1 == 1 && beAt b 2 2 == 0)
  | 0x07 => short 1 || (beAt b 0 1 == 1 || beAt b 0 1 == 2)
  | 0x11 => short 8 || beAt b 7 1 == 0
  | 0x13 => short 8 || (decide (beAt b 6 1 ≤ 1) && beAt b 7 1 == 0)
  | 0x14 => short 4 || beAt b 1 3 == 0
  | 0x19 => short 8 || ((beAt b 0 1 == 1 || beAt b 0 1 == 2) && beAt b 1 7 == 0)
  | _ => true

/-- The message types that hosts send; page answers carry RSP. -/
def hostTypes : List Nat := [0x01, 0x03, 0x05, 0x06, 0x07, 0x10, 0x11, 0x12, 0x13, 0x14, 0x15, 0x16, 0x18, 0x19, 0x1A, 0x1B]

/-- The datagram as a message, where its form is right: protocol, version, lengths, reserved bits, a type that hosts send. -/
def parsePds (b : Bytes) : Option PdsMsg :=
  let len := beAt b 6 2
  let type := beAt b 3 1
  let flags := beAt b 5 1
  let sess := beAt b 4 1
  let tagLen := if type = 1 then 0 else 32
  let page := (type = 0x20 ∨ type = 0x21) ∧ flags / 128 = 1
  if b.length < 24 ∨ beAt b 0 2 ≠ 0x5044 ∨ beAt b 2 1 ≠ 1 ∨ pdsBody < len ∨ b.length ≠ 24 + len + tagLen ∨ flags % 4 ≠ 0 ∨
     beAt b 22 2 ≠ 0 ∨ ¬((type ∈ hostTypes ∧ flags / 128 = 0) ∨ page) ∨
     ¬(if type = 1 then sess = 0xFF else sess < 8) ∨ !bodyClean type (slice b 24 len) then none
  else some { type := type, sess := sess, flags := flags, counter := beAt b 8 8, reqId := BitVec.ofNat 32 (beAt b 16 4),
              body := slice b 24 len, signed := b.take (24 + len), tag := slice b (24 + len) tagLen }

/-- A counter accepted by the window of 64 (11 R294). -/
def counterOk (s : Session) (c : Nat) : Bool :=
  decide (s.rxHigh < c) || (decide (0 < c) && decide (s.rxHigh ≤ c + 64) && !s.rxSeen.contains c)

/-- The counter taken into the window. -/
def takeCounter (c : Nat) (s : Session) : Session :=
  let h := max s.rxHigh c
  { s with rxHigh := h, rxSeen := (c :: s.rxSeen).filter (fun x => decide (h ≤ x + 64)) }

/-! ## Pages of tier T3 (11 R307) -/

/-- The pieces of a page: offset and length, 1,024 bytes at most. -/
def pagePieces (n : Nat) : List (Nat × Nat) := (upTo ((n + 1023) / 1024)).map (fun i => (i * 1024, min 1024 (n - i * 1024)))

/-- One PAGE_WRITE or PAGE_READ sent, and kept until it is answered. -/
def sendPage (n : Nat) (write : Bool) (body : Bytes) (w : World) : World :=
  let id := BitVec.ofNat 32 (session w n).nextPage
  sendPds (session w n).peer n (if write then 0x20 else 0x21) 0 id 0 body (onSession n (fun s => { s with
    nextPage := s.nextPage + 1, pages := s.pages ++ [{ reqId := id, write := write, body := body }] }) w)

/-- A page sent to the host's frame, or asked for. -/
def sendPages (n : Nat) (write : Bool) (frame : Nat) (page : Bytes) (w : World) : World :=
  eachW (pagePieces page.length) (fun o => sendPage n write
    (beBytes 8 frame ++ beBytes 2 o.1 ++ beBytes 2 o.2 ++ (if write then slice page o.1 o.2 else []))) w

/-- Every request for a frame has been answered. -/
def pageAnswered (w : World) (n : Nat) (write : Bool) (frame : Nat) : Bool :=
  (session w n).pages.all (fun p => p.write != write || decide (beAt p.body 0 8 ≠ frame))

end Sys2Proof.Machine
end

