-- ==== Sys2Proof/Machine/Kv.lean ====
section
/-! DEFINITION. Sequences, KV pools and pages: feature builders and tokens (08 R208 to R210), far memory of a partition, frames and
flushes (08 R215 to R217, R223, R226, R227), spill, pre-emption, stalls (08 R225, R228, R229), prefetch (08 R224), prefix sets (08 R220, R221) and lost pages
(08 R230). -/

namespace Sys2Proof.Machine

/-! ## SEQ_RECORD (08 Table 8.5), KV_POOL (08 Table 8.9), PREFIX_SET (log 14) -/

def sqRecIn (set : Store Bytes) (s : Nat) : Bytes := objIn set 0x3800 0 s
def sqRec (w : World) (s : Nat) : Bytes := sqRecIn w.cfg.active s
def sqModel (r : Bytes) : Nat := fieldLe r 127 120
def sqPart (r : Bytes) : Nat := fieldLe r 119 115
/-- The partition that serves a sequence: its record's, or the one a derived placement gives it (12 R328). -/
def seqPartIn (map : Mapping) (set : Store Bytes) (s : Nat) : Nat := (sFind map.parts s).getD (sqPart (sqRecIn set s))
def seqPart (w : World) (s : Nat) : Nat := seqPartIn w.cfg.mapping w.cfg.active s
/-- HOME_DIE of a sequence: the placement's, or its record's (08 R233). -/
def seqHome (map : Mapping) (set : Store Bytes) (s : Nat) : Nat := (sFind map.homes s).getD (fieldLe (sqRecIn set s) 13 12)
def sqMap (r : Bytes) : Nat := fieldLe r 114 105
def sqBase (r : Bytes) : Nat := fieldLe r 104 87
def sqPriority (r : Bytes) : Nat := fieldLe r 86 79
def sqTracker (r : Bytes) : Nat := fieldLe r 78 76
def sqDiv (r : Bytes) : Nat := fieldLe r 75 72
def sqPhase (r : Bytes) : Nat := fieldLe r 71 60
def sqGrace (r : Bytes) : Nat := fieldLe r 59 44
def sqPrefix (r : Bytes) : Nat := fieldLe r 43 34
def sqRestart (r : Bytes) : Bool := fieldLe r 33 33 == 1
def sqOutMap (r : Bytes) : Nat := fieldLe r 32 23
def sqInstOff (r : Bytes) : Nat := fieldLe r 22 14

def kvRec (w : World) (p : Nat) : Bytes := actObj w 0x3820 0 p
def kvSpillFloor (r : Bytes) : Nat := fieldLe r 239 216
def kvSwap (r : Bytes) : Nat := fieldLe r 215 192
def kvT2 (r : Bytes) : Nat := fieldLe r 191 168
def kvT1 (r : Bytes) : Nat := fieldLe r 167 144
def kvT0 (r : Bytes) : Nat := fieldLe r 143 128
def kvPrefetch (r : Bytes) : Nat := fieldLe r 127 112
def kvSession (r : Bytes) : Nat := fieldLe r 111 109
def kvPreempt (r : Bytes) : Bool := fieldLe r 108 108 == 1
def kvSpill (r : Bytes) : Bool := fieldLe r 107 107 == 1
def kvT2Die (r : Bytes) : Nat := fieldLe r 106 105

/-- PREFIX_SET: MODEL and length. -/
def pxModel (set : Store Bytes) (x : Nat) : Nat := beAt (objIn set 0x3818 0 x) 0 1
def pxLength (set : Store Bytes) (x : Nat) : Nat := beAt (objIn set 0x3818 0 x) 1 2

/-- The sequences of a set, and of a partition. -/
def seqsOf (set : Store Bytes) : List Nat := instancesOf set 0x3800 0
def seqsIn (w : World) (p : Nat) : List Nat := (seqsOf w.cfg.active).filter (fun s => seqPart w s = p)

def seq (w : World) (s : Nat) : Seq := sGet {} w.serving.seqs s
def onSeq (s : Nat) (f : Seq → Seq) (w : World) : World := onServing (fun v => { v with seqs := sUpd {} v.seqs s f }) w
def pool (w : World) (p : Nat) : Pool := sGet {} w.serving.pools p
def onPool (p : Nat) (f : Pool → Pool) (w : World) : World := onServing (fun v => { v with pools := sUpd {} v.pools p f }) w
def pfx (w : World) (k : Nat) : Prefix := sGet {} w.serving.prefixes k
def onPfx (k : Nat) (f : Prefix → Prefix) (w : World) : World := onServing (fun v => { v with prefixes := sUpd {} v.prefixes k f }) w

/-- The model descriptor of a sequence. -/
def seqModel (w : World) (s : Nat) : Bytes := actObj w 0x3100 0 (sqModel (sqRec w s))

/-- A model's page lists: list n belongs to layer n / 2 / H_kv, KV head n / 2 mod H_kv, keys then values (08 R218). -/
def listHead (md : Bytes) (n : Nat) : Nat := n / 2 % mdHkv md

/-- The die that holds KV head `j`: the heads in order over the dies of the spread (08 R233). -/
def headDie (w : World) (p : Nat) (md : Bytes) (j : Nat) : Nat :=
  let ds := pDies (actPart w p)
  nth 0 ds (j * ds.length / max 1 (mdHkv md))

/-- The attention tile of sequence `s` for head `j` (09 R246). -/
def attTile (w : World) (p s j d : Nat) : Nat :=
  let r := actPart w p
  nth 0 ((pTiles r).filter (fun t => t / 32 = d)) ((s + j) % pAttTiles r)

/-! ## Members: sequences and prefix runs -/

/-- A member is a sequence, or 16,384 + a prefix set. -/
def isPfx (m : Nat) : Bool := decide (16384 ≤ m)
def pfxKey (m p : Nat) : Nat := (m - 16384) * 32 + p

def listsOf (w : World) (p m : Nat) : Store PageList := if isPfx m then (pfx w (pfxKey m p)).lists else (seq w m).lists
def posOf (w : World) (p m : Nat) : Nat := if isPfx m then (pfx w (pfxKey m p)).p else (seq w m).p
def onLists (p m : Nat) (f : Store PageList → Store PageList) (w : World) : World :=
  if isPfx m then onPfx (pfxKey m p) (fun x => { x with lists := f x.lists }) w else onSeq m (fun x => { x with lists := f x.lists }) w
def pageList (w : World) (p m n : Nat) : PageList := sGet {} (listsOf w p m) n
def onList (p m n : Nat) (f : PageList → PageList) (w : World) : World := onLists p m (fun l => sUpd {} l n f) w

/-- The model of a member. -/
def memberModel (w : World) (m : Nat) : Nat := if isPfx m then pxModel w.cfg.active (m - 16384) else sqModel (sqRec w m)
def memberDesc (w : World) (m : Nat) : Bytes := actObj w 0x3100 0 (memberModel w m)
def memberPriority (w : World) (m : Nat) : Nat := if isPfx m then 255 else sqPriority (sqRec w m)

/-- Every member of a pool that holds pages. -/
def holders (w : World) (p : Nat) : List Nat :=
  seqsIn w p ++ (w.serving.prefixes.filter (fun e => e.1 % 32 = p)).map (fun e => 16384 + e.1 / 32)

/-- Every page of a pool, with its holder and list. -/
def poolPages (w : World) (p : Nat) : List (Nat × Nat × Page) :=
  (holders w p).flatMap (fun m => (listsOf w p m).flatMap (fun l => l.2.pages.map (fun g => (m, l.1, g))))

/-! ## The far space of a partition on a die, in order from byte 0 (12 R323; log 34): the frames of its pool, tier T1 on its own dies or tier
T2 on the lending one; then, on its own dies, the weight region, the step and score areas, staging and tables -/

def poolIn (set : Store Bytes) (p : Nat) : Bytes := objIn set 0x3820 0 p
def modelIn (set : Store Bytes) (m : Nat) : Bytes := objIn set 0x3100 0 m

/-- The models of a partition record. -/
def pModels (r : Bytes) : List Nat := (upTo (pNModels r)).map (pModel r)

/-- Stratum pages of a number of bytes (12 R323). -/
def pagesOf (b : Nat) : Nat := ceilDiv b 65536

/-- FRAME_BYTES: the page size of the partition's models (08 R215). -/
def frameBytes (set : Store Bytes) (p : Nat) : Nat := pageBytes (modelIn set (pModel (partRec set p) 0))

/-- The weight region of one die of a partition, for the largest of its models: its heads' projections and a full copy of every other
weight (08 R233, 09 R241). -/
def regionBytes (set : Store Bytes) (p : Nat) : Nat :=
  let r := partRec set p
  ((pModels r).map (fun m => tensorsEnd (modelIn set m) (tensorsOn (modelIn set m) (pSpread r)))).foldl max 0

/-- First byte of the weight region, and of the step and score areas. -/
def regionBase (set : Store Bytes) (p : Nat) : Nat := 65536 * pagesOf (kvT1 (poolIn set p) * frameBytes set p)
def areaBase (set : Store Bytes) (p : Nat) : Nat := regionBase set p + 65536 * pagesOf (regionBytes set p)

/-- First byte of a frame of tier T1 or T2 in its far space. -/
def frameAt (set : Store Bytes) (p f : Nat) : Nat := f * frameBytes set p

/-- First byte of a frame of tier T0, numbered tile × 256 + frame, in its tile's scratchpad: the frames stand together in the share. -/
def frameT0At (set : Store Bytes) (p f : Nat) : Nat :=
  let r := partRec set p
  let words := kvT0 (poolIn set p) * frameBytes set p / 32
  (pShareBase r + Config.t0Place p (f / 256) % (pShareLen r - pCodeLen r - words + 1)) * 32 + f % 256 * frameBytes set p

/-- A page's bytes written to a frame on the device; tier T3 is the host's. -/
def putFrame (p tier d f : Nat) (bytes : Bytes) (w : World) : World :=
  match tier with
  | 0 => padWrite (f / 256) (frameT0At w.cfg.active p f) bytes w
  | 1 | 2 => onTiles (fun t => { t with stratum := Mem.write t.stratum (farBase p d + frameAt w.cfg.active p f) bytes }) w
  | _ => w

/-! ## Frames (08 R223, R226, R231) -/

/-- A page's frame, and the one its move takes, as tier, die, frame. -/
def pageFrame (g : Page) : Nat × Nat × Nat := (g.tier, if g.tier = 3 then 0 else g.die, g.frame)
def moveFrame (k : Bytes) (g : Page) : Option (Nat × Nat × Nat) :=
  g.dest.map (fun d => (d.1, if d.1 = 2 then kvT2Die k else if d.1 = 3 then 0 else g.die, d.2))

/-- Frames in use or in transit in a pool: of pages, of the moves they make, of their prefetched copies, and of staging that is away. -/
def framesTaken (w : World) (p : Nat) : List (Nat × Nat × Nat) :=
  (poolPages w p).flatMap (fun x => pageFrame x.2.2 :: (moveFrame (kvRec w p) x.2.2).toList ++ (x.2.2.copy.map (fun c => (1, c))).toList) ++
  (holders w p).flatMap (fun m => (listsOf w p m).flatMap (fun l => l.2.away.map (fun f => (3, 0, f))))

/-- The lowest frame of a range that nothing holds. -/
def firstFree (used : List Nat) (lo n : Nat) : Option Nat :=
  ((upTo (min n (used.length + 1))).map (lo + ·)).find? (fun f => !used.contains f)

def takenIn (w : World) (p tier d : Nat) : List Nat :=
  ((framesTaken w p).filter (fun f => f.1 = tier ∧ f.2.1 = d)).map (·.2.2)

/-- Append reserves that hold a frame of a die (08 R227). -/
def reservesHeld (w : World) (p d : Nat) : Nat :=
  ((seqsIn w p).map (fun s => ((listsOf w p s).filter (fun l =>
    l.2.reserve && headDie w p (seqModel w s) (listHead (seqModel w s) l.1) == d)).length)).sum

/-- Tier T1 frames of a die that no page holds, the reserves' among them. -/
def freeT1 (w : World) (p d : Nat) : Nat := kvT1 (kvRec w p) - (takenIn w p 1 d).eraseDups.length

/-- Prefetched copies, there or on their way, that stand on a die. -/
def copiesOn (w : World) (p d : Nat) : Nat :=
  ((poolPages w p).filter (fun x => x.2.2.copy.any (fun c => c.1 == d))).length

/-- Tier T1 frames that a flush may take: free, held by no reserve, not kept for prefetches. -/
def openT1 (w : World) (p d : Nat) : Nat := freeT1 w p d - reservesHeld w p d - (kvPrefetch (kvRec w p) - copiesOn w p d)

/-- A free frame of tier T0 on a tile, T1 on a die, T2, T3. -/
def frameT0 (w : World) (p tile : Nat) : Option Nat := firstFree (takenIn w p 0 (tile / 32)) (tile * 256) (kvT0 (kvRec w p))
def frameT1 (w : World) (p d : Nat) : Option Nat := firstFree (takenIn w p 1 d) 0 (kvT1 (kvRec w p))
def frameT2 (w : World) (p : Nat) : Option Nat := firstFree (takenIn w p 2 (kvT2Die (kvRec w p))) 0 (kvT2 (kvRec w p))
def frameT3 (w : World) (p : Nat) : Option Nat := firstFree (takenIn w p 3 0) 0 (kvSwap (kvRec w p))

/-- The host's number of a tier T3 frame: the pools of one session follow each other in its space (11 R307; log 35). -/
def hostFrame (w : World) (p f : Nat) : Nat :=
  f + (((upTo p).filter (fun q => pInSet w.cfg.active q && kvSession (kvRec w q) == kvSession (kvRec w p))).map (fun q => kvSwap (kvRec w q))).foldl (· + ·) 0

/-- Bytes sent to, or asked of, a frame of tier T3; and whether every request for it has been answered (11 R307). -/
def swapOut (p f : Nat) (bytes : Bytes) (w : World) : World := sendPages (kvSession (kvRec w p)) true (hostFrame w p f) bytes w
def swapIn (p f : Nat) (bytes : Bytes) (w : World) : World := sendPages (kvSession (kvRec w p)) false (hostFrame w p f) bytes w
def swapDone (w : World) (p : Nat) (write : Bool) (f : Nat) : Bool := pageAnswered w (kvSession (kvRec w p)) write (hostFrame w p f)

/-- Where a page of a list is flushed to: tier, die, frame, and whether the list's reserve goes (08 R226). The pages of a prefix run are
shared by sequences whose attention runs on different tiles: they take no tier T0 frame (08 R223; log 103). -/
def flushFrame (w : World) (p m n : Nat) : Option (Nat × Nat × Nat × Bool) :=
  let md := memberDesc w m
  let d := headDie w p md (listHead md n)
  match if isPfx m then none else frameT0 w p (attTile w p m (listHead md n) d) with
  | some f => some (0, d, f, false)
  | none =>
    match frameT1 w p d with
    | none => none
    | some f =>
      if 0 < openT1 w p d then some (1, d, f, false)
      else if (pageList w p m n).reserve then some (1, d, f, true)
      else none

/-- Empty reserves take what frames are free, in descending priority of their sequences (08 R226). -/
def refillReserves (p : Nat) (w : World) : World :=
  let order := (seqsIn w p).mergeSort (fun a b =>
    decide (sqPriority (sqRec w b) < sqPriority (sqRec w a)) || (sqPriority (sqRec w a) == sqPriority (sqRec w b) && decide (a ≤ b)))
  eachW (order.filter (fun s => decide ((seq w s).mode ≠ .preempted))) (fun s w =>
    eachW (upTo (mdLists (seqModel w s))) (fun n w =>
      if !(pageList w p s n).reserve && decide (0 < openT1 w p (headDie w p (seqModel w s) (listHead (seqModel w s) n))) then
        onList p s n (fun l => { l with reserve := true }) w
      else w) w) w

/-! ## Releases (08 R211, R220; 12 Table 12.3) -/

/-- The frame of a page is held by a holder other than `m`. -/
def heldElsewhere (w : World) (p m : Nat) (g : Page) : Bool :=
  (poolPages w p).any (fun x => x.1 != m && pageFrame x.2.2 == pageFrame g)

/-- A member gives up its pages, staging and tail; pages that no other holder shares are released, those struck are lost. -/
def dropPages (p m : Nat) (w : World) : World :=
  let gs := ((listsOf w p m).flatMap (fun l => l.2.pages)).filter (fun g => !heldElsewhere w p m g)
  let n := (gs.filter (fun g => !g.valid)).length
  onPool p (fun q => { q with released := q.released + (gs.length - n), lost := q.lost + n, nLost := q.nLost + n, live := q.live - gs.length })
    (onLists p m (fun ls => (ls.map (fun l => (l.1, ({ reserve := l.2.reserve } : PageList)))).filter (fun l => l.2.reserve)) w)

/-! ## Prefix sets (08 R220) -/

/-- The prefix set of a sequence is complete, or it has none. -/
def pfxReady (w : World) (s : Nat) : Bool :=
  sqPrefix (sqRec w s) == 0x3FF || (pfx w (sqPrefix (sqRec w s) * 32 + seqPart w s)).complete

/-- The length of a sequence's prefix set. -/
def pfxLen (w : World) (s : Nat) : Nat := if sqPrefix (sqRec w s) = 0x3FF then 0 else pxLength w.cfg.active (sqPrefix (sqRec w s))

/-- A sequence attached to its complete prefix set: its pages by reference, its last rows as the shared tail. -/
def attach (s : Nat) (w : World) : World :=
  let r := sqRec w s
  if sqPrefix r = 0x3FF ∨ !pfxReady w s then w else
    (pfx w (sqPrefix r * 32 + seqPart w s)).lists.foldl (fun w l =>
      onList (seqPart w s) s l.1 (fun mine => { mine with
        pages := l.2.pages.map (fun g => { g with shared := true }), staged := l.2.staged, tail := l.2.staged.length }) w) w

/-! ## Prefetch and DUE (08 R209, R224) -/

/-- A prefetch starts for each page of a sequence in tier T3 while a PREFETCH frame is free on the die that reads it. -/
def startPrefetch (s : Nat) (w : World) : World :=
  let p := seqPart w s
  eachW (listsOf w p s) (fun l w =>
    let d := headDie w p (seqModel w s) (listHead (seqModel w s) l.1)
    eachW (upTo l.2.pages.length) (fun i w =>
      let g := nth {} l.2.pages i
      match frameT1 w p d with
      | some f =>
        if g.tier = 3 && !g.fetching && !g.prefetched && !g.moving && decide (copiesOn w p d < kvPrefetch (kvRec w p)) then
          swapIn p g.frame g.bytes (onList p s l.1 (fun l => { l with
            pages := updNth l.pages i (fun g => { g with fetching := true, copy := some (d, f) }) }) w)
        else w
      | none => w) w) w

/-- Every tier T3 page of a sequence has its copy. -/
def fetched (w : World) (s : Nat) : Bool :=
  (listsOf w (seqPart w s) s).all (fun l => l.2.pages.all (fun g => decide (g.tier ≠ 3) || g.prefetched))

/-- A sequence with a token waiting becomes DUE, if its prefix set is complete. -/
def becomeDue (s : Nat) (w : World) : World :=
  if (seq w s).mode = .idle ∧ (seq w s).token.isSome ∧ pfxReady w s then
    startPrefetch s (onSeq s (fun x => { x with mode := .due }) w)
  else w

/-! ## The builder (08 R208 to R210) -/

/-- Feature entry `i` of a map. -/
def featEntry (w : World) (map i : Nat) : Bytes := slice (actObj w 0x3810 0 map) (16 * i) 16
def feScale (e : Bytes) : W32 := field32 e 96
def feOffset (e : Bytes) : W32 := field32 e 64
def feStream (e : Bytes) : Nat := fieldLe e 63 46
def feOp (e : Bytes) : Nat := fieldLe e 45 43

/-- The features of a map. -/
def featCount (w : World) (map : Nat) : Nat := (actObj w 0x3810 0 map).length / 16

/-- A sample folded into an accumulator. -/
def foldSample (op : Nat) (v : W32) (f : Feat) : Feat :=
  { f with n := f.n + 1, sum := hAdd f.sum (if op = 3 then hMul v v else v),
           min := if f.n = 0 then v else hMin f.min v, max := if f.n = 0 then v else hMax f.max v, last := v }

/-- A G32 value divided by a count, rounded once. -/
def quot32 (a : W32) (n : Nat) : W32 :=
  match val32 a with
  | .fin m e _ => if 0 ≤ e then g32Ratio (m * 2 ^ e.toNat) n else g32Ratio m (n * 2 ^ (-e).toNat)
  | _ => a

/-- The reduced value of an interval. -/
def reduced (op : Nat) (f : Feat) : W32 :=
  match op with
  | 1 => f.last
  | 2 => quot32 f.sum f.n
  | 3 => sqrt32 (quot32 f.sum f.n)
  | 4 => f.min
  | 5 => f.max
  | 6 => hSub f.max f.min
  | _ => hSub f.last f.prevLast

/-- The interval a sample belongs to: that of the first boundary whose stamp it precedes and before whose close it came, else the open
one (08 R209). -/
def sampleInterval (grace t1 ta : Nat) (closings : List Nat) : Nat :=
  (closings.takeWhile (fun stamp => !(decide (t1 < stamp) && decide (ta < stamp + grace)))).length

/-- A change of the accumulators of interval `m`, wherever a span holds it. -/
def onSpans (m : Nat) (f : Store Feat → Store Feat) (a : List (List (Store Feat))) : List (List (Store Feat)) :=
  (upTo a.length).map (fun i =>
    let row := nth [] a i
    (upTo row.length).map (fun j => if i ≤ m ∧ m ≤ i + j then f (nth [] row j) else nth [] row j))

/-- A delivered sample, of sample instant `t1` and arrival stamp `ta` in LC3 ns, applied to every feature of every sequence that
reads its stream. One that came too late for a boundary it precedes is counted once. -/
def builderSample (stream : Nat) (v : W32) (t1 ta : Nat) (w : World) : World :=
  eachW (seqsOf w.cfg.active) (fun s w =>
    let r := sqRec w s
    let grace := sqGrace r * 1000
    match (upTo (featCount w (sqMap r))).filter (fun i => feStream (featEntry w (sqMap r) i) + sqBase r = stream) with
    | [] => w
    | is =>
      onSeq s (fun x =>
        let m := sampleInterval grace t1 ta x.closings
        let late := decide (t1 < x.boundary) || (x.closings.take m).any (fun stamp => decide (t1 < stamp))
        let put (st : Store Feat) : Store Feat :=
          is.foldl (fun st i => sUpd {} st i (foldSample (feOp (featEntry w (sqMap r) i)) v)) st
        { x with spans := onSpans m put x.spans, nLate := x.nLate + b2n late }) w) w

/-- The token boundaries that tick count `c` of tracker `k` makes, at its LC3 stamp in ns (08 R209). -/
def tokenTicks (k c lc3 : Nat) (w : World) : World :=
  eachW (seqsOf w.cfg.active) (fun s w =>
    let r := sqRec w s
    if sqTracker r = k ∧ ((c : Int) - sqPhase r) % (2 ^ sqDiv r : Nat) = 0 then
      onSeq s (fun x => { x with
        closings := x.closings ++ [lc3]
        spans := x.spans.map (fun row => row ++ [row.getLastD []]) ++ [[[]]] }) w
    else w) w

/-- The spans left when a token has taken the oldest interval: its values are the previous token's. -/
def closeSpan (prev : Nat → Feat → Feat) (n : Nat) (a : List (List (Store Feat))) : List (List (Store Feat)) :=
  match a.drop 1 with
  | [] => [[[]]]
  | row :: rest => row.map (fun st => (upTo n).foldl (fun st i => sUpd {} st i (prev i)) st) :: rest

/-- The spans left when a full slot leaves the oldest interval open: it goes on as one with the next (08 R210). -/
def mergeSpan (a : List (List (Store Feat))) : List (List (Store Feat)) :=
  match a with
  | row :: _ :: rest => row.drop 1 :: rest
  | _ => a

/-- TOKEN_CLOSE: the grace of a token boundary has run out (08 R208 to R210). -/
def tokenClose (s : Nat) (w : World) : World :=
  let r := sqRec w s
  let x := seq w s
  match x.closings with
  | [] => w
  | stamp :: later =>
    if lc3Ns w < stamp + sqGrace r * 1000 then w
    else if x.token.isSome then
      onSeq s (fun x => { x with closings := later, spans := mergeSpan x.spans, stretching := true }) w
    else
      let feats := (x.spans.headD []).headD []
      let fs := (upTo (featCount w (sqMap r))).map (fun i => (featEntry w (sqMap r) i, sGet {} feats i))
      let value (e : Bytes × Feat) : W32 :=
        if e.2.n = 0 then e.2.prevVal else hMul (hSub (reduced (feOp e.1) e.2) (feOffset e.1)) (feScale e.1)
      let vals := fs.map value
      let prev (i : Nat) (g : Feat) : Feat :=
        let f := (nth ([], {}) fs i).2
        { g with prevLast := if f.n = 0 then f.prevLast else f.last, prevVal := nth 0 vals i }
      becomeDue s (onSeq s (fun x => { x with
        token := some vals, gap := fs.any (fun f => f.2.n = 0), stretched := x.stretching,
        nStretched := x.nStretched + b2n x.stretching, nTokens := x.nTokens + 1, stretching := false, hadToken := true,
        spans := closeSpan prev fs.length x.spans, closings := later, boundary := stamp }) w)

/-- TOKEN_CLOSE. -/
def execTokenClose (s : Fin 16384) (st : State) : Host.Outcome State Fault Refusal :=
  liveEffect (fun w => whenW (hasObj w.cfg.active 0x3800 0 s) (tokenClose s) w) st

/-! ## Moves, spill, pre-emption (08 R225, R227, R228) -/

/-- Entry `i` of a sequence's page table: list and place in it, lists in order (08 R218). -/
def tableEntry : Store PageList → Nat → Option (Nat × Nat)
  | [], _ => none
  | l :: ls, i => if i < l.2.pages.length then some (l.1, i) else tableEntry ls (i - l.2.pages.length)

/-- Page `i` of a list changed. -/
def onPage (p m n i : Nat) (f : Page → Page) (w : World) : World :=
  onList p m n (fun l => { l with pages := updNth l.pages i f }) w

/-- The oldest movable page of a sequence in a tier: unpinned, unshared, of lowest position, then list order. -/
def oldestPage (w : World) (p s tier : Nat) : Option (Nat × Nat) :=
  ((listsOf w p s).flatMap (fun l => ((upTo l.2.pages.length).filter (fun i =>
    let g := nth {} l.2.pages i
    decide (g.tier = tier) && !g.pinned && !g.shared && !g.moving)).map (fun i => (l.1, i)))).foldl
    (fun a x => match a with | some b => if x.2 < b.2 then some x else some b | none => some x) none

/-- The lowest-priority sequence of a pool that satisfies `ok`, lower number first on a tie. -/
def lowestSeq (w : World) (p : Nat) (ok : Nat → Bool) : Option Nat :=
  ((seqsIn w p).filter ok).foldl
    (fun a s => match a with | some b => if sqPriority (sqRec w s) < sqPriority (sqRec w b) then some s else some b | none => some s) none

/-- The tier one below, of those that the pool has, and a free frame of it (08 R225). -/
def lowerFrame (w : World) (p tier d : Nat) : Option (Nat × Nat) :=
  let below := if tier = 0 then 1 else if tier = 1 ∧ 0 < kvT2 (kvRec w p) then 2 else 3
  (match below with
   | 1 => if 0 < openT1 w p d then frameT1 w p d else none
   | 2 => frameT2 w p
   | _ => frameT3 w p).map (fun f => (below, f))

/-- A move begins: the destination is taken; a page that leaves for tier T3 is sent to its session. -/
def startMove (p s n i : Nat) (dest : Nat × Nat) (w : World) : World :=
  let g := nth {} (pageList w p s n).pages i
  let w := onPage p s n i (fun g => { g with moving := true, dest := some dest }) w
  if dest.1 = 3 then swapOut p dest.2 g.bytes w else w

/-- The oldest page in a tier of the lowest-priority sequence that has one moves a tier down; whether it could. -/
def spillFrom (p tier : Nat) (w : World) : World × Bool :=
  match lowestSeq w p (fun s => (oldestPage w p s tier).isSome) with
  | none => (w, false)
  | some s =>
    match oldestPage w p s tier with
    | none => (w, false)
    | some (n, i) =>
      match lowerFrame w p tier (nth {} (pageList w p s n).pages i).die with
      | none => (w, false)
      | some dest => (onPool p (fun q => { q with nSpills := q.nSpills + 1 }) (startMove p s n i dest w), true)

/-- The first tier of a list from which a page can move moves one: with tier T2 full, a tier T2 page makes room first (log 35). -/
def spillOne (p : Nat) : List Nat → World → World × Bool
  | [], w => (w, false)
  | t :: ts, w =>
    let r := spillFrom p t w
    if r.2 then r else spillOne p ts w

/-- BACKGROUND_SPILL: free tier T1 frames below SPILL_FLOOR (08 R225). -/
def backgroundSpill (p : Nat) (w : World) : World :=
  let k := kvRec w p
  let low := (pDies (actPart w p)).any (fun d => decide (freeT1 w p d < kvSpillFloor k))
  if pInSet w.cfg.active p && kvSpill k && low then (spillOne p [1, 2] w).1 else w

/-- BACKGROUND_SPILL. -/
def execBackgroundSpill (p : Fin 32) (s : State) : Host.Outcome State Fault Refusal := liveEffect (backgroundSpill p) s

/-- The staged rows of a list that are the sequence's own, as bytes, G16 and position-major; and the rows such bytes hold (08 R216). -/
def stagingOut (l : PageList) : Bytes := (l.staged.drop l.tail).flatMap (fun row => row.flatMap (fun v => leBytes 2 v.toNat))
def stagingBack (dh : Nat) (b : Bytes) : List (List (BitVec 16)) :=
  (upTo (b.length / (2 * dh))).map (fun i => (upTo dh).map (fun k => BitVec.ofNat 16 (leAt b (2 * (i * dh + k)) 2)))

/-- Frames that the staging of a list takes in tier T3. -/
def stagingFrames (w : World) (p : Nat) (l : PageList) : Nat := ceilDiv (stagingOut l).length (max 1 (frameBytes w.cfg.active p))

/-- The frame-sized pieces of a list's staging, each with its frame. -/
def awayPieces (w : World) (p : Nat) (l : PageList) : List (Nat × Bytes) :=
  let fb := frameBytes w.cfg.active p
  (upTo l.away.length).map (fun i => (nth 0 l.away i, slice l.awayBytes (i * fb) (min fb (l.awayBytes.length - i * fb))))

/-- A page of a pre-empted sequence goes to tier T3 unless it is shared, or on its way somewhere already. -/
def sendAway (p s n i : Nat) (w : World) : World :=
  let g := nth {} (pageList w p s n).pages i
  if g.shared || g.moving || decide (g.tier = 3) then w
  else match frameT3 w p with
    | some f => startMove p s n i (3, f) w
    | none => w

/-- The staging of a list goes to tier T3. -/
def stageAway (p s n : Nat) (w : World) : World :=
  let bytes := stagingOut (pageList w p s n)
  let w := onList p s n (fun l => { l with awayBytes := bytes }) w
  let w := eachW (upTo (stagingFrames w p (pageList w p s n))) (fun _ w =>
    match frameT3 w p with
    | some f => onList p s n (fun l => { l with away := l.away ++ [f] }) w
    | none => w) w
  eachW (awayPieces w p (pageList w p s n)) (fun x => swapOut p x.1 x.2) w

/-- A sequence is pre-empted: its unshared pages and its staging go to tier T3, prefetched copies and reserves are given up (08 R228). -/
def preempt (p s : Nat) (w : World) : World :=
  let w := eachW (listsOf w p s) (fun l w =>
    let w := onList p s l.1 (fun l => { l with
      reserve := false, pages := l.pages.map (fun g => { g with fetching := false, prefetched := false, copy := none }) }) w
    stageAway p s l.1 (eachW (upTo l.2.pages.length) (sendAway p s l.1) w)) w
  record 0x33 4 0x3801 s (onSeq s (fun x => { x with
    mode := .preempted, preemptDue := false, returning := false, nPreempt := x.nPreempt + 1 }) w)

/-- Tier T3 has room for every page, and all staging, that pre-empting a sequence would send there. -/
def roomT3 (w : World) (p s : Nat) : Bool :=
  decide (((listsOf w p s).map (fun l =>
      (l.2.pages.filter (fun g => !g.shared && g.tier != 3 && !(g.dest.any (fun d => d.1 == 3)))).length + stagingFrames w p l.2)).foldl (· + ·) 0 +
    (takenIn w p 3 0).eraseDups.length ≤ kvSwap (kvRec w p))

/-- A flush finds no frame: the first step of R227 that can free one. The lowest-priority sequence is of those whose pages are not away
already; one that runs is pre-empted when its step ends (08 R228). -/
def makeRoom (p : Nat) (w : World) : World :=
  let k := kvRec w p
  let (w', ok) := if kvSpill k then spillOne p [1, 2, 0] w else (w, false)
  if ok then w'
  else if kvPreempt k then
    match lowestSeq w p (fun s => match (seq w s).mode with
        | .idle | .due | .stalled | .running => !(seq w s).preemptDue
        | _ => false) with
    | some s =>
      if !roomT3 w p s then w
      else if (seq w s).mode = .running then onSeq s (fun x => { x with preemptDue := true }) w
      else refillReserves p (preempt p s w)
    | none => w
  else w

/-- The sequences of a step that were to be pre-empted at its end are (08 R228). -/
def preemptEnded (p : Nat) (members : List Nat) (w : World) : World :=
  eachW (members.filter (fun m => !isPfx m && (seq w m).preemptDue)) (fun s w =>
    match (seq w s).mode with
    | .idle | .due | .stalled =>
      if roomT3 w p s then refillReserves p (preempt p s w) else onSeq s (fun x => { x with preemptDue := false }) w
    | _ => onSeq s (fun x => { x with preemptDue := false }) w) w

/-! ## Flushes (08 R217, R221, R226, R229) -/

/-- One list flushed: 64 oldest rows to a page. A flush without a frame waits; whether it succeeded is returned. -/
def flushList (p m n : Nat) (w : World) : World × Bool :=
  let l := pageList w p m n
  if l.staged.length < 64 then (w, true) else
    match flushFrame w p m n with
    | some (tier, d, f, res) =>
      let g : Page := { tier := tier, die := d, frame := f, bytes := pageOf (memberDesc w m) (n % 2 == 1) (l.staged.take 64) }
      (onPool p (fun q => { q with flushed := q.flushed + 1, live := q.live + 1, nCow := q.nCow + b2n (decide (0 < l.tail)) })
        (putFrame p tier d f g.bytes <| onList p m n (fun l => { l with
          pages := l.pages ++ [g], staged := l.staged.drop 64, tail := 0, stalled := false, reserve := l.reserve && !res }) w), true)
    | none =>
      let w := if l.stalled then w else onPool p (fun q => { q with nEmpty := q.nEmpty + 1 }) w
      (makeRoom p (onList p m n (fun l => { l with stalled := true }) w), false)

/-- Every list of a member that holds a page's worth is flushed. -/
def flushAll (p m : Nat) (w : World) : World :=
  eachW (upTo (mdLists (memberDesc w m))) (fun n w => (flushList p m n w).1) w

/-- A sequence whose staging is full stalls; one whose staging has room again goes on (08 R229). -/
def judgeStall (p s : Nat) (w : World) : World :=
  let full := (listsOf w p s).any (fun l => decide (128 ≤ l.2.staged.length))
  match (seq w s).mode with
  | .stalled => if full then w else becomeDue s (record 0x33 4 0x3801 s (onSeq s (fun x => { x with mode := .idle }) w))
  | .idle | .due => if full then record 0x33 4 0x3801 s (onSeq s (fun x => { x with mode := .stalled, nStalls := x.nStalls + 1 }) w) else w
  | _ => w

/-- The run of a prefix set, a sequence of its own (08 R220), stalls and goes on in the same way. -/
def judgePrefix (p m : Nat) (w : World) : World :=
  let full := (listsOf w p m).any (fun l => decide (128 ≤ l.2.staged.length))
  if full = (pfx w (pfxKey m p)).stalled then w
  else record 0x33 4 0x3818 (m - 16384) (onPfx (pfxKey m p) (fun x => { x with stalled := full }) w)

/-- Stalled flushes are tried again, and sequences judged. -/
def retryFlushes (p : Nat) (w : World) : World :=
  let w := eachW (holders w p) (fun m w =>
    eachW ((listsOf w p m).filter (fun l => l.2.stalled)) (fun l w => (flushList p m l.1 w).1) w) w
  eachW (holders w p) (fun m w => if isPfx m then judgePrefix p m w else judgeStall p m w) w

/-- STALLED_FLUSH_RETRY (08 R229). -/
def execStalledFlushRetry (p : Fin 32) (s : State) : Host.Outcome State Fault Refusal :=
  liveEffect (fun w => whenW (pInSet w.cfg.active p) (retryFlushes p) w) s

/-! ## Moves end (08 R225, R230), prefetches end (08 R224), pre-emption ends (08 R228) -/

/-- PAGE_MOVE_COMPLETE: the entry names the destination and the source is free. A pinned page waits for its pin. -/
def pageMoved (s e : Nat) (w : World) : World :=
  let p := seqPart w s
  match tableEntry (listsOf w p s) e with
  | none => w
  | some (n, i) =>
    let g := nth {} (pageList w p s n).pages i
    match g.dest with
    | none => w
    | some (tier, f) =>
      let done := if tier = 3 then swapDone w p true f else g.tier ≠ 3 || swapDone w p false g.frame
      if g.pinned || !done then w else
        let d := if tier = 2 then kvT2Die (kvRec w p) else g.die
        let w := onPage p s n i (fun g => { g with tier := tier, frame := f, die := d, moving := false, dest := none }) w
        let w := putFrame p tier d f g.bytes w
        let w := if (seq w s).mode = .preempted ∧ !(seq w s).returning then sendAway p s n i w else w
        refillReserves p w

/-- PAGE_MOVE_COMPLETE. -/
def execPageMoveComplete (s : Fin 16384) (e : Nat) (st : State) : Host.Outcome State Fault Refusal :=
  liveEffect (fun w => whenW (hasObj w.cfg.active 0x3800 0 s) (pageMoved s e) w) st

/-- PREFETCH_COMPLETE: the copy of a tier T3 page stands in a PREFETCH frame. -/
def prefetchDone (s e : Nat) (w : World) : World :=
  let p := seqPart w s
  match tableEntry (listsOf w p s) e with
  | none => w
  | some (n, i) =>
    let g := nth {} (pageList w p s n).pages i
    match g.copy with
    | some (d, f) =>
      if g.fetching && swapDone w p false g.frame then
        putFrame p 1 d f g.bytes (onPool p (fun q => { q with nPrefetch := q.nPrefetch + 1 })
          (onPage p s n i (fun g => { g with fetching := false, prefetched := true }) w))
      else w
    | none => w

/-- PREFETCH_COMPLETE. -/
def execPrefetchComplete (s : Fin 16384) (e : Nat) (st : State) : Host.Outcome State Fault Refusal :=
  liveEffect (fun w => whenW (hasObj w.cfg.active 0x3800 0 s) (prefetchDone s e) w) st

/-- Tier T1 frames that the return of a sequence needs on a die: for its pages in tier T3, its staging, and its reserve (08 R228). -/
def returnNeeds (w : World) (p s d : Nat) : Nat :=
  let md := seqModel w s
  ((upTo (mdLists md)).filter (fun n => headDie w p md (listHead md n) = d)).foldl (fun k n =>
    let l := pageList w p s n
    k + (l.pages.filter (fun g => g.tier = 3)).length + l.away.length + b2n (!l.reserve)) 0

/-- No pre-empted sequence that comes before it waits to return: PRIORITY, then the lower number. -/
def returnsFirst (w : World) (p s : Nat) : Bool :=
  (seqsIn w p).all (fun t => t == s || decide ((seq w t).mode ≠ .preempted) || (seq w t).returning ||
    decide (sqPriority (sqRec w t) < sqPriority (sqRec w s)) || (sqPriority (sqRec w t) == sqPriority (sqRec w s) && decide (s < t)))

/-- Nothing of a sequence is on its way to or from tier T3. -/
def settledT3 (w : World) (p s : Nat) : Bool :=
  (listsOf w p s).all (fun l => l.2.pages.all (fun g => !g.moving) && l.2.away.all (fun f => swapDone w p true f && swapDone w p false f))

/-- Everything a pre-empted sequence has in tier T3 is asked back; its reserves are held again. -/
def startReturn (p s : Nat) (w : World) : World :=
  let md := seqModel w s
  let w := onSeq s (fun x => { x with returning := true }) w
  eachW (upTo (mdLists md)) (fun n w =>
    let d := headDie w p md (listHead md n)
    let w := onList p s n (fun l => { l with reserve := true }) w
    let w := eachW (awayPieces w p (pageList w p s n)) (fun x => swapIn p x.1 x.2) w
    eachW (upTo (pageList w p s n).pages.length) (fun i w =>
      let g := nth {} (pageList w p s n).pages i
      match frameT1 w p d with
      | some f => if g.tier = 3 then
          swapIn p g.frame g.bytes (onPage p s n i (fun g => { g with die := d, moving := true, dest := some (1, f) }) w) else w
      | none => w) w) w

/-- What was asked back has come: the sequence is IDLE, or DUE if a token waits. -/
def endReturn (p s : Nat) (w : World) : World :=
  let dh := mdHead (seqModel w s)
  let w := onLists p s (fun ls => ls.map (fun l => if l.2.away.isEmpty then l else
    (l.1, { l.2 with staged := l.2.staged.take l.2.tail ++ stagingBack dh l.2.awayBytes, away := [], awayBytes := [] }))) w
  becomeDue s (record 0x33 4 0x3801 s (onSeq s (fun x => { x with mode := .idle, returning := false, nReturns := x.nReturns + 1 }) w))

/-- PREEMPT_RETURN: once tier T1 has room and the sequence is the first to return, what it has in tier T3 is read back; once that has come,
the sequence goes on (08 R228). -/
def preemptReturn (s : Nat) (w : World) : World :=
  let p := seqPart w s
  if (seq w s).mode ≠ .preempted ∨ !settledT3 w p s then w
  else if (seq w s).returning then endReturn p s w
  else if returnsFirst w p s && (pDies (actPart w p)).all (fun d => decide (returnNeeds w p s d ≤ openT1 w p d)) then
    let w := startReturn p s w
    if settledT3 w p s then endReturn p s w else w
  else w

/-- PREEMPT_RETURN. -/
def execPreemptReturn (s : Fin 16384) (st : State) : Host.Outcome State Fault Refusal :=
  liveEffect (fun w => whenW (hasObj w.cfg.active 0x3800 0 s) (preemptReturn s) w) st

/-! ## Context ends and losses (08 R211, R230) -/

/-- A sequence goes back to its prefix: RESTARTED counted. -/
def restartSeq (s : Nat) (w : World) : World :=
  let p := seqPart w s
  let w := refillReserves p (dropPages p s w)
  becomeDue s (attach s (onSeq s (fun x => { x with
    p := pfxLen w s, nRestarted := x.nRestarted + 1, preemptDue := false, returning := false, mode := (match x.mode with | .off => .off | _ => .idle) }) w))

/-- A sequence that has reached MAX_CTX (08 R211). -/
def contextEnd (s : Nat) (w : World) : World :=
  let p := seqPart w s
  if (seq w s).p < mdMaxCtx (seqModel w s) then w
  else if sqRestart (sqRec w s) then restartSeq s w
  else refillReserves p (onSeq s (fun x => { x with mode := .finished }) (dropPages p s w))

/-- A sequence has lost pages: it restarts at once, or at the end of the step it runs in (08 R230). -/
def loseContext (s : Nat) (w : World) : World :=
  if (seq w s).mode = .running then onSeq s (fun x => { x with lostContext := true, noOutput := true }) w
  else restartSeq s (onSeq s (fun x => { x with lostContext := true }) w)

/-- Pages are lost wherever they are held. A prefix set that loses a page runs again before its sequences go on. -/
def losePages (lost : Page → Bool) (p : Nat) (w : World) : World :=
  let hit := (holders w p).filter (fun m => (listsOf w p m).any (fun l => l.2.pages.any lost))
  let w := eachW hit (fun m => onLists p m (fun ls => ls.map (fun l =>
    (l.1, { l.2 with pages := l.2.pages.map (fun g => if lost g then { g with valid := false } else g) })))) w
  let w := eachW (hit.filter isPfx) (fun m w =>
    refillReserves p (onPfx (pfxKey m p) (fun x => { x with complete := false, p := 0, running := false }) (dropPages p m w))) w
  eachW (hit.filter (fun m => !isPfx m)) loseContext w

/-! ## Session loss (08 R230, 11 R298) -/

/-- Every tier T3 page of the pools that a session holds is lost, and the staging that is there. -/
def loseSwapPages (sess : Nat) (w : World) : World :=
  eachW ((upTo 32).filter (fun p => pInSet w.cfg.active p && kvSession (kvRec w p) == sess)) (fun p w =>
    let bare := (seqsIn w p).filter (fun s => (listsOf w p s).any (fun l => !l.2.away.isEmpty) &&
      !(listsOf w p s).any (fun l => l.2.pages.any (fun g => g.tier = 3)))
    eachW bare loseContext (losePages (fun g => g.tier = 3) p w)) w

end Sys2Proof.Machine
end

