-- ==== Sys2Proof/Machine/Partitions.lean ====
section
/-! DEFINITION. Partitions: batch steps (09 R243 to R245, Table 9.3), page rings (08 R219), outputs (08 R232), model switches (09
R239 to R242), control (09 R249), teardown (09 R252 to R254) and SWAP (09 R255, 08 R211). -/

namespace Sys2Proof.Machine

/-! ## Models and programs -/

/-- The resident model of a partition. -/
def residentModel (w : World) (p : Nat) : Nat := (part w p).model

/-- PART_PROGRAMS of a partition's MODEL_SET entry (09 Table 9.8). -/
def programIn (set : Store Bytes) (p e : Nat) : Bytes := if e < 8 then objIn set 0x3003 0 (p * 8 + e) else []

/-- Every code region rewritten from an image (09 R241). -/
def loadCode (p e : Nat) (w : World) : World :=
  let r := actPart w p
  let img := programIn w.cfg.active p e
  let n := pCodeLen r * 32
  eachW (upTo (pTiles r).length) (fun i => padWrite (nth 0 (pTiles r) i) (codeByte r) (padTo n (slice img (i * n) n))) w

/-- Words of each share of a record, from its base, written zero (09 R241, Table 9.5). -/
def scrubWords (r : Bytes) (words : Nat) (w : World) : World :=
  eachW (pTiles r) (fun t => onTiles (fun x => { x with scratch := Mem.clear x.scratch (padAddr t (pShareBase r * 32)) (words * 32) })) w

/-- Every word of each share outside the code regions written zero, except the tier T0 frames that hold valid pages. -/
def scrubShares (p : Nat) (w : World) : World :=
  let w := scrubWords (actPart w p) (pShareLen (actPart w p) - pCodeLen (actPart w p)) w
  eachW ((poolPages w p).filter (fun x => x.2.2.tier == 0 && x.2.2.valid)) (fun x => putFrame p 0 x.2.2.die x.2.2.frame x.2.2.bytes) w

/-- The weight region of each die of a partition rewritten from a library copy of a model (09 R241). -/
def loadWeights (p m : Nat) (w : World) : World :=
  let set := w.cfg.active
  let r := partRec set p
  eachW (upTo (pDies r).length) (fun i =>
    let a := farBase p (nth 0 (pDies r) i) + regionBase set p
    let image := regionImage (modelIn set m) (objIn set 0x3101 0 m) (pDies r).length i
    onTiles (fun t => { t with stratum := Mem.write (Mem.clear t.stratum a (65536 * pagesOf (regionBytes set p))) a image })) w

/-- The published output of instance 0 that carries the regime index: element, as an integer clamped to the models (09 R240);
none while nothing has been published or it is stale. -/
def regimeIndex (w : World) (p : Nat) : Option Nat :=
  let r := actPart w p
  let t := pRegimeTemplate r
  match sFind (tmpl w t).out 0 with
  | none => none
  | some o =>
    if o.stale || o.block.isEmpty then none else
      let q := (routeQ (tChain w.cfg.active t) (pRegimeElem r)).getD 0
      let v := signed 32 (leAt o.block (4 * pRegimeElem r) 4) / (2 ^ q : Nat)
      some (min v.toNat (pNModels r - 1))

/-- The entry resident at activation (09 R239). -/
def activationEntry (w : World) (p : Nat) : Nat := if pRegimeEn (actPart w p) then (regimeIndex w p).getD 0 else 0

/-- The regime index read at a boundary; a switch falls due when four readings agree (09 R240). -/
def readRegime (w : World) : World :=
  eachW (upTo 32) (fun p w =>
    if !pInSet w.cfg.active p || !pRegimeEn (actPart w p) then w else
      match (regimeIndex w p).orElse (fun _ => (part w p).regime.head?) with
      | none => w
      | some i =>
        onPart p (fun q =>
          let l := (i :: q.regime).take 4
          let other := decide (pModel (actPart w p) i ≠ q.model)
          { q with regime := l, switchTo := if l = [i, i, i, i] ∧ other ∧ q.switchTo.isNone then some i else q.switchTo }) w) w

/-! ## Forming a step (09 R243, Table 9.3; 08 R220, R224) -/

/-- The mode in which a partition rests. -/
def restMode (w : World) (p : Nat) : PartMode :=
  if pMode (actPart w p) = 2 && !(part w p).started then .reservedIdle else .idle

/-- Prefix sets that the resident model's sequences name and that have not run to their end; one whose appends are stalled joins no step
(08 R229). -/
def duePrefixes (w : World) (p : Nat) : List Nat :=
  ((instancesOf w.cfg.active 0x3818 0).filter (fun x =>
    pxModel w.cfg.active x == residentModel w p && !(pfx w (x * 32 + p)).complete && !(pfx w (x * 32 + p)).stalled && decide (0 < pxLength w.cfg.active x) &&
    (seqsIn w p).any (fun s => sqPrefix (sqRec w s) == x))).map (16384 + ·)

/-- DUE sequences of the resident model in descending PRIORITY, then ascending number. -/
def dueSeqs (w : World) (p : Nat) : List Nat :=
  ((seqsIn w p).filter (fun s => decide ((seq w s).mode = .due) && sqModel (sqRec w s) == residentModel w p)).mergeSort
    (fun a b => decide (sqPriority (sqRec w b) < sqPriority (sqRec w a)) ||
      (sqPriority (sqRec w a) == sqPriority (sqRec w b) && decide (a ≤ b)))

/-- The pages that a tile's attention reads, in position order: member, list, page. -/
def walkOf (w : World) (p tile : Nat) (members : List Nat) : List (Nat × Nat × Nat) :=
  members.flatMap (fun m => (listsOf w p m).flatMap (fun l =>
    let md := memberDesc w m
    let j := listHead md l.1
    if attTile w p m j (headDie w p md j) = tile then (upTo l.2.pages.length).map (fun i => (m, l.1, i)) else []))

/-- The page count of every list of every member written into the immediates that the tile program designates (08 R219). -/
def patchCounts (p tile : Nat) (members : List Nat) (w : World) : World :=
  let r := actPart w p
  eachW (upTo members.length) (fun i w =>
    let m := nth 0 members i
    eachW (upTo (mdLists (memberDesc w m))) (fun n w =>
      match Config.countPlace p tile i n with
      | some b => padWrite tile (codeByte r + b % (pCodeLen r * 32 - 3)) (leBytes 4 (pageList w p m n).pages.length) w
      | none => w) w) w

/-- The number of a sequence's token slot: its place among those homed on its die (log 104). -/
def tokenSlot (w : World) (s : Nat) : Nat :=
  ((seqsOf w.cfg.active).filter (fun x => decide (x < s) && (seq w x).home == (seq w s).home)).length

/-- An entry of the member table: member, p and token slot, 4 bytes each (09 Table 9.3; log 104). A prefix set has no token slot. -/
def memberEntry (w : World) (p m : Nat) : Bytes :=
  leBytes 4 m ++ leBytes 4 (posOf w p m) ++ leBytes 4 (if isPfx m then 0xFFFFFFFF else tokenSlot w m)

/-- The member table written to the step area of each die of a partition. -/
def writeMembers (p : Nat) (members : List Nat) (w : World) : World :=
  let table := members.flatMap (memberEntry w p)
  eachW (pDies (actPart w p)) (fun d => onTiles (fun t => { t with
    stratum := Mem.write t.stratum (farBase p d + areaBase w.cfg.active p) table })) w

/-- The start object posted to every context of a partition; each takes its token as its program starts (log 104). -/
def postStarts (p : Nat) (w : World) : World :=
  let n := (pCtxs (actPart w p)).length
  onSyncLedger p (fun l => { l with posted := l.posted + n, waited := l.waited + n }) w

/-- The slices of shared tiles as a step begins or ends in one of its contexts: the one that has its slice begins it afresh with its step,
and a context with no step in RUN yields (09 R248). -/
def settleSlices (p : Nat) (starts : Bool) (w : World) : World :=
  let r := actPart w p
  eachW (pTiles r) (fun t w =>
    let mine := sGet 0 w.tiles.slice t = pCtxOf r t
    yieldSlice t (if starts ∧ mine then onTiles (fun x => { x with sliceAt := sPut 0 x.sliceAt t (nowNs w) }) w else w)) w

/-- A context set to the start of its program. -/
def startCtx (p : Nat) (c : Ctx) : Ctx :=
  { c with part := some p, running := true, atEnd := false, stopped := false, pc := 0, wait := .none, stallSince := none, offCycles := 0,
           offSince := none, endAt := 0 }

/-- STEP_FORM: the members are chosen, their pages pinned, the contexts started. -/
def stepForm (p : Nat) (w : World) : World :=
  let q := part w p
  let r := actPart w p
  if !pInSet w.cfg.active p || decide (q.mode ≠ .idle) || q.switchTo.isSome || q.stoppedBy then w else
    let due := dueSeqs w p
    let late := due.filter (fun s => !fetched w s)
    let members := (duePrefixes w p ++ due.filter (fetched w)).take (pMaxBatch r)
    if members.isEmpty then w else
      let w := eachW late (fun s w => onPool p (fun x => { x with nLate := x.nLate + 1 }) (onSeq s (fun x => { x with prefetchLate := true }) w)) w
      let w := eachW members (fun m => if isPfx m then onPfx (pfxKey m p) (fun x => { x with running := true })
        else onSeq m (fun x => { x with mode := .running, prefetchLate := false })) w
      let w := writeMembers p members w
      let w := eachW members (fun m => onLists p m (fun ls => ls.map (fun l =>
        (l.1, { l.2 with pages := l.2.pages.map (fun g => { g with pinned := true }) })))) w
      let w := eachW (pTiles r) (fun t => patchCounts p t members) w
      let w := postStarts p (eachW (pCtxs r) (fun k => onCtx k (startCtx p)) w)
      let walk : Store (List (Nat × Nat × Nat)) := (pTiles r).foldl (fun s t => sPut [] s t (walkOf w p t members)) []
      settleSlices p true (onPart p (fun q => { q with
        mode := .stepping, step := q.step + 1, members := members, stepAt := nowNs w, ring := [], walk := walk, outgoing := none }) w)

/-- STEP_FORM. -/
def execStepForm (p : Fin 32) (s : State) : Host.Outcome State Fault Refusal := liveEffect (stepForm p) s

/-! ## Page rings (08 R219, R224) -/

/-- The descriptor of a page: a load of tier T1 or T2, a prefetched copy in tier T1, or a local copy of tier T0, whose command names the
frame (log 34). -/
def pageDesc (w : World) (p m n i : Nat) : BitVec 256 :=
  let md := memberDesc w m
  let g := nth {} (pageList w p m n).pages i
  let isV := n % 2 == 1
  let rows := if isV then mdHead md else 64
  let len := if isV then 64 else mdHead md
  let tier := if g.tier = 3 then 1 else g.tier
  let frame := if g.tier = 3 then (g.copy.map (·.2)).getD 0 else g.frame
  let far := if tier = 0 then 0 else frameAt w.cfg.active p frame % 2 ^ 40
  let f (hi lo v : Nat) (d : Nat) : Nat := setBits d hi lo v
  BitVec.ofNat 256 ([
    f 255 248 (if tier = 0 then 3 else 1), f 247 244 (mdKvFmt md), f 243 240 2, f 239 238 (if tier = 2 then 1 else 0),
    f 237 236 (if tier = 2 then g.die else 0), f 232 232 (b2n !isV), f 231 192 far,
    f 191 168 (if tier = 0 then 0 else farRow (mdKvFmt md) len), f 167 155 rows, f 154 141 len, f 140 127 (len / 16),
    f 126 113 (if isV then 0 else 64 * i), f 112 81 (if isV then 0 else (mdRopeBase md).toNat)].foldl (fun d g => g d) 0)

/-- The ring of a partition on a tile: slots, 8 to 64; FILL and FREE within the partition's range; first byte. -/
def ringSize (p tile : Nat) : Nat := 8 + Config.ringSlots p tile % 57
def ringFill (r : Bytes) (p tile : Nat) : Nat := pSyncBase r + (Config.ringObjects p tile).1 % max 1 (pSyncCount r)
def ringFree (r : Bytes) (p tile : Nat) : Nat := pSyncBase r + (Config.ringObjects p tile).2 % max 1 (pSyncCount r)
def ringByte (r : Bytes) (p tile slot : Nat) : Nat :=
  codeByte r + Config.ringPlace p tile % (pCodeLen r * 32 + 1 - 32 * min (ringSize p tile) (pCodeLen r)) + slot * 32

/-- PAGE_RING_REFILL: the next page of the walk is put in a slot that is empty or has been freed, and FILL is posted. -/
def ringRefill (p tile slot : Nat) (w : World) : World :=
  let q := part w p
  let r := actPart w p
  match sGet [] q.walk tile with
  | [] => w
  | (m, n, i) :: rest =>
    let key := tile * 64 + slot
    let used := (sFind q.ring key).isSome
    if q.mode ≠ .stepping ∨ ringSize p tile ≤ slot ∨ (used && syncCount w (ringFree r p tile) == 0) then w else
      let w := if used then takeSync (ringFree r p tile) w else w
      let d := pageDesc w p m n i
      let w := onPart p (fun q => { q with ring := sPut 0 q.ring key d, walk := sPut [] q.walk tile rest }) w
      postSync (ringFill r p tile) (padWrite tile (ringByte r p tile slot) (leBytes 32 d.toNat) w)

/-- PAGE_RING_REFILL. -/
def execPageRingRefill (p : Fin 32) (tile : Fin 128) (slot : Nat) (s : State) : Host.Outcome State Fault Refusal :=
  liveEffect (ringRefill p tile slot) s

/-! ## Outputs (08 R232) -/

/-- Output entry `i` of a map. -/
def outEntry (set : Store Bytes) (map i : Nat) : Bytes := slice (objIn set 0x3811 0 map) (16 * i) 16

/-- act of an output entry: identity or logistic. -/
def outAct (logistic : Bool) (y : W32) : W32 :=
  if logistic then (recip32 (hAdd 0x3F800000 (exp32 (hNeg y)).1)).1 else y

/-- The deltas that a sequence's outputs make under the record and map of a set, and NAN_OUT. -/
def applyOutputs (set : Store Bytes) (s : Nat) (ys : List W32) (w : World) : World :=
  let r := sqRecIn set s
  let bad := ys.filter (fun y => !isFin32 y)
  let w := onSeq s (fun x => { x with outHeld := some ys, nanOut := !bad.isEmpty, nNan := x.nNan + bad.length }) w
  eachW (upTo ((objIn set 0x3811 0 (sqOutMap r)).length / 16)) (fun i w =>
    let e := outEntry set (sqOutMap r) i
    let y := nth 0 ys (fieldLe e 127 122)
    if fieldLe e 127 122 < ys.length && isFin32 y then
      let inst := fieldLe e 97 89
      enterDelta (fieldLe e 121 110) (fieldLe e 109 98) (if inst = 0x1FF then inst else inst + sqInstOff r) 1
        (hAdd (field32 e 0) (hMul (field32 e 32) (outAct (fieldLe e 88 88 == 1) y))) 2 (nowNs w) w
    else w) w

/-! ## The end of a step (09 Table 9.3; 08 R211, R217, R220) -/

/-- The set under which the step of a partition runs to its end (09 R255). -/
def stepSet (w : World) (p : Nat) : Store Bytes := (part w p).outgoing.getD w.cfg.active

/-- The segment boundaries of a tensor at which the mapping holds accumulators in G32 (03 R77). -/
def stepCuts (w : World) (p m code : Nat) : List Nat := sGet [] w.cfg.mapping.crossings ((p * 256 + m) * 1024 + code)

/-- What the model computes for a member: its sums in the order of the mapping, or outside normal service within the bounds of 03 R85. -/
def memberResult (p m : Nat) (w : World) : StepOut :=
  let md := memberDesc w m
  let token := if isPfx m then
      (upTo (mdFeat md)).map (fun i => BitVec.ofNat 32 (leAt (actObj w 0x3819 0 (m - 16384)) (4 * (posOf w p m * mdFeat md + i)) 4))
    else (seq w m).token.getD []
  let ls := listsOf w p m
  let cache (k : Nat) : KvCache :=
    let a := sGet {} ls (2 * k)
    let b := sGet {} ls (2 * k + 1)
    { kPages := a.pages.map (·.bytes), vPages := b.pages.map (·.bytes), k := a.staged, v := b.staged }
  let cuts := stepCuts w p (memberModel w m)
  modelStep (if w.dev.bounded then boundedSums w cuts else orderedSums cuts) md (actObj w 0x3101 0 (memberModel w m)) (posOf w p m) cache token

/-- The attention tiles of a member whose heads met NaN scores: NAN_IN is set in their commands (08 R212). -/
def nanTiles (w : World) (p m : Nat) (nan : List Nat) : List Nat :=
  let md := memberDesc w m
  nan.map (fun h => attTile w p m (h % max 1 (mdHkv md)) (headDie w p md (h % max 1 (mdHkv md))))

/-- The number of free values that the sums of a step are told apart by. -/
def stepDraws : Nat := 2 ^ 40

/-- A member's k and v rows appended to its staging. -/
def appendRows (p m : Nat) (rows : List (List (BitVec 16) × List (BitVec 16))) (w : World) : World :=
  eachW (upTo rows.length) (fun k w =>
    let (kr, vr) := nth ([], []) rows k
    onList p m (2 * k + 1) (fun l => { l with staged := l.staged ++ [vr] })
      (onList p m (2 * k) (fun l => { l with staged := l.staged ++ [kr] }) w)) w

/-- Pins released and prefetched copies discarded. -/
def unpin (p m : Nat) (w : World) : World :=
  onLists p m (fun ls => ls.map (fun l =>
    (l.1, { l.2 with pages := l.2.pages.map (fun g =>
      if g.fetching then { g with pinned := false } else { g with pinned := false, prefetched := false, copy := none }) }))) w

/-- A prefix set that has run to its end: its sequences attach and may become DUE (08 R220). -/
def prefixDone (p m : Nat) (w : World) : World :=
  let x := m - 16384
  if (pfx w (pfxKey m p)).p < pxLength w.cfg.active x then w else
    let w := onPfx (pfxKey m p) (fun y => { y with complete := true }) w
    eachW ((seqsIn w p).filter (fun s => sqPrefix (sqRec w s) = x && decide ((seq w s).mode = .idle))) (fun s w => becomeDue s (attach s w)) w

/-- A prefix run at END: its rows appended and its position advanced. -/
def endPrefix (p m : Nat) (rows : List (List (BitVec 16) × List (BitVec 16))) (w : World) : World :=
  let w := onPfx (pfxKey m p) (fun x => { x with p := x.p + 1, running := false }) (appendRows p m rows w)
  prefixDone p m (judgePrefix p m (flushAll p m w))

/-- A sequence at END: rows appended, the token consumed, the outputs applied. -/
def endSeq (p s : Nat) (set : Store Bytes) (out : StepOut) (w : World) : World :=
  if (seq w s).noOutput then
    restartSeq s (onSeq s (fun x => { x with token := none, noOutput := false, mode := .idle }) w)
  else
    let w := applyOutputs set s out.y (appendRows p s out.rows w)
    let w := onSeq s (fun x => { x with token := none, p := x.p + 1, mode := .idle, lostContext := false }) w
    judgeStall p s (contextEnd s (flushAll p s w))

/-- One member at END, under the set in which its step was formed. What a SWAP has taken out of the step is no member of it any more (09
R255). -/
def endMember (p m : Nat) (w : World) : World :=
  let runs := if isPfx m then (pfx w (pfxKey m p)).running else decide ((seq w m).mode = .running)
  if !runs then w else
    let set := stepSet w p
    let under := onCfg (fun c => { c with active := set }) w
    let out := memberResult p m under
    let w := eachW (nanTiles under p m out.nan) (fun t => onTiles (enterFlags t fNanIn)) w
    let w := unpin p m { w with free := w.free + (if w.dev.bounded then stepDraws else 0) }
    if isPfx m then endPrefix p m out.rows w else endSeq p m set out w

/-- The cycles of the step that runs, from the post of the start object: floor(0.7 × LC0 ns) (09 R245, R251). -/
def stepCycles (w : World) (p : Nat) : Nat := cyclesOfNs (nowNs w - (part w p).stepAt)

/-- The context that reached STEP_END last, the later in order on a tie. -/
def lastCtx (w : World) (p : Nat) : Ctx :=
  (pCtxs (actPart w p)).foldl (fun x k => if x.endAt ≤ (ctxAt w k).endAt then ctxAt w k else x) {}

/-- The step's measurements (09 R251): OBS from the clock; of the context that reached STEP_END last, INTERF_SLICE from its slices, and
INTERF_FAR, the part of the rest for which its far channel or a Seam transfer waited, the hardware's own (log 105). -/
def stepPerf (p : Nat) (w : World) : World :=
  let obs := stepCycles w p
  let (a, w) := draw 32 w
  let slice := min obs (lastCtx w p).offCycles
  let far := a.toNat % (obs - slice + 1)
  let iso := obs - far - slice
  let slow := if iso = 0 then 0xFFFF else min 0xFFFF (obs * 256 / iso)
  onPart p (fun q => { q with
    perfN := q.perfN + 1, slowSum := q.slowSum + slow, slowMax := max q.slowMax slow, obsMax := max q.obsMax obs,
    interfFar := q.interfFar + far, interfSlice := q.interfSlice + slice }) w

/-- Bytes that the all-gathers of a step carry (08 R234). -/
def gatherBytes (w : World) (p : Nat) (members : List Nat) : Nat :=
  let d := pSpread (actPart w p)
  let md := actObj w 0x3100 0 (residentModel w p)
  d * (d - 1) * (members.length * (mdHq md / d) * mdHead md * 2 * mdLayers md)

/-- STEP_OVERRUN: the step has run for STEP_LIMIT cycles. -/
def stepOverrun (p : Nat) (w : World) : World :=
  if (part w p).mode = .stepping ∧ pStepLimit (actPart w p) ≤ stepCycles w p then
    beginTeardown p 2 0 (onPart p (fun q => { q with nOverruns := q.nOverruns + 1 }) w)
  else w

/-- STEP_OVERRUN. -/
def execStepOverrun (p : Fin 32) (s : State) : Host.Outcome State Fault Refusal := liveEffect (stepOverrun p) s

/-- STEP_END_PHASE: every context has reached STEP_END. A step whose END has not completed within STEP_LIMIT is torn down (09 R245). -/
def stepEndPhase (p : Nat) (w : World) : World :=
  let q := part w p
  let r := actPart w p
  if q.mode ≠ .stepping ∨ !(pCtxs r).all (fun k => (ctxAt w k).atEnd) then w
  else if pStepLimit r ≤ stepCycles w p then stepOverrun p w
  else
    let tokens := (q.members.filter (fun m => !isPfx m && decide ((seq w m).mode = .running))).length
    let w := stepPerf p (eachW q.members (endMember p) w)
    let w := preemptEnded p q.members (retryFlushes p w)
    let w := eachW (pCtxs r) (fun k => onCtx k (fun c => { c with running := false, atEnd := false })) w
    let w := onServing (fun v => { v with allgather := sUpd 0 v.allgather p (· + gatherBytes w p q.members) }) w
    let w := onPart p (fun q => { q with
      nSteps := q.nSteps + 1, nTokens := q.nTokens + tokens, sinceStep := 0,
      members := [], walk := [], ring := [], outgoing := none, started := q.started && !q.stopping, stopping := false }) w
    let w := settleSlices p false (onPart p (fun q => { q with mode := restMode w p }) w)
    eachW ((seqsIn w p).filter (fun s => decide ((seq w s).mode = .due))) startPrefetch w

/-- STEP_END_PHASE. -/
def execStepEndPhase (p : Fin 32) (s : State) : Host.Outcome State Fault Refusal := liveEffect (stepEndPhase p) s

/-! ## Teardown (09 R252 to R254) -/

/-- A context with nothing in flight. -/
def idleCtx (c : Ctx) : Ctx :=
  { c with running := false, atEnd := false, stopped := false, wait := .none, sb := [], parked := [], stallSince := none, overrun := 0,
           offSince := none }

/-- The completed commands of a context whose status nobody will read: their flags enter ARITH_STICKY and ARITH_COUNT, and accepted
transfers are over for the windows they use (03 R71, 04 R108). -/
def settleCtx (key : Nat) (w : World) : World :=
  eachW ((ctxAt w key).sb.filter (·.done)) (fun e w => onTiles (enterFlags (key / 2) e.flags) (transferDone (key / 2) e w)) w

/-- The serving context of a partition emptied: commands, windows and synchronisation objects (09 Table 9.5). -/
def clearServing (r : Bytes) (w : World) : World :=
  let w := eachW (pCtxs r) (fun k w => onCtx k idleCtx (settleCtx k w)) w
  let wins := (pTiles r).flatMap (fun t => ((upTo 8).filter (bit (pWinSlots r))).map (fun s => winKey t s))
  let w := onTiles (fun t => { t with windows := t.windows.filter (fun e => !wins.contains e.1) }) w
  eachW (heldObjects w (pSyncBase r) (pSyncCount r)) (emptySync false) w

/-- The step rolled back: members keep their tokens and become DUE (09 R253). -/
def rollBack (p : Nat) (w : World) : World :=
  let w := eachW (part w p).members (fun m w =>
    let w := unpin p m w
    if isPfx m then onPfx (pfxKey m p) (fun x => { x with running := false }) w
    else if (seq w m).noOutput then restartSeq m (onSeq m (fun x => { x with noOutput := false, mode := .idle }) w)
    else if (seq w m).mode = .running then becomeDue m (onSeq m (fun x => { x with mode := .idle }) w) else w) w
  preemptEnded p (part w p).members (onPart p (fun q => { q with members := [], walk := [], ring := [], outgoing := none }) w)

/-- The entry of MODEL_SET that the resident model is; past the last one where it is none of them. -/
def residentEntry (w : World) (p : Nat) : Nat := ((pModels (actPart w p)).idxOf? (part w p).model).getD 8

/-- TEARDOWN_COMPLETE: shares scrubbed, the step rolled back, the partition IDLE, HALTED, or loading after a SWAP. A weight region whose
error was the cause is rewritten from a library copy (12 Table 12.1). -/
def teardownComplete (p : Nat) (w : World) : World :=
  let q := part w p
  if q.mode ≠ .teardown then w else
    let w := rollBack p (loadCode p (residentEntry w p) (scrubShares p (clearServing (actPart w p) w)))
    let w := if q.cause = 4 then loadWeights p q.model w else w
    let n := if q.cause = 3 then q.sinceStep else q.sinceStep + 1
    let halt := decide (q.cause ≠ 3) && decide (pFaultLimit (actPart w p) ≤ n)
    let w := onPart p (fun q => { q with
      nTeardowns := q.nTeardowns + 1, sinceStep := n, nHalts := q.nHalts + b2n halt, gone := false
      started := q.started && !q.stopping, stopping := false }) w
    let w := onPart p (fun x => { x with
      mode := if halt then .halted else if q.gone then .loading else restMode w p
      switchTo := if q.gone then some (activationEntry w p) else x.switchTo }) w
    let w := settleSlices p false w
    let src := nth 4 (pDies (actPart w p)) 0
    let w := record 0x31 src 0x3002 p w
    if halt then record 0x32 src 0x3002 p w else w

/-- TEARDOWN_COMPLETE. -/
def execTeardownComplete (p : Fin 32) (s : State) : Host.Outcome State Fault Refusal := liveEffect (teardownComplete p) s

/-! ## Model switches (09 R240, R241) -/

/-- MODEL_SWITCH_START: a switch is due and no step runs. -/
def switchStart (p : Nat) (w : World) : World :=
  let q := part w p
  let ready := match q.mode with | .idle | .reservedIdle => true | _ => false
  if ready && q.switchTo.isSome && !q.stoppedBy then
    onPart p (fun q => { q with mode := .loading, nSwitches := q.nSwitches + 1 }) w
  else w

/-- MODEL_SWITCH_START. -/
def execModelSwitchStart (p : Fin 32) (s : State) : Host.Outcome State Fault Refusal := liveEffect (switchStart p) s

/-- MODEL_SWITCH_COMPLETE: weight and code regions rewritten, the rest of each share zero, the new model resident. -/
def switchComplete (p : Nat) (w : World) : World :=
  let q := part w p
  if q.mode ≠ .loading then w else
    let e := q.switchTo.getD (residentEntry w p)
    let m := pModel (actPart w p) e
    let w := onPart p (fun q => { q with model := m, switchTo := none }) (loadWeights p m (loadCode p e (scrubShares p w)))
    onPart p (fun q => { q with mode := restMode w p }) w

/-- MODEL_SWITCH_COMPLETE. -/
def execModelSwitchComplete (p : Fin 32) (s : State) : Host.Outcome State Fault Refusal := liveEffect (switchComplete p) s

/-! ## PART_CTRL (09 R249, R254, Table 9.8) -/

/-- A code that the partition's present state does not allow. -/
def partCtrlBad (w : World) (p v : Nat) : Bool :=
  match v with
  | 0 | 1 => pMode (actPart w p) != 2
  | _ => decide ((part w p).mode ≠ .halted)

/-- PART_CTRL taking effect at a boundary. -/
def partCtrl (p v : Nat) (w : World) : World :=
  let q := part w p
  match v with
  | 0 =>
    if q.mode = .stepping ∨ q.mode = .teardown then onPart p (fun q => { q with stopping := true }) w
    else onPart p (fun q => { q with started := false, stopping := false, mode := if q.mode = .idle then .reservedIdle else q.mode }) w
  | 1 => onPart p (fun q => { q with started := true, stopping := false, mode := if q.mode = .reservedIdle then .idle else q.mode }) w
  | _ => if q.mode = .halted then onPart p (fun q => { q with mode := restMode w p }) w else w

/-! ## A SWAP (09 R238, R239, R255; 08 R211, R220) -/

/-- A model's descriptor and weights are the same in both sets. -/
def sameModel (a b : Store Bytes) (m : Nat) : Bool :=
  withoutRo 0x3100 0 m (objIn a 0x3100 0 m) == withoutRo 0x3100 0 m (objIn b 0x3100 0 m) && objIn a 0x3101 0 m == objIn b 0x3101 0 m

/-- The program of a model in a partition. -/
def modelProgram (set : Store Bytes) (p m : Nat) : Bytes := programIn set p (((pModels (partRec set p)).idxOf? m).getD 8)

/-- The record without MODEL_SET, N_MODELS and the regime fields. -/
def pShape (r : Bytes) : Nat × Nat := (fieldLe r 575 476, fieldLe r 378 0)

/-- How a partition of both sets is treated, by its record, programs and weights: 0 unchanged, 1 re-listed, 2 changed (09 R255). -/
def swapKind (old new : Store Bytes) (p : Nat) : Nat :=
  let a := partRec old p
  let b := partRec new p
  let shared := (pModels a).filter (fun m => (pModels b).contains m)
  let same := shared.all (fun m => objIn old 0x3101 0 m == objIn new 0x3101 0 m && modelProgram old p m == modelProgram new p m)
  if a = b && same then 0 else if pShape a = pShape b && same then 1 else 2

/-- A step that runs goes on to its end under the outgoing set (09 R255). -/
def keepSet (old : Store Bytes) (p : Nat) (w : World) : World :=
  onPart p (fun q => if q.mode = .stepping ∧ q.outgoing.isNone then { q with outgoing := some old } else q) w

/-- One partition at a SWAP; the incoming set stands in the active one. A changed partition gives up its old shares at the boundary;
one that goes is torn down there and then. One that stands still with a lost die is not torn down (09 R254, R255). -/
def swapPart (old : Store Bytes) (p : Nat) (w : World) : World :=
  let new := w.cfg.active
  let had := pInSet old p
  let has := pInSet new p
  let a := partRec old p
  let kind := if had && has then swapKind old new p else 2
  if kind = 0 then keepSet old p (onPart p (fun q => { q with stoppedBy := false }) w)
  else if kind = 1 then
    let goal := activationEntry w p
    keepSet old p (onPart p (fun q => { q with
      mode := if q.mode = .halted then restMode w p else q.mode
      regime := [], stoppedBy := false
      switchTo := if pModel (partRec new p) goal = q.model then none else some goal }) w)
  else
    let busy := had && !(part w p).stoppedBy && decide ((part w p).mode ≠ .off)
    let w := if had then
        let w := rollBack p (clearServing a w)
        let w := if busy then scrubWords a (pShareLen a) w else w
        eachW (pCtxs a) (fun k => onCtx k (fun c => { c with part := if c.part = some p then none else c.part })) w
      else w
    if !has then
      let w := if busy then
          record 0x31 (nth 4 (pDies a) 0) 0x3002 p (onPart p (fun q => { q with nTeardowns := q.nTeardowns + 1, cause := 3, reason := 0 }) w)
        else w
      onPart p (fun q => { q with mode := .off, switchTo := none, regime := [], started := false, stopping := false, stoppedBy := false }) w
    else
      let w := eachW (pCtxs (partRec new p)) (fun k => onCtx k (fun _ => { part := some p })) w
      let w := onPart p (fun q => { q with
        regime := [], started := false, stopping := false, stoppedBy := false, sinceStep := if had then q.sinceStep else 0,
        mode := if busy then .teardown else .loading, gone := busy, cause := if busy then 3 else q.cause,
        reason := if busy then 0 else q.reason }) w
      onPart p (fun q => { q with switchTo := if busy then none else some (activationEntry w p) }) w

/-- A sequence keeps its cache through a SWAP: same model, partition, prefix and frames, those of tier T0 in the same words of the same
tiles. -/
def seqKept (oldMap newMap : Mapping) (old new : Store Bytes) (s : Nat) : Bool :=
  let a := sqRecIn old s
  let b := sqRecIn new s
  let p := seqPartIn oldMap old s
  hasObj old 0x3800 0 s && hasObj new 0x3800 0 s && !newMap.shed.contains (0x3800 * 2 ^ 32 + s) && !oldMap.shed.contains (0x3800 * 2 ^ 32 + s) &&
  sqModel a == sqModel b && p == seqPartIn newMap new s && sqPrefix a == sqPrefix b &&
  sameModel old new (sqModel a) && fieldLe (objIn old 0x3820 0 p) 239 0 == fieldLe (objIn new 0x3820 0 p) 239 0 &&
  fieldLe (partRec old p) 255 0 == fieldLe (partRec new p) 255 0 &&
  (kvT0 (objIn old 0x3820 0 p) == 0 || (fieldLe (partRec old p) 294 256 == fieldLe (partRec new p) 294 256 &&
    pAttTiles (partRec old p) == pAttTiles (partRec new p))) &&
  (sqPrefix a == 0x3FF || (objIn old 0x3818 0 (sqPrefix a) == objIn new 0x3818 0 (sqPrefix a) &&
    objIn old 0x3819 0 (sqPrefix a) == objIn new 0x3819 0 (sqPrefix a)))

/-- A sequence brought in, or gone: counters alone stay. -/
def freshSeq (x : Seq) : Seq :=
  { nTokens := x.nTokens, nStretched := x.nStretched, nLate := x.nLate, nStalls := x.nStalls, nPreempt := x.nPreempt,
    nRestarted := x.nRestarted, nNan := x.nNan, nReturns := x.nReturns }

/-- Partitions, prefix sets and sequences taken to the incoming set. Pages of what goes are released under the outgoing one. -/
def swapServing (old : Store Bytes) (oldMap : Mapping) (w : World) : World :=
  let new := w.cfg.active
  let map := w.cfg.mapping
  let gone := (seqsOf old).filter (fun s => !seqKept oldMap map old new s)
  let keptPfx (k : Nat) : Bool :=
    let x := k / 32
    let p := k % 32
    hasObj new 0x3818 0 x && objIn old 0x3818 0 x == objIn new 0x3818 0 x && objIn old 0x3819 0 x == objIn new 0x3819 0 x &&
    pInSet old p && pInSet new p && sameModel old new (pxModel old x) && fieldLe (partRec old p) 255 0 == fieldLe (partRec new p) 255 0
  let under (f : World → World) (w : World) : World :=
    let w := onCfg (fun c => { c with active := old, mapping := oldMap }) w
    onCfg (fun c => { c with active := new, mapping := map }) (f w)
  let w := under (fun w =>
    let w := eachW gone (fun s w => onSeq s freshSeq (dropPages (seqPart w s) s w)) w
    eachW ((w.serving.prefixes.map (·.1)).filter (fun k => !keptPfx k)) (fun k w =>
      onPfx k (fun _ => {}) (dropPages (k % 32) (16384 + k / 32) w)) w) w
  let w := eachW ((upTo 32).filter (fun p => pInSet old p || pInSet new p)) (swapPart old) w
  let w := eachW ((seqsOf new).filter (fun s => !seqKept oldMap map old new s && !map.shed.contains (0x3800 * 2 ^ 32 + s))) (fun s w =>
    let lists : Store PageList := (upTo (mdLists (seqModel w s))).map (fun n => (n, { reserve := true }))
    let home := seqHome map new s
    attach s (onSeq s (fun x => { freshSeq x with mode := .idle, p := pfxLen w s, lists := lists, home := home }) w)) w
  let w := eachW ((seqsOf new).filter (seqKept oldMap map old new)) (fun s w => onSeq s (fun x => { x with home := seqHome map new s }) w) w
  eachW ((upTo 32).filter (pInSet new)) refillReserves w

/-- SEQ_OUT of the steps that have ended becomes visible (08 R232). -/
def publishOutputs (w : World) : World :=
  onServing (fun v => { v with seqs := v.seqs.map (fun e =>
    (e.1, match e.2.outHeld with | some o => { e.2 with out := o, outHeld := none } | none => e.2)) }) w

end Sys2Proof.Machine
end

