-- ==== Sys2Proof/Machine/AdmitServe.lean ====
section
/-! DEFINITION. Admission of models, partitions and sequences: tiles and shares (09 R236, R237), tile programs (04 R89, R95),
models, maps and pools (08 R203, R206, R222, R232, 09 R239), steps and throughput (09 R258), Nimbus and Stratum shares (09 R259),
and the memories of a die. -/

namespace Sys2Proof.Machine

/-! ## What runs in a case -/

def partsOf (set : Store Bytes) : List Nat := (upTo 32).filter (pInSet set)
def progIn (set : Store Bytes) (p e : Nat) : Bytes := objIn set 0x3003 0 (p * 8 + e)

/-- A partition whose tiles and tier T2 frames stand on dies that carry work. -/
def partRuns (set : Store Bytes) (dies : List Nat) (p : Nat) : Bool :=
  (pDies (partRec set p)).all dies.contains && (kvT2 (poolIn set p) == 0 || dies.contains (kvT2Die (poolIn set p)))

/-- The partitions that a case carries, and the sequences of one of them. -/
def caseParts (set : Store Bytes) (c : Case) : List Nat :=
  if c.critical then [] else (partsOf set).filter (fun p => partRuns set c.dies p && !c.map.shed.contains (0x3000 * 2 ^ 32 + p))
def caseSeqs (set : Store Bytes) (c : Case) (p : Nat) : List Nat :=
  (seqsOf set).filter (fun s => seqPartIn c.map set s == p && !c.map.shed.contains (0x3800 * 2 ^ 32 + s))

/-- The prefix sets that a partition's sequences name. -/
def casePfx (set : Store Bytes) (c : Case) (p : Nat) : List Nat :=
  (((caseSeqs set c p).map (fun s => sqPrefix (sqRecIn set s))).filter (· ≠ 0x3FF)).dedup

/-! ## Tile programs (04 R89, R95) -/

/-- The scalar word at an index of one tile's code. -/
def scalarAt (code : Bytes) (i : Nat) : Nat := leNat (slice code (8 * i) 8)

/-- The words that may follow a scalar word. -/
def follows (code : Bytes) (i : Nat) : List Nat :=
  let w := scalarAt code i
  let imm := bits w 31 0
  let l := match bits w 63 56 with
    | 0x10 => [imm]
    | 0x11 | 0x12 | 0x13 => [i + 1, imm]
    | 0x3F => []
    | _ => [i + 1]
  l.filter (fun j => decide (8 * j + 8 ≤ code.length))

/-- The words that control can reach from word 0. -/
def reachFrom (code : Bytes) : Nat → List Nat → List Nat → List Nat
  | 0, _, seen => seen
  | _, [], seen => seen
  | n + 1, i :: todo, seen =>
    if seen.contains i then reachFrom code n todo seen else reachFrom code n (follows code i ++ todo) (i :: seen)
def reachable (code : Bytes) : List Nat := reachFrom code (code.length / 8 * 3 + 1) [0] []

/-- The commands a program can issue: those at the code words its reachable ISSUE words name. -/
def programCmds (code : Bytes) : List (BitVec 256) :=
  (((reachable code).filter (fun i => bits (scalarAt code i) 63 56 == 0x20)).map (fun i => bits (scalarAt code i) 31 0)).filterMap
    (fun j => if 8 * j + 32 ≤ code.length then some (BitVec.ofNat 256 (leNat (slice code (8 * j) 32))) else none)

/-- The code of the `i`-th tile of a partition in one of its images. -/
def tileCode (set : Store Bytes) (p e i : Nat) : Bytes :=
  let n := pCodeLen (partRec set p) * 32
  slice (progIn set p e) (n * i) n

/-- A tile that another partition of the set uses too. -/
def tileSharedIn (set : Store Bytes) (p t : Nat) : Bool :=
  (partsOf set).any (fun q => q ≠ p && pHasTile (partRec set q) t)

def programsOk (set : Store Bytes) (p : Nat) (ok : Nat → BitVec 256 → Bool) : Bool :=
  (upTo (pNModels (partRec set p))).all (fun e =>
    (upTo (pTiles (partRec set p)).length).all (fun i => (programCmds (tileCode set p e i)).all (ok (nth 0 (pTiles (partRec set p)) i))))

/-! ## Tiles, shares, slots, objects (09 R236, R237, R248) -/

def tilesPerDie (r : Bytes) (d : Nat) : Nat := ((pTiles r).filter (fun t => t / 32 = d)).length

/-- R236, and SLICE on shared tiles. -/
def spreadFails (set : Store Bytes) (p : Nat) : List Fail :=
  let r := partRec set p
  let n := (pTiles r).length / max 1 (pSpread r)
  failUnless ((pDies r).length == pSpread r && (pDies r).all (fun d => tilesPerDie r d == n)) 1 0x3000 p ++
  failUnless ((pModels r).all (fun m => decide (mdHkv (modelIn set m) % pSpread r = 0))) 0x10 0x3000 p ++
  failUnless (decide (pAttTiles r ≤ n)) 1 0x3000 p ++
  failUnless (decide (pSlice r ≠ 0) || !(pTiles r).any (tileSharedIn set p)) 2 0x3000 p ++
  failUnless (decide (pShareBase r + pShareLen r ≤ 10240) && decide (pCodeLen r < pShareLen r)) 2 0x3000 p ++
  failUnless (decide (pSyncBase r + pSyncCount r ≤ 32768)) 2 0x3000 p

/-- The objects that blocks other than partitions name: descriptors that post, events (05 R140, 02 Table 2.15). -/
def namedObjects (set : Store Bytes) : List Nat :=
  (tmplsOf set).flatMap (fun t => ((tChain set t).filter (fun d => bit d.toNat 238)).map (fun d => bits d.toNat 237 223)) ++
  (upTo 8).flatMap (fun k => ((upTo 64).map (eventEntry set k)).filterMap (fun e =>
    if bits e 35 32 = 4 ∧ bits e 57 56 ≠ 0 then some (bits e 55 36) else none))

/-- What two partitions may not have in common. -/
def pairOk (set : Store Bytes) (p q : Nat) : Bool :=
  let a := partRec set p
  let b := partRec set q
  let both := (pTiles a).filter (pHasTile b)
  both.all (fun t => pCtxOf a t != pCtxOf b t) &&
  (both.isEmpty || (!overlaps (pShareBase a, pShareLen a) (pShareBase b, pShareLen b) && pWinSlots a &&& pWinSlots b == 0)) &&
  !overlaps (pSyncBase a, pSyncCount a) (pSyncBase b, pSyncCount b)

def overlapFails (set : Store Bytes) (p : Nat) : List Fail :=
  let r := partRec set p
  failUnless (((partsOf set).filter (· ≠ p)).all (pairOk set p)) 2 0x3000 p ++
  failUnless ((upTo 128).all (fun t => decide (((partsOf set).filter (fun q => pHasTile (partRec set q) t)).length ≤ 2))) 2 0x3000 p ++
  failUnless ((namedObjects set).all (fun o => !(decide (pSyncBase r ≤ o) && decide (o < pSyncBase r + pSyncCount r)))) 2 0x3000 p ++
  failUnless (programsOk set p (fun t c => bankOk (tileSharedIn set p t) (pCtxOf r t) c)) 2 0x3003 (p * 8) ++
  failUnless (programsOk set p (fun _ c => cycleOk c)) 1 0x3003 (p * 8)

/-! ## Models (08 R203, R205, R206) -/

def modelOk (r : Bytes) : Bool :=
  let inside (v lo hi : Nat) : Bool := decide (lo ≤ v) && decide (v ≤ hi)
  inside (mdLayers r) 1 24 && inside (mdD r) 64 1024 && mdD r % 64 == 0 && inside (mdHq r) 1 64 && inside (mdHkv r) 1 16 &&
  mdHq r % mdHkv r == 0 && inside (mdDff r) 64 8192 && mdDff r % 64 == 0 && inside (mdMaxCtx r) 64 8192 && mdMaxCtx r % 64 == 0 &&
  inside (mdFeat r) 1 1024 && inside (mdOut r) 1 64

def modelFails (set : Store Bytes) (m : Nat) : List Fail :=
  let r := modelIn set m
  failUnless (modelOk r) 0x10 0x3100 m ++
  failUnless ((objIn set 0x3101 0 m).length == weightBytes r) 0x10 0x3101 m (weightBytes r) (objIn set 0x3101 0 m).length

/-! ## Model sets and pools (09 R239, 08 R222) -/

def modelSetFails (set : Store Bytes) (p : Nat) : List Fail :=
  let r := partRec set p
  let ms := pModels r
  let first := modelIn set (pModel r 0)
  failUnless (ms.all (fun m => hasObj set 0x3100 0 m && mdKvFmt (modelIn set m) == mdKvFmt first &&
    mdHead (modelIn set m) == mdHead first)) 0x10 0x3000 p ++
  failUnless ((upTo (pNModels r)).all (fun e => (progIn set p e).length == (pTiles r).length * pCodeLen r * 32)) 0x10 0x3003 (p * 8)

/-- Lists of a sequence of a model on each die of a spread: its heads are divided over the dies (08 R233). -/
def listsPerDie (set : Store Bytes) (p m : Nat) : Nat := mdLists (modelIn set m) / max 1 (pSpread (partRec set p))

/-- Tier T1 frames a die must have: every append reserve, every prefix page, PREFETCH_FRAMES (08 R222). -/
def framesNeeded (set : Store Bytes) (c : Case) (p : Nat) : Nat :=
  sumList ((caseSeqs set c p).map (fun s => listsPerDie set p (sqModel (sqRecIn set s)))) +
  sumList ((casePfx set c p).map (fun x => listsPerDie set p (pxModel set x) * (pxLength set x / 64))) + kvPrefetch (poolIn set p)

def poolFails (set : Store Bytes) (c : Case) (p : Nat) : List Fail :=
  let k := poolIn set p
  let sess := kvSession k
  let space := leNat (objIn set 0x1120 1 sess)
  let asked := sumList (((partsOf set).filter (fun q => kvSession (poolIn set q) = sess)).map (fun q => kvSwap (poolIn set q) * frameBytes set q))
  failOver 0x10 0x3820 p (framesNeeded set c p) (kvT1 k) ++
  failUnless ((kvSwap k == 0 && !kvPreempt k) || (decide (0 < space) && decide (asked ≤ space))) 0x10 0x3820 p asked space ++
  failUnless (!kvSpill k || decide (0 < kvT2 k + kvSwap k)) 0x10 0x3820 p ++
  failUnless (kvT2 k == 0 || !(pDies (partRec set p)).contains (kvT2Die k)) 0x10 0x3820 p ++
  failOver 9 0x3820 p (kvT0 k * frameBytes set p / 32 + pCodeLen (partRec set p)) (pShareLen (partRec set p))

/-! ## Sequences, maps, prefixes (08 R209, R220, R232) -/

/-- An entry of an output map suits a sequence that uses it (08 R232). -/
def outOk (set : Store Bytes) (s : Nat) (e : Bytes) : Bool :=
  let t := fieldLe e 121 110
  let slot := fieldLe e 109 98
  let i := fieldLe e 97 89
  let n := i + sqInstOff (sqRecIn set s)
  hasObj set 0x4100 0 t && decide (slot < tSlots (tRec set t)) && sKind (slotOf set t slot) == 2 && sOwner (slotOf set t slot) == 2 &&
  (i == 0x1FF || (decide (n ≤ 255) && decide (n < tBatch (tRec set t))))

def seqFails (set : Store Bytes) (s : Nat) : List Fail :=
  let r := sqRecIn set s
  let m := objIn set 0x3811 0 (sqOutMap r)
  let f := objIn set 0x3810 0 (sqMap r)
  let x := sqPrefix r
  failUnless (hasObj set 0x3100 0 (sqModel r) && pInSet set (sqPart r) && (pModels (partRec set (sqPart r))).contains (sqModel r))
    2 0x3800 s ++
  failUnless (f.length == 16 * mdFeat (modelIn set (sqModel r))) 0x10 0x3810 (sqMap r) ++
  failUnless ((upTo (m.length / 16)).all (fun i => outOk set s (slice m (16 * i) 16) &&
    decide (fieldLe (slice m (16 * i) 16) 127 122 < mdOut (modelIn set (sqModel r))))) 0x10 0x3811 (sqOutMap r) ++
  failUnless (x == 0x3FF || (hasObj set 0x3818 0 x && pxModel set x == sqModel r &&
    decide (pxLength set x < mdMaxCtx (modelIn set (sqModel r))))) 0x10 0x3818 x

/-- PREFIX_TOKENS holds a token for each position of its set. -/
def pfxFails (set : Store Bytes) (x : Nat) : List Fail :=
  failUnless (hasObj set 0x3100 0 (pxModel set x) &&
    (objIn set 0x3819 0 x).length == 4 * mdFeat (modelIn set (pxModel set x)) * pxLength set x) 0x10 0x3819 x

/-! ## Home dies (09 R246; derived placements: log 36) -/

/-- The die with the fewest homed, the lower on a tie. -/
def leastHomed (homed : List Nat) (ds : List Nat) : Nat :=
  ds.foldl (fun b d => if nth 0 homed d < nth 0 homed b then d else b) (nth 0 ds 0)

/-- Home dies so far, partitions where they differ from the records, sequences homed on each die, sequences without a partition. -/
structure Homes where
  homes : Store Nat := []
  parts : Store Nat := []
  homed : List Nat := [0, 0, 0, 0]
  left : List Nat := []
  deriving DecidableEq, Repr

/-- Sequences whose partition runs are taken first in ascending number; then those whose partition cannot, each to the running
partition with its model whose die holds the fewest. -/
def placeSeqs (set : Store Bytes) (runs seqs : List Nat) : Homes :=
  let home (s p d : Nat) (h : Homes) : Homes :=
    { h with
      homes := sInsert h.homes s d
      parts := if p = sqPart (sqRecIn set s) then h.parts else sInsert h.parts s p
      homed := updNth h.homed d (· + 1) }
  let own := seqs.filter (fun s => runs.contains (sqPart (sqRecIn set s)))
  let h := own.foldl (fun h s => home s (sqPart (sqRecIn set s)) (leastHomed h.homed (pDies (partRec set (sqPart (sqRecIn set s))))) h) {}
  (seqs.filter (fun s => !runs.contains (sqPart (sqRecIn set s)))).foldl (fun h s =>
    let ps := runs.filter (fun p => (pModels (partRec set p)).contains (sqModel (sqRecIn set s)))
    let best (p : Nat) : Nat := leastHomed h.homed (pDies (partRec set p))
    match ps with
    | [] => { h with left := h.left ++ [s] }
    | p0 :: rest =>
      let p := rest.foldl (fun a p => if nth 0 h.homed (best p) < nth 0 h.homed (best a) ∨
        (nth 0 h.homed (best p) = nth 0 h.homed (best a) ∧ best p < best a) then p else a) p0
      home s p (best p) h) h

/-! ## Stratum (12 Table 12.3; log 39) -/

/-- Bytes outside frames that a sequence takes: staging on each die of the spread; page table, builder and token slot on its home
die (08 Table 8.11). -/
def stagingBytes (set : Store Bytes) (p m rows : Nat) : Nat :=
  let r := modelIn set m
  ceilDiv (mdLayers r * mdHkv r * rows * mdHead r * 2 * 2) (pSpread (partRec set p))
def homeBytes (set : Store Bytes) (m : Nat) : Nat :=
  let r := modelIn set m
  mdLists r * (mdMaxCtx r / 64) * 8 + mdFeat r * 16 + mdFeat r * 4

/-- Frames in all tiers of a pool, and those that every sequence at MAX_CTX would need: its own pages, prefix pages once, append reserves
and PREFETCH_FRAMES (08 R222). -/
def poolFrames (set : Store Bytes) (p : Nat) : Nat :=
  let k := poolIn set p
  let r := partRec set p
  (kvT0 k * pAttTiles r + kvT1 k) * (pDies r).length + kvT2 k + kvSwap k
def fillFrames (set : Store Bytes) (c : Case) (p : Nat) : Nat :=
  sumList ((caseSeqs set c p).map (fun s =>
    let r := sqRecIn set s
    let md := modelIn set (sqModel r)
    let shared := if sqPrefix r = 0x3FF then 0 else pxLength set (sqPrefix r) / 64
    mdLists md * (mdMaxCtx md / 64 - shared + 1))) +
  sumList ((casePfx set c p).map (fun x => mdLists (modelIn set (pxModel set x)) * (pxLength set x / 64))) +
  kvPrefetch (poolIn set p) * (pDies (partRec set p)).length

/-- Entries of the report that are no failures: a pool too small for every sequence at MAX_CTX, with the frames such a fill would need
(08 R222; log 106). -/
def fillNotes (set : Store Bytes) (c : Case) : List Fail :=
  (caseParts set c).flatMap (fun p => failOver 0x10 0x3820 p (fillFrames set c p) (poolFrames set p))

/-- Stratum pages of a partition on a die. -/
def partPages (set : Store Bytes) (c : Case) (d p : Nat) : Nat :=
  let r := partRec set p
  let k := poolIn set p
  let seqs := caseSeqs set c p
  let fb := frameBytes set p
  (if (pDies r).contains d then
    pagesOf (regionBytes set p) + pagesOf (kvT1 k * fb) +
    pagesOf (sumList (seqs.map (fun s => stagingBytes set p (sqModel (sqRecIn set s)) 128)) +
      sumList ((casePfx set c p).map (fun x => stagingBytes set p (pxModel set x) 64))) +
    pagesOf (sumList ((seqs.filter (fun s => seqHome c.map set s = d)).map (fun s => homeBytes set (sqModel (sqRecIn set s))))) +
    pagesOf (Config.areaBytes r (modelIn set (pModel r 0)))
  else 0) +
  (if kvT2 k ≠ 0 ∧ kvT2Die k = d then pagesOf (kvT2 k * fb) else 0)

/-- Replica bytes of a template (12 Table 12.6): both buffers' regions, pending banks, RELEASE_STATUS, FRESH_EPOCH and STALE. -/
def tmplReplica (set : Store Bytes) (t : Nat) : Nat :=
  let r := tRec set t
  sumList (((upTo (1 + tBuffers r)).flatMap (fun b => (bufferChain set t b).flatMap (fun d => [region d false, region d true]))).map
    (fun s => s.2 * 32)) + Config.bankBytes (tSlots r) (tBatch r) + 32 + 8 + 1

/-- V (12 R329): replica bytes of the critical work of a die. -/
def replicaBytes (set : Store Bytes) (c : Case) (d : Nat) : Nat :=
  let ls := (caseLoops set c).filter (fun l => lpCritical (loopRecIn set l) && placedLoop c.map l / 4 == d)
  let ts := (caseTmpls set c).filter (fun t => tCritical (tRec set t) && placedTmpl c.map set t / 8 == d)
  ls.length * 112 + ((ls.filterMap (genOf set)).dedup).length * 48 + sumList (ts.map (tmplReplica set))

/-- Stratum pages of a die but for the library: the staging of bundles (13 R354), partitions, capture rings, replica slots. -/
def basePages (set : Store Bytes) (c : Case) (d : Nat) : Nat :=
  16 + sumList ((caseParts set c).map (partPages set c d)) +
  (if c.critical then 0 else
    sumList (((instancesOf set 0x5040 0).filter (fun x => sFind c.map.caps x |>.any (fun e => e / 4 == d))).map
      (fun x => pagesOf (cpEntries (capRecIn set x) * 16)))) +
  sumList ((c.dies.filter (fun e => e ≠ d && nextAlive c.dies e == d)).map (fun e => 2 * pagesOf (replicaBytes set c e)))

/-- The library: pages used by die, dies by model as a mask (09 R246). -/
def placeLibrary (set : Store Bytes) (c : Case) : List Nat × Store Nat :=
  let put (m d : Nat) (x : List Nat × Store Nat) : List Nat × Store Nat :=
    (updNth x.1 d (· + pagesOf (weightBytes (modelIn set m))), sUpd 0 x.2 m (· ||| 2 ^ d))
  let has (x : List Nat × Store Nat) (m d : Nat) : Bool := bit (sGet 0 x.2 m) d
  let base := (upTo 4).map (fun d => if c.dies.contains d then basePages set c d else 0)
  let wants := (upTo 256).flatMap (fun m => (c.dies.filter (fun d => (caseParts set c).any (fun p =>
    (pDies (partRec set p)).contains d && (pModels (partRec set p)).contains m))).map (fun d => (m, d)))
  wants.foldl (fun x md =>
    let fits := nth 0 x.1 md.2 + pagesOf (weightBytes (modelIn set md.1)) ≤ 65536
    let d := if fits then md.2 else nextAlive c.dies md.2
    if has x md.1 md.2 || has x md.1 d then x else put md.1 d x) (base, [])

/-- LIB_MASK of a model. -/
def libMask (set : Store Bytes) (c : Case) (m : Nat) : Nat := sGet 0 (placeLibrary set c).2 m

def stratumFails (set : Store Bytes) (c : Case) : List Fail :=
  let used := (placeLibrary set c).1
  c.dies.flatMap (fun d => failOver 0x0C 0x8130 d (nth 0 used d * 65536) (65536 * 65536))

/-- The replicas of a die reach their partner within half of T_min of the epoch tracker (12 R329). -/
def replicaFails (set : Store Bytes) (c : Case) : List Fail :=
  let tmin := figureCycles (atOmegaMax (atRecIn set (epochOf set))) (2 ^ 32 / atN (atRecIn set (epochOf set)))
  c.dies.flatMap (fun d =>
    let v := replicaBytes set c d
    if v = 0 then [] else failOver 0x0C 0x8000 d (400 + ceilDiv v 512) (tmin / 2))

/-! ## Nimbus memory (06 Figure 6.1, 10 R285) -/

def nimbusFails (set : Store Bytes) (c : Case) : List Fail :=
  c.dies.flatMap (fun d =>
    let ts := (caseTmpls set c).filter (fun t => placedTmpl c.map set t / 8 = d)
    let ls := (caseLoops set c).filter (fun l => placedLoop c.map l / 4 = d)
    let fs := (caseParts set c).flatMap (fun p => (caseSeqs set c p).filter (fun s => seqHome c.map set s = d))
    let streams := ((ls.map (fun l => lpStream (loopRecIn set l))) ++ fs.flatMap (fun s =>
      (upTo (mdFeat (modelIn set (sqModel (sqRecIn set s))))).map (fun i =>
        sqBase (sqRecIn set s) + fieldLe (slice (objIn set 0x3810 0 (sqMap (sqRecIn set s))) (16 * i) 16) 63 46))).length
    failOver 0x0B 0x8000 d (sumList (ts.map (fun t => 24 * tSlots (tRec set t) + 16 * tRoutes (tRec set t) +
      Config.bankBytes (tSlots (tRec set t)) (tBatch (tRec set t)))) + streams * Config.deliveryBytes) 1048576)

/-! ## Routes (01 R14) and all-gathers (08 R234) -/

/-- The hops of a route between two dies: clockwise unless the intermediate die is lost. -/
def routeOf2 (dies : List Nat) (a b : Nat) : Option (List (Nat × Nat)) :=
  if a = b then some []
  else if nextDie a = b ∨ nextDie b = a then some [(a, b)]
  else if dies.contains (nextDie a) then some [(a, nextDie a), (nextDie a, b)]
  else if dies.contains (nextDie b) then some [(a, nextDie b), (nextDie b, b)]
  else none

/-- The pairs of dies between which a partition moves data. -/
def partPairs (set : Store Bytes) (p : Nat) : List (Nat × Nat) :=
  let ds := pDies (partRec set p)
  ds.flatMap (fun a => (ds.filter (· ≠ a)).map (fun b => (a, b))) ++
  (if kvT2 (poolIn set p) = 0 then [] else ds.flatMap (fun a => [(a, kvT2Die (poolIn set p)), (kvT2Die (poolIn set p), a)]))

def routingFails (set : Store Bytes) (c : Case) : List Fail :=
  (caseParts set c).flatMap (fun p =>
    failUnless ((partPairs set p).all (fun x => (routeOf2 c.dies x.1 x.2).isSome)) 0x11 0x3000 p)

/-- E: the most bytes that one direction of a ring Seam carries when every die of the spread sends its share to each other. -/
def gatherE (set : Store Bytes) (dies : List Nat) (p m batch : Nat) : Nat :=
  let r := modelIn set m
  let ds := pDies (partRec set p)
  let share := batch * (mdHq r / max 1 ds.length) * mdHead r * 2
  let hops := ds.flatMap (fun a => ds.flatMap (fun b => (routeOf2 dies a b).getD []))
  share * maxList (hops.map (fun h => hops.count h))

/-- The all-gathers of a step of a model. -/
def gatherCycles (set : Store Bytes) (dies : List Nat) (p m batch : Nat) : Nat :=
  if (pDies (partRec set p)).length ≤ 1 then 0
  else mdLayers (modelIn set m) * (700 + ceilDiv (gatherE set dies p m batch) 731)

/-! ## Steps and throughput (09 R248, R258) -/

/-- Entries of the longest output map that a sequence of the partition uses. -/
def outEntries (set : Store Bytes) (c : Case) (p : Nat) : Nat :=
  maxList ((caseSeqs set c p).map (fun s => (objIn set 0x3811 0 (sqOutMap (sqRecIn set s))).length / 16))

def formBound (set : Store Bytes) (p : Nat) : Nat := 400 + 16 * pMaxBatch (partRec set p)
def endBound (set : Store Bytes) (c : Case) (p : Nat) : Nat := 200 + pMaxBatch (partRec set p) * (32 + 8 * outEntries set c p)

/-- The most (member, layer, KV head) triples that a step of a model gives one tile: those of the die's heads that fall on one of its
attention tiles (09 R246); none on another tile. -/
def headLoads (set : Store Bytes) (p m tile : Nat) : Nat :=
  let r := partRec set p
  let md := modelIn set m
  let mine := ((pTiles r).filter (fun t => t / 32 = tile / 32)).take (pAttTiles r)
  if mine.contains tile then pMaxBatch r * mdLayers md * ceilDiv (mdHkv md / max 1 (pSpread r)) (pAttTiles r) else 0

/-- Page descriptors of a step for one tile, every member at p = MAX_CTX − 1 (08 R214, R219). -/
def stepPages (set : Store Bytes) (p m tile : Nat) : Nat := headLoads set p m tile * (2 * (mdMaxCtx (modelIn set m) / 64))

/-- Far-channel cycles of those loads and of the staged rows, at share b = B_SHARE; pages in the slowest tier that the pool allows for
reading (04 R106, 09 R258). -/
def loadCycles (set : Store Bytes) (p m tile : Nat) : Nat :=
  let b := max 1 (pShare (partRec set p))
  let page := (if kvT2 (poolIn set p) = 0 then 200 else 400) + ceilDiv (pageBytes (modelIn set m)) b
  stepPages set p m tile * page + headLoads set p m tile * (2 * (200 + ceilDiv (256 * mdHead (modelIn set m)) b))

/-- P of a context, for the program of one of the partition's models: the tile's own bound or that of the walk, whichever is larger (08
R219), and the all-gathers (08 R234). -/
def contextBound (set : Store Bytes) (dies : List Nat) (p e tile : Nat) : Nat :=
  let m := pModel (partRec set p) e
  let walk := if stepPages set p m tile = 0 then 0 else 400 + 32 * stepPages set p m tile
  max (Config.programBound (partRec set p) (poolIn set p) (modelIn set m) (progIn set p e) tile + loadCycles set p m tile) walk +
    gatherCycles set dies p m (pMaxBatch (partRec set p))

/-- R248: the bound on a tile shared with another partition. -/
def slicedBound (set : Store Bytes) (p tile n : Nat) : Nat :=
  match (partsOf set).find? (fun q => q ≠ p && pHasTile (partRec set q) tile) with
  | none => n
  | some q => n + ceilDiv n (pSlice (partRec set p) - 4096) * (pSlice (partRec set q) + 4096)

def wcetStep (set : Store Bytes) (c : Case) (p : Nat) : Nat :=
  let r := partRec set p
  formBound set p + maxList ((upTo (pNModels r)).flatMap (fun e => (pTiles r).map (fun t =>
    slicedBound set p t (contextBound set c.dies p e t)))) + endBound set c p

/-- ω_max of a tracker as a rational. -/
def omegaMaxQ (set : Store Bytes) (k : Nat) : ℚ := (rateNum (atOmegaMax (atRecIn set k)) : ℚ) / (2 ^ 200 : ℕ)

/-- Tokens per second of a model's sequences at their trackers' ω_max. -/
def demand (set : Store Bytes) (c : Case) (p m : Nat) : ℚ :=
  sumQ (((caseSeqs set c p).filter (fun s => sqModel (sqRecIn set s) = m)).map (fun s =>
    let r := sqRecIn set s
    omegaMaxQ set (sqTracker r) * (atN (atRecIn set (sqTracker r)) : ℚ) / (2 ^ sqDiv r : ℕ)))

/-- r_sw, and SW from the slowest copy. -/
def switchRate (set : Store Bytes) (p : Nat) : ℚ :=
  if pRegimeEn (partRec set p) then omegaMaxQ set (epochOf set) * (atN (atRecIn set (epochOf set)) : ℚ) / 4 else 0
def switchBound (set : Store Bytes) (c : Case) (p : Nat) : Nat :=
  let far := (pDies (partRec set p)).any (fun d => (pModels (partRec set p)).any (fun m => !bit (libMask set c m) d))
  (if far then 6000 else 4000) + ceilDiv (regionBytes set p) 384

/-- Steps a second: of the model that asks for most, since a partition holds one at a time (log 42). -/
def stepRate (set : Store Bytes) (c : Case) (p : Nat) : ℚ :=
  ((pModels (partRec set p)).map (fun m => demand set c p m / (pMaxBatch (partRec set p) : ℚ))).foldl max 0

def stepFails (set : Store Bytes) (c : Case) (p : Nat) : List Fail :=
  let r := partRec set p
  let w := wcetStep set c p
  failOver 6 0x3000 p w (pStepLimit r) ++
  (pModels r).flatMap (fun m => failOver 7 0x3000 p
    (upQ (demand set c p m * (w : ℚ) / (pMaxBatch r : ℚ) + switchRate set p * (switchBound set c p : ℚ))) 700000000)

/-- PART_BOUNDS: WCET_STEP, FORM, END, the switch bound, tokens served a second (09 Table 9.8). -/
def partBounds (set : Store Bytes) (c : Case) (p : Nat) : List Nat :=
  [wcetStep set c p, formBound set p, endBound set c p, switchBound set c p,
   upQ (((pModels (partRec set p)).map (demand set c p)).foldl max 0)]

/-! ## Shares of a die (08 R208, 09 R259) -/

/-- Page descriptors of one token on each die of the spread. -/
def tokenWalks (set : Store Bytes) (p m : Nat) : Nat := listsPerDie set p m * (mdMaxCtx (modelIn set m) / 64)

def nimbusLoad (set : Store Bytes) (c : Case) (d : Nat) : ℚ :=
  sumQ (((caseParts set c).filter (fun p => (pDies (partRec set p)).contains d)).map (fun p =>
    ((pModels (partRec set p)).map (fun m => demand set c p m * (32 * tokenWalks set p m : ℕ))).foldl max 0 +
    stepRate set c p * (formBound set p + endBound set c p : ℕ) + switchRate set p * (switchBound set c p : ℕ))) +
  (Config.objectService : ℚ)

/-- Samples a second that a die's builder applies. -/
def builderRate (set : Store Bytes) (c : Case) (d : Nat) : ℚ :=
  sumQ ((caseParts set c).flatMap (fun p => ((caseSeqs set c p).filter (fun s => seqHome c.map set s = d)).map (fun s =>
    sumQ ((upTo (mdFeat (modelIn set (sqModel (sqRecIn set s))))).map (fun i =>
      streamRate set (sqBase (sqRecIn set s) + fieldLe (slice (objIn set 0x3810 0 (sqMap (sqRecIn set s))) (16 * i) 16) 63 46))))))

def shareFails (set : Store Bytes) (c : Case) (d : Nat) : List Fail :=
  let ps := (caseParts set c).filter (fun p => (pDies (partRec set p)).contains d ||
    (kvT2 (poolIn set p) != 0 && kvT2Die (poolIn set p) == d))
  failOver 8 0x8000 d (upQ (nimbusLoad set c d)) 1120000000 ++
  failOver 8 0x3810 d (upQ (builderRate set c d)) 350000000 ++
  failOver 0x0D 0x8000 d (sumList (ps.map (fun p => (pTiles (partRec set p)).length * pShare (partRec set p)))) 1280

/-! ## All of it -/

/-- The checks that no case changes. -/
def serveFails (set : Store Bytes) : List Fail :=
  (partsOf set).flatMap (fun p => spreadFails set p ++ overlapFails set p ++ modelSetFails set p) ++
  (instancesOf set 0x3100 0).flatMap (modelFails set) ++ (seqsOf set).flatMap (seqFails set) ++
  (instancesOf set 0x3818 0).flatMap (pfxFails set)

/-- The checks of a case. -/
def serveCaseFails (set : Store Bytes) (c : Case) : List Fail :=
  (caseParts set c).flatMap (fun p => poolFails set c p ++ stepFails set c p) ++ stratumFails set c ++ replicaFails set c ++
  nimbusFails set c ++ routingFails set c ++ c.dies.flatMap (shareFails set c)

end Sys2Proof.Machine
end

