-- ==== Sys2Proof/Machine/AdmitTrunk.lean ====
section
/-! DEFINITION. Admission of trackers and pins (01 R20, 02 R47, R53), cells and trunks (10 R279, R280, R287, R288, Table 10.16),
host ports (11 R291) and owner maps (11 R300). -/

namespace Sys2Proof.Machine

/-! ## Trackers and pins -/

/-- A rational of a finite G32. -/
def q32 (c : W32) : ℚ := (rateNum c : ℚ) / (2 ^ 200 : ℕ)

/-- The rate conditions of R47 on a tracker that is not OFF. -/
def trackerOk (r : Bytes) : Bool :=
  let om := q32 (atOmegaMax r)
  atMode r == 0 ||
  (decide (om * (atN r : ℚ) ≤ 200000) &&
   (atMode r != 1 || decide (om * (4 * atLines r : ℕ) ≤ 50000000 * (atScale r : ℚ))) &&
   (atMode r != 4 || (decide (q32 (atOmegaMin r) ≤ |q32 (atOmegaSynField r)|) && decide (|q32 (atOmegaSynField r)| ≤ om) &&
     isFin32 (atOmegaSynField r))))

/-- TICK_OUT of a set. -/
def pinIn (set : Store Bytes) (p : Nat) : Nat := leNat (objIn set 0x2110 1 p)

/-- WIDTH is below the least pulse spacing (R53). -/
def pinOk (set : Store Bytes) (p : Nat) : Bool :=
  let o := pinIn set p
  let r := atRecIn set (bits o 2 0)
  atMode r == 0 ||
  decide ((bits o 55 36 : ℚ) * q32 (atOmegaMax r) * (atN r : ℚ) < 1000000000 * (if bit o 5 then 1 else (2 ^ bits o 9 6 : ℕ)))

/-- An entry of an event list names what stands in the set (02 Table 2.15, R53). -/
def eventOk (set : Store Bytes) (k e : Nat) : Bool :=
  let v := eventEntry set k e
  let x := bits v 55 36
  (bits v 57 56 == 0 && bits v 35 32 != 5) ||
  (match bits v 35 32 with
   | 1 => hasObj set 0x4100 0 x && tTracker (tRec set x) == k && tRelKind (tRec set x) == 1
   | 2 | 3 => decide (x < 64)
   | 4 => decide (x < 32768)
   | 5 => decide (x < 4) && bit (pinIn set x) 5 && bits (pinIn set x) 2 0 == k && bits (pinIn set x) 15 10 == e
   | _ => true)

def trackerFails (set : Store Bytes) : List Fail :=
  (instancesOf set 0x2100 0).flatMap (fun k => failUnless (trackerOk (atRecIn set k)) 1 0x2100 k) ++
  failUnless (hasObj set 0x2103 1 0 && decide (epochOf set < 8) && atMode (atRecIn set (epochOf set)) != 0) 1 0x2103 0 ++
  (instancesOf set 0x2110 1).flatMap (fun p => failUnless (pinOk set p) 1 0x2110 p) ++
  (instancesOf set 0x2102 0).flatMap (fun k => failUnless ((upTo 64).all (eventOk set k)) 1 0x2102 k)

/-! ## Host ports and owners (11 R291, R300) -/

/-- A HOST_PORT record as a set has it: its own, or the reset values (11 Table 11.2). -/
def hostRecIn (set : Store Bytes) (n : Nat) : Bytes := objIn set 0x1110 0 n

/-- Entries of an owner map: first and last index, first and last instance, slot. -/
def ownerEntries (set : Store Bytes) : List (Nat × Nat × Nat × Nat × Nat) :=
  let v := objIn set 0x1201 0 0
  (upTo (v.length / 16)).map (fun i =>
    let e := slice v (16 * i) 16
    (fieldLe e 127 112, fieldLe e 111 96, fieldLe e 95 72, fieldLe e 71 48, fieldLe e 42 40))

/-- The PARAM slots that owners other than HOST feed, as template × 4,096 + slot. -/
def foreignSlots (set : Store Bytes) : List Nat :=
  (tmplsOf set).flatMap (fun t => ((tSlotList set t).filter (fun s => sKind s.2 == 2 && sOwner s.2 != 0)).map (fun s => t * 4096 + s.1))

def ownerFails (set : Store Bytes) : List Fail :=
  let es := ownerEntries set
  let meet (a b : Nat × Nat × Nat × Nat × Nat) : Bool :=
    decide (a.1 ≤ b.2.1) && decide (b.1 ≤ a.2.1) && decide (a.2.2.1 ≤ b.2.2.2.1) && decide (b.2.2.1 ≤ a.2.2.2.1)
  failUnless ((upTo es.length).all (fun i => (es.drop (i + 1)).all (fun b => !meet (nth (0, 0, 0, 0, 0) es i) b))) 2 0x1201 0 ++
  failUnless (es.all (fun e => !((decide (e.1 ≤ 0x4110) && decide (0x4110 ≤ e.2.1)) || (decide (e.1 ≤ 0x4111) && decide (0x4111 ≤ e.2.1))) ||
    (foreignSlots set).all (fun x => decide (x < e.2.2.1) || decide (e.2.2.2.1 < x)))) 1 0x1201 0

/-- Both ports disabled, or a failed one enabled (14 Table 14.6). -/
def portFails (set : Store Bytes) (failed : BitVec 18) : List Fail :=
  failUnless ((upTo 2).any (fun n => fieldLe (hostRecIn set n) 0 0 == 1)) 1 0x1110 0 ++
  (upTo 16).flatMap (fun t => failUnless (!(failed.getLsbD t && trEnable (trunkRecIn set t))) 1 0x6000 t)

/-! ## Cells and trunks (10 R279, R280, R287, R288) -/

/-- The engines of a case that hold loops of a trunk, or of one of its cells. -/
def enginesOf (set : Store Bytes) (c : Case) (p : Bytes → Bool) : List Nat :=
  (((caseLoops set c).filter (fun l => p (loopRecIn set l))).map (placedLoop c.map)).dedup

def lineRate (rate : Nat) : Nat :=
  match rate with
  | 0 => 2500000000
  | 1 => 5000000000
  | _ => 10000000000

/-- Commands a second of a trunk's loops (Table 10.16). -/
def commandRate (set : Store Bytes) (c : Case) (t : Nat) : ℚ :=
  sumQ (((caseLoops set c).filter (fun l => lpTrunk (loopRecIn set l) == t)).map (fun l => (1000000000 : ℚ) / (lpTs (loopRecIn set l) : ℕ)))

/-- Wire bits a second of a trunk: from its cells, and to them. -/
def trunkLoad (set : Store Bytes) (c : Case) (t : Nat) : ℚ × ℚ :=
  let cells := (cellsOf set).filter (fun k => k / 256 = t)
  let sync : Nat := cells.length * 2 ^ trSyncLog (trunkRecIn set t)
  let samples := sumQ (cells.flatMap (fun k => ((upTo 4).filter (fun n => decide (0 < clPeriod (cellRecIn set k) n))).map (fun n =>
    (1000000000 : ℚ) / (clPeriod (cellRecIn set k) n : ℕ) * ((sampleLen (clChans (cellRecIn set k) n) + 20) * 8 : ℕ))))
  let cmd := commandRate set c t * 672
  (samples + cmd + (sync * 672 + cells.length * 1000 * 672 : ℕ), cmd + (sync * 672 + cells.length * 100 * 800 : ℕ))

/-- What the set alone settles: the acknowledgement of each enabled cell (R280). -/
def cellFails (set : Store Bytes) : List Fail :=
  (cellsOf set).flatMap (fun k =>
    failUnless (decide (clAckDelay (cellRecIn set k) * 1000 + trLatBound (trunkRecIn set (k / 256)) ≤
      trAckTimeout (trunkRecIn set (k / 256)) * 1000)) 1 0x6010 k)

/-- What a placement settles: credits and allowance suffice, and the wires (R279, R288). -/
def trunkFails (set : Store Bytes) (c : Case) : List Fail :=
  (cellsOf set).flatMap (fun k =>
    failOver 0x0E 0x6010 k (enginesOf set c (fun r => cellKey (lpTrunk r) (lpCell r) == k)).length (clSlots (cellRecIn set k))) ++
  (upTo 16).flatMap (fun t =>
    let r := trunkRecIn set t
    if !trEnable r then [] else
      let (up, down) := trunkLoad set c t
      failOver 0x0E 0x6000 t (enginesOf set c (fun r => lpTrunk r == t)).length (allowanceOf (trRateMin r)) ++
      failOver 0x0E 0x6000 t (upQ up) (lineRate (trRateMin r) / 100 * 95) ++
      failOver 0x0E 0x6000 t (upQ down) (lineRate (trRateMin r) / 100 * 95))

end Sys2Proof.Machine
end

