-- ==== Sys2Proof/Machine/AdmitPower.lean ====
section
/-! DEFINITION. The power of a case (15 R404) against the grade's envelope (00 R3). -/

namespace Sys2Proof.Machine

/-- The coefficients of 15 Table 15.10 that differ by grade, in mW. -/
structure Coeff where
  bedrock : ℚ
  die : ℚ
  stratum : ℚ
  seam : ℚ
  tile : ℚ
  tileOff : ℚ
  be : ℚ
  beOff : ℚ
  he : ℚ
  heOff : ℚ

def coeffAI : Coeff := ⟨6000, 500, 1500, 250, 150, 20, 60, 10, 40, 8⟩
def coeffAX : Coeff := ⟨6360, 530, 1590, 265, 159, 25, 318 / 5, 12, 212 / 5, 10⟩
def coeffs : Coeff := if Config.gradeAX then coeffAX else coeffAI

/-- The envelope, mW (00 R3). -/
def envelope : Nat := if Config.gradeAX then 140000 else 165000

/-- A duty, capped at 1. -/
def duty (cyclesPerSecond : ℚ) : ℚ := min 1 (cyclesPerSecond / 700000000)

/-- The largest over a partition's models of a figure of its program, times the model's steps a second. -/
def perSecond (set : Store Bytes) (c : Case) (p : Nat) (f : Bytes → Bytes → Nat) : ℚ :=
  ((upTo (pNModels (partRec set p))).map (fun e =>
    let m := pModel (partRec set p) e
    demand set c p m / (pMaxBatch (partRec set p) : ℚ) * (f (modelIn set m) (progIn set p e) : ℚ))).foldl max 0

/-- Cycles a second of a unit of a tile. -/
def unitLoad (set : Store Bytes) (c : Case) (tile unit : Nat) : ℚ :=
  sumQ (((caseParts set c).filter (fun p => pHasTile (partRec set p) tile)).map (fun p =>
    perSecond set c p (fun m i => Config.programCycles (partRec set p) (poolIn set p) m i tile unit)))

/-- Far-channel bytes a second of a tile of a partition in tier 1 or 2. -/
def farRate (set : Store Bytes) (c : Case) (p tile tier : Nat) : ℚ :=
  perSecond set c p (fun m i => Config.programBytes (partRec set p) (poolIn set p) m i tile tier)

/-- Ticks a second of the epoch tracker at ω_max. -/
def epochRate (set : Store Bytes) : ℚ := omegaMaxQ set (epochOf set) * (atN (atRecIn set (epochOf set)) : ℚ)

/-- Bytes a second that move between dies: from, to, rate. Tier T2, all-gathers, replica copies, switches from a copy that another
die holds. -/
def flows (set : Store Bytes) (c : Case) : List (Nat × Nat × ℚ) :=
  (caseParts set c).flatMap (fun p =>
    let ds := pDies (partRec set p)
    let gather := ((pModels (partRec set p)).map (fun m =>
      demand set c p m * (mdLayers (modelIn set m) * (mdHq (modelIn set m) / max 1 ds.length) * mdHead (modelIn set m) * 2 : ℕ))).foldl max 0
    let far (d : Nat) : Bool := (pModels (partRec set p)).any (fun m => !bit (libMask set c m) d)
    ds.flatMap (fun a => (ds.filter (· ≠ a)).map (fun b => (a, b, gather))) ++
    (pTiles (partRec set p)).map (fun t => (kvT2Die (poolIn set p), t / 32, farRate set c p t 2)) ++
    (ds.filter far).map (fun d => (nextAlive c.dies d, d, switchRate set p * (regionBytes set p : ℚ)))) ++
  c.dies.map (fun d => (d, nextAlive c.dies d, epochRate set * (replicaBytes set c d : ℚ)))

/-- GB/s of a die's Stratum. -/
def stratumRate (set : Store Bytes) (c : Case) (d : Nat) : ℚ :=
  let local1 := sumQ ((caseParts set c).flatMap (fun p => ((pTiles (partRec set p)).filter (fun t => t / 32 = d)).map (fun t => farRate set c p t 1)))
  let moved := sumQ (((flows set c).filter (fun f => f.1 = d ∨ f.2.1 = d)).map (·.2.2))
  let switched := sumQ (((caseParts set c).filter (fun p => (pDies (partRec set p)).contains d)).map (fun p =>
    switchRate set p * (regionBytes set p : ℚ)))
  let rings := if c.critical then 0 else sumQ (((instancesOf set 0x5040 0).filter (fun x => (sFind c.map.caps x).any (fun e => e / 4 == d))).map
    (fun x => (16000000000 : ℚ) / (lpTs (loopRecIn set (cpLoop (capRecIn set x))) * cpDecim (capRecIn set x) : ℕ)))
  (local1 + moved + switched + rings) / 1000000000

/-- GB/s of the ring Seam from a die to the next clockwise, both directions summed. -/
def seamRate (set : Store Bytes) (c : Case) (d : Nat) : ℚ :=
  let e := nextDie d
  sumQ ((flows set c).map (fun f =>
    if ((routeOf2 c.dies f.1 f.2.1).getD []).any (fun h => h == (d, e) || h == (e, d)) then f.2.2 else 0)) / 1000000000

def tilePower (set : Store Bytes) (c : Case) (t : Nat) : ℚ :=
  if (caseParts set c).any (fun p => pHasTile (partRec set p) t) then
    coeffs.tile + 540 * duty (unitLoad set c t 0) + 520 * duty (unitLoad set c t 1) + 500 * duty (unitLoad set c t 2) +
      480 * duty (unitLoad set c t 3) + 60 * duty (unitLoad set c t 4) + 33 * duty (unitLoad set c t 5)
  else coeffs.tileOff

/-- Releases a second of a template at ω_max. -/
def releaseRate (set : Store Bytes) (t : Nat) : ℚ := q32 (tOmegaMax set t) * (2 ^ 32 : ℕ) / (max 1 (releaseGap set t) : ℕ)

def bePower (set : Store Bytes) (c : Case) (e : Nat) : ℚ :=
  let ts := (caseTmpls set c).filter (fun t => placedTmpl c.map set t = e)
  if ts.isEmpty then coeffs.beOff
  else coeffs.be + 346 * duty (sumQ (ts.map (fun t => (chainBound set t : ℚ) * releaseRate set t)))

def hePower (set : Store Bytes) (c : Case) (e : Nat) : ℚ :=
  let ls := (caseLoops set c).filter (fun l => placedLoop c.map l = e)
  if ls.isEmpty then coeffs.heOff
  else coeffs.he + 36 / 25 * (sumQ (ls.map (fun l => (1000 : ℚ) / (lpTs (loopRecIn set l) : ℕ))))

def portPower (set : Store Bytes) : ℚ :=
  sumQ ((upTo 16).map (fun t =>
    let r := trunkRecIn set t
    if trEnable r then (match trRateMax r with | 0 => 400 | 1 => 550 | _ => 800) else 5)) +
  sumQ ((upTo 2).map (fun n => if fieldLe (hostRecIn set n) 0 0 = 1 then 350 else 5))

/-- ⌈P⌉ of a case, mW. -/
def powerOf (set : Store Bytes) (c : Case) : Nat :=
  let on (d : Nat) : Bool := c.dies.contains d
  upQ (coeffs.bedrock + portPower set +
    sumQ (c.dies.map (fun d => coeffs.die + coeffs.stratum + 1831 / 500 * stratumRate set c d + coeffs.seam)) +
    sumQ ((c.dies.filter (fun d => on (nextDie d))).map (fun d => coeffs.seam + 651 / 1000 * seamRate set c d)) +
    sumQ (((upTo 128).filter (fun t => on (t / 32))).map (tilePower set c)) +
    sumQ (((upTo 32).filter (fun e => on (e / 8))).map (bePower set c)) +
    sumQ (((upTo 16).filter (fun e => on (e / 4))).map (hePower set c)))

def powerFails (set : Store Bytes) (c : Case) : List Fail := failOver 0x0F 0x8030 4 (powerOf set c) envelope

end Sys2Proof.Machine
end

