-- ==== Sys2Proof/Machine/Dict.lean ====
section
/-! DEFINITION. The object dictionary: every object with its type, access and instances (11 R299, R315 and the object tables of
every chapter), and the field ranges of every object that a host writes (00 R12; 11 R299). -/

namespace Sys2Proof.Machine

/-! ## Objects -/

/-- Access codes (00 Table 0.5); `perField` is a DOMAIN whose table gives access field by field (11 R415). -/
inductive Access where
  | ro | co | sh | rw | wo | perField
  deriving DecidableEq, Repr

/-- Who may write an RW or WO object: the owner by the map, the configuration master, the master with the FIRMWARE role, the
session of the instance, any session (11 Table 11.8a; 12 Table 12.10; 13 Table 13.9). -/
inductive Writer where
  | map | master | masterFw | own | any
  deriving DecidableEq, Repr

/-- An object of the dictionary: index, subindices, type code, access, instances as ranges. -/
structure ObjDef where
  index : Nat
  sub : Nat
  subHi : Nat
  type : Nat
  access : Access
  insts : List (Nat × Nat) := [(0, 0)]
  writer : Writer := .map
  deriving DecidableEq, Repr

def tU8 : Nat := 6
def tU16 : Nat := 7
def tU32 : Nat := 8
def tU64 : Nat := 9
def tReal : Nat := 0x0A
def tOctet : Nat := 0x0F
def tRecord : Nat := 0x10
def tDomain : Nat := 0x11

/-- One object: index, first and last subindex, type, access, last instance. -/
def ob (index sub subHi type : Nat) (access : Access) (last : Nat := 0) (writer : Writer := .map) : ObjDef :=
  { index := index, sub := sub, subHi := subHi, type := type, access := access, insts := [(0, last)], writer := writer }

/-- Identity, sessions, host ports and configuration sets (11 Table 11.16; 14 Table 14.8). -/
def objects1 : List ObjDef := [
  ob 0x1000 1 2 0x0E .co, ob 0x1000 3 3 tU8 .co, ob 0x1000 4 4 0x0E .co, ob 0x1001 1 1 tU8 .ro, ob 0x1002 1 1 tU64 .ro,
  ob 0x1003 1 1 tOctet .co 1, ob 0x1004 1 1 tRecord .ro, ob 0x1005 1 1 tU8 .ro, ob 0x1006 1 1 tRecord .ro,
  ob 0x1100 1 1 tRecord .ro 7, ob 0x1101 1 1 tU16 .sh, ob 0x1102 1 1 tU8 .ro, ob 0x1103 1 6 tU64 .ro 7,
  ob 0x1110 0 0 tDomain .sh 1, ob 0x1111 1 1 tRecord .ro 1, ob 0x1112 1 7 tU64 .ro 1, ob 0x1120 1 1 tU64 .rw 7 .own,
  ob 0x1200 1 1 tRecord .ro, ob 0x1201 0 0 tDomain .sh, ob 0x1202 1 1 tU8 .wo 0 .master, ob 0x1203 1 2 tOctet .ro,
  ob 0x1204 1 1 tRecord .ro]

/-- Counters, clocks, trackers, PTP (02 Table 2.17; 15 Table 15.13). -/
def objects2 : List ObjDef := [
  ob 0x2000 1 1 tU64 .ro 3, ob 0x2000 2 2 tU32 .ro 3, ob 0x2002 1 1 4 .ro, ob 0x2010 0 0 tDomain .perField 15,
  { ob 0x2010 1 1 5 .co with insts := [(0, 0)] }, { ob 0x2010 1 1 5 .rw with insts := [(1, 15)] }, ob 0x2011 1 1 0x0C .ro 15,
  { ob 0x2012 1 1 5 .wo with insts := [(1, 2), (4, 15)] }, { ob 0x2013 1 1 5 .wo 0 .master with insts := [(1, 2), (4, 15)] },
  ob 0x2014 1 1 tU8 .wo 15, { ob 0x2015 1 1 tU8 .sh with insts := [(3, 3)] }, ob 0x2020 0 0 tRecord .sh, ob 0x2021 0 0 tRecord .sh,
  ob 0x2100 0 0 tDomain .perField 7, ob 0x2100 1 1 tReal .rw 7, ob 0x2101 1 5 tRecord .ro 7, ob 0x2102 0 0 tDomain .sh 7,
  ob 0x2103 1 1 tU8 .sh, ob 0x2110 1 1 tU64 .sh 3, ob 0x2200 0 0 tRecord .sh 1, ob 0x2201 0 0 tRecord .ro 1,
  ob 0x2202 0 0 tRecord .sh 1]

/-- Partitions, models, sequences, pools (09 Table 9.8, 08 Table 8.12). -/
def objects3 : List ObjDef := [
  ob 0x3000 0 0 tDomain .sh 31, ob 0x3001 1 1 tU8 .rw 31, ob 0x3002 1 1 tRecord .ro 31, ob 0x3003 0 0 tDomain .sh 255,
  ob 0x3004 1 6 tU64 .ro 31, ob 0x3005 1 5 tU32 .ro 31, ob 0x3006 1 1 tRecord .ro 31, ob 0x3030 0 0 tDomain .ro,
  ob 0x3031 1 1 tRecord .ro, ob 0x3100 0 0 tDomain .perField 255, ob 0x3101 0 0 tDomain .sh 255, ob 0x3800 0 0 tDomain .perField 16383,
  ob 0x3801 1 1 tRecord .ro 16383, ob 0x3802 1 1 tDomain .ro 16383, ob 0x3803 1 7 tU64 .ro 16383, ob 0x3810 0 0 tDomain .sh 1023,
  ob 0x3811 0 0 tDomain .sh 1023, ob 0x3818 0 0 tRecord .sh 1022, ob 0x3819 0 0 tDomain .sh 1022, ob 0x3820 0 0 tDomain .perField 31,
  ob 0x3821 1 1 tRecord .ro 31, ob 0x3822 1 6 tU64 .ro 31, ob 0x3830 0 0 tDomain .ro 16383, ob 0x3840 1 1 tU64 .ro 31]

/-- Basalt engines and templates (05 Table 5.16, 06 Table 6.7). -/
def objects4 : List ObjDef := [
  ob 0x4000 1 1 tRecord .ro 31, ob 0x4001 1 9 tU64 .ro 31, ob 0x4002 1 1 tDomain .ro 31, ob 0x4003 1 1 tU32 .ro 31,
  ob 0x4003 2 2 tU8 .ro 31, ob 0x4100 0 0 tDomain .perField 4095, ob 0x4101 0 0 tDomain .sh 4095, ob 0x4102 0 0 tDomain .sh 4095,
  ob 0x4103 0 0 tDomain .sh 4095, ob 0x4104 0 0 tDomain .sh 4095, ob 0x4105 0 0 tDomain .sh 4095, ob 0x4106 0 0 tDomain .rw 4095,
  ob 0x4110 0 0 tReal .rw 0xFFFFFF, ob 0x4111 0 255 tReal .rw 0xFFFFFF, ob 0x4120 0 255 tDomain .ro 4095, ob 0x4121 1 1 tU64 .ro 4095,
  ob 0x4122 1 7 tU64 .ro 4095]

/-- Halo engines, loops, generators, injectors, capture channels (07 Table 7.12). -/
def objects5 : List ObjDef := [
  ob 0x5000 1 1 tRecord .ro 15, ob 0x5001 1 7 tU64 .ro 15, ob 0x5010 0 0 tDomain .perField 16383, ob 0x5010 1 3 tReal .rw 16383,
  ob 0x5011 1 7 tReal .rw 16383, ob 0x5011 8 8 tU8 .rw 16383, ob 0x5011 9 9 tU32 .rw 16383, ob 0x5011 10 11 tReal .rw 16383,
  ob 0x5012 1 1 tU8 .rw 16383, ob 0x5013 1 1 tRecord .ro 16383, ob 0x5014 1 1 tU8 .ro 16383, ob 0x5015 1 5 tU64 .ro 16383,
  ob 0x5020 0 0 tDomain .perField 4095, ob 0x5020 1 4 tReal .rw 4095, ob 0x5021 1 1 tRecord .ro 4095, ob 0x5030 0 0 tDomain .sh 63,
  ob 0x5031 1 2 tU8 .wo 63, ob 0x5032 1 1 tRecord .ro 63, ob 0x5040 0 0 tDomain .perField 63, ob 0x5041 1 1 tU8 .wo 63,
  ob 0x5042 1 1 tRecord .ro 63, ob 0x5043 0 0 tDomain .ro 63]

/-- Trunks, cells, streams (10 Table 10.17). -/
def objects6 : List ObjDef := [
  ob 0x6000 0 0 tDomain .perField 15, ob 0x6001 1 1 tRecord .ro 15, ob 0x6002 1 14 tU64 .ro 15, ob 0x6003 0 0 tRecord .ro 15,
  ob 0x6003 1 2 tU64 .ro 15, ob 0x6003 0x10 0x1F tU64 .ro 15, ob 0x6004 0 0 tRecord .ro 15, ob 0x6004 1 4 tU64 .ro 15,
  ob 0x6010 0 0 tDomain .perField 4095, ob 0x6011 1 1 tRecord .ro 4095, ob 0x6012 1 7 tU64 .ro 4095, ob 0x6013 1 1 tDomain .ro 4095,
  ob 0x6020 0 0 tDomain .perField 262143, ob 0x6020 1 2 tReal .sh 262143, ob 0x6020 3 3 tU8 .sh 262143]

/-- Arithmetic status and tiles (03 Table 3.6, 04 Table 4.18). -/
def objects7 : List ObjDef := [
  ob 0x7000 1 1 tU8 .rw 159, ob 0x7000 2 6 tU64 .ro 159, ob 0x7001 1 1 tU8 .ro, ob 0x7001 2 2 tU64 .ro, ob 0x7100 1 1 tRecord .ro 127,
  ob 0x7101 1 2 tU64 .ro 127, ob 0x7102 1 1 tU32 .ro 255, ob 0x7102 2 2 tU64 .ro 255, ob 0x7103 1 1 tRecord .ro 255,
  ob 0x7104 1 1 tU16 .ro 255]

/-- Dies, ledgers, error counters (12 Tables 12.2, 12.3 and 12.10; 14 Table 14.8; 15 Table 15.13). -/
def objects8 : List ObjDef := [
  ob 0x8000 1 1 tRecord .ro 4, ob 0x8001 1 1 tRecord .ro 3, ob 0x8002 0 0 tDomain .ro 3, ob 0x8003 1 1 tRecord .ro,
  ob 0x8004 1 4 tU64 .ro, ob 0x8010 1 1 tRecord .ro 4, ob 0x8011 1 1 tRecord .ro 17, ob 0x8012 1 1 tU16 .sh 17,
  ob 0x8020 1 1 tU16 .wo 4 .masterFw, ob 0x8021 1 1 tRecord .ro, ob 0x8030 1 1 tRecord .ro 4, ob 0x8040 0 0 tDomain .co,
  ob 0x8041 1 1 tRecord .ro, ob 0x8100 0 0 tRecord .ro 127, ob 0x8101 0 0 tRecord .ro 31, ob 0x8110 0 0 tRecord .ro 15,
  ob 0x8120 0 0 tRecord .ro 32, ob 0x8130 0 0 tRecord .ro 3,
  { ob 0x8180 1 1 tU64 .rw with insts := [(0, 15), (256, 271), (512, 639), (768, 799), (1024, 1039), (1280, 1312), (1536, 1539)] },
  ob 0x8200 1 3 tU64 .ro 79, ob 0x8200 4 4 tRecord .ro 79, ob 0x8201 1 1 tU64 .ro 15]

/-- Security, firmware, Obsidian (13 Table 13.9, 12 Table 12.14a). -/
def objects9 : List ObjDef := [
  ob 0x9000 1 1 tU64 .co, ob 0x9000 2 2 tDomain .ro, ob 0x9000 3 3 tOctet .ro, ob 0x9001 1 1 tRecord .ro,
  ob 0x9002 0 0 tDomain .wo 0 .masterFw, ob 0x9003 1 1 tRecord .ro, ob 0x9003 2 2 tU64 .wo 0 .masterFw, ob 0x9010 1 1 tRecord .ro 7,
  ob 0x9011 0 0 tDomain .wo 0 .any, ob 0x9012 1 1 tRecord .ro, ob 0x9020 1 1 tRecord .ro, ob 0x9021 1 3 tU64 .ro,
  ob 0x9100 1 1 tRecord .ro, ob 0x9101 1 4 tU64 .ro, ob 0x9110 0 0 tDomain .ro 3]

/-- The dictionary. -/
def objects : List ObjDef :=
  objects1 ++ objects2 ++ objects3 ++ objects4 ++ objects5 ++ objects6 ++ objects7 ++ objects8 ++ objects9

/-- The object at an address, or why there is none: NO_OBJECT, NO_SUBINDEX, NO_INSTANCE (11 R315). -/
def findObj (k : Nat) : Except Nat ObjDef :=
  match objects.filter (fun o => o.index = keyIndex k) with
  | [] => .error aNoObject
  | l =>
    match l.filter (fun o => decide (o.sub ≤ keySub k) && decide (keySub k ≤ o.subHi)) with
    | [] => .error aNoSubindex
    | l =>
      match l.find? (fun o => o.insts.any (fun r => decide (r.1 ≤ keyInst k) && decide (keyInst k ≤ r.2))) with
      | none => .error aNoInstance
      | some o => .ok o

/-- An SH or RW object of a set: one that the set holds, not an alias (11 "Configuration sets", R309). -/
def inSets (o : ObjDef) : Bool := decide (o.access = .sh) || decide (o.access = .rw) || decide (o.access = .perField)

/-! ## Sizes (11 R299, R304) -/

/-- Bytes that a written value may have: least, most, and the unit it is a multiple of. A scalar has its type's size. -/
def sizeRule (o : ObjDef) : Nat × Nat × Nat :=
  let one (n : Nat) := (n, n, 1)
  match typeSize o.type with
  | 0 =>
    match o.index with
    | 0x1110 => one 32
    | 0x1201 => (16, 16384, 16)
    | 0x2010 => one 32
    | 0x2020 => one 1
    | 0x2021 => one 5
    | 0x2100 => one 48
    | 0x2102 => one 512
    | 0x2200 => one 6
    | 0x2202 => one 12
    | 0x3000 => one 72
    | 0x3003 => (32, 128 * 1024 * 32, 32)
    | 0x3100 => one 32
    | 0x3101 => (1, 2 ^ 32 - 1, 1)
    | 0x3800 => one 16
    | 0x3810 => (0, 16384, 16)
    | 0x3811 => (0, 2 ^ 32 - 16, 16)
    | 0x3818 => one 4
    | 0x3819 => (0, 2 ^ 32 - 4, 4)
    | 0x3820 => one 32
    | 0x4100 => one 64
    | 0x4101 => (0, 4095 * 24, 24)
    | 0x4102 => (64, 960, 64)
    | 0x4103 => (0, 255 * 16, 16)
    | 0x4104 | 0x4105 => (0, 65536 * 8, 8)
    | 0x4106 => (0, 8192 * 32, 32)
    | 0x5010 => one 112
    | 0x5020 => one 48
    | 0x5030 => one 256
    | 0x5040 => one 64
    | 0x6000 => one 32
    | 0x6010 => one 64
    | 0x6020 => one 32
    | 0x9002 => (1, 1048576, 1)
    | 0x9011 => one 192
    | _ => (0, 0, 1)
  | n => one n

/-- The value has a size that the object may have. -/
def sizeOk (o : ObjDef) (len : Nat) : Bool :=
  let r := sizeRule o
  decide (r.1 ≤ len) && decide (len ≤ r.2.1) && len % r.2.2 == 0

/-! ## Field ranges (00 R12; 11 R299) -/

/-- One check of a value: it holds, the byte at which the field starts, the abort code otherwise. -/
abbrev Chk := Bool × Nat × Nat

/-- Bits `hi` to `lo` lie within a range. -/
def inRange (v : Bytes) (hi lo a b : Nat) : Chk :=
  (decide (a ≤ fieldLe v hi lo) && decide (fieldLe v hi lo ≤ b), lo / 8, aValueRange)

/-- Reserved bits are zero. -/
def zeroBits (v : Bytes) (hi lo : Nat) : Chk := (fieldLe v hi lo == 0, lo / 8, aValueRange)

/-- A condition on the field that starts at bit `lo`. -/
def cond (b : Bool) (lo : Nat) : Chk := (b, lo / 8, aValueRange)

/-- A G32 code that no write may carry: subnormal or NaN (11 R299). -/
def badReal (c : W32) : Bool := (bits c.toNat 30 23 == 0 && bits c.toNat 22 0 != 0) || isNan32 c

/-- A G32 field: neither subnormal nor NaN, and within a condition. -/
def realField (v : Bytes) (lo : Nat) (ok : W32 → Bool) : List Chk :=
  [(!badReal (field32 v lo), lo / 8, aBadValue), cond (ok (field32 v lo)) lo]

def g32Pos (x : W32) : Bool := lt32 0 x
def g32One : W32 := 0x3F800000
def anyReal (_ : W32) : Bool := true

/-- Every entry of `n` bytes of a list object, checked; offsets from its start. -/
def eachEntry (n : Nat) (v : Bytes) (f : Bytes → List Chk) : List Chk :=
  (upTo (v.length / n)).flatMap (fun i => (f (slice v (n * i) n)).map (fun c => (c.1, c.2.1 + n * i, c.2.2)))

/-- HOST_PORT (11 Table 11.2). -/
def chkHostPort (v : Bytes) : List Chk :=
  [cond (fieldLe v 255 248 != 0xFF) 128, inRange v 127 120 1 128, inRange v 119 112 1 255, inRange v 111 96 1024 65535, zeroBits v 95 4,
   inRange v 3 2 0 2]

/-- OWNER_MAP entry (11 Table 11.8b). -/
def chkOwner (v : Bytes) : List Chk :=
  [cond (decide (fieldLe v 127 112 ≤ fieldLe v 111 96)) 96, cond (decide (fieldLe v 95 72 ≤ fieldLe v 71 48)) 48, zeroBits v 47 43,
   zeroBits v 39 0]

/-- LC_RECORD (02 Table 2.3): the CO fields of LC0 and LC3 are not judged. -/
def chkLc (n : Nat) (v : Bytes) : List Chk :=
  [zeroBits v 239 239, zeroBits v 191 191, inRange v 238 224 1 20000] ++
  (if n = 0 then [] else [cond (decide ((signed 40 (fieldLe v 183 144)).natAbs ≤ rateLimit.toNat)) 144]) ++
  (if n = 0 ∨ n = 3 then [] else [cond (decide (fieldLe v 188 186 ≤ 4) && fieldLe v 188 186 != 3) 186])

/-- AT_RECORD: the field ranges of 02 Table 2.11, as R47 qualifies them by MODE. -/
def chkAt (v : Bytes) : List Chk :=
  let mode := fieldLe v 2 0
  let om := field32 v
  [zeroBits v 383 352, zeroBits v 279 278, zeroBits v 31 28, zeroBits v 19 19, inRange v 2 0 0 4] ++
  (if mode = 0 then [] else
    [inRange v 351 344 1 255, inRange v 327 312 1 65535, inRange v 6 3 0 12] ++
    realField v 64 g32Pos ++ realField v 32 (fun x => lt32 (om 64) x && le32 x (hIntReal 10000)) ++
    realField v 96 (fun x => le32 (om 64) x && le32 x (om 32))) ++
  (if mode = 1 then [inRange v 223 192 1 1048576, inRange v 13 8 1 63] else []) ++
  (if mode = 2 then [inRange v 295 280 1 65535] else []) ++
  (if mode = 4 then [(!badReal (om 128), 16, aBadValue)] else [])
where
  /-- A whole number as G32. -/
  hIntReal (n : Nat) : W32 := g32Ratio n 1

/-- Angle event entry (02 Tables 2.14 and 2.15). -/
def chkEvent (v : Bytes) : List Chk :=
  let most := match fieldLe v 35 32 with | 1 => 4095 | 2 | 3 => 63 | 4 => 32767 | 5 => 3 | _ => 2 ^ 20 - 1
  [zeroBits v 63 58, inRange v 35 32 0 5, inRange v 55 36 0 most]

/-- PARTITION_RECORD (09 Table 9.1). -/
def chkPart (v : Bytes) : List Chk :=
  [inRange v 560 545 16 32768, zeroBits v 544 510, inRange v 509 508 0 2, inRange v 499 492 1 255, inRange v 491 483 1 256,
   inRange v 411 408 1 8, cond ((upTo 8).all (fun i => decide (i < fieldLe v 411 408) || fieldLe v (412 + 8 * i + 7) (412 + 8 * i) == 0)) 412,
   inRange v 378 372 1 64, inRange v 339 319 1024 1048576, cond (fieldLe v 318 303 == 0 || (decide (32 ≤ fieldLe v 318 303) &&
   decide (fieldLe v 318 303 ≤ 4096))) 303, inRange v 294 284 32 1024, inRange v 283 270 (fieldLe v 294 284 + 1) 10240]

/-- MODEL_DESC (08 Tables 8.1 and 8.2). -/
def chkModel (v : Bytes) : List Chk :=
  let mult64 (hi lo : Nat) := cond (fieldLe v hi lo % 64 == 0) lo
  realField v 224 (fun x => lt32 g32One x) ++ realField v 192 g32Pos ++
  [zeroBits v 159 132, inRange v 127 114 64 8192, mult64 127 114, inRange v 113 100 64 8192, mult64 113 100, inRange v 99 89 64 1024,
   mult64 99 89, inRange v 88 78 1 1024, inRange v 77 71 1 64, inRange v 70 66 1 16,
   cond (fieldLe v 70 66 != 0 && fieldLe v 77 71 % fieldLe v 70 66 == 0) 71, inRange v 65 59 1 64, inRange v 58 54 1 24,
   inRange v 49 46 4 6, inRange v 45 42 5 6, zeroBits v 40 0]

/-- FEATURE_MAP entry (08 Table 8.4). -/
def chkFeature (v : Bytes) : List Chk := realField v 96 anyReal ++ realField v 64 anyReal ++ [inRange v 45 43 1 7, zeroBits v 42 0]

/-- OUT_MAP entry (08 R232). -/
def chkOut (v : Bytes) : List Chk := [zeroBits v 87 64] ++ realField v 32 anyReal ++ realField v 0 anyReal

/-- TEMPLATE_RECORD (06 Table 6.1). -/
def chkTemplate (v : Bytes) : List Chk :=
  [inRange v 429 421 1 256, inRange v 420 417 1 15, inRange v 392 389 0 12,
   cond (fieldLe v 393 393 == 1 || decide (fieldLe v 388 377 < 2 ^ fieldLe v 392 389)) 377, inRange v 376 345 1 (2 ^ 32 - 1),
   cond (decide (fieldLe v 344 313 < fieldLe v 376 345)) 313, zeroBits v 208 0]

/-- Slot entry (06 Table 6.2). -/
def chkSlot (v : Bytes) : List Chk :=
  let k := fieldLe v 191 189
  [inRange v 191 189 1 4, inRange v 188 187 0 (if k = 2 then 2 else 0), inRange v 186 186 0 (if k = 1 ∨ k = 3 then 1 else 0),
   (if k = 3 then inRange v 185 179 1 127 else inRange v 185 179 0 0), zeroBits v 121 64,
   cond (decide (signed 32 (fieldLe v 31 0) ≤ signed 32 (fieldLe v 63 32))) 0] ++
  (if k = 4 then [inRange v 178 174 0 0, inRange v 139 122 1 8191, inRange v 63 0 0 0] else []) ++
  (if k = 2 then [inRange v 157 140 0 0] else [])

/-- CHAIN: the reserved bits and codes of a descriptor (05 Table 5.2); the rest is judged by ADMIT (06 R146). -/
def chkDesc (v : Bytes) : List Chk :=
  [inRange v 511 504 1 9, zeroBits v 405 403, zeroBits v 222 192, zeroBits v 31 0]

/-- Route entry (06 Table 6.5; 07 Table 7.4). -/
def chkRoute (v : Bytes) : List Chk :=
  let k := fieldLe v 127 126
  [inRange v 127 126 0 2, inRange v 125 125 0 (if k = 0 then 1 else 0), inRange v 124 123 0 2,
   cond (fieldLe v 124 123 != 1 || fieldLe v 122 115 != 0) 115,
   inRange v 98 75 0 (match k with | 1 => 16383 | 2 => 4095 | _ => 2 ^ 24 - 1),
   (if k = 1 then inRange v 74 71 1 3 else inRange v 74 71 0 0), zeroBits v 54 32] ++ (if k = 0 then [] else realField v 0 anyReal)

/-- LOOP_RECORD (07 Table 7.2). -/
def chkLoop (v : Bytes) : List Chk :=
  let f := field32 v
  [zeroBits v 895 877] ++ realField v 530 anyReal ++ realField v 498 anyReal ++ realField v 466 anyReal ++ realField v 434 g32Pos ++
  realField v 402 anyReal ++ realField v 370 (fun x => le32 0 x && le32 x g32One) ++ realField v 338 g32Pos ++
  realField v 306 (fun x => le32 (f 274) x) ++ realField v 274 g32Pos ++ realField v 242 (fun x => le32 0 x) ++ realField v 210 anyReal ++
  realField v 178 (fun x => g32Pos x && le32 x g32One) ++ [inRange v 177 170 1 255] ++
  realField v 118 (fun x => le32 (f 274) x && le32 x (f 306)) ++
  [inRange v 101 82 10000 1000000, inRange v 62 61 0 2, cond (decide (fieldLe v 58 55 ≤ 7) || fieldLe v 58 55 == 15) 55, inRange v 54 52 1 7]

/-- PROFILE_RECORD (07 Table 7.6). -/
def chkProfile (v : Bytes) : List Chk :=
  [zeroBits v 383 282] ++ realField v 146 g32Pos ++ realField v 114 g32Pos ++ realField v 82 g32Pos ++ realField v 50 anyReal ++
  realField v 18 anyReal ++ [inRange v 17 2 10 65535, inRange v 1 0 0 1]

/-- INJECTOR_RECORD (07 Tables 7.7 and 7.8). -/
def chkInjector (v : Bytes) : List Chk :=
  let k := fieldLe v 2 0
  [zeroBits v 2047 1792, zeroBits v 95 83, inRange v 2 0 0 4] ++ realField v 96 anyReal ++
  (if k = 1 then [cond (fieldLe v 77 54 != 0) 54, cond (fieldLe v 53 23 != 0) 23,
    cond ([7, 9, 10, 11, 15, 17, 20, 23, 31].contains (fieldLe v 22 18)) 18] else []) ++
  (if k = 2 ∨ k = 3 then [cond (fieldLe v 255 224 != 0) 224] ++ realField v 192 anyReal ++ realField v 160 g32Pos else []) ++
  (if k = 4 then [inRange v 82 78 1 16] ++ (upTo (fieldLe v 82 78)).flatMap (fun i =>
    realField v (256 + 96 * i + 32) anyReal ++ realField v (256 + 96 * i) anyReal) else [])

/-- CAPTURE_RECORD (07 Table 7.9). -/
def chkCapture (v : Bytes) : List Chk :=
  [zeroBits v 511 192, inRange v 85 65 16 1048576, cond (decide (fieldLe v 105 86 < fieldLe v 85 65)) 86, inRange v 32 25 1 255,
   inRange v 22 21 0 2, inRange v 20 17 0 8, zeroBits v 2 0]

/-- TRUNK_RECORD (10 Table 10.2). -/
def chkTrunk (v : Bytes) : List Chk :=
  [cond (fieldLe v 248 248 == 0) 208, inRange v 175 168 0 127, inRange v 167 144 1 (2 ^ 24 - 1),
   cond (decide (fieldLe v 143 128 ≤ fieldLe v 167 144)) 128, inRange v 127 112 1 65535, zeroBits v 111 109, inRange v 108 105 4 10,
   inRange v 104 103 0 2, inRange v 102 101 (fieldLe v 104 103) 2, inRange v 100 99 0 2, zeroBits v 96 0]

/-- CELL_RECORD (10 Table 10.10). -/
def chkCell (v : Bytes) : List Chk :=
  [inRange v 463 458 1 32, inRange v 456 441 1 65535, zeroBits v 384 384] ++
  (upTo 4).flatMap (fun n =>
    let b := 96 * n
    let period := fieldLe v (b + 95) (b + 64)
    [cond (period == 0 || (decide (10000 ≤ period) && decide (period ≤ 1000000000))) (b + 64),
     cond (period == 0 || decide (fieldLe v (b + 63) (b + 32) < period)) (b + 32), zeroBits v (b + 15) (b + 5),
     (if period = 0 then inRange v (b + 4) b 0 0 else inRange v (b + 4) b 1 16)])

/-- STREAM_CTX (10 Table 10.13). -/
def chkStream (v : Bytes) : List Chk := realField v 64 anyReal ++ realField v 32 anyReal ++ [zeroBits v 9 0]

/-- A coefficient of a loop written through its own sub-object: its own range (07 Table 7.2). -/
def chkCoeff (sub : Nat) (v : Bytes) : List Chk :=
  match sub with
  | 1 => realField v 0 (fun x => g32Pos x && le32 x g32One)
  | 2 => realField v 0 anyReal
  | 3 => realField v 0 (fun x => le32 0 x)
  | 4 | 5 | 6 | 11 => realField v 0 g32Pos
  | 7 => realField v 0 (fun x => le32 0 x && le32 x g32One)
  | 8 => [inRange v 7 0 1 255]
  | 9 => [inRange v 31 0 0 1048575]
  | _ => realField v 0 anyReal

/-- The checks of a value as stored, by object. -/
def valueChecks (index sub inst : Nat) (v : Bytes) : List Chk :=
  match index with
  | 0x1101 => [inRange v 15 0 100 60000]
  | 0x1110 => chkHostPort v
  | 0x1201 => eachEntry 16 v chkOwner
  | 0x1202 => [inRange v 7 0 1 2]
  | 0x2010 => if sub = 0 then chkLc inst v else [cond (decide ((signed 64 (leNat v)).natAbs ≤ rateLimit.toNat)) 0]
  | 0x2014 => [inRange v 7 0 1 1]
  | 0x2015 => [cond (decide (leNat v ≤ 15) && leNat v != 3 || leNat v == 0xFF) 0]
  | 0x2020 => [inRange v 7 0 0 1]
  | 0x2021 => [cond (decide (beAt v 0 1 ≤ 15)) 0, cond (decide (1000 ≤ beAt v 1 4) && decide (beAt v 1 4 ≤ 500000000)) 8]
  | 0x2100 => if sub = 0 then chkAt v else realField v 0 anyReal
  | 0x2102 => eachEntry 8 v chkEvent
  | 0x2103 => [inRange v 7 0 0 7]
  | 0x2110 => [zeroBits v 63 56, inRange v 55 36 20 1000000, inRange v 35 16 100 1000000, inRange v 9 6 0 12]
  | 0x2200 => [inRange v 7 0 0 1, inRange v 15 8 0 127, inRange v 23 16 0 1, inRange v 31 24 0 1, inRange v 39 32 0 1]
  | 0x3000 => chkPart v
  | 0x3001 => [inRange v 7 0 0 2]
  | 0x3100 => chkModel v
  | 0x3800 => [inRange v 75 72 0 12, cond (decide (fieldLe v 71 60 < 2 ^ fieldLe v 75 72)) 60, zeroBits v 11 0]
  | 0x3810 => eachEntry 16 v chkFeature
  | 0x3811 => eachEntry 16 v chkOut
  | 0x3819 => eachEntry 4 v (fun e => realField e 0 anyReal)
  | 0x3820 => [zeroBits v 104 0]
  | 0x4100 => chkTemplate v
  | 0x4101 => eachEntry 24 v chkSlot
  | 0x4102 => eachEntry 64 v chkDesc
  | 0x4103 => eachEntry 16 v chkRoute
  | 0x4104 => eachEntry 8 v (fun e => [zeroBits e 31 16])
  | 0x4105 => eachEntry 8 v (fun e => [zeroBits e 31 17])
  | 0x4110 | 0x4111 => realField v 0 anyReal
  | 0x5010 => if sub = 0 then chkLoop v else realField v 0 anyReal
  | 0x5011 => chkCoeff sub v
  | 0x5012 => [inRange v 7 0 0 1]
  | 0x5020 => if sub = 0 then chkProfile v else if sub = 1 then realField v 0 anyReal else realField v 0 g32Pos
  | 0x5030 => chkInjector v
  | 0x5040 => chkCapture v
  | 0x5041 => [inRange v 7 0 1 2]
  | 0x6000 => chkTrunk v
  | 0x6010 => chkCell v
  | 0x6020 => if sub = 0 then chkStream v else if sub = 3 then [] else realField v 0 anyReal
  | 0x7000 => [zeroBits v 7 5]
  | _ => []

/-- The first check that a value breaks: abort code and byte offset. -/
def valueError (index sub inst : Nat) (v : Bytes) : Option (Nat × Nat) :=
  ((valueChecks index sub inst v).find? (fun c => !c.1)).map (fun c => (c.2.2, c.2.1))

end Sys2Proof.Machine
end

