-- ==== Sys2Proof/Machine/Sessions.lean ====
section
/-! DEFINITION. Sessions: what a message must be to be accepted, one execution for one request, closing, set-up, and the commands
HELLO, PROOF, PROOF_TIMEOUT, CLOSE, SESSION_TIMEOUT, KEEPALIVE and MASTER (11 R292 to R298, R301). -/

namespace Sys2Proof.Machine

/-! ## Closing (11 R298) -/

/-- The number of no session: what is still due to a closed session is answered to none. -/
def noSession : Nat := 8

/-- Requests that run on without their session: ADMIT, SWAP, writes that wait for a boundary, a staged bundle. -/
def orphan (n : Nat) (w : World) : World :=
  let who (k : Nat) : Nat := if k = n then noSession else k
  let w := onCfg (fun c => { c with
    admitting := c.admitting.map (fun a => { a with session := who a.session })
    swap := c.swap.map (fun a => { a with session := who a.session })
    firstSwap := c.firstSwap.map (fun a => (who a.1, a.2))
    rw := c.rw.map (fun a => { a with session := who a.session }) }) w
  onGarnet (fun g => { g with
    staging := g.staging.map (fun a => (who a.1, a.2))
    slotPending := g.slotPending.filter (· ≠ n) }) w

/-- A session closes: token, subscriptions, transfers, cached responses and tier T3 pages go; its counters stay (11 R316). -/
def closeSession (n : Nat) (w : World) : World :=
  if !(session w n).live then w else
    let w := onSession n (fun s =>
      { nTagFail := s.nTagFail, nReplay := s.nReplay, nAborts := s.nAborts, nDup := s.nDup, nMissed := s.nMissed, nResends := s.nResends }) w
    let w := onLink (fun l => { l with master := if l.master = some n then none else l.master }) w
    loseSwapPages n (orphan n w)

/-- Sessions whose sending counter is spent close (11 R294). -/
def closeSpent (w : World) : World :=
  eachW ((upTo 8).filter (fun n => decide (2 ^ 63 < (session w n).txNext))) closeSession w

/-! ## Accepting messages (11 R292, R294, R295) -/

/-- A datagram dropped as malformed, counted. -/
def dropMalformed (p : Nat) (w : World) : World := onPort p (fun x => { x with nMalformed := x.nMalformed + 1 }) w

/-- Who sent a datagram. -/
def peerOf (m : HostMsg) : Peer := { port := m.port, mac := m.mac, ip := m.ip, udp := m.udp, own := m.dst }

/-- A message of a session, its tag and counter judged; `f` is what an accepted message does. -/
def acceptMsg (m : HostMsg) (p : PdsMsg) (f : PdsMsg → World → World) (w : World) : World :=
  let s := session w p.sess
  if !s.live || hmac s.khd p.signed != p.tag then onSession p.sess (fun s => { s with nTagFail := s.nTagFail + 1 }) w
  else if 2 ^ 63 < p.counter then closeSession p.sess w
  else if !counterOk s p.counter then onSession p.sess (fun s => { s with nReplay := s.nReplay + 1 }) w
  else
    closeSpent (f p (onSession p.sess (fun s => { takeCounter p.counter s with
      heard := nowNs w, peer := peerOf m }) w))

/-- A datagram that reaches the dictionary, sent to an address of the port and to PDS_PORT (any other is dropped as unsupported, 11 R290,
R291), of one of the row's types. HELLO has no tag, and PROOF is tagged with a key that is not
yet a session's: `f` judges them. -/
def receive (types : List Nat) (m : HostMsg) (f : PdsMsg → World → World) (w : World) : World :=
  if !hostsServed w || !portCarries w m.port then w else
    let got (w : World) : World := onPort m.port (fun x => { x with nRx := x.nRx + 1 }) w
    if !(portAddrs w m.port).contains m.dst || decide (m.dstPort.toNat ≠ pdsPort w m.port) then
      onPort m.port (fun x => { x with nUnsupported := x.nUnsupported + 1 }) (got w)
    else match parsePds m.bytes with
    | none => dropMalformed m.port (got w)
    | some p =>
      if !types.contains p.type then w
      else if p.type = 1 ∨ p.type = 3 then f p (got w)
      else acceptMsg m p f (got w)

/-- A request of a session executed once: a cached response is sent again, one still open is not executed again, more than 16 are
refused (11 R295). -/
def oneRequest (n type : Nat) (reqId : BitVec 32) (shadow : Bool) (f : World → World) (w : World) : World :=
  let s := session w n
  match s.cache.find? (fun e => e.1 = reqId) with
  | some (_, t, fl, body) => sendBody s.peer n t fl reqId body (onSession n (fun s => { s with nDup := s.nDup + 1 }) w)
  | none =>
    if s.open_.any (fun r => r.reqId = reqId) then onSession n (fun s => { s with nDup := s.nDup + 1 }) w
    else if 16 ≤ s.open_.length then abortReq n type reqId aLimit w
    else f (onSession n (fun s => { s with open_ := { reqId := reqId, shadow := shadow, peer := s.peer } :: s.open_ }) w)

/-- The slot's roles allow a request; a role of 8 or more is none (11 Table 11.5). -/
def hasRole (w : World) (n role : Nat) : Bool := decide (8 ≤ role) || bit (session w n).roles.toNat role

/-- A request, once, where the session has the role it asks. -/
def request (type role : Nat) (m : HostMsg) (f : PdsMsg → World → World) (w : World) : World :=
  receive [type] m (fun p w =>
    oneRequest p.sess type p.reqId (bit p.flags 2) (fun w => if hasRole w p.sess role then f p w else abortReq p.sess type p.reqId aRole w) w) w

/-! ## Set-up (11 R296, R297) -/

/-- A failed step of a set-up, counted and not answered. -/
def setupFails (port : Nat) (w : World) : World := onPort port (fun p => { p with nHandshake := p.nHandshake + 1 }) w

/-- A slot through which no session can be set up: empty, without roles, or with a live session. -/
def slotClosed (w : World) (n : Nat) : Bool :=
  let k := nth {} w.garnet.slots n
  k.key.isEmpty || k.roles == 0 || (session w n).live

/-- HELLO: nonce, ephemeral key and signature of the GX4 go back in CHALLENGE. -/
def hello (m : HostMsg) (w : World) : World :=
  receive [1] m (fun p w =>
    let slot := beAt p.body 0 1
    if p.body.length ≠ 101 then dropMalformed m.port w
    else if slotClosed w slot || decide (4 ≤ w.link.handshakes.length) then setupFails m.port w
    else
      match rngDraw 1 w with
      | none => setupFails m.port w
      | some (nonce, w) =>
        match rngScalar w with
        | none => setupFails m.port w
        | some (eph, w) =>
          let head := beBytes 1 slot ++ [0, 0, 0] ++ nonce ++ ecPublic eph
          let body := head ++ ecdsaSign (identityScalar w.garnet) (ascii "PDS-DEV" ++ sha256 (p.body ++ head))
          let h : Handshake := { slot := slot, port := m.port, hello := p.body, challenge := body,
                                 eph := eph, at_ := nowNs w }
          sendBare (peerOf m) 2 p.reqId body (onLink (fun l => { l with handshakes := l.handshakes ++ [h] }) w)) w

/-- HELLO. -/
def execHello (m : HostMsg) (s : State) : Host.Outcome State Fault Refusal := liveEffect (hello m) s

/-- TH2, K_hd and K_dh of a set-up, where the host's ephemeral point is one of the curve. -/
def setupKeys (h : Handshake) : Option (Bytes × Bytes × Bytes) :=
  let th2 := sha256 (h.hello ++ h.challenge)
  (ecdh h.eph (slice h.hello 36 65)).map (fun z =>
    let prk := hmac th2 z
    (th2, hmac prk (ascii "PDS h2d" ++ [1]), hmac prk (ascii "PDS d2h" ++ [1])))

/-- A session opened, and ACCEPT sent: the counters start at 1 in the message after it (11 R294). -/
def openSession (m : HostMsg) (p : PdsMsg) (khd kdh : Bytes) (w : World) : World :=
  let n := p.sess
  let w := onSession n (fun s =>
    { live := true, peer := peerOf m, roles := (nth {} w.garnet.slots n).roles, khd := khd, kdh := kdh,
      txNext := 0, heard := nowNs w, nTagFail := s.nTagFail, nReplay := s.nReplay, nAborts := s.nAborts, nDup := s.nDup,
      nMissed := s.nMissed, nResends := s.nResends }) w
  sendPds (peerOf m) n 4 (responseFlags w 0 { reqId := p.reqId }) p.reqId 0 (beBytes 1 n ++ beBytes 1 (w.link.master.getD 0xFF) ++ beBytes 1 (devCode w.dev.state) ++ [0] ++
    beBytes 8 w.dev.epoch) w

/-- PROOF: judged against the set-ups of its slot; the one whose key its tag shows is ended, and opens the session where the host's
signature verifies. -/
def proof (m : HostMsg) (w : World) : World :=
  receive [3] m (fun p w =>
    let mine := w.link.handshakes.filter (fun h => h.slot = p.sess)
    let hit := mine.findSome? (fun h => (setupKeys h).bind (fun k => if hmac k.2.1 p.signed = p.tag then some (h, k) else none))
    match hit with
    | none => onSession p.sess (fun s => { s with nTagFail := s.nTagFail + 1 }) w
    | some (h, th2, khd, kdh) =>
      let w := onLink (fun l => { l with handshakes := l.handshakes.filter (· ≠ h) }) w
      if p.body.length ≠ 64 then dropMalformed m.port w
      else if slotClosed w p.sess || decide (h.at_ + 1000000000 < nowNs w) ||
        !ecdsaVerify (nth {} w.garnet.slots p.sess).key (ascii "PDS-HOST" ++ th2) p.body then setupFails m.port w
      else openSession m p khd kdh w) w

/-- PROOF. -/
def execProof (m : HostMsg) (s : State) : Host.Outcome State Fault Refusal := liveEffect (proof m) s

/-- PROOF_TIMEOUT: set-ups of a slot whose PROOF has not come within 1 s of the CHALLENGE (11 R297). -/
def proofTimeout (slot : Nat) (w : World) : World :=
  let late (h : Handshake) : Bool := decide (h.slot = slot) && decide (h.at_ + 1000000000 ≤ nowNs w)
  let gone := w.link.handshakes.filter late
  eachW gone (fun h w => setupFails h.port w) (onLink (fun l => { l with handshakes := l.handshakes.filter (fun h => !late h) }) w)

/-- PROOF_TIMEOUT. -/
def execProofTimeout (slot : Fin 8) (s : State) : Host.Outcome State Fault Refusal := liveEffect (proofTimeout slot) s

/-! ## Closing, keeping alive, the token -/

/-- A request with an empty body. -/
def emptyBody (type : Nat) (p : PdsMsg) (f : World → World) (w : World) : World :=
  if p.body.isEmpty then f w else abortReq p.sess type p.reqId aBadMessage w

/-- CLOSE: answered, then closed. -/
def closeReq (m : HostMsg) (w : World) : World :=
  request 0x05 8 m (fun p => emptyBody 0x05 p (fun w => closeSession p.sess (respond p.sess 0x05 0 p.reqId [] w))) w

/-- CLOSE. -/
def execClose (m : HostMsg) (s : State) : Host.Outcome State Fault Refusal := liveEffect (closeReq m) s

/-- SESSION_TIMEOUT: LC0 has run for SESSION_TIMEOUT without an accepted message. -/
def sessionExpires (n : Nat) (w : World) : World :=
  if (session w n).live ∧ (session w n).heard + sessionTimeoutNs w ≤ nowNs w then closeSession n w else w

/-- SESSION_TIMEOUT. -/
def execSessionTimeout (n : Fin 8) (s : State) : Host.Outcome State Fault Refusal := liveEffect (sessionExpires n) s

/-- KEEPALIVE (11 Table 11.9). -/
def keepalive (m : HostMsg) (w : World) : World :=
  request 0x06 0 m (fun p => emptyBody 0x06 p (fun w =>
    respond p.sess 0x06 0 p.reqId (beBytes 8 w.dev.epoch ++ beBytes 1 (devCode w.dev.state) ++ beBytes 1 (w.link.master.getD 0xFF) ++
      beBytes 1 (b2n w.dev.bounded)) w)) w

/-- KEEPALIVE. -/
def execKeepalive (m : HostMsg) (s : State) : Host.Outcome State Fault Refusal := liveEffect (keepalive m) s

/-- MASTER: OP 1 takes the token where no session holds it and the slot has the role; OP 2 gives back one's own (11 R301). -/
def masterToken (m : HostMsg) (w : World) : World :=
  request 0x07 8 m (fun p w =>
    let no (c : Nat) : World := abortReq p.sess 0x07 p.reqId c w
    let pass (h : Option Nat) : World :=
      respond p.sess 0x07 0 p.reqId (beBytes 1 (h.getD 0xFF)) (onLink (fun l => { l with master := h }) w)
    if p.body.length ≠ 1 then no aBadMessage
    else if beAt p.body 0 1 = 1 then
      if !hasRole w p.sess 2 then no aRole else if w.link.master.isSome then no aMasterHeld else pass (some p.sess)
    else if w.link.master = some p.sess then pass none else no aNotMaster) w

/-- MASTER with OP ACQUIRE. -/
def execMasterAcquire (m : HostMsg) (s : State) : Host.Outcome State Fault Refusal := liveEffect (masterToken m) s

/-- MASTER with OP RELEASE. -/
def execMasterRelease (m : HostMsg) (s : State) : Host.Outcome State Fault Refusal := liveEffect (masterToken m) s

end Sys2Proof.Machine
end

