-- ==== Sys2Proof/Machine/Admission.lean ====
section
/-! DEFINITION. Admission: the cases and their order (09 R256, R260), placement and derived placements (09 R246, R247, 12 R328),
the report (09 R261), what a verdict writes into the shadow (11 R309), and the commands ADMIT and ADMIT_VERDICT (11 R308). -/

namespace Sys2Proof.Machine

/-! ## Placement (09 R246) -/

/-- The set without injectors and capture channels, for cases that carry critical work alone. -/
def withoutProbes (set : Store Bytes) : Store Bytes :=
  set.filter (fun e => keyIndex e.1 != 0x5030 && keyIndex e.1 != 0x5040)

/-- The item is shed. -/
def isShed (shed : List Nat) (index inst : Nat) : Bool := shed.contains (index * 2 ^ 32 + inst)

/-- Where the mapping holds the accumulators of a partition's models in G32 at a segment boundary (03 R77). -/
def placeCrossings (set : Store Bytes) (s : Store (List Nat)) (q : Nat) : Store (List Nat) :=
  (pModels (partRec set q)).foldl (fun s m => (tensorList (modelIn set m)).foldl (fun s t =>
    sPut [] s ((q * 256 + m) * 1024 + t.1) (if t.2.2 = 0 then [] else
      (Config.crossings set q m t.1).filter (fun k => decide (0 < k) && k % 32 == 0 && decide (k < padK t.2.2)))) s) s

/-- Everything placed on some dies, but for what is shed. -/
def placeSet (set : Store Bytes) (dies shed : List Nat) : Mapping :=
  let loops := (loopsOf set).filter (fun l => !isShed shed 0x5010 l)
  let gens := (instancesOf set 0x5020 0).filter (fun g => !isShed shed 0x5020 g)
  let p := placeGroups set dies (groupsOf set loops gens)
  let f := followLoops set p
  let runs := (partsOf set).filter (fun q => partRuns set dies q && !isShed shed 0x3000 q)
  let h := placeSeqs set runs ((seqsOf set).filter (fun s => !isShed shed 0x3800 s))
  let map : Mapping := {
    dies := BitVec.ofNat 4 (sumList (dies.map (2 ^ ·)))
    loops := p.loops, gens := p.gens, injs := f.1, caps := f.2
    tmpls := ((tmplsOf set).filter (fun t => !dies.contains (tEngine (tRec set t) / 8))).map (fun t => (t, partnerOf dies 8 (tEngine (tRec set t))))
    homes := h.homes, parts := h.parts
    shed := shed ++ ((partsOf set).filter (fun q => !partRuns set dies q && !isShed shed 0x3000 q)).map (fun q => 0x3000 * 2 ^ 32 + q) ++
      h.left.map (fun s => 0x3800 * 2 ^ 32 + s) }
  let c : Case := { dies := dies, map := map, critical := false }
  let pages (q d : Nat) : Nat := partPages set c d q
  { map with
    crossings := runs.foldl (placeCrossings set) []
    bounds := runs.map (fun q => (q, partBounds set c q))
    pages := (runs.flatMap (fun q => dies.map (fun d => (q * 4 + d, pages q d)))).filter (fun x => x.2 ≠ 0) }

/-- Where critical work stands when a die of a placement is lost: its own on the partners. -/
def lostMap (set : Store Bytes) (map : Mapping) (dies : List Nat) : Mapping :=
  let mv (per e : Nat) : Nat := if dies.contains (e / per) then e else partnerOf dies per e
  let loops := map.loops.filter (fun x => lpCritical (loopRecIn set x.1))
  let named := loops.filterMap (fun x => genOf set x.1)
  { map with
    loops := loops.map (fun x => (x.1, mv 4 x.2))
    gens := (map.gens.filter (fun x => named.contains x.1)).map (fun x => (x.1, mv 4 x.2))
    tmpls := ((tmplsOf set).filter (fun t => !dies.contains (placedTmpl map set t / 8))).map (fun t => (t, partnerOf dies 8 (placedTmpl map set t))) ++
      map.tmpls.filter (fun x => dies.contains (x.2 / 8)) }

/-! ## The checks (09 R256) -/

/-- Every object of the set against its ranges and reserved bits. -/
def fieldFails (set : Store Bytes) : List Fail :=
  set.flatMap (fun e =>
    failUnless (valueError (keyIndex e.1) (keySub e.1) (keyInst e.1) e.2).isNone 1 (keyIndex e.1) (keyInst e.1))

/-- What no placement changes. -/
def fixedFails (carried : Nat → Bool) (set : Store Bytes) (failed : BitVec 18) : List Fail :=
  fieldFails set ++ ownerFails set ++ portFails set failed ++ trackerFails set ++ cellFails set ++
  (loopsOf set).flatMap (fun l => loopFails (carried l) set l) ++ (instancesOf set 0x5020 0).flatMap (genFails set) ++
  (tmplsOf set).flatMap (tmplFails set) ++ serveFails set

/-- One case. -/
def caseFails (set0 : Store Bytes) (c : Case) : List Fail :=
  let set := if c.critical then withoutProbes set0 else set0
  let p : Placed := { loops := c.map.loops, gens := c.map.gens }
  basaltFails set c ++ (haloEngines c.dies).flatMap (haloFails set c.dies p) ++ (caseTmpls set c).flatMap (boundFails set c) ++
  serveCaseFails set c ++ trunkFails set c ++ powerFails set c

/-- The cases: with four dies all of them and the loss of each; with fewer, all work on those that remain (14 R384, 12 R334). -/
def casesOf (set : Store Bytes) (dies : List Nat) (map : Mapping) : List (Nat × Case) :=
  if dies.length = 4 then
    (0, { dies := dies, map := map, critical := false }) :: (upTo 4).map (fun d =>
      let left := dies.filter (· ≠ d)
      (4 + d, { dies := left, map := lostMap set map left, critical := true }))
  else [(4 + ((upTo 4).find? (fun d => !dies.contains d)).getD 0, { dies := dies, map := map, critical := false })]

/-- A partition with a tile or tier T2 frames on a die that carries no work has nowhere to run. -/
def homelessFails (set : Store Bytes) (dies : List Nat) : List Fail :=
  ((partsOf set).filter (fun p => !partRuns set dies p)).map (fun p =>
    { check := 9, index := 0x3000, inst := p, needed := pShareLen (partRec set p) })

/-- The checks of Table 9.7 in the order in which R256 makes them. -/
def checkOrder : List Nat := [0x01, 0x10, 0x02, 0x09, 0x0A, 0x0B, 0x0C, 0x05, 0x03, 0x04, 0x06, 0x07, 0x08, 0x0D, 0x0E, 0x0F, 0x11]

/-- Failures in check order. -/
def inCheckOrder (l : List (Nat × Fail)) : List (Nat × Fail) := checkOrder.flatMap (fun c => l.filter (fun f => f.2.check == c))

/-- Every failure in check order, case after case; what no placement changes stands with the first case (log 85). -/
def allFails (carried : Nat → Bool) (set : Store Bytes) (failed : BitVec 18) (dies : List Nat) : List (Nat × Fail) :=
  let fixed := (fixedFails carried set failed ++ homelessFails set dies).map (fun f => (0, f))
  match (casesOf set dies (placeSet set dies [])).map (fun c => (caseFails set c.2).map (fun f => (c.1, f))) with
  | [] => inCheckOrder fixed
  | first :: rest => inCheckOrder (fixed ++ first) ++ rest.flatMap inCheckOrder

/-- POWER_ADMITTED: the figure of all dies, then of each lost-die case (15 R405). -/
def powerCases (set : Store Bytes) (dies : List Nat) : List Nat :=
  let map := placeSet set dies []
  powerOf set { dies := dies, map := map, critical := false } ::
    (upTo 4).map (fun d =>
      let left := dies.filter (· ≠ d)
      powerOf (withoutProbes set) { dies := left, map := lostMap set map left, critical := true })

/-! ## Derived placements (12 R328, Table 12.5) -/

/-- Ordered by PRIORITY rising, then by number falling. -/
def byPriority (pri : Nat → Nat) (l : List Nat) : List Nat :=
  l.mergeSort (fun a b => pri a < pri b || (pri a == pri b && b ≤ a))

/-- What may be shed, in order; each entry is shed as one item. -/
def shedOrder (set : Store Bytes) (shed : List Nat) : List (List Nat) :=
  let it (index inst : Nat) : Nat := index * 2 ^ 32 + inst
  let seqs := (seqsOf set).filter (fun s => !isShed shed 0x3800 s)
  let parts := (partsOf set).filter (fun p => !isShed shed 0x3000 p)
  let ts := (tmplsOf set).filter (fun t => !tCritical (tRec set t) && !isShed shed 0x4100 t)
  let gs := (groupsOf set (loopsOf set) []).filter (fun g => g.loops.all (fun l => !lpCritical (loopRecIn set l) && !isShed shed 0x5010 l))
  (byPriority (fun s => sqPriority (sqRecIn set s)) seqs).map (fun s => [it 0x3800 s]) ++
  (byPriority (fun p => pPriority (partRec set p)) parts).map (fun p =>
    it 0x3000 p :: (seqs.filter (fun s => sqPart (sqRecIn set s) = p)).map (it 0x3800)) ++
  (byPriority (fun t => tPriority (tRec set t)) ts).map (fun t => [it 0x4100 t]) ++
  gs.reverse.map (fun g => g.loops.map (it 0x5010) ++ g.gens.map (it 0x5020))

/-- The placement on some dies, shedding one item after another until every check of the all-dies case holds. -/
def deriveFrom (set : Store Bytes) (dies : List Nat) : Nat → List Nat → Mapping
  | 0, shed => placeSet set dies shed
  | n + 1, shed =>
    let map := placeSet set dies shed
    if (caseFails set { dies := dies, map := map, critical := false }).isEmpty then map
    else
      match shedOrder set map.shed with
      | [] => map
      | items :: _ => deriveFrom set dies n (shed ++ items)

def derive (set : Store Bytes) (dies : List Nat) : Mapping := deriveFrom set dies (set.length + 1) []

/-- The derived placements for the loss of each of the dies that carry work. -/
def derivedSets (set : Store Bytes) (dies : List Nat) : Store Mapping :=
  dies.map (fun d => (d, derive set (dies.filter (· ≠ d))))

/-! ## What a verdict writes (08 Tables 8.2, 8.5 and 8.9, 06 Table 6.1, 07 Table 7.9, 10 Table 10.10) -/

/-- CFG_ID: kept while the record's other fields are those of the active set's record, otherwise changed from it. -/
def newCfgId (active : Store Bytes) (k : Nat) (r : Bytes) : Nat :=
  let old := cellRecIn active k
  let bare (x : Bytes) : Bytes := withoutRo 0x6010 0 k x
  let v := Config.cfgId (bare r) % 2 ^ 32
  if !hasObj active 0x6010 0 k then v
  else if bare old = bare r then clCfgId old
  else if v = clCfgId old then (v + 1) % 2 ^ 32 else v

/-- First Stratum page of a capture ring: the rings of a set one after another above the staging of bundles, whatever their dies, so that
no two share a page under any placement (log 39). -/
def ringPageOf (set : Store Bytes) (c : Nat) : Nat :=
  16 + sumList (((instancesOf set 0x5040 0).filter (fun x => x < c)).map (fun x => pagesOf (cpEntries (capRecIn set x) * 16)))

/-- An object of the admitted set with the fields that admission computes. -/
def admittedObj (active set : Store Bytes) (map : Mapping) (dies : List Nat) (k : Nat) (v : Bytes) : Bytes :=
  let i := keyInst k
  let c : Case := { dies := dies, map := map, critical := false }
  match keyIndex k, keySub k with
  | 0x3100, 0 => setField (setField v 191 160 (weightBytes v)) 131 128 (libMask set c i)
  | 0x3800, 0 => setField v 13 12 (sGet 0 map.homes i)
  | 0x3820, 0 => setField v 255 240 (frameBytes set i)
  | 0x4100, 0 => setField (setField v 511 448 (signatureOf set i)) 213 209
      (if tCritical v then partnerOf dies 8 (placedTmpl map set i) else 0)
  | 0x5040, 0 => setField v 64 33 (ringPageOf set i)
  | 0x6010, 0 => setField v 416 385 (newCfgId active i v)
  | _, _ => v

/-- SET_DIGEST (11 R309). -/
def setDigest (set : Store Bytes) : Bytes :=
  sha256 (set.flatMap (fun e =>
    let o := findObj e.1
    match o with
    | .error _ => []
    | .ok d => bytesOfKey e.1 ++ storedToWire d.type (withoutRo (keyIndex e.1) (keySub e.1) (keyInst e.1) e.2)))

/-! ## ADMIT and its verdict -/

/-- ADMIT and SWAP are refused in RECOVERY, before READY_QUIET, and where fewer than three dies remain before a set is in force (11
R313, 14 R383). -/
def setService (w : World) : Bool :=
  (match w.dev.state with | .readyQuiet | .live | .degraded => true | _ => false) &&
  (w.cfg.present || decide (3 ≤ (goodDies w).length))

def shadowBusy (w : World) : Bool :=
  match w.cfg.state with
  | .admitting | .swapPending => true
  | _ => false

/-- ADMIT (11 R301, R308, R313). -/
def admitReq (m : HostMsg) (w : World) : World :=
  request 0x18 8 m (fun p w =>
    let no (c : Nat) : World := abortReq p.sess 0x18 p.reqId c w
    if !setService w then no aDeviceState
    else if w.link.master ≠ some p.sess then no aNotMaster
    else if !p.body.isEmpty then no aBadMessage
    else if shadowBusy w then no aShadowBusy
    else if w.cfg.state = .empty then no aNotAdmitted
    else onCfg (fun c => { c with
      state := .admitting
      admitting := some { session := p.sess, reqId := p.reqId, epoch := w.dev.epoch } }) w) w

def execAdmitReq (m : HostMsg) (s : State) : Host.Outcome State Fault Refusal := liveEffect (admitReq m) s

/-- The verdict on the shadow as it stands, on the dies that remain. -/
def admitVerdict (durationMs : Nat) (w : World) : World :=
  match w.cfg.admitting with
  | none => w
  | some a =>
    let dies := goodDies w
    let set := w.cfg.shadow
    let carried (l : Nat) : Bool := w.cfg.present && !(loop w l).stopped && loopCarried w.cfg.active set l
    let fails := allFails carried set w.dev.portFailed dies
    let ok := fails.isEmpty
    let map := placeSet set dies []
    let entries := fails ++ (fillNotes set { dies := dies, map := map, critical := false }).map (fun f => (0, f))
    let listed := entries.take 1024
    let rest := entries.length - listed.length
    let id := w.cfg.lastAdmitId + 1
    let final : Store Bytes := set.map (fun e => (e.1, admittedObj w.cfg.active set map dies e.1 e.2))
    let w := onCfg (fun c => { c with
      admitting := none
      report := listed.flatMap (fun f => failBytes f.1 f.2)
      summary := [b2n (!ok), listed.length, rest, a.epoch, durationMs]
      power := powerCases set dies }) w
    let w := if ok then onCfg (fun c => { c with
      state := .admitted, lastAdmitId := id, admitId := id, shadow := final, mappingShadow := map
      derivedShadow := derivedSets set dies, digestShadow := setDigest final }) w
      else onCfg (fun c => { c with state := .editing }) w
    let w := record 0x10 4 0x3031 0 w
    respond a.session 0x18 0 a.reqId (beBytes 1 (b2n (!ok)) ++ [0] ++ beBytes 2 listed.length ++ beBytes 4 rest ++ beBytes 8 (if ok then id else 0) ++
      beBytes 4 durationMs) w

def execAdmitVerdict (durationMs : Nat) (s : State) : Host.Outcome State Fault Refusal := liveEffect (admitVerdict durationMs) s

end Sys2Proof.Machine
end

