-- ==== Sys2Proof/Machine/Trunks.lean ====
section
/-! DEFINITION. The trunks: links (10 R264), frames in and out (10 R265 to R270, R274), cells (10 R271 to R273), time to the cells (10
R275, R276), commands and their ledger (10 R279, R280, 02 R56), streams and the sample ledger (10 R282 to R284). -/

namespace Sys2Proof.Machine

/-! ## Links (10 R264) -/

/-- A trunk loss: every enabled cell of the trunk is LOST. Commands that wait at the trunk wait on, and expire as usual (07 R182,
10 R271). -/
def trunkLoss (t : Nat) (w : World) : World :=
  let ks := if w.cfg.present then (cellsOf w.cfg.active).filter (fun k => k / 256 = t) else []
  let w := eachW ks (fun k => onCell k (fun c => { c with mode := .lost, setDue := some (nowNs w) })) w
  record 0x41 4 0x6001 t (countTrunk t 14 (onTrunk t (fun x => { x with up := false }) w))

/-- The PHY role: forced by PHY_ROLE, or what auto-negotiation resolved (10 Table 10.1). -/
def linkRole (r : Bytes) (master : Bool) : Bool :=
  match trRole r with
  | 0 => true
  | 1 => false
  | _ => master

/-- TRUNK_LINK_UP: the link comes up at a rate, none above RATE_MAX and RATE_MAX alone without auto-negotiation; below RATE_MIN that is a
trunk loss (10 R263, R264). -/
def linkUp (t rate : Nat) (master : Bool) (w : World) : World :=
  let r := trunkRec w t
  if !trEnable r || decide (trRateMax r < rate) || (!trAnEn r && rate != trRateMax r) then w
  else if rate < trRateMin r then trunkLoss t w
  else onTrunk t (fun x => { x with up := true, rate := rate, master := linkRole r master }) w

/-- TRUNK_LINK_UP. -/
def execTrunkLinkUp (t : Fin 16) (rate : Fin 3) (master : Bool) (s : State) : Host.Outcome State Fault Refusal :=
  liveEffect (linkUp t rate master) s

/-- TRUNK_LINK_DOWN: the link goes down, or has come up below RATE_MIN. -/
def execTrunkLinkDown (t : Fin 16) (cameUpAt : Option (Fin 3)) (s : State) : Host.Outcome State Fault Refusal :=
  liveEffect (fun w =>
    match cameUpAt with
    | some rate => if trEnable (trunkRec w t) && decide (rate.val < trRateMin (trunkRec w t)) then trunkLoss t w else w
    | none => if (trunk w t).up then trunkLoss t w else w) s

/-! ## Frames in (10 R265 to R270) -/

/-- Fields of a frame; bytes count from the destination address (10 Table 10.3). -/
def frType (b : Bytes) : Nat := beAt b 14 1
def frSeq (b : Bytes) : Nat := beAt b 16 2
def frCell (b : Bytes) : Nat := beAt b 18 1

/-- A body breaks no reserved bit or code (10 Tables 10.5 to 10.9). -/
def bodyOk (b : Bytes) : Bool :=
  let z (o : Nat) : Bool := allZero (b.drop o)
  match frType b with
  | 1 => decide (beAt b 28 1 ≤ 3) && decide (1 ≤ beAt b 29 1) && decide (beAt b 29 1 ≤ 16) && beAt b 34 2 == 0 && z (36 + 2 * beAt b 29 1)
  | 3 => z 57
  | 4 =>
    (beAt b 20 1 == 1 || beAt b 20 1 == 3) && decide (1 ≤ beAt b 21 1) && decide (beAt b 21 1 ≤ 32) && decide (1 ≤ beAt b 22 1) &&
    decide (beAt b 22 1 ≤ 16) && decide (beAt b 23 1 ≤ 15) && (beAt b 20 1 != 1 || beAt b 28 4 == 0) && z 36
  | 5 =>
    let c := beAt b 28 2
    (decide (1 ≤ c) && decide (c ≤ 7) || decide (0x8000 ≤ c)) && decide (beAt b 30 1 ≤ 2) &&
    (decide (beAt b 31 1 ≤ 15) || beAt b 31 1 == 0xFF) && z 48
  | _ => false

/-- Bytes before the FCS that a frame's TYPE needs. -/
def frNeeds (b : Bytes) : Nat := if frType b = 1 then max 60 (36 + 2 * (beAt b 29 1 % 32)) else 60

/-- A TYPE that cells do not send: COMMAND, and CELLCFG SET. -/
def frSentByGx4 (b : Bytes) : Bool := frType b == 2 || (frType b == 4 && beAt b 20 1 == 2)

/-- Why a frame is refused: its counter in TRUNK_COUNTERS (10 R265, Table 10.17). -/
def refusal (w : World) (t : Nat) (f : Frame) : Option Nat :=
  let b := f.bytes
  let r := trunkRec w t
  let k := cellKey t (frCell b)
  if !f.fcsOk then some 3
  else if b.length < 60 ∨ 1514 < b.length then some 4
  else if f.tagged then some 5
  else if beAt b 12 2 = trPtpEtype r ∧ beAt b 12 2 ≠ trEtype r then some 9
  else if beAt b 12 2 ≠ trEtype r then some 6
  else if b.length < frNeeds b then some 4
  else if beAt b 15 1 ≠ 0x10 ∨ beAt b 19 1 ≠ 0 ∨ ¬(frSentByGx4 b ∨ bodyOk b) then some 7
  else if !w.cfg.present || !clEnable (cellRec w k) || decide (beAt b 6 6 ≠ clMac (cellRec w k)) then some 8
  else if frSentByGx4 b then some 9
  else none

/-- A frame arrives: counted, refused and counted, or, accepted and of the row's kind, given to the row. -/
def frameIn (t : Nat) (f : Frame) (mine : Bytes → Bool) (run : Nat → Bytes → World → World) (w : World) : World :=
  if !(trunk w t).up then w else
    match refusal w t f with
    | some c => countTrunk t c (countTrunk t 1 w)
    | none =>
      let k := cellKey t (frCell f.bytes)
      if mine f.bytes then run k f.bytes (onCell k (fun c => { c with heard := nowNs w }) (countTrunk t 1 w)) else w

/-- TRUNK_FRAME_REFUSED (10 R265). -/
def execTrunkFrameRefused (t : Fin 16) (f : Frame) (s : State) : Host.Outcome State Fault Refusal :=
  liveEffect (frameIn t f (fun _ => false) (fun _ _ w => w)) s

/-! ## Samples (10 R266, R282 to R285) -/

/-- Samples dropped with a reason (10 Table 10.14). -/
def dropSamples (t n reason : Nat) (w : World) : World := onTrunk t (fun x => { x with dropped := sUpd 0 x.dropped reason (· + n) }) w

/-- A channel value as G32: int16 or binary16, exact (03 Table 3.7). -/
def channelValue (int : Bool) (c : Nat) : W32 :=
  if int then g32 (signed 16 c) 0 else (pack32 false (unpackB16 c).1).1

/-- A delivered sample reaches the loops that name its stream, each on its engine's queue (07 R200). -/
def deliverLoops (s : Nat) (v : W32) (t1 ta : Nat) (w : World) : World :=
  eachW ((loopsOf w.cfg.active).filter (fun l => lpStream (loopRec w l) = s)) (fun l w =>
    let e := (loop w l).engine
    if !dieGood (die w (e / 4)) || decide (16 ≤ e) then w else
      let tr := lpTracker (loopRec w l)
      let q : QSample := { loop := l, y := v, t1 := t1, ta := ta, theta := thetaAt w tr, omega := omegaNow w tr }
      onHe e (fun h =>
        if h.queue.length < 512 then { h with queue := h.queue ++ [q], queueMax := max h.queueMax (h.queue.length + 1) }
        else { h with queueDrops := h.queueDrops + 1 }) w) w

/-- A delivered sample reaches the trackers that name its stream (02 Table 2.10). -/
def deliverTrackers (s : Nat) (v : W32) (w : World) : World := eachW (upTo 8) (fun k => trackerSample k s v) w

/-- One channel of an accepted frame (10 R283). -/
def channelIn (t s : Nat) (raw : W32) (t1 : Nat) (w : World) : World :=
  let r := actObj w 0x6020 0 s
  let x := stream w s
  if x.struck then dropSamples t 1 6 (onStream s (fun _ => {}) w)
  else if fieldLe r 31 24 = 0 then dropSamples t 1 1 w
  else if 0 < x.decimCnt then dropSamples t 1 2 (onStream s (fun x => { x with decimCnt := x.decimCnt - 1 }) w)
  else
    let v := (fma32 raw (field32 r 64) (field32 r 32)).1
    let ta := lc3Ns w
    let w := onStream s (fun _ => { lastT := t1, lastArr := nowNs w, value := v, decimCnt := fieldLe r 31 24 - 1, ever := true,
                                    nonfinite := !isFin32 v }) w
    let w := deliverTrackers s v (builderSample s v t1 ta (deliverLoops s v t1 ta w))
    onTrunk t (fun x => { x with consumed := x.consumed + 1 }) w

/-- An accepted SAMPLE (10 R283, R285). -/
def sampleIn (t k : Nat) (b : Bytes) (w : World) : World :=
  let r := cellRec w k
  let tr := trunkRec w t
  let t1 := beAt b 20 8
  let set := beAt b 28 1
  let n := beAt b 29 1
  let fmt := beAt b 30 2
  let last := t1 + clSampleDelay r + trLatBound tr
  let w := onTrunk t (fun x => { x with received := x.received + n }) w
  let w := onCell k (fun c => { c with
    status := beAt b 32 2
    nLateArr := c.nLateArr + b2n (decide (last < lc3Ns w)), nEarlyArr := c.nEarlyArr + b2n (decide (lc3Ns w + trJitter tr < last)) }) w
  if (cell w k).mode ≠ .configured then dropSamples t n 5 w
  else if n ≠ clChans r set ∨ fmt ≠ clFmt r set then dropSamples t n 3 w
  else if t1 ≤ nth 0 (cell w k).lastT set then dropSamples t n 4 w
  else
    let w := onCell k (fun c => { c with lastT := updNth c.lastT set (fun _ => t1) }) w
    eachW (upTo n) (fun i => channelIn t ((k * 4 + set) * 16 + i) (channelValue (bit fmt i) (beAt b (36 + 2 * i) 2)) t1) w

/-- SAMPLE. -/
def execSample (t : Fin 16) (f : Frame) (s : State) : Host.Outcome State Fault Refusal :=
  liveEffect (frameIn t f (fun b => frType b == 1) (sampleIn t)) s

/-! ## CREDIT (10 R268, R275, R280) -/

/-- One acknowledged command number. -/
def ackCommand (t k c : Nat) (rej late : Bool) (w : World) : World :=
  let x := cell w k
  let count (w : World) : World := onCell k (fun x => { x with nRejected := x.nRejected + b2n rej, nLateExec := x.nLateExec + b2n late }) w
  if x.outstanding.any (fun o => o.number = c) then
    count (onTrunk t (fun y => { y with acked := y.acked + 1 }) (onCell k (fun x => { x with
      outstanding := x.outstanding.filter (fun o => o.number ≠ c), nAcked := x.nAcked + 1 }) w))
  else if x.expired.contains c then
    count (countTrunk t 12 (onCell k (fun x => { x with expired := x.expired.filter (· ≠ c) }) w))
  else countTrunk t 11 w

/-- PATH_DELAY from a CREDIT whose arrival stamp is `t4` (10 R275). -/
def pathDelay (t k : Nat) (b : Bytes) (t4 : Int) (w : World) : World :=
  match (cell w k).syncs.find? (fun s => s.1 = beAt b 30 2) with
  | none => w
  | some (_, t1) =>
    let stamp (o : Nat) : Int := (beAt b o 8 * 65536 + beAt b (o + 8) 2 : Nat)
    let d := ((t4 - t1) - (stamp 20 - stamp 32)) / 2
    if d < 0 ∨ (trLatBound (trunkRec w t) * 65536 : Nat) < d then countTrunk t 10 w
    else onCell k (fun c => { c with pathDelay := some (match c.pathDelay with | none => d | some p => p + (d - p) / 8) }) w

/-- An accepted CREDIT. -/
def creditIn (t frac k : Nat) (b : Bytes) (w : World) : World :=
  let w := pathDelay t k b (lcNow w 3 frac) w
  let bits32 := (upTo 32).filter (fun i => bit (beAt b 44 4) i)
  eachW bits32 (fun i => ackCommand t k ((beAt b 42 2 + i) % 65536) (bit (beAt b 48 4) i) (bit (beAt b 52 4) i)) w

/-- CREDIT. -/
def execCredit (t : Fin 16) (f : Frame) (frac : BitVec 16) (s : State) : Host.Outcome State Fault Refusal :=
  liveEffect (frameIn t f (fun b => frType b == 3) (creditIn t frac.toNat)) s

/-! ## CELLCFG and ALARM (10 R269 to R271) -/

/-- What an ANNOUNCE or an ACK says of its cell. -/
def cellOffer (b : Bytes) (c : CellRt) : CellRt := { c with slots := beAt b 21 1, model := beAt b 24 4, fw := beAt b 32 4 }

/-- An accepted ANNOUNCE. -/
def announceIn (k : Nat) (b : Bytes) (w : World) : World :=
  let w := onCell k (cellOffer b) w
  match (cell w k).mode with
  | .off => w
  | .configured | .lost =>
    onCell k (fun c => { c with mode := .announced, setDue := some (nowNs w) }) (expireCmds k (fun _ => true) w)
  | _ => onCell k (fun c => { c with mode := .announced, setDue := some (nowNs w) }) w

/-- ANNOUNCE. -/
def execAnnounce (t : Fin 16) (f : Frame) (s : State) : Host.Outcome State Fault Refusal :=
  liveEffect (frameIn t f (fun b => frType b == 4 && beAt b 20 1 == 1) announceIn) s

/-- An accepted ACK; one that echoes another CFG_ID is ignored. -/
def ackIn (k : Nat) (b : Bytes) (w : World) : World :=
  let r := cellRec w k
  let fits := decide (clSlots r ≤ beAt b 21 1) && (upTo 4).all (fun n => clPeriod r n == 0 || bit (beAt b 23 1) n)
  if beAt b 28 4 ≠ clCfgId r then w else
    match (cell w k).mode with
    | .off | .unseen => w
    | _ => onCell k (fun c => { cellOffer b c with
        mode := if fits then .configured else .mismatch, cfgAck := beAt b 28 4
        setDue := if fits then none else some (nowNs w + 100000000) }) w

/-- CELLCFG ACK. -/
def execCellcfgAck (t : Fin 16) (f : Frame) (s : State) : Host.Outcome State Fault Refusal :=
  liveEffect (frameIn t f (fun b => frType b == 4 && beAt b 20 1 == 3) ackIn) s

/-- An accepted ALARM: counted, kept, and recorded. -/
def alarmIn (k : Nat) (b : Bytes) (w : World) : World :=
  record 0x40 4 0x6013 k (onCell k (fun c => { c with alarm := slice b 20 28, alarmEpoch := w.dev.epoch, nAlarms := c.nAlarms + 1 }) w)

/-- ALARM. -/
def execAlarm (t : Fin 16) (f : Frame) (s : State) : Host.Outcome State Fault Refusal :=
  liveEffect (frameIn t f (fun b => frType b == 5) alarmIn) s

/-! ## Cells in time (10 R271, R276) -/

/-- One SYNC interval of a trunk in ns. -/
def syncInterval (w : World) (t : Nat) : Nat := 1000000000 / 2 ^ trSyncLog (trunkRec w t)

/-- CELL_LOST_TIMEOUT: four SYNC intervals without an accepted frame. -/
def execCellLostTimeout (t : Fin 16) (c : Fin 256) (s : State) : Host.Outcome State Fault Refusal :=
  liveEffect (fun w =>
    let k := cellKey t c
    let watched := match (cell w k).mode with | .announced | .configured | .mismatch => true | _ => false
    if watched && decide ((cell w k).heard + 4 * syncInterval w t ≤ nowNs w) then
      onCell k (fun c => { c with mode := .lost, setDue := some (nowNs w) }) w
    else w) s

/-- A data frame from the GX4 (10 Table 10.3). -/
def dataFrame (w : World) (t k type seq : Nat) (body : Bytes) : Bytes :=
  beBytes 6 (clMac (cellRec w k)) ++ beBytes 6 (trMac (trunkRec w t)) ++ beBytes 2 (trEtype (trunkRec w t)) ++
  [BitVec.ofNat 8 type, 0x10] ++ beBytes 2 seq ++ [BitVec.ofNat 8 k, 0] ++ body

/-- The body of a SET (10 Table 10.8). -/
def setBody (w : World) (t k : Nat) : Bytes :=
  let r := cellRec w k
  [2, BitVec.ofNat 8 (trSyncLog (trunkRec w t))] ++ beBytes 2 (clAckDelay r) ++ beBytes 4 (clCfgId r) ++
  (upTo 4).flatMap (fun n => beBytes 4 (clPeriod r n) ++ beBytes 4 (clPhase r n) ++ beBytes 2 (clFmt r n) ++ beBytes 1 (clChans r n) ++ [0])

/-- A SYNC or CELLCFG that has been due since an instant may start: no COMMAND waits at the trunk, or it has itself waited 50 µs and
none has started before a COMMAND within 50 µs (10 R286). -/
def mayStart (w : World) (t dueAt : Nat) : Bool :=
  (trunk w t).queue.isEmpty || (decide (dueAt + 50000 ≤ nowNs w) &&
    (match (trunk w t).heldAt with | some a => decide (a + 50000 ≤ nowNs w) | none => true))

/-- A SYNC or CELLCFG starts: where a COMMAND waits, the trunk keeps the instant. -/
def starts (t : Nat) (w : World) : World :=
  if (trunk w t).queue.isEmpty then w else onTrunk t (fun x => { x with heldAt := some (nowNs w) }) w

/-- CELLCFG_SET_SEND: every 10 ms to an ANNOUNCED cell, every 100 ms to one that is LOST or MISMATCH. -/
def execCellcfgSetSend (t : Fin 16) (c : Fin 256) (s : State) : Host.Outcome State Fault Refusal :=
  liveEffect (fun w =>
    let k := cellKey t c
    let x := cell w k
    let every := match x.mode with | .announced => some 10000000 | .lost | .mismatch => some 100000000 | _ => none
    match every with
    | none => w
    | some iv =>
      let dueAt := x.setDue.getD (nowNs w)
      if decide (dueAt ≤ nowNs w) && (trunk w t).up && w.cfg.present && mayStart w t dueAt then
        sendTrunk t (dataFrame w t k 4 x.setSeq (setBody w t k))
          (onCell k (fun x => { x with setSeq := (x.setSeq + 1) % 65536, setDue := some (nowNs w + iv) }) (starts t w))
      else w) s

/-- A SYNC frame: destination, CELL, whether it is multicast, its correction (10 R274, Table 10.12a). -/
def syncFrame (w : World) (t dst cell seq interval : Nat) (mcast uncal : Bool) (origin : Nat) (corr : Int) : Bytes :=
  let r := trunkRec w t
  beBytes 6 dst ++ beBytes 6 (trMac r) ++ beBytes 2 (trPtpEtype r) ++ [0x00, 0x12, 0, 44, BitVec.ofNat 8 (trDomain r), 0, 0, 0] ++
  beBytes 8 (unsigned 64 corr) ++
  [if w.dev.outLive then 1 else 0, BitVec.ofNat 8 (b2n mcast + 2 * b2n uncal), BitVec.ofNat 8 cell, 0] ++
  beBytes 8 Config.clockIdentity.toNat ++ beBytes 2 (t + 1) ++ beBytes 2 seq ++ [0, BitVec.ofNat 8 (256 - interval)] ++
  beBytes 6 (origin / 1000000000) ++ beBytes 4 (origin % 1000000000) ++ [0, 0]

/-- A unicast SYNC to a cell, built now and leaving `egress` units of 2^-16 ns later (02 R45). -/
def cellSync (t k egress : Nat) (w : World) : World :=
  let x := cell w k
  let origin := lc3Ns w
  let t1 := lcNow w 3 egress
  let corr := t1 - origin * 65536 + x.pathDelay.getD 0
  sendTrunk t (syncFrame w t (clMac (cellRec w k)) (k % 256) x.syncSeq (trSyncLog (trunkRec w t)) false x.pathDelay.isNone origin corr)
    (onCell k (fun x => { x with syncSeq := (x.syncSeq + 1) % 65536, syncs := ((x.syncSeq, t1) :: x.syncs).take 4 }) w)

/-- The latest instant up to now at which a cell's SYNC fell due: the intervals count from LC0 0, and the enabled cells of a trunk, in
ascending order, take equal shares of each (10 R276; log 101). -/
def syncSlot (w : World) (t k : Nat) : Option Nat :=
  let ks := (cellsOf w.cfg.active).filter (fun j => j / 256 = t)
  let iv := syncInterval w t
  let off := (ks.idxOf k) * iv / max 1 ks.length
  if nowNs w < off then none else some (off + (nowNs w - off) / iv * iv)

/-- TRUNK_SYNC_SEND: each enabled cell's SYNC, once an interval, in its turn. -/
def execTrunkSyncSend (t : Fin 16) (c : Fin 256) (egress : Nat) (s : State) : Host.Outcome State Fault Refusal :=
  liveEffect (fun w =>
    let k := cellKey t c
    match syncSlot w t k with
    | none => w
    | some dueAt =>
      let due := match (cell w k).syncAt with | none => true | some a => decide (a < dueAt)
      if w.cfg.present && clEnable (cellRec w k) && (trunk w t).up && due && mayStart w t dueAt then
        cellSync t k egress (onCell k (fun x => { x with syncAt := some (nowNs w) }) (starts t w))
      else w) s

/-- SYNC_LOG2N that a multicast QUIET SYNC reports: of the record the port keeps, or, before the first SWAP, where the field has no value,
that of the 62.5 ms at which the SYNCs go (10 Table 10.12a, R276; log 102). -/
def quietLog (w : World) (t : Nat) : Nat := if hasObj w.cfg.active 0x6000 0 t then trSyncLog (trunkRec w t) else 4

/-- QUIET_SYNC_SEND: while no active set exists, every 62.5 ms from READY_QUIET onward. -/
def execQuietSyncSend (t : Fin 16) (egress : Nat) (s : State) : Host.Outcome State Fault Refusal :=
  liveEffect (fun w =>
    let x := trunk w t
    let dueAt := match x.quietAt with | none => nowNs w | some a => a + 62500000
    if !w.cfg.present && hostsServed w && trEnable (trunkRec w t) && x.up && decide (dueAt ≤ nowNs w) && mayStart w t dueAt then
      let origin := lc3Ns w
      sendTrunk t (syncFrame w t 0x011B19000000 0 x.quietSeq (quietLog w t) true false origin (lcNow w 3 egress - origin * 65536))
        (onTrunk t (fun x => { x with quietSeq := (x.quietSeq + 1) % 65536, quietAt := some (nowNs w) }) (starts t w))
    else w) s

/-- OUT_LIVE_CHANGE_SYNC: the extra SYNC that a change of OUT_LIVE owes each cell. -/
def execOutLiveChangeSync (t : Fin 16) (c : Fin 256) (egress : Nat) (s : State) : Host.Outcome State Fault Refusal :=
  liveEffect (fun w =>
    let k := cellKey t c
    match (cell w k).extraSync with
    | none => w
    | some dueAt =>
      if (trunk w t).up && mayStart w t dueAt then
        cellSync t k egress (countTrunk t 13 (onCell k (fun x => { x with extraSync := none }) (starts t w)))
      else w) s

/-- Every cell of the active set is owed a SYNC with the new state (10 R276). -/
def oweSyncs (w : World) : World := eachW (cellsOf w.cfg.active) (fun k => onCell k (fun c => { c with extraSync := some (nowNs w) })) w

/-- Commands that wait at the trunks are discarded: the active set is withdrawn, and every COMMAND frame is stopped (14 R385; log 67). -/
def dropAllQueued (w : World) : World := eachW (upTo 16) (fun t => dropQueued t (fun _ => true)) w

/-! ## Commands (10 R267, R279, R280; 02 R56) -/

/-- Execute time of a command stamped in angle, LC3 in 2^-16 ns, and whether it converted late. -/
def convertAngle (w : World) (t tr : Nat) (th : W32) (frac : Nat) : Int × Bool :=
  let om := omegaNow w tr frac
  let now := thetaAt w tr frac
  let neg := om.getLsbD 31 && decide (rateNum om ≠ 0)
  let mag := if lt32 (om &&& 0x7FFFFFFF) (atOmegaMin (atRec w tr)) then atOmegaMin (atRec w tr) else om
  let d := (if neg then now - th else th - now).toNat
  let stamp := lcNow w 3 frac
  let rate := (rateNum mag).natAbs
  if d < 2 ^ 31 && decide (0 < rate) then (stamp + roundDiv (d * (1000000000 * 65536 * 2 ^ 200) : Nat) (2 ^ 32 * rate), false)
  else (stamp + (trLatBound (trunkRec w t) * 65536 : Nat), true)

/-- COMMAND_DEPARTURE: the command in front leaves. -/
def departure (t frac : Nat) (w : World) : World :=
  match (trunk w t).queue with
  | [] => w
  | c :: rest =>
    if !(trunk w t).up then w else
      let k := cellKey t c.cell
      let conv := c.angle.map (fun a => convertAngle w t a.1 a.2 frac)
      let exec : Int := match conv with | some x => x.1 | none => (c.exec * 65536 : Nat)
      let ns := (exec / 65536).toNat
      let w := onTrunk t (fun x => { x with queue := rest }) w
      let w := if c.expired then w else
        onCell k (fun x => { x with outstanding := x.outstanding ++ [{ c.asOut with exec := ns }] }) w
      let w := onShadow c.loop (fun _ => { level := c.level, lastExec := ns }) w
      let w := match conv with
        | some (_, late) =>
          onHe c.engine (fun h => { h with late := h.late + b2n late })
            (onLoop c.loop (fun x => { x with flags := setFlag lfLate late x.flags, nLate := x.nLate + b2n late }) w)
        | none => w
      sendTrunk t (dataFrame w t k 2 c.number (beBytes 8 ns ++ beBytes 2 (exec % 65536).toNat ++
        [BitVec.ofNat 8 c.output, BitVec.ofNat 8 c.level] ++ beBytes 2 c.loop ++ beBytes 4 c.epoch.toNat ++ leBytes 22 0)) w

/-- COMMAND_DEPARTURE. -/
def execCommandDeparture (t : Fin 16) (frac : BitVec 16) (s : State) : Host.Outcome State Fault Refusal :=
  liveEffect (departure t frac.toNat) s

/-- COMMAND_EXPIRE: still outstanding at EXEC_T plus ACK_TIMEOUT. -/
def execCommandExpire (t : Fin 16) (c : Fin 256) (number : BitVec 16) (s : State) : Host.Outcome State Fault Refusal :=
  liveEffect (fun w =>
    expireCmds (cellKey t c) (fun o =>
      decide (o.number = number.toNat) && decide (o.exec + trAckTimeout (trunkRec w t) * 1000 ≤ lc3Ns w)) w) s

/-! ## A SWAP (10 R271, R273, R282) -/

/-- A cell that comes in: counters alone stay. -/
def freshCell (c : CellRt) : CellRt :=
  { c with mode := .unseen, cfgAck := 0, slots := 0, model := 0, fw := 0, status := 0, pathDelay := none, syncs := [],
           lastT := [0, 0, 0, 0], setDue := none, syncAt := none }

/-- The cells and trunks taken to the incoming set. -/
def swapCells (old : Store Bytes) (hadSet : Bool) (w : World) : World :=
  let new := w.cfg.active
  let w := eachW (cellsOf new) (fun k w =>
    if !hadSet || !clEnable (cellRecIn old k) then onCell k (fun c => { freshCell c with heard := nowNs w }) w
    else if clCfgId (cellRecIn old k) ≠ clCfgId (cellRecIn new k) ∧ (cell w k).mode ≠ .unseen then
      onCell k (fun c => { c with mode := .announced, setDue := some (nowNs w) }) w
    else w) w
  let w := eachW ((cellsOf old).filter (fun k => !clEnable (cellRecIn new k))) (fun k => onCell k (fun c => { c with mode := .off })) w
  eachW ((upTo 16).filter (fun t => !trEnable (trunkRec w t) && (trunk w t).up)) trunkLoss w

end Sys2Proof.Machine
end

