-- ==== Sys2Proof/Machine/TrackerCmds.lean ====
section
/-! DEFINITION. Commands on the angle trackers: encoder edges (02 R417), fallback and return (02 R48), ticks and what they do (02
R50 to R53; 01 R20; 06 R150; 08 R209), angle events (02 R414) and TICK pulses (02 R53). -/

namespace Sys2Proof.Machine

/-! ## Encoder inputs (02 R417, Table 2.10) -/

/-- The trackers in ENCODER mode on an input. -/
def encTrackers (w : World) (enc : Nat) : List Nat :=
  (upTo 8).filter (fun k => atMode (atRec w k) == 1 && atEnc (atRec w k) == enc && decide ((tracker w k).mode ≠ .off))

/-- An accepted edge counted by one tracker; passages count from where the count stood before it. -/
def countEdge (r : Bytes) (fwd : Bool) (now : Nat) (t : Tracker) : Tracker :=
  { t with
    fromU := if t.mode = .valid then countedU r t else t.fromU
    armedU := if t.mode = .valid then [] else t.armedU
    count := t.count + (if fwd then 1 else -1)
    edgeGap := t.edgeAt.map (fun e => now - e)
    edgeAt := some now
    edgeRun := if t.edgeFwd = fwd then t.edgeRun + 1 else 1
    edgeFwd := fwd
    odo := if t.mode = .valid then t.odo + (countSpan r 1).natAbs else t.odo }

/-- ENCODER_EDGE: an edge of ENCnA or ENCnB that the filter has accepted, stamped with FRAC16 (02 R33). -/
def encoderEdge (enc : Nat) (pinB rising : Bool) (frac : Nat) (w : World) : World :=
  let a := w.dev.encPins.getLsbD (2 * enc)
  let b := w.dev.encPins.getLsbD (2 * enc + 1)
  let i := 2 * enc + b2n pinB
  if w.dev.encPins.getLsbD i = rising then w else
    let fwd := if pinB then rising == a else rising != b
    let w := onDev (fun d => { d with encPins := d.encPins ^^^ BitVec.ofNat 8 (2 ^ i) }) w
    eachW (encTrackers w enc) (fun k => onTracker k (countEdge (atRec w k) fwd (now16 w frac))) w

/-- ENCODER_EDGE. -/
def execEncoderEdge (enc : Fin 4) (e : EncEdge) (frac : BitVec 16) (s : State) : Host.Outcome State Fault Refusal :=
  liveEffect (encoderEdge enc e.pinB e.rising frac.toNat) s

/-- The count aligned to PHASE: θ goes over to it the shorter way, the boundary of the last tick stays. -/
def alignCount (r : Bytes) (t : Tracker) : Tracker :=
  let u := (atPhase r).toNat
  let shift : Int := u - countedU r t - angleDiff (atPhase r) (countedTheta r t)
  { t with base := atPhase r, count := 0, tickU := t.tickU + shift, crossU := t.crossU + shift, fromU := u, armedU := [] }

/-- A Z pulse at one tracker: the first after entering VALID aligns the count to PHASE; a later one more than 2 counts from
alignment is a mismatch. -/
def zPulse (r : Bytes) (t : Tracker) : Tracker :=
  let t := { t with zSeen := true }
  if t.mode ≠ .valid then t
  else if !t.zAligned then alignCount r { t with zAligned := true }
  else
    let turn : Int := (4 * atLines r : Nat)
    let off := t.count % turn
    if 2 < off ∧ off < turn - 2 then { t with zMismatch := true, zMismatches := t.zMismatches + 1 } else t

/-- ENCODER_Z_PULSE. -/
def execEncoderZPulse (enc : Fin 4) (s : State) : Host.Outcome State Fault Refusal :=
  liveEffect (fun w => eachW ((encTrackers w enc).filter (fun k => atZEn (atRec w k))) (fun k => keepTravel k (now16 w) (onTracker k (zPulse (atRec w k)))) w) s

/-! ## Fallback and return (02 R48) -/

/-- TRACKER_FALLBACK: the source is lost, or ω is too low. -/
def execTrackerFallback (f : FallbackEvent) (s : State) : Host.Outcome State Fault Refusal :=
  liveEffect (fun w => whenW (mustFallBack w f.at_ f.together)
    (enterFallback f.at_ (!sourceGood w f.at_ (now16 w) || (atMode (atRec w f.at_) == 1 && f.together))) w) s

/-- TRACKER_RESUME_VALID: source, lock and speed have held for RESUME_TICKS ticks, in FALLBACK or while the tracker acquires. -/
def execTrackerResumeValid (k : Fin 8) (fromFallback : Bool) (frac : BitVec 16) (s : State) : Host.Outcome State Fault Refusal :=
  liveEffect (fun w =>
    whenW (decide ((tracker w k).mode = if fromFallback then .fallback else .acquiring) && atMode (atRec w k) != 4 &&
        decide (atResume (atRec w k) ≤ (tracker w k).goodTicks))
      (enterValid k frac.toNat) w) s

/-! ## Ticks -/

/-- LC3 in whole ns at an LC0 instant. -/
def lc3At (w : World) (t : Nat) : Nat := (lcAtInstant w 3 t / 65536).toNat

/-- What a tick does besides being one: token boundaries, and releases; those of the epoch tracker wait for its boundary (06
R150; 01 R26). -/
def afterTick (k : Nat) (r : World × Bool) : World :=
  let w := r.1
  if !r.2 || !w.cfg.present then w else
    let c := (tracker w k).tickCount
    let at_ := (tracker w k).lastTickAt
    let w := tokenTicks k c (lc3At w at_) w
    if k = epochTracker w then w else tickReleases k c at_ w

/-- TRACKER_TICK: a crossing of a boundary. -/
def execTrackerTick (k : Fin 8) (b : Fin 32768) (fwd : Bool) (frac : BitVec 16) (s : State) : Host.Outcome State Fault Refusal :=
  liveEffect (fun w => whenW (b.val == crossedB (atRec w k) (tracker w k) fwd) (fun w => afterTick k (crossing k fwd frac.toNat w)) w) s

/-- FALLBACK_TICK. -/
def execFallbackTick (k : Fin 8) (frac : BitVec 16) (s : State) : Host.Outcome State Fault Refusal :=
  liveEffect (fun w => afterTick k (fallbackTick k frac.toNat w)) s

/-- DELAYED_TICK: the tick of a boundary that waits. -/
def execDelayedTick (k : Fin 8) (b : Fin 32768) (frac : BitVec 16) (s : State) : Host.Outcome State Fault Refusal :=
  liveEffect (fun w => whenW ((tracker w k).delayed.any (fun d => d.1 == b.val)) (fun w => afterTick k (delayedTick k frac.toNat w)) w) s

/-! ## Angle events (02 R414, Table 2.15) -/

/-- The ACTION of an event whose angle was passed at an LC0 instant. -/
def eventAction (action target at_ : Nat) (w : World) : World :=
  match action with
  | 1 => if hasObj w.cfg.active 0x4100 0 target then releaseTmpl at_ target w else w
  | 2 => injArm target (lc3At w at_) w
  | 3 => capEvent target (lc3At w at_) w
  | 4 => postSync target w
  | _ => w

/-- ANGLE_EVENT_FIRE. -/
def eventFire (k e : Nat) (fwd : Bool) (frac : Nat) (w : World) : World :=
  let x := eventEntry w.cfg.active k e
  let t := tracker w k
  let at_ := passInstant w k e fwd (now16 w frac)
  if !w.cfg.present || decide (t.mode = .off) || t.disarmed.contains e || !eventDir x fwd || !passed w k e fwd (now16 w frac) then w else
    let w := onTracker k (fun t => { t with disarmed := (t.disarmed.filter (· < e)) ++ [e] ++ t.disarmed.filter (e < ·) }) w
    let w := dueEdges (fun o => bits o 2 0 = k && bit o 5 && bits o 15 10 == e) at_ w
    eventAction (bits x 35 32) (bits x 55 36) at_ w

/-- ANGLE_EVENT_FIRE. -/
def execAngleEventFire (k : Fin 8) (e : Fin 64) (fwd : Bool) (frac : BitVec 16) (s : State) : Host.Outcome State Fault Refusal :=
  liveEffect (eventFire k e fwd frac.toNat) s

/-- ANGLE_EVENT_REARM: |δ| has reached a quarter turn; passages count from there. -/
def execAngleEventRearm (k : Fin 8) (e : Fin 64) (frac : BitVec 16) (s : State) : Host.Outcome State Fault Refusal :=
  liveEffect (fun w =>
    let u := judgedU w k (now16 w frac.toNat)
    let d := angleDiff (BitVec.ofInt 32 u) (BitVec.ofNat 32 (bits (eventEntry w.cfg.active k e) 31 0))
    whenW (decide ((tracker w k).mode ≠ .off) && (tracker w k).disarmed.contains e.val && decide (2 ^ 30 ≤ d.natAbs))
      (onTracker k (fun t => { t with disarmed := t.disarmed.filter (· ≠ e.val), armedU := sInsert t.armedU e u })) w) s

/-! ## TICK pulses (02 R53) -/

/-- TICK_PULSE_START: the leading edge that is due. -/
def tickStart (p : Nat) (w : World) : World :=
  match sGet [] w.mer.edges p with
  | [] => w
  | a :: rest =>
    let o := tickOut w p
    if now16 w < a ∨ !bit o 3 ∨ !w.cfg.present then w else
      setTick p (pinLevel o true) (onMer (fun m => { m with
        edges := sPut [] m.edges p rest, pulseEnd := sInsert m.pulseEnd p (a + bits o 55 36 * 65536) }) w)

/-- TICK_PULSE_START. -/
def execTickPulseStart (p : Fin 4) (s : State) : Host.Outcome State Fault Refusal := liveEffect (tickStart p) s

/-- TICK_PULSE_END: WIDTH after the leading edge. -/
def execTickPulseEnd (p : Fin 4) (s : State) : Host.Outcome State Fault Refusal :=
  liveEffect (fun w =>
    match sFind w.mer.pulseEnd p with
    | some e =>
      if now16 w < e then w
      else setTick p (pinLevel (tickOut w p) false) (onMer (fun m => { m with pulseEnd := sErase m.pulseEnd p }) w)
    | none => w) s

/-! ## AT_OMEGA_SYN (02 R47) -/

/-- OMEGA_SYN taking effect at the instant of a boundary: θ is continuous across the change. -/
def setOmegaSyn (k : Nat) (v : W32) (w : World) : World :=
  if atMode (atRec w k) = 4 ∧ (tracker w k).mode = .valid then
    let at_ := match w.dev.boundaryDue with | some (lc0, _) => lc0 | none => now16 w
    let w := writeActive32 0x2100 k 128 v (anchorTheta k at_ w)
    resample k (onTracker k (fun t => { t with omega := synRate (atRec w k), validOmega := synRate (atRec w k) }) w)
  else writeActive32 0x2100 k 128 v w

end Sys2Proof.Machine
end

