-- ==== Sys2Proof/Machine/Security.lean ====
section
/-! DEFINITION. Bundles and their verification (13 R351 to R353), versions that run side by side (12 R342), the version floor (13 R357,
R358), ownership and enrolment (13 R360, R361), what UPGRADE_CTRL is allowed (12 R343), and the command STAGE_VERIFY_COMPLETE. -/

namespace Sys2Proof.Machine

/-! ## A bundle (13 R351, Tables 13.2 to 13.5) -/

def buTotal (b : Bytes) : Nat := leAt b 8 4
def buVersion (b : Bytes) : Nat := leAt b 12 4
def buSvn (b : Bytes) : Nat := leAt b 16 2
def buOwnerSig (b : Bytes) : Bool := bit (leAt b 20 1) 0
def buRoot (b : Bytes) : Nat := leAt b 132 1

/-- Entry `i` of the component table, and its fields. -/
def buEntry (b : Bytes) (i : Nat) : Bytes := slice b (320 + 48 * i) 48
def cmType (e : Bytes) : Nat := leAt e 0 1
def cmOffset (e : Bytes) : Nat := leAt e 4 4
def cmLength (e : Bytes) : Nat := leAt e 8 4

/-- The component of a type. -/
def buComponent (b : Bytes) (type : Nat) : Option Bytes := ((upTo 4).map (buEntry b)).find? (fun e => cmType e = type)

/-- BUNDLE_DIGEST: of every byte but the two signatures. -/
def buDigest (b : Bytes) : Bytes := sha256 (b.take (b.length - 128))

/-- What the image of an element of a bundle runs as: a die, or Bedrock as number 4 (13 R363). -/
def imageOf (b : Bytes) (el : Nat) : Image :=
  let e (t : Nat) : Bytes := (buComponent b t).getD []
  { version := buVersion b, svn := buSvn b, fmtLo := leAt b 18 1, fmtHi := leAt b 19 1, compatLo := leAt b 32 4, compatHi := leAt b 36 4,
    measurement := sha256 (b.take 128 ++ (if el = 4 then e 1 ++ e 2 else e 3 ++ e 4)) }

/-- FORMAT: every byte of the layout is as Tables 13.2 to 13.5 and R351, R352 say. -/
def buFormatOk (b : Bytes) : Bool :=
  let es := (upTo 4).map (buEntry b)
  let zero (off len : Nat) : Bool := allZero (slice b off len)
  let limit (t : Nat) : Nat := if t = 4 then 524288 else 262144
  let end_ (e : Bytes) : Nat := cmOffset e + cmLength e
  let ends := 1088 :: es.map end_
  let starts := es.map cmOffset ++ [buTotal b - 128]
  let len (t : Nat) : Nat := cmLength ((buComponent b t).getD [])
  decide (1216 ≤ b.length) && b.length == buTotal b && decide (buTotal b ≤ 1048576) && buTotal b % 64 == 0 &&
  b.take 4 == ascii "GXFW" && leAt b 4 2 == 1 && leAt b 6 2 == 4 && decide (leAt b 18 1 ≤ leAt b 19 1) && decide (leAt b 20 1 ≤ 1) &&
  decide (1 ≤ leAt b 21 1) && decide (leAt b 21 1 ≤ 3) && zero 23 1 && decide (leAt b 32 4 ≤ leAt b 36 4) && zero 40 88 &&
  decide (buRoot b ≤ 1) && zero 134 2 && zero 201 55 && zero (320 + 48 * 4) (48 * 12) &&
  es.all (fun e => cmOffset e % 64 == 0 && decide (1 ≤ cmLength e) && decide (cmLength e ≤ limit (cmType e)) && allZero (slice e 2 2) &&
    allZero (slice e 12 4) && leAt e 1 1 == (if cmType e ≤ 2 then 0x10 else 0x0F)) &&
  [1, 2, 3, 4].all (fun t => (es.filter (fun e => cmType e = t)).length == 1) && decide (len 1 + len 2 ≤ 262144) &&
  (upTo 5).all (fun i => decide (nth 0 ends i ≤ nth 0 starts i) && zero (nth 0 ends i) (nth 0 starts i - nth 0 ends i)) &&
  (buOwnerSig b || zero (buTotal b - 64) 64)

/-! ## Images side by side (12 R342) -/

/-- The images that run: on the dies that are neither LOST nor EXCLUDED, and on Bedrock. -/
def runningImages (w : World) : List Image := ((w.dev.dies).filter dieGood).map (·.image)

/-- A common format exists, and each image declares the version of every other compatible. -/
def sideBySide (l : List Image) : Bool :=
  decide ((l.map (·.fmtLo)).foldl max 0 ≤ (l.map (·.fmtHi)).foldl min 255) &&
  l.all (fun a => l.all (fun b => a.version == b.version || (decide (a.compatLo ≤ b.version) && decide (b.version ≤ a.compatHi))))

/-- The images that result where an element takes the staged one. -/
def imagesWith (w : World) (el : Nat) (b : Bytes) : List Image :=
  (((upTo 5).filter (fun d => d != el && dieGood (die w d))).map (fun d => (die w d).image)) ++ [imageOf b el]

/-! ## Verification (13 R353, Table 13.6) -/

/-- One copy of the floor record and of the owner record is valid (13 R349). -/
def systemOk (g : Garnet) : Bool := (g.floorA.valid || g.floorB.valid) && (g.ownerA.valid || g.ownerB.valid)

/-- R356: no owner, or a slot with the FIRMWARE role has signed nonce and digest. -/
def bootAuthOk (g : Garnet) (nonce auth b : Bytes) : Bool :=
  !(ownerNow g).claimed ||
  g.slots.any (fun k => bit k.roles.toNat 4 && !k.key.isEmpty && ecdsaVerify k.key (ascii "GX4-BOOT" ++ nonce ++ buDigest b) auth)

/-- The result code: the first check that fails. `boot` holds nonce and AUTH_SIG of a boot transfer, and is none in service. -/
def verifyBundle (w : World) (boot : Option (Bytes × Bytes)) (b : Bytes) : Nat :=
  let g := w.garnet
  let bound := leAt b 24 8
  let owner := ownerNow g
  if !buFormatOk b then 1
  else if !bit (leAt b 21 1) (b2n Config.gradeAX) || leAt b 22 1 != 1 || (bound != 0 && bound != Config.serial.toNat) then 2
  else if !bit (floorNow g).rootMask.toNat (buRoot b) || leAt b 133 1 != 1 ||
    !ecdsaVerify (Config.rootKey (buRoot b)) (ascii "GX4-CERT" ++ slice b 128 128) (slice b 256 64) then 3
  else if !ecdsaVerify (slice b 136 65) (ascii "GX4-FW" ++ buDigest b) (slice b (buTotal b - 128) 64) then 4
  else if (if buOwnerSig b then !(owner.claimed && ecdsaVerify owner.key (ascii "GX4-FW-OWNER" ++ buDigest b) (slice b (buTotal b - 64) 64))
    else owner.policy.getLsbD 0) then 5
  else if !((upTo 4).map (buEntry b)).all (fun e => sha256 (slice b (cmOffset e) (cmLength e)) == slice e 16 32) then 6
  else if buSvn b < (floorNow g).floor then 7
  else match boot with
    | none => if !sideBySide (runningImages w ++ [imageOf b 0]) then 8 else if systemOk g then 0 else 10
    | some (nonce, auth) => if !bootAuthOk g nonce auth b then 9 else if systemOk g then 0 else 10

/-- What a verification leaves whatever its result: the code, the counter of failures, a FIRMWARE record. -/
def verified (code : Nat) (w : World) : World :=
  record 0x70 4 0x9001 0 (onGarnet (fun g => { g with verifyResult := code, nVerify := g.nVerify + b2n (code != 0) }) w)

/-- STAGE_VERIFY_COMPLETE: an OK bundle replaces the staged one, and BLOCK_END is answered; a failure is refused, the code in
DETAIL (log 46). -/
def stageVerified (w : World) : World :=
  match w.garnet.staging with
  | none => w
  | some (sess, reqId, b) =>
    let code := verifyBundle w none b
    let w := onGarnet (fun g => { g with staging := none, staged := if code = 0 then some b else g.staged }) (verified code w)
    if code = 0 then respond sess 0x15 0 reqId (beBytes 8 0) w else abortReq sess 0x15 reqId aValueRange w code

/-- STAGE_VERIFY_COMPLETE. -/
def execStageVerifyComplete (s : State) : Host.Outcome State Fault Refusal := liveEffect stageVerified s

/-! ## The version floor (13 R357, R358) -/

/-- FLOOR_RAISE refused: reserved bits, a floor below FLOOR or above a running image's SVN, both roots retired. -/
def floorBad (w : World) (v : Nat) : Bool :=
  let f := floorNow w.garnet
  decide (2 ^ 18 ≤ v) || decide (bits v 15 0 < f.floor) || (runningImages w).any (fun i => decide (i.svn < bits v 15 0)) ||
  f.rootMask &&& ~~~(BitVec.ofNat 2 (bits v 17 16)) == 0

/-- FLOOR_RAISE accepted: the floor record rewritten, a staged bundle below the floor discarded, a FIRMWARE record. -/
def floorRaise (v : Nat) (w : World) : World :=
  let f : FloorRec := { floor := bits v 15 0, rootMask := (floorNow w.garnet).rootMask &&& ~~~(BitVec.ofNat 2 (bits v 17 16)) }
  record 0x70 4 0x9003 0 (onGarnet (fun g =>
    let c := writeCopy g.floorA g.floorB f
    { g with floorA := c.1, floorB := c.2, staged := g.staged.filter (fun b => decide (f.floor ≤ buSvn b)) }) w)

/-! ## Enrolment (13 R360, R361, Table 13.7) -/

def enKind (r : Bytes) : Nat := leAt r 4 1
def enSlot (r : Bytes) : Nat := leAt r 5 1
def enRoles (r : Bytes) : Nat := leAt r 6 1
def enPolicy (r : Bytes) : Nat := leAt r 7 1
def enCounter (r : Bytes) : Nat := leAt r 16 8
def enKey (r : Bytes) : Bytes := slice r 24 65

/-- The record is well formed. -/
def enrolFormOk (r : Bytes) : Bool :=
  let k := enKind r
  r.length == 192 && r.take 4 == ascii "GXEN" && decide (1 ≤ k) && decide (k ≤ 6) &&
  (if k = 2 ∨ k = 3 then decide (enSlot r ≤ 7) else enSlot r == 0) && (if k = 2 then decide (enRoles r < 32) else enRoles r == 0) &&
  (if k = 1 ∨ k = 6 then decide (enPolicy r ≤ 1) else enPolicy r == 0) &&
  (if k = 1 ∨ k = 2 ∨ k = 4 then (ecOfBytes (enKey r)).isSome else allZero (enKey r)) && allZero (slice r 89 39)

/-- The record may be applied (R360). -/
def enrolOk (g : Garnet) (r : Bytes) : Bool :=
  let o := ownerNow g
  let signer := if enKind r = 1 then enKey r else o.key
  enrolFormOk r && leAt r 8 8 == Config.serial.toNat && decide (o.enrolCount < enCounter r) && (o.claimed == decide (enKind r ≠ 1)) &&
  ecdsaVerify signer (ascii "GX4-ENROL" ++ r.take 128) (slice r 128 64) &&
  (enKind r != 2 || (upTo 8).all (fun n => n == enSlot r || (nth {} g.slots n).key != enKey r))

/-- The owner record after a record of a kind. -/
def enrolOwner (o : OwnerRec) (r : Bytes) : OwnerRec :=
  let o := { o with enrolCount := enCounter r }
  match enKind r with
  | 1 => { o with claimed := true, key := enKey r, policy := BitVec.ofNat 8 (enPolicy r) }
  | 4 => { o with key := enKey r }
  | 6 => { o with policy := BitVec.ofNat 8 (enPolicy r) }
  | 5 => { enrolCount := enCounter r }
  | _ => o

/-- The key slots after a record of a kind. -/
def enrolSlots (s : List KeySlot) (r : Bytes) : List KeySlot :=
  match enKind r with
  | 2 => updNth s (enSlot r) (fun _ => { key := enKey r, roles := BitVec.ofNat 8 (enRoles r) })
  | 3 => updNth s (enSlot r) (fun _ => {})
  | 5 => s.map (fun _ => {})
  | _ => s

/-- The slots that a record of a kind changes. -/
def enrolTouches (r : Bytes) : List Nat :=
  match enKind r with
  | 2 | 3 => [enSlot r]
  | 5 => upTo 8
  | _ => []

/-- An enrolment record applied, or refused and counted; a SECURITY record either way. A slot with a live session is marked: the
session keeps its roles until it closes (R361). -/
def enrol (r : Bytes) (w : World) : World × Bool :=
  if !enrolOk w.garnet r then
    (record 0x71 4 0x9011 0 (onGarnet (fun g => { g with nEnrolRefused := g.nEnrolRefused + 1 }) w), false)
  else
    let open_ := (enrolTouches r).filter (fun n => (session w n).live && !w.garnet.slotPending.contains n)
    (record 0x71 4 0x9011 0 (onGarnet (fun g =>
      let c := writeCopy g.ownerA g.ownerB (enrolOwner (ownerNow g) r)
      { g with ownerA := c.1, ownerB := c.2, slots := enrolSlots g.slots r, slotPending := g.slotPending ++ open_ }) w), true)

/-! ## What UPGRADE_CTRL is allowed (12 R343, Table 12.14) -/

def upOp (v : Nat) : Nat := bits v 3 0

/-- Every Cumulus die but one is SERVING. -/
def othersServe (w : World) (d : Nat) : Bool := (upTo 4).all (fun x => x == d || decide ((die w x).state = .serving))

/-- The code with which a write of UPGRADE_CTRL is refused as things stand. -/
def upgradeBad (w : World) (d v : Nat) : Option Nat :=
  let st := (die w d).state
  let fits : Bool := match w.garnet.staged with
    | some b => sideBySide (imagesWith w d b)
    | none => sideBySide (runningImages w)
  if bits v 15 9 ≠ 0 ∨ bits v 7 4 ≠ 0 ∨ upOp v = 0 ∨ 4 < upOp v then some aValueRange
  else
    let ok : Bool := match upOp v with
      | 1 => decide (d < 4) && decide (st = .serving) && othersServe w d && decide (w.cfg.state ≠ .swapPending) &&
        (bit v 8 || (sGet {} w.cfg.derived d).shed.isEmpty) && fits
      | 2 => decide (d < 4) && (decide (st = .drained) || decide (st = .ready)) && w.garnet.staged.isSome && fits
      | 3 => decide (d < 4) && decide (st = .ready)
      | _ => d == 4 && (upTo 4).all (fun x => decide ((die w x).state = .serving) &&
          some (die w x).image.version == w.garnet.staged.map buVersion)
    if ok then none else some aState

end Sys2Proof.Machine
end

