-- ==== Sys2Proof/Machine/Serve.lean ====
section
/-! DEFINITION. What a READ of each object returns of a world, in the bytes that are sent (11 R299): the ledgers (12 Table 12.3),
the objects of every chapter's table, the configuration objects with the fields the GX4 keeps in them. Members of a RECORD stand
in the order listed, in the sizes of log 14. -/

namespace Sys2Proof.Machine

/-- Unsigned members, most significant byte first. -/
def u8 (v : Nat) : Bytes := beBytes 1 v
def u16 (v : Nat) : Bytes := beBytes 2 v
def u32 (v : Nat) : Bytes := beBytes 4 v
def u64 (v : Nat) : Bytes := beBytes 8 v
def uW (v : W32) : Bytes := beBytes 4 v.toNat
/-- A signed member of `n` bytes. -/
def sInt (n : Nat) (v : Int) : Bytes := beBytes n (unsigned (8 * n) v)
/-- The member of a list of counters that a subindex names, from `first`. -/
def pick (l : List Nat) (sub first : Nat) : Bytes := u64 (nth 0 l (sub - first))

/-! ## Ledgers (12 Table 12.3) -/

/-- Frames of a tier of a pool (08 Table 8.9). -/
def tierFrames (w : World) (p tier : Nat) : Nat :=
  let k := kvRec w p
  let r := actPart w p
  if !pInSet w.cfg.active p then 0 else
    match tier with
    | 0 => kvT0 k * pAttTiles r * (pDies r).length
    | 1 => kvT1 k * (pDies r).length
    | 2 => kvT2 k
    | _ => kvSwap k

/-- Frames of a tier in transit: source and destination of every move in progress (08 R231). -/
def tierTransit (w : World) (p tier : Nat) : Nat :=
  let moving := ((poolPages w p).map (·.2.2)).filter (·.moving)
  (((moving.flatMap (fun g => pageFrame g :: (moveFrame (kvRec w p) g).toList)).filter (fun f => f.1 = tier)).eraseDups).length

def tierUsed (w : World) (p tier : Nat) : Nat :=
  ((((framesTaken w p).filter (fun f => f.1 = tier)).eraseDups).length) - tierTransit w p tier

def tierFree (w : World) (p tier : Nat) : Nat := tierFrames w p tier - tierUsed w p tier - tierTransit w p tier

/-- Terms of the KV page ledger. -/
def pageTerms (w : World) (p : Nat) : List Nat := let q := pool w p; [q.flushed, q.released, q.live, q.lost]

/-- Tokens held in the objects of a range, or outside every range. -/
def syncHeld (w : World) (l : Nat) : Nat := sumList ((w.tiles.sync.filter (fun e => syncLedgerOf w e.1 = l)).map (·.2))

/-- The instances of each ledger object, in address order. -/
def ledgerObjs : List (Nat × Nat) := [(0x6003, 16), (0x6004, 16), (0x8100, 128), (0x8101, 32), (0x8110, 16), (0x8120, 33), (0x8130, 4)]

/-- Commands of a trunk issued and neither acknowledged nor expired. -/
def trunkOutstanding (w : World) (t : Nat) : Nat :=
  sumList ((w.trunks.cells.filter (fun e => e.1 / 256 = t)).map (fun e => e.2.outstanding.length)) +
    ((trunk w t).queue.filter (fun c => !c.expired)).length

/-- Command slots of a trunk's enabled cells. -/
def trunkSlots (w : World) (t : Nat) : Nat :=
  if w.cfg.present then sumList (((cellsOf w.cfg.active).filter (fun k => k / 256 = t)).map (fun k => clSlots (cellRec w k))) else 0

/-- The terms of a ledger. -/
def ledgerTerms (w : World) (index i : Nat) : List Nat :=
  match index with
  | 0x6003 => let t := trunk w i; [t.received, t.consumed] ++ (upTo 6).map (fun k => sGet 0 t.dropped (k + 1))
  | 0x6004 => let t := trunk w i; [t.issued, t.acked, t.expired, trunkOutstanding w i]
  | 0x8100 => [tierFrames w (i / 4) (i % 4), tierFree w (i / 4) (i % 4), tierUsed w (i / 4) (i % 4), tierTransit w (i / 4) (i % 4)]
  | 0x8101 => pageTerms w i
  | 0x8110 => [trunkSlots w i, trunkSlots w i - trunkOutstanding w i, trunkOutstanding w i]
  | 0x8120 => let l := sGet {} w.cont.sync i; [l.posted, l.waited, l.withdrawn, syncHeld w i, l.lost]
  | 0x8130 => let l := nth {} w.cont.pages i; [l.free + l.held + l.transit, l.free, l.held, l.transit]
  | _ => []

/-- The equation of a ledger holds (12 R323, R325). -/
def ledgerOk (w : World) (index i : Nat) : Bool :=
  match index, ledgerTerms w index i with
  | 0x6003, rcv :: con :: drops => decide (rcv = con + sumList drops)
  | 0x6004, [iss, ack, ex, out] => decide (iss = ack + ex + out)
  | 0x8100, [n, fr, us, tr] => decide (fr + us + tr = n)
  | 0x8101, [fl, re, li, lo] => decide (fl = re + li + lo)
  | 0x8110, [n, av, out] => decide (av + out = n)
  | 0x8120, [po, wa, wi, he, lo] => decide (po = wa + wi + he + lo)
  | 0x8130, [n, _, _, _] => decide (n = 65536)
  | _, _ => true

/-- The loss term of a ledger, where it has one; the reason code of UNCORRECTABLE drops is 6 (10 Table 10.14). -/
def ledgerLoss (w : World) (index i : Nat) : Nat :=
  match index with
  | 0x6003 => sGet 0 (trunk w i).dropped 6
  | 0x8101 => (pool w i).lost
  | 0x8120 => (sGet {} w.cont.sync i).lost
  | _ => 0

/-- DISCREPANCY: the loss term exceeds what a host last acknowledged (12 R324). -/
def ledgerFlag (w : World) (pos i : Nat) : Bool :=
  decide (sGet 0 w.cont.acks (pos * 256 + i) < ledgerLoss w (nth (0, 0) ledgerObjs pos).1 i)

/-- Every ledger: position, index, instance. -/
def allLedgers : List (Nat × Nat × Nat) :=
  (upTo ledgerObjs.length).flatMap (fun k => (upTo (nth (0, 0) ledgerObjs k).2).map (fun i => (k, (nth (0, 0) ledgerObjs k).1, i)))

/-- The entries of a LEDGER response (11 Table 11.9). -/
def ledgerBody (epoch : Nat) (w : World) : Bytes :=
  u64 epoch ++ u16 allLedgers.length ++ allLedgers.flatMap (fun l =>
    let ts := ledgerTerms w l.2.1 l.2.2
    bytesOfKey (okey l.2.1 0 l.2.2) ++ u8 (b2n (ledgerFlag w l.1 l.2.2)) ++ u8 ts.length ++ ts.flatMap u64)

/-! ## Configuration objects with the fields the GX4 keeps in them -/

/-- A logical clock's record (02 Table 2.3). -/
def lcLive (w : World) (n : Nat) (v : Bytes) : Bytes :=
  let l := lcAt w.mer n
  let v := setField (setField v 63 0 l.anchor) 143 64 (unsigned 80 l.offset)
  let v := setField (setField v 190 190 (b2n l.hold)) 255 240 (lcStatus w.mer n)
  if n = 0 then v else setField v 183 144 (unsigned 40 l.rate)

/-- A loop's record (07 Table 7.2). -/
def loopLive (w : World) (l : Nat) (v : Bytes) : Bytes :=
  let x := loop w l
  [(876, 861, (loopFlags w l).toNat), (860, 797, x.lastExec), (796, 733, x.t0), (732, 701, x.wElapsed.toNat), (700, 693, x.swCount),
   (692, 690, x.level), (689, 658, x.h.toNat), (657, 626, x.integ.toNat), (625, 594, x.e0.toNat), (593, 562, x.rf.toNat)].foldl
    (fun v f => setField v f.1 f.2.1 f.2.2) v

def genLive (w : World) (g : Nat) (v : Bytes) : Bytes :=
  let x := gen w g
  setField (setField (setField (setField v 281 274 (genFlags w g).toNat) 273 242 x.a.toNat) 241 210 x.v.toNat) 209 178 x.p.toNat

def capCode (s : CapState) : Nat :=
  match s with
  | .idle => 0 | .armed => 1 | .triggered => 2 | .frozen => 3

def capLive (x : CapRt) (v : Bytes) : Bytes := setField (setField (setField v 191 128 x.trigT) 127 108 x.idx) 107 106 (capCode x.state)

/-- The dies with consumers of a stream: loops and feature builders (10 Table 10.13). -/
def streamDies (w : World) (s : Nat) : Nat :=
  let set := w.cfg.active
  let loops := (loopsOf set).filter (fun l => lpStream (loopRec w l) = s ∨ (lpFfMode (loopRec w l) = 1 ∧ lpFfStream (loopRec w l) = s))
  let seqs := (seqsOf set).filter (fun q => (upTo (featCount w (sqMap (sqRec w q)))).any (fun i =>
    sqBase (sqRec w q) + feStream (featEntry w (sqMap (sqRec w q)) i) == s))
  let dies := (loops.map (fun l => (loop w l).engine / 4) ++ seqs.map (fun q => seqHome w.cfg.mapping set q)).dedup
  sumList (dies.map (2 ^ ·))

def streamLive (w : World) (s : Nat) (v : Bytes) : Bytes :=
  let x := stream w s
  [(255, 192, x.lastT), (191, 128, x.lastArr), (127, 96, x.value.toNat), (23, 16, x.decimCnt), (15, 12, streamDies w s), (11, 11, b2n x.ever),
   (10, 10, b2n x.nonfinite)].foldl (fun v f => setField v f.1 f.2.1 f.2.2) v

/-- PREFIX_SET state: complete in its partitions (08 R220). -/
def pfxDone (w : World) (x : Nat) : Bool :=
  let l := w.serving.prefixes.filter (fun e => e.1 / 32 = x)
  !l.isEmpty && l.all (·.2.complete)

/-- The stored bytes of an object of the active set as it reads. -/
def activeStored (w : World) (index sub inst : Nat) : Bytes :=
  match aliasOf index sub with
  | some (holder, hi, lo) =>
    let v := if holder = 0x2010 then lcLive w inst (actObj w holder 0 inst) else actObj w holder 0 inst
    if holder = 0x2010 then leBytes 8 (unsigned 64 (signed 40 (fieldLe v hi lo))) else leBytes ((hi - lo + 8) / 8) (fieldLe v hi lo)
  | none =>
    let v := actObj w index sub inst
    match index, sub with
    | 0x2010, 0 => lcLive w inst v
    | 0x4100, 0 => setField v 213 209 (if tCritical v then partnerOf (goodDies w) 8 ((tmplEngine w inst).getD (tEngine v)) else 0)
    | 0x3800, 0 => setField v 13 12 (seqHome w.cfg.mapping w.cfg.active inst)
    | 0x5010, 0 => if hasObj w.cfg.active 0x5010 0 inst then loopLive w inst v else v
    | 0x5020, 0 => if hasObj w.cfg.active 0x5020 0 inst then genLive w inst v else v
    | 0x5040, 0 => capLive (cap w inst) v
    | 0x6020, 0 => streamLive w inst v
    | 0x3818, 0 => setField v 31 24 (b2n (pfxDone w inst))
    | 0x5012, 1 => leBytes 1 (b2n (hasFlag lfClosed (loop w inst).flags))
    | 0x7000, 1 => leBytes 1 (sGet 0 w.tiles.sticky inst).toNat
    | 0x4111, _ => if hasObj w.cfg.active 0x4111 sub inst then v else actObj w 0x4110 0 inst
    | _, _ => v

/-- The stored bytes of an object of the shadow set. -/
def shadowStored (w : World) (index sub inst : Nat) : Bytes :=
  match aliasOf index sub with
  | some (holder, hi, lo) =>
    let v := fieldLe (objIn w.cfg.shadow holder 0 inst) hi lo
    if holder = 0x2010 then leBytes 8 (unsigned 64 (signed 40 v)) else leBytes ((hi - lo + 8) / 8) v
  | none =>
    if index = 0x4111 ∧ !hasObj w.cfg.shadow 0x4111 sub inst then objIn w.cfg.shadow 0x4110 0 inst else objIn w.cfg.shadow index sub inst

/-! ## Identity, sessions, sets (11 Table 11.16, 14 Table 14.8) -/

def shadowCode (s : ShadowState) : Nat :=
  match s with
  | .empty => 0 | .editing => 1 | .admitting => 2 | .admitted => 3 | .swapPending => 4

def masterHolder (w : World) : Nat := w.link.master.getD 0xFF

def read1 (w : World) (index sub inst : Nat) : Bytes :=
  match index with
  | 0x1000 => (match sub with
    | 1 => ascii "Paveyn Microsystems" | 2 => ascii "Gydarin GX4" | 3 => u8 (b2n Config.gradeAX) | _ => ascii "A1")
  | 0x1001 => u8 (devCode w.dev.state)
  | 0x1002 => u64 w.dev.epoch
  | 0x1003 => beBytes 6 (Config.portMac (16 + inst)).toNat
  | 0x1004 => ((upTo 12).map (fun s => u64 (sGet 0 w.dev.startupTimes s))).flatten ++ u64 w.dev.imageReceipt
  | 0x1005 => u8 w.dev.resetCause
  | 0x1006 => [w.garnet.nStarted, w.garnet.nAbandoned, w.garnet.nBusy, w.garnet.nVerifyFail, w.garnet.nQueued].flatMap u64
  | 0x1100 =>
    let s := session w inst
    u8 (b2n s.live) ++ u8 s.peer.port ++ beBytes 16 s.peer.ip.toNat ++ u16 s.peer.udp.toNat ++ u8 s.roles.toNat ++ u8 s.open_.length ++ u8 s.subs.length ++
      u8 s.xfers.length ++ u64 s.rxHigh ++ u64 (s.txNext - 1)
  | 0x1102 => u8 (masterHolder w)
  | 0x1103 => let s := session w inst; pick [s.nTagFail, s.nReplay, s.nAborts, s.nDup, s.nMissed, s.nResends] sub 1
  | 0x1111 =>
    let p := hostPort w inst
    u8 (b2n p.up) ++ u8 (actField w 0x1110 inst 3 2) ++ beBytes 16 (actField w 0x1110 inst 255 128) ++
      u8 (b2n (decide (actField w 0x1110 inst 255 128 ≠ 0)))
  | 0x1112 =>
    let p := hostPort w inst
    pick [p.nRx, p.nTx, p.nUnsupported, p.nMalformed, p.nHandshake, p.nEcho, p.nEchoDropped] sub 1
  | 0x1200 => u8 (b2n w.cfg.present) ++ u8 (shadowCode w.cfg.state) ++ u64 w.cfg.admitId ++ u64 ((w.cfg.swap.map (·.target)).getD 0) ++
      u64 w.cfg.firstEpoch
  | 0x1203 => if sub = 1 then padTo 32 w.cfg.digestActive else padTo 32 w.cfg.digestShadow
  | 0x1204 => let s := w.cfg.swapStatus; u8 (nth 0 s 0) ++ u64 (nth 0 s 1) ++ u64 (nth 0 s 2) ++ u16 (nth 0 s 3)
  | _ => []

/-! ## Clocks, trackers, PTP (02 Table 2.17) -/

def atCode (m : AtMode) : Nat :=
  match m with
  | .off => 0 | .acquiring => 1 | .valid => 2 | .fallback => 3

/-- Counters, clocks and angles as they stood at the boundary of the epoch that `w` shows, or now while no boundary closes one (02 R57). -/
def timeShown (w : World) : TimeSample := w.mer.atBoundary.getD (timeSample (now16 w) w)

def read2 (w : World) (index sub inst : Nat) : Bytes :=
  match index with
  | 0x2000 => if sub = 1 then u64 (nth 0 (timeShown w).frcs inst) else
      let f := nth {} w.mer.frcStatus inst
      u32 (b2n f.present + 2 * b2n f.locked + 4 * b2n f.holdover + 8 * b2n f.relocked)
  | 0x2011 => sInt 10 (nth 0 (timeShown w).lcs inst)
  | 0x2101 =>
    let t := nth {} (timeShown w).trackers inst
    (match sub with
     | 1 => uW (nth (0, 0) (timeShown w).angles inst).1
     | 2 => uW (nth (0, 0) (timeShown w).angles inst).2
     | 3 => u8 (atCode t.mode)
     | 4 => u64 t.tickCount
     | _ => u8 (b2n t.overspeed + 2 * b2n t.zAligned + 4 * b2n t.zMismatch + 8 * b2n t.switched))
  | 0x2201 =>
    let p := nth {} w.mer.ptp inst
    sInt 8 p.offset ++ sInt 8 p.pathDelay ++ u8 (b2n p.locked) ++ u8 (b2n p.gm.isSome) ++ u8 (b2n p.acquired) ++ u64 p.received ++
      u64 p.discarded
  | _ => []

/-! ## Partitions, sequences, pools (09 Table 9.8, 08 Table 8.12) -/

def seqCode (m : SeqMode) : Nat :=
  match m with
  | .off => 0 | .idle => 1 | .due => 2 | .running => 3 | .stalled => 4 | .preempted => 5 | .finished => 6

/-- A page table entry (08 Table 8.8). -/
def pageEntry (g : Page) : Bytes :=
  leBytes 8 (g.tier * 2 ^ 62 + g.die * 2 ^ 60 + b2n g.moving * 2 ^ 59 + b2n g.pinned * 2 ^ 58 + b2n g.valid * 2 ^ 57 + g.frame)

def activeCase (w : World) : Case := { dies := goodDies w, map := w.cfg.mapping, critical := false }

def read3 (w : World) (index sub inst : Nat) : Bytes :=
  match index with
  | 0x3002 =>
    let q := part w inst
    u8 (partCode q.mode) ++ u8 q.model ++ u64 q.step ++ u16 q.members.length ++ u8 (sumList ((pDies (actPart w inst)).map (2 ^ ·))) ++
      u8 q.sinceStep ++ u8 q.cause ++ u8 q.reason
  | 0x3004 => let q := part w inst; pick [q.nSteps, q.nTeardowns, q.nOverruns, q.nSwitches, q.nHalts, q.nTokens] sub 1
  | 0x3005 =>
    let q := part w inst
    u32 (nth 0 [if q.perfN = 0 then 0 else q.slowSum / q.perfN, q.slowMax, q.obsMax, q.interfFar, q.interfSlice] (sub - 1))
  | 0x3006 =>
    let b := sGet [] w.cfg.mapping.bounds inst
    u32 (nth 0 b 0) ++ u32 (nth 0 b 1) ++ u32 (nth 0 b 2) ++ u64 (nth 0 b 3) ++ u64 (nth 0 b 4)
  | 0x3031 =>
    let s := w.cfg.summary
    u8 (nth 0 s 0) ++ u16 (nth 0 s 1) ++ u32 (nth 0 s 2) ++ u64 (nth 0 s 3) ++ u32 (nth 0 s 4)
  | 0x3030 => w.cfg.report
  | 0x3801 =>
    let x := seq w inst
    let pages (t : Nat) : Nat := ((x.lists.flatMap (·.2.pages)).filter (fun g => g.tier = t ∧ g.valid)).length
    u8 (seqCode x.mode) ++ u16 x.p ++ u16 (maxList (x.lists.map (fun l => l.2.staged.length))) ++ (upTo 4).flatMap (fun t => u32 (pages t)) ++
      u8 (b2n x.gap + 2 * b2n x.stretched + 4 * b2n x.prefetchLate + 8 * b2n x.lostContext + 16 * b2n x.nanOut)
  | 0x3802 => (seq w inst).out.flatMap (fun v => leBytes 4 v.toNat)
  | 0x3803 =>
    let x := seq w inst
    pick [x.nTokens, x.nStretched, x.nLate, x.nStalls, x.nPreempt, x.nRestarted, x.nNan] sub 1
  | 0x3821 => (upTo 4).flatMap (fun t => u64 (tierFree w inst t) ++ u64 (tierUsed w inst t) ++ u64 (tierTransit w inst t))
  | 0x3822 => let q := pool w inst; pick [q.nSpills, q.nPrefetch, q.nLate, q.nCow, q.nEmpty, q.nLost] sub 1
  | 0x3830 => (seq w inst).lists.flatMap (fun l => l.2.pages.flatMap pageEntry)
  | 0x3840 => u64 (sGet 0 w.serving.allgather inst)
  | _ => []

/-! ## Basalt and templates (05 Table 5.16, 06 Table 6.7) -/

def completionBytes (c : Completion) : Bytes :=
  leBytes 24 (c.template * 2 ^ 176 + c.tag * 2 ^ 168 + c.result * 2 ^ 160 + c.flags.toNat * 2 ^ 152 + min c.nFlagged 511 * 2 ^ 143 +
    c.cycles % 2 ^ 32 * 2 ^ 96 + c.endLc0)

/-- RELEASE_STATUS (06 Table 6.6). -/
def releaseStatus (x : Tmpl) : Nat :=
  x.outcome * 2 ^ 56 + min x.staleRun 255 * 2 ^ 48 + min x.aged 255 * 2 ^ 40 + min x.clamped 255 * 2 ^ 32 + b2n x.missAlarm * 2 ^ 15 +
    b2n x.defaulted * 2 ^ 14 + b2n x.depStale * 2 ^ 13 + b2n x.warmAny * 2 ^ 12 + b2n x.ovfAny * 2 ^ 11

def read4 (w : World) (index sub inst : Nat) : Bytes :=
  match index with
  | 0x4000 =>
    let b := be w inst
    u8 (b2n b.run.isSome) ++ u8 b.queue.length ++ u16 ((b.queue.head?.map (·.template)).getD 0) ++
      u8 ((b.queue.head?.map (fun d => bits d.desc.toNat 503 496)).getD 0)
  | 0x4001 =>
    let b := be w inst
    pick [b.commands, b.abandoned, b.discarded, b.badDesc, b.uncorrectable, b.regPivots, b.notConverged, b.warmIgnored, b.boxFixed] sub 1
  | 0x4002 => completionBytes (be w inst).last
  | 0x4003 => if sub = 1 then u32 (be w inst).busy else u8 (be w inst).queueMax
  | 0x4120 =>
    let o := sGet {} (tmpl w inst).out sub
    leBytes 8 o.fresh ++ leBytes 1 (b2n o.stale) ++ leBytes 8 o.status.toNat ++ o.block
  | 0x4121 => u64 (releaseStatus (tmpl w inst))
  | 0x4122 =>
    let x := tmpl w inst
    pick [x.nReleases, x.nUnpublished, x.nSkipped, x.nAged, x.nClamped, x.nRefused, x.nDefaulted] sub 1
  | _ => []

/-! ## Halo (07 Table 7.12) -/

def read5 (w : World) (index sub inst : Nat) : Bytes :=
  match index with
  | 0x5000 =>
    let on := !w.dev.inReset && dieGood (die w (inst / 4))
    u16 (((loopsOf w.cfg.active).filter (fun l => (loop w l).engine = inst ∧ !(loop w l).stopped)).length) ++
      u16 (((instancesOf w.cfg.active 0x5020 0).filter (fun g => (gen w g).engine = inst ∧ !(gen w g).stopped)).length) ++
      u16 (he w inst).queue.length ++ u8 (b2n on)
  | 0x5001 =>
    let e := he w inst
    pick [e.updates, e.commands, e.creditWaits, e.arith, e.late, e.queueMax, e.queueDrops] sub 1
  | 0x5013 => let x := loop w inst; u8 x.level ++ uW x.h ++ uW x.integ ++ uW x.rf ++ u16 (loopFlags w inst).toNat ++ u64 x.lastExec
  | 0x5014 => u8 (loop w inst).engine
  | 0x5015 => let x := loop w inst; pick [x.nCommands, x.nCreditWaits, x.nEndLevel, x.nArith, x.nLate] sub 1
  | 0x5021 => let x := gen w inst; uW x.p ++ uW x.v ++ uW x.a ++ u8 (genFlags w inst).toNat
  | 0x5032 =>
    let x := inj w inst
    let r := injRec w inst
    let ns := (x.ts.map (fun t => lc3Ns w - t)).getD 0
    u8 (b2n x.ts.isSome) ++ u64 (x.ts.getD 0) ++ u64 (if ijKind r = 1 && decide (0 < ijChip r) then ns / ijChip r else ns)
  | 0x5042 => let x := cap w inst; u8 (capCode x.state) ++ u32 x.idx ++ u64 x.trigT
  | 0x5043 =>
    let r := capRec w inst
    Mem.read w.tiles.stratum (((sFind w.cfg.mapping.caps inst).getD 0) / 4 * 2 ^ 32 + cpPage r * 65536) (16 * cpEntries r)
  | _ => []

/-! ## Trunks and cells (10 Table 10.17) -/

def cellCode (m : CellMode) : Nat :=
  match m with
  | .off => 0 | .unseen => 1 | .announced => 2 | .configured => 3 | .mismatch => 4 | .lost => 5

def read6 (w : World) (index sub inst : Nat) : Bytes :=
  match index with
  | 0x6001 =>
    let t := trunk w inst
    u8 (b2n t.up) ++ u8 t.rate ++ u8 (b2n t.master) ++ u8 (allowanceOf (trRateMin (trunkRec w inst))) ++
      (upTo 16).flatMap (fun e => u8 (shareOf w (ofTrunk inst) (allowanceOf (trRateMin (trunkRec w inst))) e)) ++ u64 (sGet 0 t.counters 14)
  | 0x6002 => u64 (sGet 0 (trunk w inst).counters sub)
  | 0x6003 =>
    let t := trunk w inst
    (match sub with
     | 0 => (ledgerTerms w 0x6003 inst).flatMap u64
     | 1 => u64 t.received
     | 2 => u64 t.consumed
     | _ => u64 (sGet 0 t.dropped (sub - 16)))
  | 0x6004 => if sub = 0 then (ledgerTerms w 0x6004 inst).flatMap u64 else pick (ledgerTerms w 0x6004 inst) sub 1
  | 0x6011 =>
    let x := cell w inst
    u8 (cellCode x.mode) ++ u32 x.cfgAck ++ u8 x.slots ++ u32 x.model ++ u32 x.fw ++ u16 x.status ++ sInt 8 (x.pathDelay.getD 0) ++
      u8 (clSlots (cellRec w inst) - outstandingCount w inst) ++ u8 (outstandingCount w inst)
  | 0x6012 =>
    let x := cell w inst
    pick [x.nCommands, x.nAcked, x.nRejected, x.nLateExec, x.nExpired, x.nLateArr, x.nEarlyArr] sub 1
  | 0x6013 => padTo 32 (cell w inst).alarm ++ leBytes 8 (cell w inst).alarmEpoch
  | _ => []

/-! ## Arithmetic status and tiles (03 Table 3.6, 04 Table 4.18) -/

def read7 (w : World) (index sub inst : Nat) : Bytes :=
  let x := ctxAt w inst
  match index with
  | 0x7000 => u64 (sGet 0 w.tiles.arithCount (inst * 5 + (sub - 2)))
  | 0x7001 => if sub = 1 then u8 (b2n w.dev.bounded) else u64 w.dev.boundedSince
  | 0x7100 =>
    let here := (upTo 2).filter (fun k => (ctxAt w (ctxKey inst k)).part.isSome)
    u8 (sumList (here.map (2 ^ ·))) ++ (upTo 2).flatMap (fun k => u8 ((ctxAt w (ctxKey inst k)).part.getD 0xFF)) ++
      u8 (b2n (!w.dev.inReset && dieGood (die w (inst / 32))))
  | 0x7101 => if sub = 1 then u64 (sGet 0 w.tiles.winDropped inst) else u64 (sGet 0 w.tiles.winNack inst)
  | 0x7102 => if sub = 1 then u32 (max x.stallMax (stallCount w x)) else u64 x.faults
  | 0x7103 => u8 x.faultReason ++ u16 x.faultPc ++ u64 x.faultEpoch
  | 0x7104 => u16 x.overrunMax
  | _ => []

/-! ## Dies, ledgers, errors, power (12, 14, 15) -/

/-- POWER_COEFF: the rows of 15 Table 15.10 for the grade, each figure in units of 1/1,000 mW. -/
def powerCoeffs : List Nat :=
  let k (q : ℚ) : Nat := upQ (q * 1000)
  [k coeffs.bedrock, 800000, 550000, 400000, 350000, 5000, k coeffs.die, k coeffs.stratum, 3662, k coeffs.seam, 651, k coeffs.tile,
   k coeffs.tileOff, 540000, 520000, 500000, 480000, 60000, 33000, k coeffs.be, 346000, k coeffs.beOff, k coeffs.he, k coeffs.heOff, 1440]

/-- The last valid replica slot of a die. -/
def lastReplica (w : World) (d : Nat) : Nat :=
  maxList ((upTo 2).map (fun s => let r := sGet {} w.cont.replicas (d * 2 + s); if r.valid then r.epoch else 0))

def read8 (w : World) (index sub inst : Nat) : Bytes :=
  let x := die w inst
  let set := w.cfg.active
  match index with
  | 0x8000 => u8 (dieCode x.state) ++ u8 x.cause ++ u64 x.declEpoch ++ u64 x.declLc0 ++ u32 x.image.version ++ u8 (b2n x.ledgerFault)
  | 0x8001 =>
    let ls := (loopsOf set).filter (fun l => lpCritical (loopRec w l) && (loop w l).engine / 4 == inst)
    let ts := (tmplsOf set).filter (fun t => tCritical (tRec set t) && ((tmplEngine w t).map (· / 8)) == some inst)
    u8 (nextAlive (goodDies w) inst) ++ u16 ls.length ++ u16 ts.length ++ u32 (replicaBytes set (activeCase w) inst) ++ u64 (lastReplica w inst)
  | 0x8002 => ((sGet {} w.cfg.derived inst).shed).flatMap (fun k => leBytes 2 (k / 2 ^ 32) ++ leBytes 3 (k % 2 ^ 32))
  | 0x8003 => u8 (w.cfg.derivedDie.getD 0xFF) ++ u64 w.cfg.derivedEpoch ++ u8 (b2n w.cfg.derivedReady)
  | 0x8004 => pick [w.cont.nLosses, w.cont.nTakeovers, w.cont.nDeltasLost, w.cont.nDiscarded] sub 1
  | 0x8010 => u16 x.testFailed ++ u32 0 ++ u64 x.testFailedAt
  | 0x8011 => (upTo 3).flatMap (fun r => u32 (if w.dev.calibrated then Config.phyLatency inst r else 0)) ++ u8 (b2n (w.dev.portFailed.getLsbD inst))
  | 0x8021 => (w.dev.dies.flatMap (fun d => u32 d.image.version)) ++ u8 (commonFormat w) ++ u8 w.cont.upgradeResult
  | 0x8030 => uW x.hottest ++ x.sensors.flatMap uW ++ x.bands.flatMap (fun n => u64 (n / 100000))
  | 0x8040 => powerCoeffs.flatMap (leBytes 4)
  | 0x8041 => (upTo 5).flatMap (fun c => u32 (nth 0 w.cfg.power c)) ++ (upTo 5).flatMap (fun c => u32 (nth 0 w.cfg.powerActive c))
  | 0x8100 | 0x8101 | 0x8110 | 0x8120 | 0x8130 => (ledgerTerms w index inst).flatMap u64
  | 0x8200 =>
    (match sub with
     | 1 => u64 (sGet 0 w.cont.corrected inst)
     | 2 => u64 (sGet 0 w.cont.uncorrectable inst)
     | 3 => u64 (sGet 0 w.cont.scrubs inst)
     | _ => let l := sGet (0, 0, 0) w.cont.lastUnc inst; u64 l.1 ++ u64 l.2.1 ++ u64 l.2.2)
  | 0x8201 => u64 (sGet 0 w.cont.replays inst)
  | _ => []

/-! ## Security and Obsidian (13 Table 13.9, 12 Table 12.14a) -/

/-- DEVICE_CERT (13 R348). -/
def deviceCert (g : Garnet) : Bytes :=
  leBytes 8 Config.serial.toNat ++ leBytes 1 (b2n Config.gradeAX) ++ [1] ++ List.replicate 6 0 ++ padTo 65 (identityPub g) ++
    padTo 119 Config.deviceCertTail

def ownerHash (g : Garnet) : Bytes := if (ownerNow g).claimed then sha256 (ownerNow g).key else List.replicate 32 0

/-- BUNDLE_DIGEST of a bundle (13 R351). -/
def bundleDigest (b : Bytes) : Bytes := sha256 (b.take (b.length - 128))

def read9 (w : World) (index sub inst : Nat) : Bytes :=
  let g := w.garnet
  let o := w.cont.obs
  match index with
  | 0x9000 => (match sub with | 1 => u64 Config.serial.toNat | 2 => deviceCert g | _ => identityPub g)
  | 0x9001 =>
    (w.dev.dies.flatMap (fun d => u32 d.image.version ++ u16 d.image.svn ++ padTo 32 d.image.measurement)) ++ u8 g.bank ++
      (match g.staged with
       | none => List.replicate 38 0
       | some b => u32 (leAt b 12 4) ++ u16 (leAt b 16 2) ++ bundleDigest b) ++ u8 g.verifyResult
  | 0x9003 => u16 (floorNow g).floor ++ u8 (floorNow g).rootMask.toNat
  | 0x9010 => padTo 65 (nth {} g.slots inst).key ++ u8 (nth {} g.slots inst).roles.toNat ++ u8 (b2n (g.slotPending.contains inst))
  | 0x9012 => u8 (b2n (ownerNow g).claimed) ++ ownerHash g ++ u8 (ownerNow g).policy.toNat ++ u64 (ownerNow g).enrolCount
  | 0x9020 => u8 (b2n g.rng.fail) ++ u64 g.rng.reseeds ++ u64 g.rng.failEpoch
  | 0x9021 => pick [g.nVerify, g.nEnrolRefused, g.rng.failures] sub 1
  | 0x9100 => u64 o.seq ++ u32 o.next ++ u8 (b2n o.fullFirst + 2 * b2n o.fullDie + 4 * b2n o.fullSec) ++ u16 o.queue.length ++ u16 o.pinned.length
  | 0x9101 => pick [o.nRecords, o.nDropped, o.nPinnedDropped, o.nInvalid] sub 1
  | 0x9110 =>
    let (lo, n) := (match inst with | 0 => (1024, 1024) | 1 => (2048, 1024) | 2 => (3072, 1024) | _ => (4096, 126976))
    (upTo n).flatMap (fun i => padTo 64 (sGet [] o.slots (lo + i)))
  | _ => []

/-! ## One object -/

/-- Stored bytes as they are sent, a scalar in its full size. -/
def toWire (d : ObjDef) (v : Bytes) : Bytes := storedToWire d.type (if v.length < typeSize d.type then padTo (typeSize d.type) v else v)

/-- The bytes a READ of an object of the dictionary returns, of the active set or of the device. A write-only object reads as zero: in
the size of its type, a DOMAIN as one byte (DESIGN CHOICE, log 94). -/
def readValue (w : World) (d : ObjDef) (k : Nat) : Bytes :=
  let i := keyIndex k
  let s := keySub k
  let n := keyInst k
  if d.access = .wo then List.replicate (max 1 (typeSize d.type)) 0
  else if inSets d || i == 0x2010 then toWire d (activeStored w i s n)
  else if i = 0x2002 then sInt 4 ((draw 32 w).1.toInt)
  else if i < 0x2000 then read1 w i s n
  else if i < 0x3000 then read2 w i s n
  else if i < 0x4000 then read3 w i s n
  else if i < 0x5000 then read4 w i s n
  else if i < 0x6000 then read5 w i s n
  else if i < 0x7000 then read6 w i s n
  else if i < 0x8000 then read7 w i s n
  else if i < 0x9000 then read8 w i s n
  else read9 w i s n

end Sys2Proof.Machine
end

