-- ==== Sys2Proof/Machine/Services.lean ====
section
/-! DEFINITION. The services that change no object: from which world a response is served (01 R29, R30), READ, SNAPSHOT, SUBSCRIBE
and its publications, LEDGER and ATTEST (11 R302, R305, R306; 13 R362), the answers of a host to page requests (11 R307), and what
the ports answer or drop below the dictionary (11 R290). -/

namespace Sys2Proof.Machine

/-! ## What a response is served from (01 R29, R30; log 43) -/

/-- No active set exists, or no epoch has ever been closed: values are sampled at acceptance and EPOCH is 0. After a withdrawal and a new
first SWAP the latest closed epoch serves until the next is closed. -/
def unclosed (w : World) : Bool := !w.cfg.present || w.dev.epoch == 0

/-- The world a response is served from, its EPOCH, and the worlds of lost dies. -/
structure View where
  world : World
  epoch : Nat
  lost : Store World

def viewOf (w served : World) (lost : Store World) : View :=
  if unclosed w then { world := w, epoch := 0, lost := lost } else { world := served, epoch := served.dev.epoch, lost := lost }

/-- The dies whose loss takes an object's service with it (01 R30). -/
def ownerDies (w : World) (k : Nat) : List Nat :=
  let i := keyIndex k
  let n := keyInst k
  if 0x3000 ≤ i ∧ i ≤ 0x3006 then pDies (actPart w (if i = 0x3003 then n / 8 else n))
  else if i = 0x3820 ∨ i = 0x3821 ∨ i = 0x3822 ∨ i = 0x3840 then pDies (actPart w n)
  else if (0x3800 ≤ i ∧ i ≤ 0x3803) ∨ i = 0x3830 then [seqHome w.cfg.mapping w.cfg.active n]
  else if 0x4000 ≤ i ∧ i ≤ 0x4003 then [n / 8]
  else if 0x4100 ≤ i ∧ i ≤ 0x4122 then
    let t := if i = 0x4110 ∨ i = 0x4111 then n / 4096 else n
    [(tmplEngine w t).getD (tEngine (tRec w.cfg.active t)) / 8]
  else if i = 0x5000 ∨ i = 0x5001 then [n / 4]
  else if 0x5010 ≤ i ∧ i ≤ 0x5015 then [(loop w n).engine / 4]
  else if i = 0x5020 ∨ i = 0x5021 then [(gen w n).engine / 4]
  else if 0x5030 ≤ i ∧ i ≤ 0x5032 then [(sFind w.cfg.mapping.injs n).getD 16 / 4]
  else if 0x5040 ≤ i ∧ i ≤ 0x5043 then [(sFind w.cfg.mapping.caps n).getD 16 / 4]
  else if i = 0x7000 then [if n < 128 then n / 32 else (n - 128) / 8]
  else if i = 0x7100 ∨ i = 0x7101 then [n / 32]
  else if 0x7102 ≤ i ∧ i ≤ 0x7104 then [n / 64]
  else []

/-- The item of an object is shed by the mapping in force. -/
def shedNow (w : World) (k : Nat) : Bool :=
  let i := keyIndex k
  let n := keyInst k
  let has (index inst : Nat) : Bool := w.cfg.mapping.shed.contains (index * 2 ^ 32 + inst)
  if i < 0x3800 then has 0x3000 n
  else if i < 0x4000 then has 0x3800 n
  else if i < 0x5000 then has 0x4100 n
  else if i < 0x5020 then has 0x5010 n
  else if i < 0x5030 then has 0x5020 n
  else false

/-- The lost die that still withholds an object: it owned the object in the last world it served, and none serves it again. -/
def lostOwner (v : View) (k : Nat) : Option World :=
  (v.lost.find? (fun e => (ownerDies e.2 k).contains e.1 && ((ownerDies v.world k).contains e.1 || shedNow v.world k))).map (·.2)

/-- A value as it is served; from a lost die, with the last epoch in which it was served. -/
def valueAt (v : View) (d : ObjDef) (k : Nat) : Bytes × Option Nat :=
  match lostOwner v k with
  | some w => (readValue w d k, some w.dev.epoch)
  | none => (readValue v.world d k, none)

/-- CAP_RING is readable only while its channel is FROZEN (07 R198). -/
def unreadable (w : World) (k : Nat) : Bool := keyIndex k == 0x5043 && decide ((cap w (keyInst k)).state ≠ .frozen)

/-- One object for a request: its definition, value, and the epoch of a lost die's value; or the code of its refusal. -/
def fetch (w : World) (v : View) (shadowReq : Bool) (k : Nat) : Except Nat (ObjDef × Bytes × Option Nat) :=
  match findObj k with
  | .error c => .error c
  | .ok d =>
    if shadowReq && inSets d then .ok (d, toWire d (shadowStored w (keyIndex k) (keySub k) (keyInst k)), none)
    else if unreadable v.world k then .error aState
    else let x := valueAt v d k; .ok (d, x.1, x.2)

/-- Flags of a response (11 R293). -/
def flagsOf (v : View) (shadowReq lost : Bool) : Nat :=
  (if shadowReq then fShadow else 0) + (if lost then fDieLost else 0) + (if v.world.dev.bounded then fBounded else 0)

/-- A request carries SHADOW. -/
def wantsShadow (p : PdsMsg) : Bool := bit p.flags 2

/-- EPOCH of a response; 0 for shadow values (11 R302). One that mixes a lost die's last values with others carries the epoch of the
others (01 R29, R30; DESIGN CHOICE, log 95). -/
def epochOf' (v : View) (p : PdsMsg) : Nat := if wantsShadow p then 0 else v.epoch

/-- EPOCH of a response with one value: a lost die's is the last epoch in which it was served (01 R29, R30). -/
def epochOne (v : View) (p : PdsMsg) (lost : Option Nat) : Nat := lost.getD (epochOf' v p)

/-- A service that reads: the live world, with the served ones beside it. -/
def viewEffect (f : View → World → World) (s : State) : Host.Outcome State Fault Refusal :=
  liveEffect (fun w => f (viewOf w s.served s.dieServed) w) s

/-! ## READ and SNAPSHOT (11 Table 11.8) -/

def readReq (m : HostMsg) (v : View) (w : World) : World :=
  request 0x10 0 m (fun p w =>
    let no (c : Nat) : World := abortReq p.sess 0x10 p.reqId c w
    if p.body.length ≠ 6 then no aBadMessage
    else match fetch w v (wantsShadow p) (keyOfBytes p.body) with
      | .error c => no c
      | .ok (d, x, lost) =>
        if 1384 < x.length then no aUseBlock
        else respond p.sess 0x10 (flagsOf v (wantsShadow p) lost.isSome) p.reqId
          (u64 (epochOne v p lost) ++ u8 d.type ++ [0] ++ u16 x.length ++ x) w) w

/-- READ. -/
def execRead (m : HostMsg) (s : State) : Host.Outcome State Fault Refusal := viewEffect (readReq m) s

/-- The addresses of a list in a body. -/
def addrList (b : Bytes) (from_ n : Nat) : List Nat := (upTo n).map (fun i => keyOfBytes (slice b (from_ + 6 * i) 6))

/-- An entry of a SNAPSHOT response or of a publication. -/
def snapEntry (k : Nat) (d : ObjDef) (x : Bytes) : Bytes := bytesOfKey k ++ u8 d.type ++ [0] ++ u16 x.length ++ x

/-- Every object of a list: the entries, and whether a value comes from a lost die; or the first refusal and its place. -/
def snapAll (w : World) (v : View) (shadowReq : Bool) : List Nat → Nat → Except (Nat × Nat) (Bytes × Bool)
  | [], _ => .ok ([], false)
  | k :: rest, i =>
    match fetch w v shadowReq k with
    | .error c => .error (c, i)
    | .ok (d, x, lost) =>
      match snapAll w v shadowReq rest (i + 1) with
      | .error e => .error e
      | .ok (b, l) => .ok (snapEntry k d x ++ b, lost.isSome || l)

def snapshotReq (m : HostMsg) (v : View) (w : World) : World :=
  request 0x12 0 m (fun p w =>
    let no (c d : Nat) : World := abortReq p.sess 0x12 p.reqId c w d
    let n := beAt p.body 0 2
    if n = 0 ∨ 232 < n ∨ p.body.length ≠ 2 + 6 * n then no aBadMessage 0
    else match snapAll w v (wantsShadow p) (addrList p.body 2 n) 0 with
      | .error (c, i) => no c (2 + 6 * i)
      | .ok (b, lost) =>
        if 65536 < 8 + b.length then no aTooBig 0
        else respond p.sess 0x12 (flagsOf v (wantsShadow p) lost) p.reqId (u64 (epochOf' v p) ++ b) w) w

/-- SNAPSHOT. -/
def execSnapshot (m : HostMsg) (s : State) : Host.Outcome State Fault Refusal := viewEffect (snapshotReq m) s

/-! ## Publications (11 R305) -/

/-- The body of a publication from its twelfth byte on; an object that may not be read now has no value in it. -/
def publishBody (w : World) (v : View) (addrs : List Nat) : Bytes × Bool :=
  let one (k : Nat) : Bytes × Bool :=
    match fetch w v false k with
    | .ok (d, x, lost) => (snapEntry k d x, lost.isSome)
    | .error _ => (bytesOfKey k ++ [0, 0, 0, 0], false)
  ((addrs.flatMap (fun k => (one k).1)), addrs.any (fun k => (one k).2))

/-- Bits of one publication on the wire, headers and tags of PDS included (log 45). -/
def publishBits (w : World) (v : View) (s : Sub) : Nat :=
  let b := (publishBody w v s.addrs).1
  let frags := (fragments 0x17 (List.replicate 12 0 ++ b))
  8 * sumList (frags.map (fun f => f.length + 56))

/-- The rate of a subscription at the epoch tracker's largest tick rate, in bits per second. -/
def subRate (w : World) (v : View) (s : Sub) : ℚ :=
  let r := atRec w (epochTracker w)
  q32 (atOmegaMax r) * (atN r : ℚ) * (publishBits w v s : ℚ) / (2 ^ s.periodLog2 : ℕ)

/-- Publications of a session, and of a port, at most 100 Mb/s and 600 Mb/s. -/
def ratesOk (w : World) (v : View) (n : Nat) (subs : List Sub) : Bool :=
  let rate (l : List Sub) : ℚ := sumQ (l.map (subRate w v))
  let port := (session w n).peer.port
  let others := ((upTo 8).filter (fun k => k != n && (session w k).live && (session w k).peer.port == port)).flatMap (fun k => (session w k).subs)
  decide (rate subs ≤ 100000000) && decide (rate subs + rate others ≤ 600000000)

def subscribeReq (m : HostMsg) (v : View) (w : World) : World :=
  request 0x16 0 m (fun p w =>
    let no (c d : Nat) : World := abortReq p.sess 0x16 p.reqId c w d
    let n := beAt p.body 4 2
    let rest := ((session w p.sess).subs).filter (fun s => s.id ≠ beAt p.body 0 1)
    if p.body.length ≠ 6 + 6 * n ∨ 231 < n then no aBadMessage 0
    else if !w.cfg.present then no aNoActiveSet 0
    else if 63 < beAt p.body 0 1 then no aValueRange 0
    else if 16 < beAt p.body 1 1 then no aValueRange 1
    else if n = 0 then respond p.sess 0x16 0 p.reqId [] (onSession p.sess (fun s => { s with subs := rest }) w)
    else
      let addrs := addrList p.body 6 n
      let s : Sub := { id := beAt p.body 0 1, periodLog2 := beAt p.body 1 1, phase := beAt p.body 2 2, addrs := addrs }
      match snapAll w v false addrs 0 with
      | .error (c, i) => no c (6 + 6 * i)
      | .ok (b, _) =>
        if 65536 < 12 + b.length then no aTooBig 0
        else if !ratesOk w v p.sess (rest ++ [s]) then no aRate 0
        else respond p.sess 0x16 0 p.reqId [] (onSession p.sess (fun x => { x with subs := rest ++ [s] }) w)) w

/-- SUBSCRIBE. -/
def execSubscribe (m : HostMsg) (s : State) : Host.Outcome State Fault Refusal := viewEffect (subscribeReq m) s

/-- PUBLISH for every subscription due in the epoch just closed; `v` serves that epoch. -/
def publishDue (v : View) (w : World) : World :=
  eachW (upTo 8) (fun n w =>
    eachW ((session w n).subs.filter (fun s => v.epoch % 2 ^ s.periodLog2 = s.phase)) (fun s w =>
      let b := publishBody w v s.addrs
      let w := onSession n (fun x => { x with subs := x.subs.map (fun y => if y.id = s.id then { y with count := y.count + 1, missed := 0 } else y) }) w
      sendBody (session w n).peer n 0x17 (flagsOf v false b.2) (BitVec.ofNat 32 s.count) (u8 s.id ++ [0] ++ u16 s.missed ++ u64 v.epoch ++ b.1) w) w) w

/-- The rate check at a SWAP: subscriptions that then fail are cancelled and counted, the last registered first. -/
def cancelSubs (v : View) (w : World) : World :=
  eachW (upTo 8) (fun n w =>
    (session w n).subs.foldr (fun _ w =>
      if ratesOk w v n (session w n).subs then w
      else onSession n (fun s => { s with subs := s.subs.dropLast, nMissed := s.nMissed + 1 }) w) w) w

/-! ## LEDGER and ATTEST -/

/-- A ledger still shows its last values from a lost die (12 Table 12.3; 11 R293). -/
def ledgerLost (v : View) : Bool := v.lost.any (fun e => !dieGood (die v.world e.1))

/-- LEDGER: every ledger from one closed epoch (11 R306). -/
def ledgerReq (m : HostMsg) (v : View) (w : World) : World :=
  request 0x1A 0 m (fun p => emptyBody 0x1A p (fun w =>
    respond p.sess 0x1A (flagsOf v false (ledgerLost v)) p.reqId (ledgerBody v.epoch v.world) w)) w

/-- LEDGER. -/
def execLedger (m : HostMsg) (s : State) : Host.Outcome State Fault Refusal := viewEffect (ledgerReq m) s

/-- KEYS_DIGEST (13 Table 13.8). -/
def keysDigest (g : Garnet) : Bytes :=
  sha256 ((upTo 8).flatMap (fun n =>
    let k := nth {} g.slots n
    if k.key.isEmpty then List.replicate 66 0 else padTo 65 k.key ++ u8 k.roles.toNat))

/-- The attestation report without its signature (13 Table 13.8). -/
def attestBody (v : View) (nonce : Bytes) : Bytes :=
  let w := v.world
  let g := w.garnet
  u16 1 ++ u16 448 ++ u64 Config.serial.toNat ++ u8 (b2n Config.gradeAX) ++ u8 1 ++ u8 (devCode w.dev.state) ++ u8 (b2n w.dev.bounded) ++
    nonce ++ u64 v.epoch ++ u64 (if v.epoch = 0 then 0 else w.dev.boundaryLc0 / 65536) ++ u16 (floorNow g).floor ++
    u8 (floorNow g).rootMask.toNat ++ u8 (b2n (ownerNow g).claimed) ++ [0, 0, 0, 0] ++
    (upTo 5).flatMap (fun d =>
      let x := die w d
      u32 x.image.version ++ u16 x.image.svn ++ u8 (if d = 4 then 0 else dieCode x.state) ++ [0] ++ padTo 32 x.image.measurement) ++
    padTo 32 (if w.cfg.present then w.cfg.digestActive else []) ++ keysDigest g ++ ownerHash g ++ u64 w.cont.obs.seq ++
    List.replicate 8 0

/-- ATTEST (13 R362). -/
def attestReq (m : HostMsg) (v : View) (w : World) : World :=
  request 0x1B 0 m (fun p w =>
    if p.body.length ≠ 32 then abortReq p.sess 0x1B p.reqId aBadMessage w
    else
      let b := attestBody v p.body
      respond p.sess 0x1B (flagsOf v false false) p.reqId (b ++ ecdsaSign (identityScalar w.garnet) (ascii "GX4-ATTEST" ++ b)) w) w

/-- ATTEST. -/
def execAttest (m : HostMsg) (s : State) : Host.Outcome State Fault Refusal := viewEffect (attestReq m) s

/-! ## A host's answers to page requests (11 R307) -/

/-- What a PAGE_READ brought, put into the page or the piece of staging whose frame it names. -/
def pageData (n frame off : Nat) (data : Bytes) (w : World) : World :=
  eachW ((upTo 32).filter (fun p => pInSet w.cfg.active p && kvSession (kvRec w p) == n)) (fun p w =>
    eachW (holders w p) (fun m w => eachW (listsOf w p m) (fun l w =>
      let w := match l.2.away.findIdx? (fun f => hostFrame w p f == frame) with
        | some i => onList p m l.1 (fun l => { l with awayBytes := overwrite l.awayBytes (i * frameBytes w.cfg.active p + off) data }) w
        | none => w
      eachW (upTo l.2.pages.length) (fun i w =>
        let g := nth {} l.2.pages i
        if g.tier = 3 ∧ hostFrame w p g.frame = frame then onPage p m l.1 i (fun g => { g with bytes := overwrite g.bytes off data }) w
        else w) w) w) w) w

/-- An answer: the request it names, of its kind and length, is answered. -/
def pageAnswer (write : Bool) (m : HostMsg) (w : World) : World :=
  receive [if write then 0x20 else 0x21] m (fun p w =>
    match (session w p.sess).pages.find? (fun r => r.reqId = p.reqId ∧ r.write = write) with
    | none => w
    | some r =>
      if bit p.flags 6 ∨ p.body.length ≠ (if write then 0 else beAt r.body 10 2) then w
      else
        let w := onSession p.sess (fun s => { s with pages := s.pages.filter (fun x => x.reqId ≠ r.reqId) }) w
        if write then w else pageData p.sess (beAt r.body 0 8) (beAt r.body 8 2) p.body w) w

/-- PAGE_WRITE_RESPONSE. -/
def execPageWriteResponse (m : HostMsg) (s : State) : Host.Outcome State Fault Refusal := liveEffect (pageAnswer true m) s

/-- PAGE_READ_RESPONSE. -/
def execPageReadResponse (m : HostMsg) (s : State) : Host.Outcome State Fault Refusal := liveEffect (pageAnswer false m) s

/-- PAGE_REQUEST_RESEND: the same REQ_ID again; after three resends the session closes. -/
def pageResend (n : Nat) (reqId : BitVec 32) (w : World) : World :=
  match (session w n).pages.find? (fun r => r.reqId = reqId) with
  | none => w
  | some r =>
    if 3 ≤ r.resends then closeSession n w
    else closeSpent (sendPds (session w n).peer n (if r.write then 0x20 else 0x21) 0 reqId 0 r.body (onSession n (fun s => { s with
      nResends := s.nResends + 1, pages := s.pages.map (fun x => if x.reqId = reqId then { x with resends := x.resends + 1 } else x) }) w))

/-- PAGE_REQUEST_RESEND. -/
def execPageRequestResend (n : Fin 8) (reqId : BitVec 32) (s : State) : Host.Outcome State Fault Refusal := liveEffect (pageResend n reqId) s

/-! ## Below the dictionary (11 R290) -/

/-- The ports run: from IMAGE_WAIT on the boot frames, IPv6 from READY_QUIET, where the port is enabled and its link is up. -/
def portServes (w : World) (p : Nat) : Bool := hostsServed w && portCarries w p

/-- NEIGHBOR_SOLICITATION for an address of the port. One without a source address, for an address still under detection, shows that
another node claims it: the port gives it up (11 Table 11.1; log 93). -/
def neighbor (p : Nat) (src : BitVec 128) (mac : BitVec 48) (target : BitVec 128) (w : World) : World :=
  if !portServes w p then w else
    let w := onPort p (fun x => { x with nRx := x.nRx + 1 }) w
    if src = 0 ∧ (hostPort w p).detecting.any (fun e => e.1 = target && decide (nowNs w ≤ e.2 + Config.detectTime.toNat)) then
      onPort p (fun x => { x with duplicate := target :: x.duplicate, detecting := x.detecting.filter (fun e => e.1 ≠ target) }) w
    else if (portAddrs w p).contains target then
      emit (.neighborAdvert p src target mac) (onPort p (fun x => { x with nTx := x.nTx + 1 }) w)
    else w

/-- NEIGHBOR_SOLICITATION. -/
def execNeighborSolicitation (p : Fin 2) (src : BitVec 128) (mac : BitVec 48) (target : BitVec 128) (s : State) :
    Host.Outcome State Fault Refusal := liveEffect (neighbor p src mac target) s

/-- ICMPV6_ECHO_REQUEST: at most 100 replies per second of LC0 and port; the rest is counted. -/
def echo (p : Nat) (src dst : BitVec 128) (mac : BitVec 48) (payload : Bytes) (w : World) : World :=
  if !portServes w p then w else
    let w := onPort p (fun x => { x with nRx := x.nRx + 1 }) w
    if !(portAddrs w p).contains dst then w else
      let sec := nowNs w / 1000000000
      let sent := if (hostPort w p).echoSecond = sec then (hostPort w p).echoCount else 0
      if 100 ≤ sent then onPort p (fun x => { x with nEchoDropped := x.nEchoDropped + 1 }) w
      else emit (.echoReply p src dst mac payload) (onPort p (fun x => { x with
        nEcho := x.nEcho + 1, nTx := x.nTx + 1, echoSecond := sec, echoCount := sent + 1 }) w)

/-- ICMPV6_ECHO_REQUEST. -/
def execIcmpv6EchoRequest (p : Fin 2) (src dst : BitVec 128) (mac : BitVec 48) (payload : Bytes) (s : State) :
    Host.Outcome State Fault Refusal := liveEffect (echo p src dst mac payload) s

/-- HOST_FRAME_DROPPED: an unsupported item, or a malformed message. -/
def execHostFrameDropped (p : Fin 2) (malformed : Bool) (s : State) : Host.Outcome State Fault Refusal :=
  liveEffect (fun w =>
    let w := onPort p (fun x => { x with nRx := x.nRx + 1 }) w
    if malformed then dropMalformed p w else onPort p (fun x => { x with nUnsupported := x.nUnsupported + 1 }) w) s

end Sys2Proof.Machine
end

