-- ==== Sys2Proof/Machine/Writes.lean ====
section
/-! DEFINITION. Writes: who may write an object (11 R300, R415, Table 11.8a), what refuses a value (11 R299, R310; 02 R37, R47; 06 R157,
R416; 07 R175; 09 Table 9.8), the shadow set, writes that wait for their boundary (01 R27), writes that act at acceptance (11 R308,
13 R364), BLOCK transfers (11 R304), and the commands of the table that are such writes. -/

namespace Sys2Proof.Machine

/-! ## A write request -/

/-- A write as it is judged: session, REQ_ID, the service that is answered, the object, the value as stored, SHADOW. -/
structure WriteReq where
  sess : Nat
  reqId : BitVec 32
  service : Nat
  key : Nat
  value : Bytes
  shadow : Bool

def WriteReq.index (x : WriteReq) : Nat := keyIndex x.key
def WriteReq.sub (x : WriteReq) : Nat := keySub x.key
def WriteReq.inst (x : WriteReq) : Nat := keyInst x.key

/-- The write acts on the shadow set: SHADOW is set and the object is held in sets. -/
def WriteReq.toShadow (x : WriteReq) (o : ObjDef) : Bool := x.shadow && decide (o.access ≠ .wo)

/-! ## Permission (11 Table 11.8a) -/

/-- The session that owns an object under a set's OWNER_MAP; the holder of the token where no entry covers it. -/
def ownerOf (w : World) (set : Store Bytes) (index inst : Nat) : Option Nat :=
  match (ownerEntries set).find? (fun e => decide (e.1 ≤ index) && decide (index ≤ e.2.1) && decide (e.2.2.1 ≤ inst) && decide (inst ≤ e.2.2.2.1)) with
  | some e => some e.2.2.2.2
  | none => w.link.master

def isMaster (w : World) (n : Nat) : Bool := w.link.master == some n

/-- WO objects that act at acceptance, whether or not a set is active: SHADOW_CTRL and those of 0x9000 to 0x90FF. -/
def actsAtOnce (index : Nat) : Bool := index == 0x1202 || decide (0x9000 ≤ index)

/-- The code that refuses a session the object, if it does. -/
def permission (w : World) (x : WriteReq) (o : ObjDef) : Option Nat :=
  let own (set : Store Bytes) : Bool := ownerOf w set x.index x.inst == some x.sess
  match o.access with
  | .ro | .co => some aReadOnly
  | .sh | .perField => if !x.shadow then some aShActive else if isMaster w x.sess then none else some aNotMaster
  | _ =>
    if x.toShadow o then
      match o.writer with
      | .own => if !hasRole w x.sess 3 then some aRole else if x.inst = x.sess ∨ isMaster w x.sess then none else some aNotOwner
      | _ => if own w.cfg.shadow ∨ isMaster w x.sess then none else some aNotOwner
    else if !w.cfg.present && !actsAtOnce x.index then some aNoActiveSet
    else
      match o.writer with
      | .any => none
      | .master => if isMaster w x.sess then none else some aNotMaster
      | .masterFw => if !isMaster w x.sess then some aNotMaster else if hasRole w x.sess 4 then none else some aRole
      | .own => if !hasRole w x.sess 3 then some aRole else if x.inst = x.sess then none else some aNotOwner
      | .map => if own w.cfg.active then none else some aNotOwner

/-! ## What a value changes in a set -/

/-- The set after a write: an alias writes its field, 0x4110 every instance of its slot (06 Table 6.7), a WO object and ARITH_STICKY
nothing. -/
def storeIn (set : Store Bytes) (index sub inst : Nat) (v : Bytes) : Store Bytes :=
  match aliasOf index sub with
  | some (holder, hi, lo) => putObj set holder 0 inst (setField (objIn set holder 0 inst) hi lo (leNat v))
  | none =>
    match index with
    | 0x2012 | 0x2013 | 0x2014 | 0x5031 | 0x5041 | 0x7000 | 0x8020 => set
    | 0x4110 => putObj (set.filter (fun e => !(keyIndex e.1 == 0x4111 && keyInst e.1 == inst))) index sub inst v
    | _ => putObj set index sub inst (asWritten index sub inst v)

/-- The active set as it will stand at the boundary of effect, after the writes accepted before (11 R310). -/
def activeNext (w : World) : Store Bytes := w.cfg.rw.foldl (fun s r => storeIn s r.index r.sub r.inst r.value) w.cfg.active

/-! ## Refusals by object -/

/-- A write of RATE or LC_OFFSET_ADJ to a clock whose WRITER is not none in the set written (02 R37). -/
def clockBusy (set : Store Bytes) (index sub inst : Nat) : Bool :=
  ((index == 0x2010 && sub == 1) || index == 0x2012) && lcWriter inst (objIn set 0x2010 0 inst) != 0

/-- A field that some route of the active set writes (07 R175, R192). -/
def routeFed (set : Store Bytes) (index sub inst : Nat) : Bool :=
  let kind := if index = 0x5010 ∧ sub ≠ 0 then 1 else if index = 0x5020 ∧ sub = 1 then 2 else 3
  kind != 3 && (tmplsOf set).any (fun t => (tRouteList set t).any (fun r =>
    rKind r.2 == kind && (kind == 2 || rField r.2 == sub) && (upTo (tBatch (tRec set t))).any (fun i => routeDest r.2 i == inst)))

/-- A write to PARAM or WARM_HOST judged against the template of the set written (06 R157, R159, R416). -/
def paramBad (set : Store Bytes) (index sub inst : Nat) (v : Bytes) : Option Nat :=
  if index = 0x4106 then
    if !hasObj set 0x4100 0 inst then some aNoInstance
    else
      let item := 32 * warmWords (tChain set inst)
      if v.length ≠ tBatch (tRec set inst) * item then some aTooBig
      else if (upTo (tBatch (tRec set inst))).any (fun i => (slice v (i * item + 8) 24).any (· ≠ 0)) then some aValueRange
      else none
  else if index = 0x4110 ∨ index = 0x4111 then
    let t := inst / 4096
    let s := slotOf set t (inst % 4096)
    if !hasObj set 0x4100 0 t ∨ tSlots (tRec set t) ≤ inst % 4096 ∨ sKind s ≠ 2 then some aNoInstance
    else if index = 0x4111 ∧ tBatch (tRec set t) ≤ sub then some aNoSubindex
    else if sOwner s ≠ 0 then some aNotOwner
    else
      let x := deltaX32 1 (field32 v 0) (sQ s)
      if x.2 &&& fOvf != 0 || decide (x.1 < sLo s) || decide (sHi s < x.1) then some aValueRange else none
  else none

/-- The record that a write in the active set acts on is not in the set (log 47). -/
def holderAbsent (set : Store Bytes) (index inst : Nat) : Bool :=
  match index with
  | 0x5010 | 0x5011 | 0x5012 => !hasObj set 0x5010 0 inst
  | 0x5020 => !hasObj set 0x5020 0 inst
  | 0x5031 => !hasObj set 0x5030 0 inst
  | 0x5041 => !hasObj set 0x5040 0 inst
  | 0x4106 => !hasObj set 0x4100 0 inst
  | 0x4110 | 0x4111 => !hasObj set 0x4100 0 (inst / 4096)
  | _ => false

/-- The active set with the write would fail an admission check that names the object (11 R310; 02 R47, 07 R193, R201). -/
def conflicts (w : World) (x : WriteReq) : Bool :=
  let set := storeIn (activeNext w) x.index x.sub x.inst x.value
  match x.index with
  | 0x2100 => !trackerOk (objIn set 0x2100 0 x.inst)
  | 0x5010 | 0x5011 => (valueError 0x5010 0 x.inst (objIn set 0x5010 0 x.inst)).isSome || !(loopFails true set x.inst).isEmpty
  | 0x5020 => (valueError 0x5020 0 x.inst (objIn set 0x5020 0 x.inst)).isSome || !genOk (objIn set 0x5020 0 x.inst)
  | _ => false

/-- What refuses a write beside permission: state, then range, then what the object's own chapter says. Code and DETAIL. -/
def writeBad (w : World) (x : WriteReq) (o : ObjDef) : Option (Nat × Nat) :=
  let no (c : Nat) : Option (Nat × Nat) := some (c, 0)
  let i := x.index
  let v := asWritten i x.sub x.inst x.value
  let set := if x.toShadow o then w.cfg.shadow else activeNext w
  if (x.toShadow o || i == 0x1202) && shadowBusy w then no aShadowBusy
  else if i = 0x1202 ∧ leNat v = 1 ∧ !w.cfg.present then no aNoActiveSet
  else if !x.toShadow o && holderAbsent set i x.inst then no aNoInstance
  else if clockBusy set i x.sub x.inst then no aState
  else match paramBad set i x.sub x.inst v with
    | some c => if i ≠ 0x4106 ∧ c = aValueRange ∧ badReal (field32 v 0) then no aBadValue else no c
    | none =>
      match valueError i x.sub x.inst v with
      | some e => some e
      | none =>
        if x.toShadow o then none
        else if i = 0x3001 ∧ partCtrlBad w x.inst (leNat v) then no aState
        else if routeFed set i x.sub x.inst then no aRouteDest
        else if conflicts w x then no aAdmitConflict
        else if i = 0x8020 then (upgradeBad w x.inst (leNat v)).map (fun c => (c, 0))
        else if i = 0x9003 ∧ floorBad w (leNat v) then no aValueRange
        else if i = 0x9002 ∧ ((upTo 4).any (fun d => decide ((die w d).state = .loading)) ∨ w.garnet.staging.isSome) then no aState
        else none

/-! ## Effects of an accepted write -/

/-- The shadow as it stands after a change: EDITING (11 R308). -/
def editShadow (f : Store Bytes → Store Bytes) (w : World) : World :=
  onCfg (fun c => { c with shadow := f c.shadow, state := .editing }) w

/-- SHADOW_CTRL at acceptance: 1 copies the active set with its RW values of the latest closed epoch, 2 clears (11 R308). -/
def shadowCtrl (v : View) (code : Nat) (w : World) : World :=
  if code = 1 then editShadow (fun _ => v.world.cfg.active) w else onCfg (fun c => { c with shadow := [], state := .empty }) w

/-- A write that acts at acceptance and is answered with EPOCH 0. -/
def actNow (v : View) (x : WriteReq) (w : World) : World :=
  let ok (w : World) : World := respond x.sess x.service (if x.shadow then fShadow else 0) x.reqId (u64 0) w
  match x.index with
  | 0x1202 => ok (shadowCtrl v (leNat x.value) w)
  | 0x9002 => onGarnet (fun g => { g with staging := some (x.sess, x.reqId, x.value) }) w
  | 0x9003 => ok (floorRaise (leNat x.value) w)
  | _ =>
    let (w, done) := enrol x.value w
    if done then ok w else abortReq x.sess x.service x.reqId aValueRange w

/-- An accepted write: into the shadow, at once, or to wait for its boundary. -/
def acceptWrite (v : View) (x : WriteReq) (o : ObjDef) (w : World) : World :=
  if x.toShadow o then
    respond x.sess x.service fShadow x.reqId (u64 0) (editShadow (fun s => storeIn s x.index x.sub x.inst x.value) w)
  else if actsAtOnce x.index then actNow v x w
  else
    let r : RwWrite := { session := x.sess, reqId := x.reqId, service := x.service, index := x.index, sub := x.sub, inst := x.inst,
                         value := x.value, at_ := nowNs w }
    onCfg (fun c => { c with rw := c.rw ++ [r] }) w

/-- A write judged in full, the object found and its type and size right. -/
def judgeWrite (v : View) (x : WriteReq) (o : ObjDef) (w : World) : World :=
  match permission w x o with
  | some c => abortReq x.sess x.service x.reqId c w
  | none =>
    match writeBad w x o with
    | some (c, d) => abortReq x.sess x.service x.reqId c w d
    | none => acceptWrite v x o w

/-- A WRITE: role, object, type and size, then the judgement (11 Table 11.8). -/
def serviceWrite (v : View) (n : Nat) (reqId : BitVec 32) (key type : Nat) (wire : Bytes) (shadowReq : Bool) (w : World) : World :=
  let no (c : Nat) : World := abortReq n 0x11 reqId c w
  if !hasRole w n 1 then no aRole
  else match findObj key with
    | .error c => no c
    | .ok o =>
      if o.access = .ro ∨ o.access = .co then no aReadOnly
      else if o.type ≠ type then no aTypeMismatch
      else if keyIndex key = 0x9002 ∨ 1386 < wire.length then no aUseBlock
      else if !sizeOk o wire.length then no (if keyIndex key = 0x4106 then aTooBig else aTypeMismatch)
      else judgeWrite v { sess := n, reqId := reqId, service := 0x11, key := key, value := wireToStored o.type wire, shadow := shadowReq } o w

/-! ## WRITE -/

def writeReq (m : HostMsg) (v : View) (w : World) : World :=
  request 0x11 8 m (fun p w =>
    if p.body.length < 10 ∨ p.body.length ≠ 10 + beAt p.body 8 2 then abortReq p.sess 0x11 p.reqId aBadMessage w
    else serviceWrite v p.sess p.reqId (keyOfBytes p.body) (beAt p.body 6 1) (p.body.drop 10) (wantsShadow p) w) w

/-- WRITE. -/
def execWrite (m : HostMsg) (s : State) : Host.Outcome State Fault Refusal := viewEffect (writeReq m) s

/-! ## Rows that are a write of one object -/

/-- A write of the active set by a live session, its value as its type carries it. -/
def objWrite (index sub type : Nat) (x : ObjWrite) (v : View) (w : World) : World :=
  if !hostsServed w || !(session w x.session).live then w else
    oneRequest x.session 0x11 x.reqId false
      (serviceWrite v x.session x.reqId (okey index sub x.inst) type x.value false) w

/-- The same, where the row names the value. -/
def objWriteOf (index sub code : Nat) (x : ObjWrite) (v : View) (w : World) : World :=
  if x.value = [BitVec.ofNat 8 code] then objWrite index sub tU8 x v w else w

/-- LC_RATE (02 R37). -/
def execLcRate (x : ObjWrite) (s : State) : Host.Outcome State Fault Refusal := viewEffect (objWrite 0x2010 1 5 x) s

/-- LC_OFFSET_ADJ (02 R37). -/
def execLcOffsetAdj (x : ObjWrite) (s : State) : Host.Outcome State Fault Refusal := viewEffect (objWrite 0x2012 1 5 x) s

/-- LC_RELEASE (02 R39). -/
def execLcRelease (x : ObjWrite) (s : State) : Host.Outcome State Fault Refusal := viewEffect (objWrite 0x2014 1 tU8 x) s

/-- LC_FORCE_STEP (02 R40). -/
def execLcForceStep (x : ObjWrite) (s : State) : Host.Outcome State Fault Refusal := viewEffect (objWrite 0x2013 1 5 x) s

/-- AT_OMEGA_SYN (02 R47). -/
def execAtOmegaSyn (x : ObjWrite) (s : State) : Host.Outcome State Fault Refusal := viewEffect (objWrite 0x2100 1 tReal x) s

/-- ARITH_STICKY (03 R71). -/
def execArithSticky (x : ObjWrite) (s : State) : Host.Outcome State Fault Refusal := viewEffect (objWrite 0x7000 1 tU8 x) s

/-- LOOP_OPEN: LOOP_CTRL 0 (07 R189). -/
def execLoopOpen (x : ObjWrite) (s : State) : Host.Outcome State Fault Refusal := viewEffect (objWriteOf 0x5012 1 0 x) s

/-- LOOP_CLOSE: LOOP_CTRL 1 (07 R190). -/
def execLoopClose (x : ObjWrite) (s : State) : Host.Outcome State Fault Refusal := viewEffect (objWriteOf 0x5012 1 1 x) s

/-- Type of a coefficient sub-object (07 Table 7.12). -/
def coeffType (sub : Nat) : Nat := if sub = 8 then tU8 else if sub = 9 then tU32 else tReal

/-- LOOP_COEFF_WRITE: 0x5011.01 to .0B (07 R188). -/
def execLoopCoeffWrite (sub : BitVec 8) (x : ObjWrite) (s : State) : Host.Outcome State Fault Refusal :=
  viewEffect (objWrite 0x5011 sub.toNat (coeffType sub.toNat) x) s

/-- INJ_START (07 R196). -/
def execInjStart (x : ObjWrite) (s : State) : Host.Outcome State Fault Refusal := viewEffect (objWrite 0x5031 1 tU8 x) s

/-- INJ_STOP (07 R196). -/
def execInjStop (x : ObjWrite) (s : State) : Host.Outcome State Fault Refusal := viewEffect (objWrite 0x5031 2 tU8 x) s

/-- CAP_ARM 1 (07 R198). -/
def execCapArm (x : ObjWrite) (s : State) : Host.Outcome State Fault Refusal := viewEffect (objWriteOf 0x5041 1 1 x) s

/-- CAP_ARM 2 (07 R198). -/
def execCapTrigger (x : ObjWrite) (s : State) : Host.Outcome State Fault Refusal := viewEffect (objWriteOf 0x5041 1 2 x) s

/-- PART_CTRL 1 (09 R249). -/
def execPartCtrlStart (x : ObjWrite) (s : State) : Host.Outcome State Fault Refusal := viewEffect (objWriteOf 0x3001 1 1 x) s

/-- PART_CTRL 0 (09 R249). -/
def execPartCtrlStop (x : ObjWrite) (s : State) : Host.Outcome State Fault Refusal := viewEffect (objWriteOf 0x3001 1 0 x) s

/-- PART_CTRL 2 (09 R254). -/
def execPartCtrlRestart (x : ObjWrite) (s : State) : Host.Outcome State Fault Refusal := viewEffect (objWriteOf 0x3001 1 2 x) s

/-- REGISTER_WRITE: an RW object without a row of its own (01 R27). -/
def execRegisterWrite (index : BitVec 16) (sub type : BitVec 8) (x : ObjWrite) (s : State) : Host.Outcome State Fault Refusal :=
  viewEffect (objWrite index.toNat sub.toNat type.toNat x) s

/-- PARAM_WRITE: 0x4110, or 0x4111 with the instance as subindex (06 R416). -/
def execParamWrite (sub : Option (BitVec 8)) (x : ObjWrite) (s : State) : Host.Outcome State Fault Refusal :=
  viewEffect (match sub with | none => objWrite 0x4110 0 tReal x | some i => objWrite 0x4111 i.toNat tReal x) s

/-- COPY_ACTIVE: SHADOW_CTRL 1 (11 R308). -/
def execCopyActive (x : ObjWrite) (s : State) : Host.Outcome State Fault Refusal := viewEffect (objWriteOf 0x1202 1 1 x) s

/-- CLEAR: SHADOW_CTRL 2 (11 R308). -/
def execClear (x : ObjWrite) (s : State) : Host.Outcome State Fault Refusal := viewEffect (objWriteOf 0x1202 1 2 x) s

/-- A write of UPGRADE_CTRL with one OP (12 Table 12.14). -/
def upgradeWrite (op : Nat) (x : ObjWrite) (v : View) (w : World) : World :=
  if x.value.length = 2 ∧ upOp (beNat x.value) = op then objWrite 0x8020 1 tU16 x v w else w

/-- DRAIN (12 R343). -/
def execDrain (x : ObjWrite) (s : State) : Host.Outcome State Fault Refusal := viewEffect (upgradeWrite 1 x) s

/-- LOAD (12 R343). -/
def execLoad (x : ObjWrite) (s : State) : Host.Outcome State Fault Refusal := viewEffect (upgradeWrite 2 x) s

/-- REJOIN (12 R343). -/
def execRejoin (x : ObjWrite) (s : State) : Host.Outcome State Fault Refusal := viewEffect (upgradeWrite 3 x) s

/-- BEDROCK_SWITCH (12 R343). -/
def execBedrockSwitch (x : ObjWrite) (s : State) : Host.Outcome State Fault Refusal := viewEffect (upgradeWrite 4 x) s

/-- FLOOR_RAISE: the floor in bits 15:0 (13 R357). -/
def execFloorRaise (x : ObjWrite) (s : State) : Host.Outcome State Fault Refusal := viewEffect (objWrite 0x9003 2 tU64 x) s

/-- ROOT_RETIRE: the mask in bits 17:16 (13 R357). -/
def execRootRetire (x : ObjWrite) (s : State) : Host.Outcome State Fault Refusal := viewEffect (objWrite 0x9003 2 tU64 x) s

/-- A write of ENROL with one KIND (13 R360). -/
def enrolWrite (kind : Nat) (x : ObjWrite) (v : View) (w : World) : World :=
  if enKind x.value = kind then objWrite 0x9011 0 tDomain x v w else w

/-- ENROL_CLAIM. -/
def execEnrolClaim (x : ObjWrite) (s : State) : Host.Outcome State Fault Refusal := viewEffect (enrolWrite 1 x) s

/-- ENROL_TRANSFER. -/
def execEnrolTransfer (x : ObjWrite) (s : State) : Host.Outcome State Fault Refusal := viewEffect (enrolWrite 4 x) s

/-- ENROL_SET_POLICY. -/
def execEnrolSetPolicy (x : ObjWrite) (s : State) : Host.Outcome State Fault Refusal := viewEffect (enrolWrite 6 x) s

/-- ENROL_SET_SLOT. -/
def execEnrolSetSlot (x : ObjWrite) (s : State) : Host.Outcome State Fault Refusal := viewEffect (enrolWrite 2 x) s

/-- ENROL_CLEAR_SLOT. -/
def execEnrolClearSlot (x : ObjWrite) (s : State) : Host.Outcome State Fault Refusal := viewEffect (enrolWrite 3 x) s

/-- ENROL_RELEASE. -/
def execEnrolRelease (x : ObjWrite) (s : State) : Host.Outcome State Fault Refusal := viewEffect (enrolWrite 5 x) s

/-! ## BLOCK transfers (11 R304, Table 11.10) -/

def xferOf (w : World) (n id : Nat) : Option Xfer := (session w n).xfers.find? (fun x => x.id = id)

/-- A transfer of a session changed, or ended. -/
def onXfer (n id : Nat) (f : Xfer → Xfer) (w : World) : World :=
  onSession n (fun s => { s with xfers := s.xfers.map (fun x => if x.id = id then f x else x) }) w
def endXfer (n id : Nat) (w : World) : World := onSession n (fun s => { s with xfers := s.xfers.filter (fun x => x.id ≠ id) }) w

/-- A transfer opened, and answered. -/
def openXfer (p : PdsMsg) (flags epoch : Nat) (x : Xfer) (w : World) : World :=
  let id := (session w p.sess).nextXfer
  respond p.sess 0x13 flags p.reqId (u8 id ++ [0, 0, 0] ++ u64 epoch ++ u32 x.total ++ (if x.upload then x.digest else List.replicate 32 0))
    (onSession p.sess (fun s => { s with nextXfer := (id + 1) % 256, xfers := s.xfers ++ [{ x with id := id, at_ := nowNs w }] }) w)

/-- The request that a download ends in. -/
def xferWrite (p : PdsMsg) (key : Nat) (shadowReq : Bool) (v : Bytes) : WriteReq :=
  { sess := p.sess, reqId := p.reqId, service := p.type, key := key, value := v, shadow := shadowReq }

/-- What refuses a download whatever its bytes: permission and the state of what it writes. -/
def downloadBad (w : World) (x : WriteReq) (o : ObjDef) : Option Nat :=
  match permission w x o with
  | some c => some c
  | none =>
    if x.toShadow o && shadowBusy w then some aShadowBusy
    else if x.index = 0x9002 ∧ (upTo 4).any (fun d => decide ((die w d).state = .loading)) then some aState
    else none

def blockInit (m : HostMsg) (v : View) (w : World) : World :=
  request 0x13 8 m (fun p w =>
    let no (c : Nat) : World := abortReq p.sess 0x13 p.reqId c w
    let key := keyOfBytes p.body
    let up := beAt p.body 6 1 == 1
    let total := beAt p.body 8 4
    if p.body.length ≠ 44 then no aBadMessage
    else if !hasRole w p.sess (if up then 0 else 1) then no aRole
    else match findObj key with
      | .error c => no c
      | .ok o =>
        if o.type ≠ tDomain then no aTypeMismatch
        else if 2 ≤ (session w p.sess).xfers.length then no aLimit
        else if up then
          if total ≠ 0 ∨ !allZero (slice p.body 12 32) then no aValueRange
          else match fetch w v (wantsShadow p) key with
            | .error c => no c
            | .ok (_, x, lost) =>
              openXfer p (flagsOf v (wantsShadow p) lost.isSome) (epochOne v p lost)
                { upload := true, shadow := wantsShadow p, addr := key, total := x.length, digest := sha256 x, latched := x } w
        else
          let x := xferWrite p key (wantsShadow p) []
          match downloadBad w x o with
          | some c => no c
          | none =>
            if !sizeOk o total then no aTooBig
            else
              openXfer p (if wantsShadow p then fShadow else 0) 0
                { shadow := wantsShadow p, addr := key, total := total, digest := slice p.body 12 32 }
                (if x.toShadow o then editShadow (fun s => s) w else w)) w

/-- BLOCK_INIT. -/
def execBlockInit (m : HostMsg) (s : State) : Host.Outcome State Fault Refusal := viewEffect (blockInit m) s

/-- The lowest offset not yet received, from `next` on; the number bounds the work. -/
def nextGap (segs : Store Bytes) : Nat → Nat → Nat
  | 0, next => next
  | n + 1, next =>
    match sFind segs next with
    | some b => if b.isEmpty then next else nextGap segs n (next + b.length)
    | none => next

def blockSeg (m : HostMsg) (w : World) : World :=
  request 0x14 8 m (fun p w =>
    let no (c : Nat) : World := abortReq p.sess 0x14 p.reqId c w
    let off := beAt p.body 4 4
    let len := beAt p.body 8 2
    let data := p.body.drop 10
    if p.body.length < 10 then no aBadMessage
    else match xferOf w p.sess (beAt p.body 0 1) with
      | none => no aXfer
      | some x =>
        if !hasRole w p.sess (if x.upload then 0 else 1) then no aRole
        else if x.upload then
          if !data.isEmpty then no aBadMessage
          else if len = 0 ∨ 1024 < len then no aValueRange
          else if x.total < off + len then no aXfer
          else respond p.sess 0x14 (if x.shadow then fShadow else 0) p.reqId (u32 off ++ slice x.latched off len)
            (onXfer p.sess x.id (fun x => { x with at_ := nowNs w }) w)
        else if len ≠ 0 then no aValueRange
        else if off < x.next ∨ x.next + 16384 ≤ off ∨ off % 1024 ≠ 0 ∨ x.total ≤ off then no aXfer
        else if data.length ≠ min 1024 (x.total - off) then no aBadMessage
        else
          let segs := sInsert x.segs off data
          let next := nextGap segs segs.length x.next
          respond p.sess 0x14 (if x.shadow then fShadow else 0) p.reqId (u32 next)
            (onXfer p.sess x.id (fun x => { x with segs := segs, next := next, at_ := nowNs w }) w)) w

/-- BLOCK_SEG. -/
def execBlockSeg (m : HostMsg) (s : State) : Host.Outcome State Fault Refusal := liveEffect (blockSeg m) s

def blockEnd (m : HostMsg) (v : View) (w : World) : World :=
  request 0x15 8 m (fun p w =>
    let no (c : Nat) (w : World) : World := abortReq p.sess 0x15 p.reqId c w
    if p.body.length ≠ 1 then no aBadMessage w
    else match xferOf w p.sess (beAt p.body 0 1) with
      | none => no aXfer w
      | some x =>
        let w := endXfer p.sess x.id w
        if x.upload then respond p.sess 0x15 (if x.shadow then fShadow else 0) p.reqId (u64 0) w
        else
          let bytes := x.segs.flatMap (·.2)
          if x.next ≠ x.total ∨ sha256 bytes ≠ x.digest then no aDigest w
          else match findObj x.addr with
            | .error c => no c w
            | .ok o => judgeWrite v (xferWrite p x.addr x.shadow bytes) o w) w

/-- BLOCK_END. -/
def execBlockEnd (m : HostMsg) (s : State) : Host.Outcome State Fault Refusal := viewEffect (blockEnd m) s

/-- BLOCK_TRANSFER_TIMEOUT: no accepted segment for SESSION_TIMEOUT. -/
def execBlockTransferTimeout (n : Fin 8) (id : BitVec 8) (s : State) : Host.Outcome State Fault Refusal :=
  liveEffect (fun w =>
    match xferOf w n id.toNat with
    | some x => if x.at_ + sessionTimeoutNs w ≤ nowNs w then endXfer n x.id w else w
    | none => w) s

end Sys2Proof.Machine
end

