-- ==== Sys2Proof/Machine/Exchange.lean ====
section
/-! DEFINITION. What a boundary brings in: accepted writes (01 R26 to R28; 02 R37; 07 R188), the exchange of the sets (11 R311, R312,
R314; 14 R382), hand-overs and derived sets (12 R334, R343, R344), and the commands SWAP, SWAP_CANCEL, SWAP_PREPARED, FIRST_SWAP. -/

namespace Sys2Proof.Machine

/-! ## Writes that take effect (01 R26 step 2) -/

/-- The written value as the set holds it. -/
def keepWrite (r : RwWrite) (w : World) : World := onCfg (fun c => { c with active := storeIn c.active r.index r.sub r.inst r.value }) w

/-- An operation of UPGRADE_CTRL begins (12 R343); BEDROCK_SWITCH also ends, with its DIE_UPGRADE record (12 R344). -/
def beginUpgrade (d v : Nat) (w : World) : World :=
  let op := upOp v
  match op with
  | 1 => onCont (fun c => { c with upgrade := some { op := op, die := d } }) (onDie d (fun x => { x with state := .draining }) w)
  | 2 =>
    let w := clearStratum d w
    onCont (fun c => { c with upgrade := some { op := op, die := d } }) (onDie d (fun x => { x with state := .loading }) w)
  | 3 => onCont (fun c => { c with upgrade := some { op := op, die := d } }) (onDie d (fun x => { x with state := .rejoining }) w)
  | _ =>
    let old := (die w 4).image
    record 0x61 4 0x8021 0 (onCont (fun c => { c with upgradeResult := 0 })
      (onGarnet (fun g => { g with idleImage := old, bank := 1 - g.bank })
        (onDie 4 (fun x => { x with image := (w.garnet.staged.map (fun b => imageOf b 4)).getD old }) w)))

/-- A write of the active set taking effect at a boundary with these LC0 and LC3 stamps; a code where the boundary refuses it. -/
def applyRw (lc0 : Nat) (lc3 : Int) (r : RwWrite) (w : World) : World × Option Nat :=
  let n := leNat r.value
  let at_ := (lc3 / 65536).toNat
  let i := r.inst
  let done (w : World) : World × Option Nat := (w, none)
  if !w.cfg.present then (w, some aNoActiveSet)
  else if holderAbsent w.cfg.active r.index i then (w, some aNoInstance)
  else match r.index with
    | 0x2010 => done (keepWrite r (setRate i (signed 64 n) w))
    | 0x2012 => let no := jumpTooFar i (signed 64 n) w; (judge i (signed 64 n) w, if no then some aJumpRefused else none)
    | 0x2013 => done (forceStep i (signed 64 n) w)
    | 0x2014 => done (releaseHold i w)
    | 0x2100 => done (keepWrite r (setOmegaSyn i (field32 r.value 0) w))
    | 0x3001 => done (keepWrite r (partCtrl i n w))
    | 0x4110 => done (enterDelta (i / 4096) (i % 4096) 0x1FF 1 (field32 r.value 0) 0 (lc0 / 65536) (keepWrite r w))
    | 0x4111 => done (enterDelta (i / 4096) (i % 4096) r.sub 1 (field32 r.value 0) 0 (lc0 / 65536) (keepWrite r w))
    | 0x5011 => if hasFlag lfClosed (loop w i).flags then (w, some aCoeffClosed) else done (keepWrite r w)
    | 0x5012 => done (keepWrite r (loopCtrl i n w))
    | 0x5031 => done (if r.sub = 1 then injArm i at_ w else injHalt i w)
    | 0x5041 => done (capArm i n at_ w)
    | 0x7000 => done (onTiles (clearSticky i (BitVec.ofNat 8 n)) w)
    | 0x8020 =>
      match upgradeBad w i n with
      | some c => (w, some c)
      | none => done (beginUpgrade i n w)
    | 0x8180 => done (keepWrite r (onCont (fun c => { c with acks := sPut 0 c.acks i n }) w))
    | _ => done (keepWrite r w)

/-- A write accepted before a boundary's instant: stamps are compared in whole nanoseconds (01 R22, R27). -/
def RwWrite.before (lc0 : Nat) (r : RwWrite) : Bool := decide (r.at_ < lc0 / 65536)

/-- Every write accepted before the boundary, in order of acceptance, and what each is answered with; the others wait for the next. -/
def applyWrites (lc0 : Nat) (lc3 : Int) (w : World) : World × List (RwWrite × Option Nat) :=
  (w.cfg.rw.filter (RwWrite.before lc0)).foldl (fun a r => let x := applyRw lc0 lc3 r a.1; (x.1, a.2 ++ [(r, x.2)]))
    (onCfg (fun c => { c with rw := c.rw.filter (fun r => !r.before lc0) }) w, [])

/-- The answers, with the epoch that a boundary has made visible; `swapped` where the sets changed places at it (01 R28). -/
def answerWrites (swapped : Bool) (l : List (RwWrite × Option Nat)) (w : World) : World :=
  eachW l (fun x w =>
    match x.2 with
    | some c => abortReq x.1.session x.1.service x.1.reqId c w
    | none => respond x.1.session x.1.service (if swapped then fSwappedOut else 0) x.1.reqId (u64 w.dev.epoch) w) w

/-! ## Work taken to another set or placement -/

/-- Where each template's work runs. -/
def enginesNow (w : World) : List (Nat × Option Nat) := (tmplsOf w.cfg.active).map (fun t => (t, tmplEngine w t))

/-- Values of PARAM objects that an incoming set holds enter as HOST deltas, 0x4110 before 0x4111 (log 38). -/
def swapParams (prod : Nat) (w : World) : World :=
  eachW (w.cfg.active.filter (fun e => keyIndex e.1 == 0x4110 || keyIndex e.1 == 0x4111)) (fun e w =>
    let t := keyInst e.1 / 4096
    let s := keyInst e.1 % 4096
    let inst := if keyIndex e.1 = 0x4110 then 0x1FF else keySub e.1
    if deltaOk w t s inst 0 then enterDelta t s inst 1 (field32 e.2 0) 0 prod w else w) w

/-- Stratum pages held under the placement in force; the ledger of a lost die keeps its last values (12 Table 12.3). -/
def holdPages (w : World) : World :=
  let used := (placeLibrary w.cfg.active (activeCase w)).1
  onCont (fun c => { c with pages := (upTo 4).map (fun d =>
    let l := nth {} c.pages d
    if dieGood (die w d) then { free := 65536 - nth 0 used d, held := nth 0 used d } else l) }) w

/-- The placement of an admitted set that comes into force: its derived one while a die is drained and not back (log 48). -/
def placementNow (w : World) (map : Mapping) (derived : Store Mapping) : Mapping :=
  match (upTo 4).find? (fun d => dieGood (die w d) && !dieServing (die w d)) with
  | some d => sGet map derived d
  | none => map

/-- A set exchanged with the shadow at an LC0 instant `at_`, 2^-16 ns: every block goes over together (01 R26 step 3; 11 R311). -/
def exchangeSets (at_ : Nat) (w : World) : World :=
  let prod := at_ / 65536
  let had := w.cfg.present
  let before := w.cfg.active
  let old := if had then before else []
  let oldMap : Mapping := if had then w.cfg.mapping else {}
  let engines := if had then enginesNow w else []
  let oldPins := (upTo 4).map (tickOut w)
  let oldAddrs := (upTo 2).map (configuredAddr w)
  let w := eachW (upTo 8) (fun k => anchorTheta k at_) w
  let w := swapClocks w.cfg.shadow w
  let w := onCfg (fun c => { c with
    present := true, active := c.shadow, shadow := old, state := .editing
    mapping := placementNow w c.mappingShadow c.derivedShadow, mappingShadow := oldMap
    derived := c.derivedShadow, derivedShadow := if had then c.derived else []
    digestActive := c.digestShadow, digestShadow := if had then c.digestActive else []
    powerActive := c.power, derivedDie := none, derivedEpoch := 0, derivedReady := false }) w
  let w := swapTrackers old had at_ w
  let w := eachW ((upTo 4).filter (fun p => !had || nth 0 oldPins p != tickOut w p)) idlePin w
  let w := swapTemplates old engines w
  let w := swapHalo old w
  let w := swapServing old oldMap w
  let w := swapCells before had w
  let w := swapParams prod w
  let w := eachW ((upTo 2).filter (fun p => configuredAddr w p ≠ nth 0 oldAddrs p)) (fun p => detect p (configuredAddr w p)) w
  holdPages (onCont (fun c => { c with replicas := [] }) w)

/-! ## Other placements of the same set (12 R334, R343) -/

/-- A partition stops where it stands: a step in progress is rolled back and its members keep their tokens (12 R333). -/
def stopPart (p : Nat) (w : World) : World :=
  let w := if (part w p).mode = .stepping then
      let w := rollBack p (clearServing (actPart w p) w)
      onPart p (fun q => { q with mode := restMode w p }) w
    else w
  onPart p (fun q => { q with stoppedBy := true }) w

/-- Partitions that a placement sheds stay stopped. -/
def stopShed (w : World) : World :=
  eachW ((upTo 32).filter (fun p => pInSet w.cfg.active p && isShed w.cfg.mapping.shed 0x3000 p)) stopPart w

/-- The derived set for a lost die in force: work stopped with the die is activated afresh, what was taken over goes on. -/
def deriveExchange (d : Nat) (w : World) : World :=
  let set := w.cfg.active
  let oldMap := w.cfg.mapping
  let engines := enginesNow w
  let w := onCfg (fun c => { c with
    mapping := sGet {} c.derived d, derived := [], derivedReady := false, derivedDie := some d, derivedEpoch := w.dev.epoch + 1 }) w
  let w := swapTemplates set engines w
  let w := swapHalo set w
  holdPages (stopShed (swapServing set oldMap w))

/-- One page of a sequence takes a frame of the partition it now belongs to; without one, the sequence loses its context. -/
def placePage (p s n : Nat) (g : Page) (w : World) : World :=
  let put (tier d f : Nat) (res : Bool) (w : World) : World :=
    let g : Page := { tier := tier, die := d, frame := f, bytes := g.bytes }
    onPool p (fun q => { q with flushed := q.flushed + 1, live := q.live + 1 })
      (putFrame p tier d f g.bytes <| onList p s n (fun l => { l with pages := l.pages ++ [g], reserve := l.reserve && !res }) w)
  match flushFrame w p s n with
  | some (tier, d, f, res) => put tier d f res w
  | none =>
    match frameT2 w p with
    | some f => put 2 (kvT2Die (kvRec w p)) f false w
    | none => onSeq s (fun x => { x with lostContext := true }) w

/-- A sequence that a planned hand-over moves: its cache is copied to its new partition (12 R343). -/
def rehome (s : Nat) (x : Seq) (w : World) : World :=
  let p := seqPart w s
  let home := seqHome w.cfg.mapping w.cfg.active s
  let w := dropPages p s w
  let w := onSeq s (fun _ => { x with home := home, lists := x.lists.map (fun l => (l.1, { l.2 with pages := [], away := [], awayBytes := [] })) }) w
  let w := eachW x.lists (fun l w => eachW l.2.pages (fun g => placePage p s l.1 g) w) w
  if (seq w s).lostContext && !x.lostContext then restartSeq s w else w

/-- Templates at a planned hand-over: a solve in progress publishes under its own rules; one that comes back starts cold, and one that is
shed ends. -/
def handTemplates (engines : List (Nat × Option Nat)) (w : World) : World :=
  eachW engines (fun te w =>
    let t := te.1
    let w := onTmpl t (fun x => { x with movedTo := none, stoppedBy := false }) w
    match te.2, tmplEngine w t with
    | none, some _ =>
      loadImage t (onTmpl t (fun x => { x with releases := [], nextBuffer := 0, doneRel := none }) w)
    | some _, none =>
      let w := (tmpl w t).releases.foldl (fun w r => releaseHolds t r.num (dropChain t r.num 4 w)) w
      onTmpl t (fun x => { x with releases := [], doneRel := none }) w
    | _, _ => w) w

/-- Samples that wait in a Halo engine follow their loops. -/
def moveQueued (w : World) : World :=
  let all := w.halo.engines.flatMap (fun e => e.2.queue)
  onHalo (fun h => { h with engines := (upTo 16).foldl (fun es e =>
    let mine := all.filter (fun q => (loop w q.loop).engine == e)
    if mine.isEmpty && (sGet {} es e).queue.isEmpty then es else sUpd {} es e (fun x => { x with queue := mine.take 512 })) h.engines }) w

/-- A planned hand-over to another placement of the same set: nothing is lost (12 R344). -/
def handOver (map : Mapping) (derived : Store Mapping) (d : Option Nat) (w : World) : World :=
  let set := w.cfg.active
  let oldMap := w.cfg.mapping
  let engines := enginesNow w
  let w := eachW ((upTo 32).filter (fun p => pInSet set p && isShed map.shed 0x3000 p && !isShed oldMap.shed 0x3000 p)) stopPart w
  let there (m : Mapping) (s : Nat) : Bool := !isShed m.shed 0x3800 s
  let movers := ((seqsOf set).filter (fun s => there oldMap s && there map s && seqPartIn oldMap set s != seqPartIn map set s)).map
    (fun s => (s, seq w s))
  let w := onCfg (fun c => { c with
    mapping := map, derived := derived, derivedReady := false, derivedDie := d, derivedEpoch := if d.isSome then w.dev.epoch + 1 else 0 }) w
  let w := handTemplates engines w
  let w := moveQueued (swapHalo set w)
  let w := swapServing set oldMap w
  let w := eachW movers (fun m => rehome m.1 m.2) w
  holdPages (stopShed w)

/-! ## SWAP (11 R301, R308, R311 to R314) -/

/-- SWAP_STATUS and a SWAP_RESULT record: result 0 exchanged, 1 not. -/
def swapResult (result id epoch code : Nat) (w : World) : World :=
  record 0x11 4 0x1204 0 (onCfg (fun c => { c with swapStatus := [result, id, epoch, code] }) w)

/-- A pending SWAP ends without an exchange. -/
def failSwap (code detail : Nat) (then_ : ShadowState) (w : World) : World :=
  match w.cfg.swap with
  | none => w
  | some x =>
    abortReq x.session 0x19 x.reqId code
      (swapResult 1 x.admitId 0 code (onCfg (fun c => { c with swap := none, state := then_ }) w)) detail

/-- SWAP: OP 1 asks for the exchange, OP 2 cancels the one that is pending. -/
def swapReq (m : HostMsg) (w : World) : World :=
  request 0x19 8 m (fun p w =>
    let no (c : Nat) : World := abortReq p.sess 0x19 p.reqId c w
    let id := beAt p.body 8 8
    let target := beAt p.body 16 8
    if p.body.length ≠ 24 then no aBadMessage
    else if !setService w then no aDeviceState
    else if w.link.master ≠ some p.sess then no aNotMaster
    else if beAt p.body 0 1 = 2 then
      if w.cfg.swap.isNone then no aState
      else respond p.sess 0x19 0 p.reqId (u64 0) (failSwap aSwapCancelled 0 .admitted w)
    else if w.cfg.state ≠ .admitted ∨ id ≠ w.cfg.admitId then no aNotAdmitted
    else if !w.cfg.present && target != 0 then no aValueRange
    else if target ≠ 0 ∧ target < w.dev.epoch + 2 then no aTooLate
    else onCfg (fun c => { c with
      state := .swapPending
      swap := some { session := p.sess, reqId := p.reqId, admitId := id, target := target, at_ := nowNs w } }) w) w

/-- SWAP. -/
def execSwap (m : HostMsg) (s : State) : Host.Outcome State Fault Refusal := liveEffect (swapReq m) s

/-- SWAP_CANCEL. -/
def execSwapCancel (m : HostMsg) (s : State) : Host.Outcome State Fault Refusal := liveEffect (swapReq m) s

/-- SWAP_PREPARED: the exchange that is pending has been prepared. -/
def swapPrepared (w : World) : World := onCfg (fun c => { c with swap := c.swap.map (fun x => { x with prepared := true }) }) w

/-- SWAP_PREPARED. -/
def execSwapPrepared (s : State) : Host.Outcome State Fault Refusal := liveEffect swapPrepared s

/-- LIVE where every Cumulus die serves, else DEGRADED (14 Table 14.2). -/
def serviceState (w : World) : DevState := if (upTo 4).all (fun d => dieServing (die w d)) then .live else .degraded

/-- FIRST_SWAP: with no active set, the exchange takes effect once it is prepared; epoch and answer wait for the first boundary. -/
def firstSwap (w : World) : World :=
  match w.cfg.swap with
  | none => w
  | some x =>
    if w.cfg.present || !x.prepared || decide (w.dev.state ≠ .readyQuiet) then w else
      let w := exchangeSets (now16 w) w
      let w := onCfg (fun c => { c with swap := none, firstSwap := some (x.session, x.reqId) }) w
      let w := swapResult 0 x.admitId (w.dev.epoch + 1) 0 w
      enterState (serviceState w) (onDev (fun d => { d with
        bounded := false, boundedNext := false, boundedSince := d.epoch + 1, boundaryDue := none, pendFallback := false })
        (onMer (fun m => { m with atBoundary := none }) w))

/-- FIRST_SWAP. -/
def execFirstSwap (s : State) : Host.Outcome State Fault Refusal := liveEffect firstSwap s

end Sys2Proof.Machine
end

