-- ==== Sys2Proof/Machine/Ssc.lean ====
section
/-! DEFINITION. The SSC-2 code: Reed–Solomon over GF(2^8), 32 data and 4 check bytes, two byte errors corrected (12 R317, R318). -/

namespace Sys2Proof.Machine

/-- A byte times α = 0x02 modulo x^8 + x^4 + x^3 + x^2 + 1. -/
def gfX (a : Nat) : Nat := if 256 ≤ 2 * a then (2 * a) ^^^ 0x11D else 2 * a

def gfMul (a b : Nat) : Nat :=
  ((upTo 8).foldl (fun (p : Nat × Nat) i => (if bit b i then p.1 ^^^ p.2 else p.1, gfX p.2)) (0, a)).1

/-- α^n. -/
def gfAlpha : Nat → Nat
  | 0 => 1
  | n + 1 => gfX (gfAlpha n)

/-- The inverse a^254. -/
def gfInv (a : Nat) : Nat :=
  let s := (upTo 6).foldl (fun (p : Nat × Nat) _ => let q := gfMul p.2 p.2; (gfMul p.1 q, q)) (gfMul a a, gfMul a a)
  s.1

/-- S_k = c(α^k) of a codeword D0 … D31, C0 … C3: its first byte is the highest coefficient. -/
def syndrome (c : Bytes) (k : Nat) : Nat := c.foldl (fun s b => gfMul s (gfAlpha k) ^^^ b.toNat) 0

/-- The four check bytes of 32 data bytes: the remainder of d(x)·x^4 by g(x). -/
def checkBytes (d : Bytes) : Bytes :=
  let r := d.foldl (fun (r : List Nat) b =>
    let f := nth 0 r 0 ^^^ b.toNat
    [nth 0 r 1 ^^^ gfMul f 0x0F, nth 0 r 2 ^^^ gfMul f 0x36, nth 0 r 3 ^^^ gfMul f 0x78, gfMul f 0x40]) [0, 0, 0, 0]
  r.map (BitVec.ofNat 8)

/-- A codeword with the byte of the coefficient of x^p changed by `e`. -/
def fixByte (c : Bytes) (p e : Nat) : Bytes := updNth c (35 - p) (· ^^^ BitVec.ofNat 8 e)

/-- The error value at q, for an error in two bytes p and q, from the first two syndromes. -/
def errorAt (s0 s1 p q : Nat) : Nat := gfMul (s1 ^^^ gfMul s0 (gfAlpha p)) (gfInv (gfAlpha q ^^^ gfAlpha p))

/-- A codeword as a decoder takes it: as read, corrected, or none where it is uncorrectable. -/
def sscDecode (c : Bytes) : Option Bytes :=
  let s0 := syndrome c 0
  let s1 := syndrome c 1
  let s2 := syndrome c 2
  let s3 := syndrome c 3
  let fits (es : List (Nat × Nat)) : Bool :=
    let sum (k : Nat) : Nat := es.foldl (fun a e => a ^^^ gfMul e.2 (gfAlpha (k * e.1))) 0
    sum 0 == s0 && sum 1 == s1 && sum 2 == s2 && sum 3 == s3
  if s0 = 0 ∧ s1 = 0 ∧ s2 = 0 ∧ s3 = 0 then some c
  else
    match (upTo 36).find? (fun p => fits [(p, s0)]) with
    | some p => some (fixByte c p s0)
    | none =>
      let pairs := (upTo 36).flatMap (fun q => (upTo q).map (fun p => (p, q)))
      let two (pq : Nat × Nat) : List (Nat × Nat) :=
        let e := errorAt s0 s1 pq.1 pq.2
        [(pq.1, s0 ^^^ e), (pq.2, e)]
      (pairs.find? (fun pq => (two pq).all (fun x => x.2 ≠ 0) && fits (two pq))).map (fun pq =>
        (two pq).foldl (fun c x => fixByte c x.1 x.2) c)

end Sys2Proof.Machine
end

