-- ==== Sys2Proof/Machine/Errors.lean ====
section
/-! DEFINITION. Uncorrectable errors by store (12 R319, Table 12.1), the patrol (12 R320), Seam replays and retraining (12 R321), what a
boundary makes good again, and the commands UNCORRECTABLE_ERROR, SCRUB_PATROL, SEAM_REPLAY, SEAM_RETRAIN_TIMEOUT,
SEAM_RETRAIN_COMPLETE, OBSIDIAN_COMMIT. -/

namespace Sys2Proof.Machine

/-- A die has a store of a code: 0x7 to 0xA exist on Bedrock only, 0x0 to 0x5 on Cumulus dies only (12 R322; log 49). -/
def hasStore (d store : Nat) : Bool := store == 6 || (if d = 4 then decide (7 ≤ store) else decide (store < 6))

/-- Bytes of a store of a die; 0 for Seam endpoints (01 Table 1.3). -/
def storeSize (store : Nat) : Nat :=
  match store with
  | 0 => 32 * 327680
  | 1 => 8 * 262144
  | 2 => 4 * 131072
  | 3 => 2 * 524288
  | 4 => 2 ^ 32
  | 7 => 262144 * 32
  | 8 => 2 ^ 21
  | 9 => 32768 * 8
  | 10 => 131072 * 64
  | _ => 0

/-! ## Tiles -/

/-- Pages of a pool that lie in a range of frames are lost (08 R230). -/
def strikePages (hit : Nat → Page → Bool) (w : World) : World :=
  eachW ((upTo 32).filter (pInSet w.cfg.active)) (fun p w => losePages (hit p) p w) w

/-- A byte, of a tile's scratchpad or of the partition's far space, lies in the frame of a page. -/
def inFrame (w : World) (p : Nat) (g : Page) (a : Nat) : Bool :=
  let lo := if g.tier = 0 then frameT0At w.cfg.active p g.frame else frameAt w.cfg.active p g.frame
  decide (lo ≤ a) && decide (a < lo + frameBytes w.cfg.active p)

/-- A scratchpad word: the context whose share holds it faults, a tier T0 page there is lost; in no share it is written zero. -/
def strikeTile (tile byte : Nat) (w : World) : World :=
  let word := byte / 32
  let owners := (upTo 32).filter (fun p => let r := actPart w p
    pInSet w.cfg.active p && pHasTile r tile && decide (pShareBase r ≤ word) && decide (word < pShareBase r + pShareLen r))
  if owners.isEmpty then onTiles (fun t => { t with scratch := Mem.clear t.scratch (padAddr tile (word * 32)) 32 }) w
  else
    eachW owners (fun p => contextFault (ctxKey tile (pCtxOf (actPart w p) tile)) 7)
      (strikePages (fun p g => owners.contains p && g.tier == 0 && g.frame / 256 == tile && inFrame w p g byte) w)

/-! ## Basalt -/

/-- The templates whose regions of a buffer, instance and result, hold a word of an engine's local memory. -/
def holdsWord (w : World) (t buffer word : Nat) : Bool :=
  (bufferChain w.cfg.active t buffer).any (fun d => [region d false, region d true].any (fun r =>
    decide (r.1 ≤ word) && decide (word < r.1 + r.2)))

/-- A release is lost to an uncorrectable error; what is left of its chain is discarded. -/
def loseRelease (t num : Nat) (w : World) : World := onRelease t num (fun r => { r with fail := some 2 }) (dropChain t num 3 w)

/-- A word of local memory: a running descriptor that reads it is abandoned; else the first release that would have read it is lost,
whether it waits already or comes before the next boundary. -/
def strikeBasalt (e word : Nat) (w : World) : World :=
  let x := be w e
  let reads (q : BeDesc) : Bool := [q.inst, q.res].any (fun r => decide (r.1 ≤ word) && decide (word < r.1 + r.2))
  let keep (at_ : Option Nat) : World → World := onBe e (fun x => { x with struck := (word, at_) :: x.struck })
  if x.run.isSome && (x.queue.head?.map reads).getD false then keep none (basaltStruck e w)
  else
    match (x.queue ++ x.waiting.flatten).find? reads with
    | some q => keep none (loseRelease q.template q.release w)
    | none =>
      let ts := (tmplsOf w.cfg.active).filter (fun t => decide (tmplEngine w t = some e) && holdsWord w t (tmpl w t).nextBuffer word)
      match ts.findSome? (fun t => (nextAssembly w t).map (fun r => (t, r.num))) with
      | some (t, n) => keep none (loseRelease t n w)
      | none => keep (some (nowNs w)) w

/-- Before a boundary publishes: the first release assembled since from a word that was struck is lost. -/
def strikeReaders (w : World) : World :=
  eachW (upTo 32) (fun e w =>
    eachW (be w e).struck (fun s w =>
      match s.2 with
      | none => w
      | some at_ =>
        let ts := (tmplsOf w.cfg.active).filter (fun t => decide (tmplEngine w t = some e))
        let hit := ts.findSome? (fun t => ((tmpl w t).releases.find? (fun r =>
          r.started && r.fail.isNone && decide (at_ ≤ r.at_ / 65536) && holdsWord w t r.buffer s.1)).map (fun r => (t, r.num)))
        match hit with
        | some (t, n) => loseRelease t n w
        | none => w) w) w

/-- The words struck are rewritten from the active set: the images of the templates whose space holds them. -/
def mendBasalt (w : World) : World :=
  eachW ((upTo 32).filter (fun e => !(be w e).struck.isEmpty)) (fun e w =>
    let words := (be w e).struck.map (·.1)
    let ts := (tmplsOf w.cfg.active).filter (fun t => decide (tmplEngine w t = some e))
    let homes := (ts.map (tHome w)).eraseDups
    onBe e (fun x => { x with struck := [] }) (onSolver (fun s =>
      let m := homes.foldl (fun m h => words.foldl (fun m x => Mem.clear m (elAddr h (8 * x)) 32) m) s.mem
      { s with mem := ts.foldl (fun m t => ((imageEntries w.cfg.active t).filter (fun v => words.contains (v.1 / 8))).foldl
          (fun m v => elPut (tHome w t) m v.1 v.2) m) m }) w)) w

/-! ## Halo -/

/-- A word of state memory: its loop or generator runs nothing until the next boundary, an injector stops, a channel is IDLE. -/
def strikeHalo (e word : Nat) (w : World) : World :=
  let use := Config.haloUse e word
  let n := use.2
  match use.1 with
  | 1 => if hasObj w.cfg.active 0x5010 0 n && (loop w n).engine == e then onLoop n (fun x => { x with struck := true }) w else w
  | 2 => if hasObj w.cfg.active 0x5020 0 n && (gen w n).engine == e then onGen n (fun x => { x with struck := true }) w else w
  | 3 => if sFind w.cfg.mapping.injs n = some e then injHalt n w else w
  | 4 => if sFind w.cfg.mapping.caps n = some e then onCap n (fun _ => {}) w else w
  | _ => w

/-- The latest valid replica of a die's work (12 R330). -/
def bestReplica (w : World) (d : Nat) : Option Replica :=
  let a := sGet {} w.cont.replicas (2 * d)
  let b := sGet {} w.cont.replicas (2 * d + 1)
  if a.valid && (!b.valid || decide (b.epoch ≤ a.epoch)) then some a else if b.valid then some b else none

/-- A critical loop resumes from its replica on an engine (12 R331). -/
def resumeLoop (l e : Nat) (x : LoopRt) (w : World) : World :=
  let sh := shadow w l
  onLoop l (fun y =>
    let f := setFlag lfWindow false x.flags
    { x with
      flags := if hasFlag lfClosed f then setFlag lfPending true f else f
      level := sh.level, lastExec := sh.lastExec, swCount := 0, wElapsed := 0, engine := e, stopped := false, struck := false
      discard := false, first := x.first && sh.lastExec == 0
      nCommands := y.nCommands, nCreditWaits := y.nCreditWaits, nEndLevel := y.nEndLevel, nArith := y.nArith, nLate := y.nLate }) w

/-- A generator starts again from P_INIT. -/
def restartGen (g : Nat) (w : World) : World :=
  let r := genRec w g
  onGen g (fun x => { p := gnPInit r, engine := x.engine, stepAt := lc3Ns w }) (writeActive32 0x5020 g 50 (gnPInit r) w)

/-- The loops and generators whose records were struck are made good (12 Table 12.1). -/
def mendHalo (w : World) : World :=
  let set := w.cfg.active
  let rep (e : Nat) : Option Replica := bestReplica w (e / 4)
  let gens := (instancesOf set 0x5020 0).filter (fun g => (gen w g).struck)
  let w := eachW gens (fun g w =>
    let critical := (loopsOf set).any (fun l => lpCritical (loopRecIn set l) && genOf set l == some g)
    match (if critical then rep (gen w g).engine else none).bind (fun r => sFind r.gens g) with
    | some x => onGen g (fun y => { x with engine := y.engine, struck := false }) w
    | none => restartGen g w) w
  eachW ((loopsOf set).filter (fun l => (loop w l).struck)) (fun l w =>
    let r := loopRecIn set l
    let e := (loop w l).engine
    let old := if lpCritical r then (rep e).bind (fun x => (sFind x.loops l).map (fun y => (x, y))) else none
    match old with
    | some (x, y) =>
      let w := match genOf set l with
        | some g => (match sFind x.gens g with | some z => onGen g (fun y => { z with engine := y.engine }) w | none => w)
        | none => w
      resumeLoop l e y w
    | none => onLoop l (fun x => freshLoop r e (shadow w l).level (shadow w l).lastExec x) w) w

/-! ## Nimbus -/

/-- A word of Nimbus memory: 1 a table of a template, 2 of a partition, 3 a core's firmware. -/
def strikeNimbus (d word : Nat) (w : World) : World :=
  let use := Config.nimbusUse d word
  let n := use.2
  match use.1 with
  | 1 =>
    if !hasObj w.cfg.active 0x4100 0 n then w else
      let w := onCont (fun c => { c with struckTables := (n, nowNs w) :: c.struckTables }) w
      eachW ((tmpl w n).releases.filter (fun r => !r.started && r.fail.isNone)) (fun r => onRelease n r.num (fun x => { x with fail := some 4 })) w
  | 2 => if pInSet w.cfg.active n then beginTeardown n 4 0 w else w
  | 3 => onDie d (fun x => { x with coresLost := x.coresLost ||| 2 ^ (n % 2) }) w
  | _ => w

/-- Releases made since a table was struck are withheld; the boundary rewrites the table. -/
def mendTables (w : World) : World :=
  let w := eachW w.cont.struckTables (fun s w =>
    eachW ((tmpl w s.1).releases.filter (fun r => r.fail.isNone && r.doneAt.isNone && decide (s.2 ≤ r.at_ / 65536))) (fun r w =>
      onRelease s.1 r.num (fun x => { x with fail := some 4 }) (dropChain s.1 r.num 4 w)) w) w
  onCont (fun c => { c with struckTables := [] }) w

/-! ## Stratum -/

/-- A library copy that a LOADING partition reads: without another, the partition is HALTED (09 R241). -/
def strikeLibrary (d m : Nat) (w : World) : World :=
  let only := libMask w.cfg.active (activeCase w) m == 2 ^ d
  eachW ((upTo 32).filter (fun p => only && pInSet w.cfg.active p && decide ((part w p).mode = .loading) &&
    (match (part w p).switchTo with | some e => pModel (actPart w p) e | none => (part w p).model) == m)) (fun p w =>
      record 0x32 d 0x3002 p (onPart p (fun q => { q with mode := .halted, nHalts := q.nHalts + 1 }) w)) w

/-- A byte of a partition's far space on a die: a page whose frame holds it is lost, a prefetched copy there is read again; past the
frames, on the partition's own dies, stand its weight region and areas. -/
def strikeFar (d p far : Nat) (w : World) : World :=
  if !pInSet w.cfg.active p then w
  else if (pDies (actPart w p)).contains d && decide (regionBase w.cfg.active p ≤ far) then beginTeardown p 4 0 w
  else
    let here (f : Nat) : Bool := f == far / max 1 (frameBytes w.cfg.active p)
    let w := losePages (fun g => (g.tier == 1 || g.tier == 2) && g.die == d && inFrame w p g far) p w
    let w := eachW (seqsIn w p) (fun s => onLists p s (fun ls => ls.map (fun l => (l.1, { l.2 with pages := l.2.pages.map (fun g =>
      if g.copy.any (fun c => c.1 == d && here c.2) then { g with fetching := false, prefetched := false, copy := none } else g) })))) w
    eachW ((seqsIn w p).filter (fun s => decide ((seq w s).mode = .due))) startPrefetch w

/-- A word of Stratum: a capture ring's entry, or what stands there by the layout: 1 a library copy of a model, 2 a page of a partition's
far space, by partition and page, 3 a replica slot. -/
def strikeStratum (d a : Nat) (w : World) : World :=
  let ring (c : Nat) : Nat := cpPage (capRec w c) * 65536
  let rings := (w.cfg.mapping.caps.filter (fun c => c.2 / 4 = d ∧ ring c.1 ≤ a ∧ a < ring c.1 + 16 * cpEntries (capRec w c.1))).map (·.1)
  if !rings.isEmpty then onTiles (fun t => { t with stratum := Mem.clear t.stratum (d * 2 ^ 32 + a / 16 * 16) 16 }) w
  else
    let use := Config.stratumUse d (a / 65536)
    match use.1 with
    | 1 => strikeLibrary d (use.2 % 256) w
    | 2 => strikeFar d (use.2 % 32) (use.2 / 32 * 65536 + a % 65536) w
    | 3 => onCont (fun c => { c with replicas := c.replicas.map (fun r => if r.1 = use.2 then (r.1, { r.2 with valid := false }) else r) }) w
    | _ => w

/-! ## Bedrock -/

/-- A word of the frame buffers: 1 a COMMAND frame that waits, by trunk and place; 2 the channels of a SAMPLE frame. -/
def strikeBuffer (word : Nat) (w : World) : World :=
  let use := Config.bufferUse word
  let t := use.2 % 16
  let n := use.2 / 16
  match use.1 with
  | 1 =>
    match (trunk w t).queue.drop n with
    | c :: rest =>
      let w := onTrunk t (fun x => { x with queue := x.queue.take n ++ rest, expired := x.expired + b2n (!c.expired) }) w
      onCell (cellKey t c.cell) (fun x => { x with nExpired := x.nExpired + b2n (!c.expired) }) w
    | [] => w
  | 2 => dropSamples t (n % 17) 6 (onTrunk t (fun x => { x with received := x.received + n % 17 }) w)
  | _ => w

/-- A word of the Obsidian MRAM: the record is invalid and skipped. -/
def strikeObsidian (slot : Nat) (w : World) : World :=
  if slot < 1024 then w else onObs (fun o => { o with slots := sErase o.slots slot, nInvalid := o.nInvalid + 1 }) w

/-! ## The commands (12 R319, R320) -/

/-- What an uncorrectable word of a store does; a word of several items strikes each of them. -/
def strike (d store a : Nat) (w : World) : World :=
  match store with
  | 0 => strikeTile (d * 32 + a / 327680) (a % 327680) w
  | 1 => strikeBasalt (d * 8 + a / 262144) (a % 262144 / 32) w
  | 2 => strikeHalo (d * 4 + a / 131072) (a % 131072 / 32) w
  | 3 => strikeNimbus d (a / 32) w
  | 4 => strikeStratum d a w
  | 7 => onStream (a / 32) (fun x => { x with struck := true }) w
  | 8 => strikeBuffer (a / 32) w
  | 9 => eachW ((upTo 4).map (fun i => a / 32 * 4 + i)) (emptySync true) w
  | 10 => strikeObsidian (a / 64) w
  | _ => w

/-- A report of a store of a die that still answers. -/
def uncorrectable (d store a : Nat) (w : World) : World :=
  if !hasStore d store || decide (max 1 (storeSize store) ≤ a) || !dieGood (die w d) then w
  else strike d store a (reportUnc d store a w)

/-- UNCORRECTABLE_ERROR. -/
def execUncorrectableError (d : Fin 5) (store : Fin 11) (address : Nat) (s : State) : Host.Outcome State Fault Refusal :=
  liveEffect (uncorrectable d store address) s

/-- A corrected codeword written back where the model holds the store's bytes. -/
def writeBack (d store a : Nat) (data : Bytes) (w : World) : World :=
  match store with
  | 0 => onTiles (fun t => { t with scratch := Mem.write t.scratch (d * 32 * 327680 + a) data }) w
  | 1 => onSolver (fun s => { s with mem := Mem.write s.mem (d * 8 * 262144 + a) data }) w
  | 4 => onTiles (fun t => { t with stratum := Mem.write t.stratum (d * 2 ^ 32 + a) data }) w
  | _ => w

/-- SCRUB_PATROL: the codeword as read is clean, corrected and written back, or handled as if a consumer had read it; the last of a store
completes a pass. -/
def scrub (d store a : Nat) (word : Bytes) (w : World) : World :=
  if !hasStore d store || storeSize store ≤ a || a % 32 != 0 || word.length != 36 || !dieGood (die w d) then w else
    let k := d * 16 + store
    let w := match sscDecode word with
      | none => uncorrectable d store a w
      | some c =>
        if c = word then w
        else writeBack d store a (c.take 32) (onCont (fun c => { c with corrected := sUpd 0 c.corrected k (· + 1) }) w)
    if a + 32 = storeSize store then onCont (fun c => { c with scrubs := sUpd 0 c.scrubs k (· + 1) }) w else w

/-- SCRUB_PATROL. -/
def execScrubPatrol (d : Fin 5) (store : Fin 11) (address : Nat) (word : Bytes) (s : State) : Host.Outcome State Fault Refusal :=
  liveEffect (scrub d store address word) s

/-! ## Seams (12 R321; 01 Table 1.1) -/

def seam (w : World) (n : Nat) : Seam := nth {} w.cont.seams n
def onSeam (n : Nat) (f : Seam → Seam) (w : World) : World := onCont (fun c => { c with seams := updNth c.seams n f }) w

/-- SEAM_REPLAY at an endpoint: counted; four that fail in a row put the Seam into retraining. -/
def seamReplay (e : Nat) (failed : Bool) (w : World) : World :=
  let x := seam w (e / 2)
  if x.retraining || x.failed then w else
    let n := if failed then (if e % 2 = 0 then x.fails0 else x.fails1) + 1 else 0
    let w := onCont (fun c => { c with replays := sUpd 0 c.replays e (· + 1) }) w
    onSeam (e / 2) (fun x => if 4 ≤ n then { retraining := true } else if e % 2 = 0 then { x with fails0 := n } else { x with fails1 := n }) w

/-- SEAM_REPLAY. -/
def execSeamReplay (endpoint : Fin 16) (failed : Bool) (s : State) : Host.Outcome State Fault Refusal :=
  liveEffect (seamReplay endpoint failed) s

/-- SEAM_RETRAIN_TIMEOUT: a retraining that has not completed is a Seam failure. -/
def execSeamRetrainTimeout (n : Fin 8) (s : State) : Host.Outcome State Fault Refusal :=
  liveEffect (fun w => if (seam w n).retraining then onSeam n (fun x => { x with retraining := false, failed := true }) w else w) s

/-- SEAM_RETRAIN_COMPLETE: the Seam carries traffic again. -/
def execSeamRetrainComplete (n : Fin 8) (s : State) : Host.Outcome State Fault Refusal :=
  liveEffect (fun w => if (seam w n).retraining then onSeam n (fun _ => {}) w else w) s

/-! ## Obsidian (12 R337 to R340, Tables 12.11 and 12.12) -/

/-- The 64 bytes of a committed record. -/
def obsBytes (format seq section_ : Nat) (r : ObsRec) : Bytes :=
  [0xA5] ++ padTo 30 r.data ++ leBytes 3 r.inst ++ leBytes 2 r.index ++ leBytes 1 format ++
    leBytes 3 (r.severity + 4 * section_ + 16 * r.source + 256 * r.type) ++ leBytes 8 r.lc0 ++ leBytes 8 r.epoch ++ leBytes 8 seq

/-- A record put in a pinned section while it has a slot left. -/
def pinRecord (format seq : Nat) (r : ObsRec) (o : Obsidian) (sec : Nat) : Obsidian :=
  match sec with
  | 0 => if o.fullFirst then o else { o with
      slots := sInsert o.slots o.nextFirst (obsBytes format seq 0 r), nextFirst := o.nextFirst + 1, fullFirst := decide (o.nextFirst = 2047) }
  | 1 => if o.fullDie then o else { o with
      slots := sInsert o.slots o.nextDie (obsBytes format seq 1 r), nextDie := o.nextDie + 1, fullDie := decide (o.nextDie = 3071) }
  | _ => if o.fullSec then o else { o with
      slots := sInsert o.slots o.nextSec (obsBytes format seq 2 r), nextSec := o.nextSec + 1, fullSec := decide (o.nextSec = 4095) }

/-- One record committed with the next SEQ: to its pinned sections, and to the circular one. -/
def commitRecord (format : Nat) (r : ObsRec) (o : Obsidian) : Obsidian :=
  let seq := o.seq + 1
  let o := r.sections.foldl (pinRecord format seq r) o
  { o with
    slots := sInsert o.slots o.next (obsBytes format seq 3 r), next := if o.next = 131071 then 4096 else o.next + 1
    seq := seq, nRecords := o.nRecords + 1 }

/-- OBSIDIAN_COMMIT: the oldest pinned-class record, else the oldest of the others. -/
def obsCommit (w : World) : World :=
  onObs (fun o =>
    match o.pinned, o.queue with
    | r :: rest, _ => commitRecord (commonFormat w) r { o with pinned := rest }
    | [], r :: rest => commitRecord (commonFormat w) r { o with queue := rest }
    | [], [] => o) w

/-- After a failure of Bedrock only the records of the pinned class are still committed (01 R15; log 89). -/
def obsLast (w : World) : World := if w.cont.obs.pinned.isEmpty then w else obsCommit w

/-- OBSIDIAN_COMMIT. -/
def execObsidianCommit (s : State) : Host.Outcome State Fault Refusal :=
  if s.live.dev.bedrockFailed && !s.live.dev.inReset then anyEffect obsLast s else liveEffect obsCommit s

/-- BEDROCK_FAILURE (01 R15). -/
def execBedrockFailure (s : State) : Host.Outcome State Fault Refusal := liveEffect bedrockFail s

end Sys2Proof.Machine
end

