-- ==== Sys2Proof/Machine/Boot.lean ====
section
/-! DEFINITION. From reset to READY_QUIET (14 R365 to R382): reset, the boot ROM, the random source (13 R350), the boot protocol (14
R372 to R375), DIE_LOAD, SELFTEST and TIME_ACQUIRE. -/

namespace Sys2Proof.Machine

/-! ## Reset (14 R367, R368) -/

/-- Obsidian after a reset: what was committed stays, the queues are lost (14 R368). -/
def obsCold (o : Obsidian) : Obsidian :=
  { slots := o.slots, seq := o.seq, next := o.next, nextFirst := o.nextFirst, nextDie := o.nextDie, nextSec := o.nextSec,
    fullFirst := o.fullFirst, fullDie := o.fullDie, fullSec := o.fullSec }

/-- Garnet after a reset: the SYSTEM section stays (13 R349); a PUF failure lasts until a power cycle (13 R347). -/
def garnetCold (viaResetN : Bool) (g : Garnet) : Garnet :=
  { readout := if viaResetN then g.readout else g.readout + 1, pufFail := viaResetN && g.pufFail, trimValid := g.trimValid,
    floorA := g.floorA, floorB := g.floorB, ownerA := g.ownerA, ownerB := g.ownerB, slots := g.slots }

/-- Every block reset: the counters and the epoch are zero, both sets and every session are gone, Stratum is lost. Reset is held. The
test access port is not a block that reset reaches: EXTEST drives while reset is held (15 R403). -/
def cold (viaResetN : Bool) (w : World) : World :=
  { dev := { resetCause := b2n viaResetN, encPins := w.dev.encPins }
    garnet := garnetCold viaResetN w.garnet
    cont := { obs := obsCold w.cont.obs }
    jtag := { w.jtag with driving := decide (w.jtag.ir = 0) }
    out := w.out
    free := w.free }

/-- POWER_ON_RESET: also what hosts were served from is gone. -/
def execPowerOnReset (viaResetN : Bool) (s : State) : Host.Outcome State Fault Refusal :=
  .next { s with live := settle (cold viaResetN s.live), served := {}, dieServed := [] }

/-- The reset ends, and the device enters POWER_UP (14 Table 14.2); EXTEST no longer drives. -/
def resetEnds (w : World) : World :=
  if !w.dev.inReset then w else
    enterState .powerUp (onJtag (fun j => { j with driving := false }) (onDev (fun d => { d with inReset := false }) w))

/-- RESET_END. -/
def execResetEnd (s : State) : Host.Outcome State Fault Refusal := anyEffect resetEnds s

/-! ## The boot ROM (13 R346 to R349, R355; 12 R339) -/

/-- SEQ of a record slot, and whether the record in it is whole. -/
def slotSeq (b : Bytes) : Nat := leAt b 56 8
def slotValid (b : Bytes) : Bool := leAt b 0 1 == 0xA5

/-- The scan at each start: the highest valid SEQ, and the circular slot after the one that holds it (12 R339). -/
def obsScan (o : Obsidian) : Obsidian :=
  let found := o.slots.filter (fun e => slotValid e.2)
  let seq := (found.map (fun e => slotSeq e.2)).foldl max 0
  let next := match found.find? (fun e => decide (4096 ≤ e.1) && slotSeq e.2 == seq) with
    | some e => if e.1 = 131071 then 4096 else e.1 + 1
    | none => o.next
  { o with seq := seq, next := next }

/-- The seed that a PUF readout gives, with the helper data and, where that fails, with its alternate copy (13 R346, R347). -/
def reconstruct (readout : Nat) : Option Bytes :=
  [false, true].findSome? (fun alt =>
    let s := Config.pufSeed readout alt
    if sha256 (ascii "GX4-ID" ++ identityPub { seed := some s }) = Config.idHash then some s else none)

/-- Copies of SYSTEM records whose tag fails (13 R349). -/
def invalidCopies (g : Garnet) : Nat := b2n (!g.floorA.valid) + b2n (!g.floorB.valid) + b2n (!g.ownerA.valid) + b2n (!g.ownerB.valid)

/-- The identity as this start finds it: a part whose PUF failed holds in BOOT with FAULT_N low (13 R347). -/
def findIdentity (w : World) : World :=
  match (if w.garnet.pufFail then none else reconstruct w.garnet.readout) with
  | some s => onGarnet (fun g => { g with seed := some s }) w
  | none =>
    record 0x71 4 0x9000 0 (onDev (fun d => { d with faultHeld := true }) (onGarnet (fun g => { g with pufFail := true }) w))

/-- BOOT is entered: FRC0 counts from its crystal, Obsidian is scanned, the identity and the SYSTEM section are read. -/
def boot (w : World) : World :=
  if w.dev.state ≠ .powerUp then w else
    let w := frcLock 0 (enterState .boot w)
    let w := onObs (fun o => let o := obsScan o; { o with nInvalid := o.nInvalid + invalidCopies w.garnet }) w
    findIdentity (whenW (!systemOk w.garnet) (record 0x71 4 0x9003 0) w)

/-- BOOT_ENTRY. -/
def execBootEntry (s : State) : Host.Outcome State Fault Refusal := liveEffect boot s

/-! ## IMAGE_WAIT (14 R373) -/

/-- A fresh BOOT_NONCE; none while the random source delivers nothing. -/
def freshNonce (w : World) : World :=
  match rngDraw 1 w with
  | some (n, w) => onGarnet (fun g => { g with nonce := n }) w
  | none => onGarnet (fun g => { g with nonce := [] }) w

/-- IMAGE_WAIT is entered: no transfer is open, no ADVERT has been sent. -/
def waitImage (w : World) : World :=
  freshNonce (onGarnet (fun g => { g with xfer := none, bundle := [], advert0 := none, advert1 := none }) (enterState .imageWait w))

/-- The boot ROM has an identity, and the random source runs or has passed its first test. -/
def bootDone (w : World) : World :=
  if w.dev.state ≠ .boot ∨ w.garnet.seed.isNone ∨ w.garnet.rng.fail then w else
    waitImage (onGarnet (fun g => { g with lastResult := if systemOk g then g.lastResult else 10 })
      (whenW (!w.garnet.rng.running) rngSeed w))

/-- BOOT_COMPLETE. -/
def execBootComplete (s : State) : Host.Outcome State Fault Refusal := liveEffect bootDone s

/-! ## The random source (13 R350) -/

/-- The device is past POWER_UP: the boot ROM has started the random source. -/
def rngStarted (w : World) : Bool := decide (2 ≤ devCode w.dev.state)

/-- A health test fails. -/
def rngFails (w : World) : World :=
  record 0x71 4 0x9020 0 (onRng (fun r => { r with
    fail := true, failures := r.failures + 1, failEpoch := w.dev.epoch, seededAt := nowNs w }) w)

/-- RNG_HEALTH_FAILURE. -/
def execRngHealthFailure (s : State) : Host.Outcome State Fault Refusal := liveEffect (fun w => whenW (rngStarted w) rngFails w) s

/-- The start-up test repeated, a second after the last failure: the source starts, or resumes with fresh entropy; a nonce that could
not be drawn is drawn now. -/
def rngTestAgain (pass : Bool) (w : World) : World :=
  if !w.garnet.rng.fail || decide (nowNs w < w.garnet.rng.seededAt + 1000000000) then w
  else if !pass then rngFails w
  else
    let w := if w.garnet.rng.running then rngReseedNow (onRng (fun r => { r with fail := false }) w) else rngSeed w
    whenW (decide (w.dev.state = .imageWait) && w.garnet.nonce.isEmpty) freshNonce w

/-- RNG_RETEST. -/
def execRngRetest (pass : Bool) (s : State) : Host.Outcome State Fault Refusal := liveEffect (rngTestAgain pass) s

/-- RNG_RESEED, after 65,536 requests or a second. -/
def execRngReseed (s : State) : Host.Outcome State Fault Refusal :=
  liveEffect (fun w =>
    let r := w.garnet.rng
    whenW (r.running && !r.fail && (decide (65536 ≤ r.requests) || decide (r.seededAt + 1000000000 ≤ nowNs w))) rngReseedNow w) s

/-! ## Boot frames out (14 Tables 14.5a, 14.5b) -/

/-- A boot frame sent: padded with zeros to 64 bytes with its FCS. -/
def sendBoot (port type : Nat) (dst : BitVec 48) (body : Bytes) (w : World) : World :=
  let g := w.garnet
  let seq := if port = 0 then g.bootSeq0 else g.bootSeq1
  let w := onGarnet (fun g =>
    if port = 0 then { g with bootSeq0 := (seq + 1) % 65536 } else { g with bootSeq1 := (seq + 1) % 65536 }) w
  emit (.boot port type dst seq (padTo (max 40 body.length) body)) (onPort port (fun p => { p with nTx := p.nTx + 1 }) w)

/-- ADVERT's body. -/
def advertBody (w : World) : Bytes :=
  let g := w.garnet
  let f := floorNow g
  beBytes 8 Config.serial.toNat ++ beBytes 1 (b2n Config.gradeAX) ++ [1] ++ beBytes 1 (devCode w.dev.state) ++ beBytes 1 g.lastResult ++
    padTo 32 g.nonce ++ beBytes 2 f.floor ++ beBytes 1 f.rootMask.toNat ++ beBytes 1 (b2n (ownerNow g).claimed)

/-- How far apart ADVERTs come, where any are sent: in IMAGE_WAIT and VERIFY and in a held SELFTEST 100 ms, while BOOT waits on the
random source 1 s (14 R373, R379; 13 R350). -/
def advertGap (w : World) : Option Nat :=
  match w.dev.state with
  | .imageWait | .verify => some 100000000
  | .selftest => if w.dev.faultHeld then some 100000000 else none
  | .boot => if w.garnet.rng.fail && !w.garnet.pufFail then some 1000000000 else none
  | _ => none

/-- An ADVERT that is due on a port. -/
def advert (p : Nat) (w : World) : World :=
  match advertGap w with
  | none => w
  | some gap =>
    let last := if p = 0 then w.garnet.advert0 else w.garnet.advert1
    let due : Bool := match last with
      | none => true
      | some t => decide (t + gap ≤ nowNs w)
    if !due || !(hostPort w p).up then w else
      onGarnet (fun g => if p = 0 then { g with advert0 := some (nowNs w) } else { g with advert1 := some (nowNs w) })
        (sendBoot p 1 0xFFFFFFFFFFFF (advertBody w) w)

/-- ADVERT_SEND. -/
def execAdvertSend (p : Fin 2) (s : State) : Host.Outcome State Fault Refusal := liveEffect (advert p) s

/-! ## Boot frames in (14 R372, R374) -/

/-- The sender of a boot frame, its TYPE. -/
def bfMac (b : Bytes) : BitVec 48 := BitVec.ofNat 48 (beAt b 6 6)
def bfType (b : Bytes) : Nat := beAt b 14 1

/-- Bytes from 0 that the type of a host's frame needs; 0 for a type that no host sends. DATA ends with its data. -/
def bfNeeds (b : Bytes) : Nat :=
  match bfType b with
  | 2 => 152
  | 3 => 28 + beAt b 24 2
  | 5 => 212
  | 7 => 20
  | _ => 0

/-- A frame that keeps R12: a type a host sends, whole, version 1, reserved bytes and padding zero. -/
def bfOk (b : Bytes) : Bool :=
  let n := bfNeeds b
  decide (n ≠ 0) && decide (n ≤ b.length) && beAt b 15 1 == 0x10 && allZero (slice b 18 2) && allZero (b.drop n) &&
  (bfType b != 3 || allZero (slice b 26 2))

/-- The transfer is another sender's. -/
def foreign (x : BootXfer) (p : Nat) (b : Bytes) : Bool := x.port != p || x.mac != bfMac b

/-- An ACK. What NEXT and WINDOW hold beside a refusal the manual does not say (log 52). -/
def ack (p : Nat) (dst : BitVec 48) (result next : Nat) (w : World) : World :=
  if result = 0 then sendBoot p 4 dst (beBytes 4 next ++ beBytes 4 65536 ++ [0]) w else
    let (v, w) := draw 64 w
    sendBoot p 4 dst (beBytes 8 v.toNat ++ beBytes 1 result) w

/-- A boot frame arrives: outside IMAGE_WAIT and VERIFY dropped and counted; malformed, dropped and counted; from another sender than
the open transfer's, answered BUSY; else given to its row. -/
def bootFrame (p : Nat) (f : Frame) (type : Nat) (run : Bytes → World → World) (w : World) : World :=
  if !(hostPort w p).up || !f.fcsOk || decide (f.bytes.length < 60) then w else
    let got := onPort p (fun x => { x with nRx := x.nRx + 1 }) w
    let inBoot : Bool := match w.dev.state with
      | .imageWait | .verify => true
      | _ => false
    if f.tagged || !inBoot then onPort p (fun x => { x with nUnsupported := x.nUnsupported + 1 }) got
    else if !bfOk f.bytes then dropMalformed p got
    else if bfType f.bytes ≠ type then w
    else match w.garnet.xfer with
      | some x =>
        if foreign x p f.bytes then ack p (bfMac f.bytes) 1 0 (onGarnet (fun g => { g with nBusy := g.nBusy + 1 }) got)
        else run f.bytes got
      | none => run f.bytes got

/-- START: refused, or it opens a transfer. One that its own sender's transfer precedes is answered BUSY. -/
def startIn (p : Nat) (b : Bytes) (w : World) : World :=
  let total := beAt b 20 4
  if w.garnet.xfer.isSome then ack p (bfMac b) 1 0 (onGarnet (fun g => { g with nBusy := g.nBusy + 1 }) w)
  else if total % 64 ≠ 0 ∨ 1048576 < total then ack p (bfMac b) 2 0 w
  else if slice b 120 32 ≠ w.garnet.nonce then ack p (bfMac b) 3 0 w
  else
    ack p (bfMac b) 0 0 (onGarnet (fun g => { g with
      nStarted := g.nStarted + 1
      xfer := some { port := p, mac := bfMac b, total := total, digest := slice b 24 32, auth := slice b 56 64, nonce := slice b 120 32,
                     at_ := nowNs w } }) w)

/-- START. -/
def execStart (p : Fin 2) (f : Frame) (s : State) : Host.Outcome State Fault Refusal := liveEffect (bootFrame p f 2 (startIn p)) s

/-- NEXT: the lowest offset not yet received. -/
def nextOffset (x : BootXfer) : Nat :=
  match (upTo (ceilDiv x.total 1024)).find? (fun k => (sFind x.blocks (k * 1024)).isNone) with
  | some k => k * 1024
  | none => x.total

/-- A block fits the transfer: at a multiple of 1,024, of 1,024 bytes or up to TOTAL_LEN, in the window or held already. -/
def blockOk (x : BootXfer) (off len : Nat) : Bool :=
  off % 1024 == 0 && decide (off + len ≤ x.total) && (len == 1024 || off + len == x.total) && decide (len ≤ 1024) &&
  (decide (nextOffset x ≤ off) && decide (off < nextOffset x + 65536) || (sFind x.blocks off).isSome)

/-- A block received. -/
def takeBlock (x : BootXfer) (off now : Nat) (bs : Bytes) : BootXfer :=
  { x with blocks := if (sFind x.blocks off).isSome then x.blocks else sInsert x.blocks off bs, sinceAck := x.sinceAck + 1, at_ := now }

/-- The highest offset received. -/
def topOffset (x : BootXfer) : Nat := (x.blocks.map (·.1)).foldl max 0

/-- DATA: a block taken, acknowledged after every 16 and after a gap; the last byte is image receipt and enters VERIFY. -/
def dataIn (p : Nat) (b : Bytes) (w : World) : World :=
  match w.garnet.xfer, w.dev.state with
  | some x, .imageWait =>
    let off := beAt b 20 4
    let len := beAt b 24 2
    if !blockOk x off len then w else
      let x := takeBlock x off (nowNs w) (slice b 28 len)
      let gap := decide (nextOffset x < topOffset x)
      let due := decide (16 ≤ x.sinceAck) || gap
      let x := { x with sinceAck := if due then 0 else x.sinceAck }
      let w := onGarnet (fun g => { g with xfer := some x }) w
      let w := whenW due (ack p (bfMac b) 0 (nextOffset x)) w
      if nextOffset x < x.total then w
      else enterState .verify (onGarnet (fun g => { g with bundle := (x.blocks.map (·.2)).flatten }) w)
  | _, _ => w

/-- DATA. -/
def execData (p : Fin 2) (f : Frame) (s : State) : Host.Outcome State Fault Refusal := liveEffect (bootFrame p f 3 (dataIn p)) s

/-- ENROL: the record queued; a ninth is counted and dropped (14 R375). -/
def enrolIn (b : Bytes) (w : World) : World :=
  if w.dev.state ≠ .imageWait then w
  else if 8 ≤ w.garnet.queue.length then onGarnet (fun g => { g with nEnrolRefused := g.nEnrolRefused + 1 }) w
  else onGarnet (fun g => { g with queue := g.queue ++ [slice b 20 192], nQueued := g.nQueued + 1 }) w

/-- ENROL. -/
def execEnrol (p : Fin 2) (f : Frame) (s : State) : Host.Outcome State Fault Refusal := liveEffect (bootFrame p f 5 enrolIn) s

/-- A STATUS to the sender of a transfer. What DETAIL holds the manual does not say (log 52). -/
def status (x : BootXfer) (result applied refused : Nat) (w : World) : World :=
  let (v, w) := draw 32 w
  sendBoot x.port 6 x.mac (beBytes 1 result ++ beBytes 1 applied ++ beBytes 1 refused ++ [0] ++ beBytes 4 v.toNat) w

/-- A transfer abandoned: Table 13.6 has no code for it, so what RESULT holds is open (log 52). -/
def abandon (x : BootXfer) (w : World) : World :=
  let (v, w) := draw 8 w
  waitImage (status x v.toNat 0 0 (onGarnet (fun g => { g with nAbandoned := g.nAbandoned + 1 }) w))

/-- ABORT of the sender's own transfer; once the bundle is received the transfer is over (14 Table 14.2). -/
def abortIn (w : World) : World :=
  match w.garnet.xfer, w.dev.state with
  | some x, .imageWait => abandon x w
  | _, _ => w

/-- ABORT. -/
def execAbort (p : Fin 2) (f : Frame) (s : State) : Host.Outcome State Fault Refusal := liveEffect (bootFrame p f 7 (fun _ => abortIn)) s

/-- BOOT_TRANSFER_TIMEOUT: a second without an accepted DATA frame. -/
def execBootTransferTimeout (s : State) : Host.Outcome State Fault Refusal :=
  liveEffect (fun w => match w.garnet.xfer with
    | some x => whenW (decide (x.at_ + 1000000000 ≤ nowNs w)) abortIn w
    | none => w) s

/-! ## VERIFY (13 R353; 14 R374, R375) -/

/-- The result of verifying a boot transfer's bundle. -/
def bootResult (w : World) (x : BootXfer) : Nat :=
  let b := w.garnet.bundle
  if buDigest b ≠ x.digest then 6 else verifyBundle w (some (x.nonce, x.auth)) b

/-- Queued enrolment records applied in order: how many were, and how many were refused. -/
def applyQueue (w : World) : Nat × Nat × World :=
  w.garnet.queue.foldl (fun (r : Nat × Nat × World) e =>
    let (w, ok) := enrol e r.2.2
    (r.1 + b2n ok, r.2.1 + b2n (!ok), w)) (0, 0, w)

/-- A bundle that passed: enrolment first, then GARNET runs from image bank 0 and DIE_LOAD is entered. -/
def bootPasses (x : BootXfer) (w : World) : World :=
  let (applied, refused, w) := applyQueue w
  let b := w.garnet.bundle
  let w := status x 0 applied refused w
  let w := onGarnet (fun g => { g with lastResult := 0, booted := b, bundle := [], xfer := none, queue := [], bank := 0 }) w
  let w := onDev (fun d => { d with imageReceipt := x.at_ }) (onDie 4 (fun y => { y with image := imageOf b 4 }) w)
  frcLock 1 (enterState .dieLoad w)

/-- A bundle that failed: the queue is discarded, IMAGE_WAIT is entered again. -/
def bootRefused (x : BootXfer) (code : Nat) (w : World) : World :=
  waitImage (status x code 0 0 (onGarnet (fun g => { g with lastResult := code, queue := [], nVerifyFail := g.nVerifyFail + 1 }) w))

/-- The verification of a boot bundle ends. -/
def bootVerified (w : World) : World :=
  match w.dev.state, w.garnet.xfer with
  | .verify, some x =>
    let code := bootResult w x
    if code = 0 then bootPasses x (verified 0 w) else bootRefused x code (verified code w)
  | _, _ => w

/-- BOOT_VERIFY_COMPLETE. -/
def execBootVerifyComplete (s : State) : Host.Outcome State Fault Refusal := liveEffect bootVerified s

/-! ## DIE_LOAD, SELFTEST, TIME_ACQUIRE (14 R376 to R381) -/

/-- A die found unfit at start-up. -/
def exclude (d : Nat) (w : World) : World := onDie d (fun x => { x with state := .excluded, cause := 7 }) w

/-- Every die is loaded, or EXCLUDED where its bit of `failed` is set; without valid trim nothing is loaded (13 R349). -/
def dieLoaded (failed : BitVec 4) (w : World) : World :=
  if w.dev.state ≠ .dieLoad ∨ !w.garnet.trimValid then w else
    enterState .selftest (eachW (upTo 4) (fun d w =>
      if failed.getLsbD d then exclude d w
      else onDie d (fun x => { x with loaded := true, image := imageOf w.garnet.booted d }) w) w)

/-- DIE_LOAD_DONE. -/
def execDieLoadDone (failed : BitVec 4) (s : State) : Host.Outcome State Fault Refusal := liveEffect (dieLoaded failed) s

/-- The tests of one die, 0 to 7: one that fails is EXCLUDED, with a record in the DIE section (14 R378). -/
def dieTested (d : Nat) (mask : Nat) (w : World) : World :=
  let m := mask % 256
  if !dieGood (die w d) || m == 0 then w else
    record 0x60 d 0x8000 d (onDie d (fun x => { x with testFailed := m, testFailedAt := nowNs w }) (exclude d w))

/-- The tests of Bedrock, 8 to 10; records that OBSIDIAN_READ found invalid are counted, how many only the device knows. -/
def bedrockTested (mask : Nat) (portFailed : BitVec 18) (w : World) : World :=
  let m := mask / 256 * 256
  let w := onDie 4 (fun x => { x with testFailed := m, testFailedAt := if m = 0 then 0 else nowNs w }) w
  let w := onDev (fun d => { d with calibrated := true, portFailed := portFailed }) w
  if !bit m 10 then w else
    let (n, w) := draw 17 w
    onObs (fun o => { o with nInvalid := o.nInvalid + n.toNat }) w

/-- Bedrock failed: its SRAM, or both host ports (14 Table 14.6). -/
def bedrockUnfit (mask : Nat) (portFailed : BitVec 18) : Bool := bit mask 8 || (portFailed.getLsbD 16 && portFailed.getLsbD 17)

/-- The last self-test ends: with three good dies and Bedrock good TIME_ACQUIRE is entered, else SELFTEST holds. -/
def selftested (failed : List (BitVec 11)) (portFailed : BitVec 18) (w : World) : World :=
  if w.dev.state ≠ .selftest ∨ w.dev.faultHeld then w else
    let mask (d : Nat) : Nat := (nth 0 failed d).toNat
    let w := eachW (upTo 4) (fun d => dieTested d (mask d)) w
    let w := bedrockTested (mask 4) portFailed w
    if bedrockUnfit (mask 4) portFailed then bedrockFail w
    else if (goodDies w).length < 3 then
      onGarnet (fun g => { g with advert0 := none, advert1 := none }) (onDev (fun d => { d with faultHeld := true }) w)
    else enterState .timeAcquire w

/-- SELFTEST_COMPLETE. -/
def execSelftestComplete (failed : List (BitVec 11)) (portFailed : BitVec 18) (s : State) : Host.Outcome State Fault Refusal :=
  liveEffect (selftested failed portFailed) s

/-- Some port has a grandmaster, and each that has one has acquired (14 R380). -/
def acquisitionOver (w : World) : Bool := w.mer.ptp.any (fun p => p.gm.isSome) && w.mer.ptp.all (fun p => p.gm.isNone || p.acquired)

/-- TIME_ACQUIRE is left when acquisition is over, or 400 ms after it was entered. -/
def timeAcquired (w : World) : World :=
  if w.dev.state = .timeAcquire ∧ (acquisitionOver w ∨ sGet 0 w.dev.startupTimes 7 + 400000000 ≤ nowNs w)
  then (upTo 2).foldl (fun w p => detect p (linkLocal p) w) (enterState .readyQuiet w) else w

/-- TIME_ACQUIRE_END. -/
def execTimeAcquireEnd (s : State) : Host.Outcome State Fault Refusal := liveEffect timeAcquired s

end Sys2Proof.Machine
end

