-- ==== Sys2Proof/Machine/Loss.lean ====
section
/-! DEFINITION. Loss of a die: conditions and declaration (12 R326, R327, R333; 14 R383), replicas (12 R329), take-over (12 R330 to R332),
withdrawal (14 R385), derived sets (12 R334), rolling upgrade (12 R343), and the commands of these. -/

namespace Sys2Proof.Machine

/-- The dies that carry work under the mapping in force. -/
def workDies (w : World) : List Nat := (upTo 4).filter (fun d => dieServing (die w d))

/-- The engine that a template's work is placed on, whether or not its die still serves. -/
def placedEngine (w : World) (t : Nat) : Nat := (tmpl w t).movedTo.getD (placedTmpl w.cfg.mapping w.cfg.active t)

/-- Critical loops and templates of a die, and the generators those loops name. -/
def criticalLoops (w : World) (d : Nat) : List Nat :=
  (loopsOf w.cfg.active).filter (fun l => lpCritical (loopRec w l) && (loop w l).engine / 4 == d)
def criticalTmpls (w : World) (d : Nat) : List Nat :=
  (tmplsOf w.cfg.active).filter (fun t => tCritical (tRec w.cfg.active t) && placedEngine w t / 8 == d)
def namedGens (w : World) (ls : List Nat) : List Nat := (ls.filterMap (genOf w.cfg.active)).eraseDups

/-! ## Replicas (12 R329, Table 12.6) -/

/-- The bytes of local memory that a template's regions take in both buffers: address and length. -/
def tmplBytes (w : World) (t : Nat) : List (Nat × Nat) :=
  (upTo (1 + tBuffers (tRec w.cfg.active t))).flatMap (fun b => (bufferChain w.cfg.active t b).flatMap (fun d =>
    [region d false, region d true].map (fun r => (elAddr (tHome w t) (r.1 * 8), r.2 * 32))))

def inBytes (l : List (Nat × Nat)) (a : Nat) : Bool := l.any (fun r => decide (r.1 ≤ a) && decide (a < r.1 + r.2))

/-- What a die's critical work replicates. -/
def replicaOf (w : World) (d epoch : Nat) : Replica :=
  let ls := criticalLoops w d
  let ts := criticalTmpls w d
  let gs := namedGens w ls
  let areas := ts.flatMap (tmplBytes w)
  { valid := true, epoch := epoch
    loops := ls.map (fun l => (l, loop w l)), gens := gs.map (fun g => (g, gen w g)), tmpls := ts.map (fun t => (t, tmpl w t))
    mem := w.solver.mem.filter (fun c => inBytes areas c.1) }

/-- After a boundary the replicas of the critical work of each die that has a partner are copied to the other slot. -/
def copyReplicas (w : World) : World :=
  let dies := workDies w
  let e := w.dev.epoch
  if !w.cfg.present then w else
    eachW dies (fun d w =>
      if nextAlive dies d = d || ((criticalLoops w d).isEmpty && (criticalTmpls w d).isEmpty) then w
      else onCont (fun c => { c with replicas := sInsert c.replicas (2 * d + e % 2) (replicaOf w d e) }) w) w

/-- A loss takes the replicas kept on the die; a copy of the die's own work that may still be under way has completed or not (log 50). -/
def loseReplicas (d : Nat) (w : World) : World :=
  let dies := workDies w
  let (b, w) := draw 1 w
  let span := nsOfCycles (400 + ceilDiv (replicaBytes w.cfg.active (activeCase w) d) 512)
  let cut := decide (nowNs w < w.dev.boundaryLc0 / 65536 + span) && b == 0
  onCont (fun c => { c with replicas := c.replicas.map (fun r =>
    let kept := r.1 / 2 != d && nextAlive dies (r.1 / 2) == d
    if kept || (r.1 / 2 == d && r.2.epoch == w.dev.epoch && cut) then (r.1, { r.2 with valid := false }) else r) }) w

/-! ## Declaration (12 R326, R327, R333; 14 R383) -/

/-- The condition of a cause holds (12 Table 12.4); the lock of a die's PLL is the command's word. -/
def lossHolds (w : World) (d cause : Nat) : Bool :=
  let x := die w d
  let ring := match d with | 0 => 0 | 1 => 1 | 3 => 2 | _ => 3
  match cause with
  | 1 => decide (8 ≤ (x.reports.filter (fun t => decide (nowNs w < t + 1000000))).length)
  | 2 => (seam w (4 + d)).failed
  | 3 => (seam w ring).failed
  | 4 => decide (10 ≤ x.hotRun)
  | 5 => true
  | 6 => decide (2 ≤ x.missedBeats)
  | _ => false

/-- Templates of a lost die: every release it had is withheld; what is not critical stops. -/
def stopTmpls (d : Nat) (w : World) : World :=
  eachW ((tmplsOf w.cfg.active).filter (fun t => placedEngine w t / 8 = d)) (fun t w =>
    let w := eachW ((tmpl w t).releases.filter (·.fail.isNone)) (fun r w =>
      onRelease t r.num (fun x => { x with fail := some 4 }) (dropChain t r.num 4 w)) w
    if tCritical (tRec w.cfg.active t) then w else onTmpl t (fun x => { x with stoppedBy := true }) w) w

/-- Halo work of a lost die: critical loops and their generators wait for the take-over, the rest stops. -/
def stopHalo (d : Nat) (w : World) : World :=
  let set := w.cfg.active
  let named := namedGens w (criticalLoops w d)
  let w := eachW ((loopsOf set).filter (fun l => (loop w l).engine / 4 == d && !lpCritical (loopRec w l))) (fun l =>
    onLoop l (fun x => { x with stopped := true })) w
  let w := eachW ((instancesOf set 0x5020 0).filter (fun g => (gen w g).engine / 4 == d && !named.contains g)) (fun g =>
    onGen g (fun x => { x with stopped := true })) w
  let w := eachW (w.cfg.mapping.injs.filter (fun i => i.2 / 4 = d)) (fun i => injHalt i.1) w
  let w := eachW (w.cfg.mapping.caps.filter (fun c => c.2 / 4 = d)) (fun c => onCap c.1 (fun _ => {})) w
  onHalo (fun h => { h with engines := h.engines.map (fun e => if e.1 / 4 = d then (e.1, { e.2 with queue := [] }) else e) }) w

/-- Serving work of a lost die: partitions with a tile or tier T2 frames there stop; sequences homed there, or with a page or staging
there, lose their context. -/
def stopServing (d : Nat) (w : World) : World :=
  let set := w.cfg.active
  let ps := (upTo 32).filter (fun p => pInSet set p)
  let there (p : Nat) : Bool := (pDies (partRec set p)).contains d || (kvT2 (kvRec w p) != 0 && kvT2Die (kvRec w p) == d)
  let w := eachW (ps.filter there) stopPart w
  let lost (g : Page) : Bool := g.tier != 3 && g.die == d
  let bare := (seqsOf set).filter (fun s =>
    let p := seqPart w s
    let ls := listsOf w p s
    let md := seqModel w s
    decide ((seq w s).mode ≠ .off) && !ls.any (fun l => l.2.pages.any lost) &&
    (seqHome w.cfg.mapping set s == d || ls.any (fun l => !l.2.staged.isEmpty && headDie w p md (listHead md l.1) == d)))
  let w := eachW ps (fun p => losePages lost p) w
  eachW bare loseContext w

/-- Commands of a lost die that wait at the trunks are discarded. -/
def discardFrom (d : Nat) (w : World) : World :=
  eachW (upTo 16) (fun t w =>
    let gone (c : TxCmd) : Bool := c.engine / 4 == d
    let n := ((trunk w t).queue.filter gone).length
    onCont (fun c => { c with nDiscarded := c.nDiscarded + n }) (dropQueued t gone w)) w

/-- A die is declared lost. -/
def loseDie (d cause : Nat) (w : World) : World :=
  let w := if w.cfg.present then stopServing d (stopHalo d (stopTmpls d (discardFrom d (loseReplicas d w)))) else w
  let w := onDie d (fun x => { x with state := .lost, cause := cause, declEpoch := w.dev.epoch, declLc0 := nowNs w }) w
  let w := failSwap aSwapCancelled d .editing w
  let w := onCfg (fun c => { c with state := if c.state = .admitted then .editing else c.state }) w
  let w := onCont (fun c => { c with nLosses := c.nLosses + 1, upgrade := c.upgrade.filter (fun u => u.die ≠ d) }) w
  let w := record 0x60 d 0x8000 d w
  if w.cfg.present then
    enterState .recovery (onDev (fun v => { v with boundedNext := true })
      (onCont (fun c => { c with losses := c.losses ++ [{ die := d, at_ := nowNs w }] }) w))
  else whenW (decide ((goodDies w).length < 3)) (onDev (fun v => { v with faultHeld := true })) w

/-- The states in which a loss is declared: with an active set in force, or in TIME_ACQUIRE and READY_QUIET. -/
def lossCounts (w : World) : Bool :=
  running w.dev.state || (match w.dev.state with | .timeAcquire | .readyQuiet => true | _ => false)

/-- DIE_DECLARED_LOST: hosts go on reading what the die served last (01 R30). -/
def execDieDeclaredLost (d : Fin 4) (cause : BitVec 4) (s : State) : Host.Outcome State Fault Refusal :=
  serveEffect (fun w served lost =>
    if lossCounts w && dieGood (die w d) && lossHolds w d cause.toNat then
      (loseDie d cause.toNat w, served, if w.cfg.present then sInsert lost d served else lost)
    else (w, served, lost)) s

/-- Heartbeats at a boundary or an interval, two bits a die: the dies that have now missed two. A lost core posts none; a die that
loads its image is not judged. -/
def heartbeats (posted : BitVec 8) (w : World) : World × List Nat :=
  let beat (d c : Nat) : Bool := posted.getLsbD (2 * d + c) && !bit (die w d).coresLost c
  let w := eachW (goodDies w) (fun d => onDie d (fun x =>
    { x with missedBeats := if beat d 0 || beat d 1 || decide (x.state = .loading) then 0 else x.missedBeats + 1 })) w
  (w, (goodDies w).filter (fun d => decide (2 ≤ (die w d).missedBeats)))

/-- QUIET_HEARTBEAT_CHECK (14 R383). -/
def execQuietHeartbeatCheck (posted : BitVec 8) (s : State) : Host.Outcome State Fault Refusal :=
  liveEffect (fun w =>
    if w.cfg.present || !lossCounts w then w else
      let r := heartbeats posted w
      eachW r.2 (fun d => loseDie d 6) r.1) s

/-! ## Withdrawal (14 R385) -/

/-- The active set is withdrawn: the device is quiet, FAULT_N stays low, cells and trunk ports keep what they have. -/
def withdraw (d : Nat) (w : World) : World :=
  let set := w.cfg.active
  let w := dropAllQueued w
  let w := eachW ((upTo 32).filter (fun p => pInSet set p)) (fun p w =>
    let w := rollBack p (clearServing (actPart w p) w)
    let w := eachW (pCtxs (actPart w p)) (fun k => onCtx k (fun c => { c with part := none })) w
    onPart p (fun q => { q with mode := .off, switchTo := none, regime := [], started := false, stopping := false, stoppedBy := false }) w) w
  let w := eachW (seqsOf set) (fun s w => onSeq s freshSeq (dropPages (seqPart w s) s w)) w
  let w := eachW (w.serving.prefixes.map (·.1)) (fun k w => onPfx k (fun _ => {}) (dropPages (k % 32) (16384 + k / 32) w)) w
  let w := eachW (tmplsOf set) (fun t => onTmpl t freshTmpl) w
  let w := onSolver (fun s => { s with
    dests := [], engines := s.engines.map (fun e => (e.1, { e.2 with queue := [], waiting := [], run := none, holds := [], fifo := [], struck := [] })) }) w
  let w := onHalo (fun h => { h with
    loops := h.loops.map (fun x => (x.1, { x.2 with stopped := true })), shadows := [], injs := [], caps := []
    gens := h.gens.map (fun x => (x.1, { x.2 with stopped := true })), engines := h.engines.map (fun e => (e.1, { e.2 with queue := [] })) }) w
  let w := onMer (fun m => { m with trackers := m.trackers.map resetTracker, edges := [], pulseEnd := [], atBoundary := none }) w
  let w := match w.cfg.firstSwap with
    | some (n, r) => abortReq n 0x19 r aSwapCancelled w d
    | none => w
  let w := w.cfg.rw.foldl (fun w r => abortReq r.session r.service r.reqId aNoActiveSet w) w
  let w := onCfg (fun c => { c with present := false, firstSwap := none, rw := [], derivedDie := none, derivedEpoch := 0, derivedReady := false }) w
  let w := onCont (fun c => { c with losses := [], replicas := [], upgrade := none, struckTables := [] }) w
  oweSyncs (enterState .readyQuiet (onDev (fun v => { v with
    outLive := false, faultHeld := true, boundaryDue := none, bounded := true, boundedNext := false, boundedSince := if v.bounded then v.boundedSince else v.epoch
    pendFallback := false, pendLoss := false }) w))

/-! ## Take-over (12 R330 to R332, R335; 01 R16) -/

/-- The placement that follows the losses: the derived set that ADMIT computed, if every die it uses still serves. -/
def derivedFor (w : World) (d : Nat) : Option Mapping :=
  let left := (upTo 4).filter (fun e => !(workDies w).contains e)
  match sFind w.cfg.derived d with
  | some m => if left.all (fun e => !m.dies.getLsbD e) then some m else none
  | none => if left.all (fun e => !w.cfg.mapping.dies.getLsbD e) then some w.cfg.mapping else none

/-- Every critical item can be carried: it has a valid replica, and a placement on the dies left meets the checks. -/
def canCarry (w : World) (x : Loss) : Bool :=
  let ls := criticalLoops w x.die
  let ts := criticalTmpls w x.die
  let kept := (ls.isEmpty && ts.isEmpty) || match bestReplica w x.die with
    | none => false
    | some r => ls.all (fun l => (sFind r.loops l).isSome) && ts.all (fun t => (sFind r.tmpls t).isSome)
  let placed := (derivedFor w x.die).isSome ||
    (caseFails w.cfg.active { dies := workDies w, map := derive w.cfg.active (workDies w), critical := false }).isEmpty
  kept && !(workDies w).isEmpty && placed

/-- A critical template resumes on its partner from its replica; deltas made since are lost and counted. -/
def resumeTmpl (t e : Nat) (x : Tmpl) (cells : List Host.Cell) (w : World) : World :=
  let lost := ((tmpl w t).pending.filter (fun p => !x.pending.contains p)).length
  let areas := tmplBytes w t
  let w := onTmpl t (fun y => { y with
    movedTo := some e, stoppedBy := false, pending := x.pending, out := x.out, nextBuffer := x.nextBuffer, doneRel := x.doneRel
    outcome := x.outcome, staleRun := x.staleRun, aged := x.aged, clamped := x.clamped, missAlarm := x.missAlarm
    defaulted := x.defaulted, depStale := x.depStale, warmAny := x.warmAny, ovfAny := x.ovfAny }) w
  onCont (fun c => { c with nDeltasLost := c.nDeltasLost + lost }) (onSolver (fun s =>
    let m := areas.foldl (fun m r => Mem.clear m r.1 r.2) s.mem
    { s with mem := (cells.filter (fun c => inBytes areas c.1)).foldl (fun m c => Mem.put m c.1 c.2) m }) w)

/-- The critical work of one lost die runs on its partner from here. -/
def takeLoss (x : Loss) (w : World) : World :=
  let dies := workDies w
  let ls := criticalLoops w x.die
  let ts := criticalTmpls w x.die
  let w := match bestReplica w x.die with
    | none => w
    | some r =>
      let w := eachW (namedGens w ls) (fun g w => match sFind r.gens g with
        | some y => onGen g (fun z => { y with engine := partnerOf dies 4 z.engine, stopped := false }) w
        | none => w) w
      let w := eachW ls (fun l w => match sFind r.loops l with
        | some y => resumeLoop l (partnerOf dies 4 (loop w l).engine) y w
        | none => w) w
      eachW ts (fun t w => match sFind r.tmpls t with
        | some y => resumeTmpl t (partnerOf dies 8 (placedEngine w t)) y r.mem w
        | none => w) w
  onDev (fun v => { v with pendLoss := true }) (onCont (fun c => { c with
    nTakeovers := c.nTakeovers + 1, losses := c.losses.map (fun y => if y.die = x.die then { y with taken := true } else y) }) w)

/-- TAKEOVER: at the first boundary at least 20 µs after a declaration, before that boundary runs (log 51). -/
def takeover (w : World) : World :=
  match w.dev.boundaryDue with
  | none => w
  | some b =>
    let due := w.cont.losses.filter (fun x => !x.taken && decide ((x.at_ + 20000) * 65536 ≤ b.1))
    match due.find? (fun x => !canCarry w x) with
    | some x => withdraw x.die w
    | none => eachW due takeLoss w

/-- TAKEOVER. -/
def execTakeover (s : State) : Host.Outcome State Fault Refusal := liveEffect takeover s

/-! ## Derived sets (12 R334) -/

/-- DERIVED_SET_IN_FORCE: at a boundary, not before the take-over; solves of the boundary publish first. -/
def deriveInForce (w : World) : World :=
  match w.dev.boundaryDue, w.cont.losses.getLast? with
  | some b, some x =>
    if w.dev.state ≠ .recovery ∨ w.cont.losses.any (fun y => !y.taken) then w else
      match derivedFor w x.die with
      | none => w
      | some m =>
        let w := publishAll b.1 w
        let w := deriveExchange x.die (onCfg (fun c => { c with derived := sInsert c.derived x.die m }) w)
        let w := record 0x12 4 0x8003 0 w
        let w := whenW (!m.shed.isEmpty) (record 0x62 4 0x8002 x.die) w
        enterState .degraded (onDev (fun v => { v with bounded := false, boundedNext := false, boundedSince := v.epoch + 1 })
          (onCont (fun c => { c with losses := [] }) w))
  | _, _ => w

/-- DERIVED_SET_IN_FORCE. -/
def execDerivedSetInForce (s : State) : Host.Outcome State Fault Refusal := liveEffect deriveInForce s

/-- DERIVED_SETS_COMPUTED: the derived sets of the placement in force; in RECOVERY, that for the dies that are left (log 51). -/
def derivedComputed (w : World) : World :=
  if !w.cfg.present then w
  else match w.cont.losses.getLast? with
    | some x => if (derivedFor w x.die).isSome then w else
        onCfg (fun c => { c with derived := [(x.die, derive c.active (workDies w))] }) w
    | none => if w.cfg.derivedDie.isNone then w else
        onCfg (fun c => { c with derived := derivedSets c.active (workDies w), derivedReady := true }) w

/-- DERIVED_SETS_COMPUTED. -/
def execDerivedSetsComputed (s : State) : Host.Outcome State Fault Refusal := liveEffect derivedComputed s

/-! ## Rolling upgrade (12 R343, R344) -/

/-- An operation completes: its result and its DIE_UPGRADE record. -/
def endUpgrade (d result : Nat) (w : World) : World :=
  record 0x61 d 0x8021 0 (onCont (fun c => { c with upgrade := none, upgradeResult := result }) w)

/-- DRAIN_HANDOVER: at the first boundary after preparation the derived set comes into force and the die is DRAINED. -/
def drainHandover (w : World) : World :=
  match w.dev.boundaryDue, w.cont.upgrade with
  | some b, some u =>
    if u.op ≠ 1 ∨ (die w u.die).state ≠ .draining ∨ w.dev.state = .recovery ∨ (sFind w.cfg.derived u.die).isNone then w else
      let m := sGet {} w.cfg.derived u.die
      let w := publishAll b.1 w
      let w := handOver m [] (some u.die) (onDie u.die (fun x => { x with state := .drained }) w)
      let w := endUpgrade u.die 0 w
      if w.dev.state = .live then enterState .degraded w else w
  | _, _ => w

/-- DRAIN_HANDOVER. -/
def execDrainHandover (s : State) : Host.Outcome State Fault Refusal := liveEffect drainHandover s

/-- DIE_LOAD_READY: the loading die has its image and has passed, or stays DRAINED with result DIGEST (13 R359). -/
def dieLoadReady (d : Nat) (passed : Bool) (w : World) : World :=
  if (die w d).state ≠ .loading then w else
    match (if passed then w.garnet.staged else none) with
    | some b => endUpgrade d 0 (onDie d (fun x => { x with state := .ready, image := imageOf b d, loaded := true }) w)
    | none => endUpgrade d 6 (onDie d (fun x => { x with state := .drained }) w)

/-- DIE_LOAD_READY. -/
def execDieLoadReady (d : Fin 4) (passed : Bool) (s : State) : Host.Outcome State Fault Refusal := liveEffect (dieLoadReady d passed) s

/-- REJOIN_HANDOVER: the mapping for every die that is not LOST comes into force and the die is SERVING. -/
def rejoinHandover (w : World) : World :=
  match w.dev.boundaryDue, w.cont.upgrade with
  | some b, some u =>
    if u.op ≠ 3 ∨ (die w u.die).state ≠ .rejoining ∨ w.dev.state = .recovery then w else
      let w := publishAll b.1 w
      let w := onDie u.die (fun x => { x with state := .serving, missedBeats := 0 }) w
      let dies := workDies w
      let set := w.cfg.active
      let m := if dies.length = 4 then placeSet set dies [] else derive set dies
      let w := handOver m (derivedSets set dies) none w
      let w := endUpgrade u.die 0 w
      if w.dev.state = .degraded ∧ dies.length = 4 then enterState .live w else w
  | _, _ => w

/-- REJOIN_HANDOVER. -/
def execRejoinHandover (s : State) : Host.Outcome State Fault Refusal := liveEffect rejoinHandover s

end Sys2Proof.Machine
end

