-- ==== Sys2Proof/Machine/Package.lean ====
section
/-! DEFINITION. Thermal sensors (15 R407, R408) and boundary scan (15 R403). -/

namespace Sys2Proof.Machine

/-! ## Thermal sensors (15 R408; 12 Table 12.4 code 4) -/

/-- The hottest of some samples. -/
def hottestOf (l : List W32) : W32 := l.foldl (fun a x => if lt32 a x then x else a) (nth 0 l 0)

/-- The sensors of a die, or of Bedrock. -/
def sensorCount (d : Nat) : Nat := if d = 4 then 2 else 5

/-- The band of Table 15.11 that holds a temperature; none above 125 °C. -/
def lifeBand (t : W32) : Option Nat := ([105, 110, 115, 120, 125].findIdx? (fun lim => le32 t (hInt lim)))

/-- The temperature above which a die is lost (12 Table 12.4). -/
def lossTemp : W32 := if Config.gradeAX then hInt 130 else hInt 115

/-- What a set of samples does to a die's record. -/
def takeSamples (samples : List W32) (x : Die) : Die :=
  let h := hottestOf samples
  { x with
    sensors := samples
    hottest := if x.sensors.isEmpty || lt32 x.hottest h then h else x.hottest
    bands := match lifeBand h with
      | some b => updNth x.bands b (· + 1)
      | none => x.bands
    hotRun := if lt32 lossTemp h then x.hotRun + 1 else 0 }

/-- THERMAL_SAMPLE: one value a sensor; nothing comes from a die whose Seams are fenced. Bedrock's sensors cause no action (15 R407). -/
def execThermalSample (d : Fin 5) (samples : List W32) (s : State) : Host.Outcome State Fault Refusal :=
  liveEffect (fun w => whenW (samples.length == sensorCount d && dieGood (die w d)) (onDie d (takeSamples samples)) w) s

/-! ## Boundary scan (15 R403) -/

/-- What an output pin's cell captures; a pin at high impedance reads as the board leaves it. -/
def pinCell (p : PinLevel) (open_ : Bool) : Bool :=
  match p with
  | .low => false
  | .high => true
  | .hiZ => open_

/-- The levels of the 22 cells' pins, cell 0 in bit 0. The levels of Z and PPS_IN pins, of a pin at high impedance, and of RESET_N
while PWRGOOD is low are not the device's: bits of `ext`. -/
def pinLevels (d : Dev) (ext : BitVec 22) : BitVec 22 :=
  let e (i : Nat) : Bool := ext.getLsbD i
  let ab (i : Nat) : Bool := d.encPins.getLsbD i
  let level (i : Nat) : Bool :=
    match i with
    | 0 => ab 0 | 1 => ab 1 | 3 => ab 2 | 4 => ab 3 | 6 => ab 4 | 7 => ab 5 | 9 => ab 6 | 10 => ab 7
    | 13 => d.ppsOut
    | 14 => pinCell d.tick0 (e 14)
    | 15 => pinCell d.tick1 (e 15)
    | 16 => pinCell d.tick2 (e 16)
    | 17 => pinCell d.tick3 (e 17)
    | 18 => if d.inReset then d.resetCause != 1 && e 18 else true
    | 19 => if d.inReset then d.resetCause == 1 else true
    | 20 => d.outLive
    | 21 => d.faultN
    | i => e i
  (upTo 22).foldl (fun v i => if level i then v ||| (1#22 <<< i) else v) 0#22

/-- The cells that drive a pin: PPS_OUT, TICK0 to TICK3, OUT_LIVE, FAULT_N. -/
def outputCells : BitVec 22 := 0b1100111110000000000000#22

/-- The levels at the balls: while EXTEST drives, the output cells' are the boundary register's. -/
def ballLevels (w : World) (ext : BitVec 22) : BitVec 22 :=
  let p := pinLevels w.dev ext
  if w.jtag.driving then (p &&& ~~~outputCells) ||| (w.jtag.boundary &&& outputCells) else p

/-- The boundary register captured, its capture shifted out while a new value is shifted in. -/
def scan (ir : BitVec 4) (drive : Bool) (shiftIn : BitVec 22) (w : World) : World :=
  let (ext, w) := draw 22 w
  onJtag (fun j => { j with
    ir := ir, sel := .boundary, shifted := (ballLevels w ext).setWidth 32, boundary := shiftIn, driving := drive && w.dev.inReset }) w

/-- EXTEST. -/
def execExtest (shiftIn : BitVec 22) (s : State) : Host.Outcome State Fault Refusal := anyEffect (scan 0 true shiftIn) s

/-- SAMPLE/PRELOAD. -/
def execSamplePreload (shiftIn : BitVec 22) (s : State) : Host.Outcome State Fault Refusal := anyEffect (scan 1 false shiftIn) s

/-- IDCODE. -/
def execIdcode (s : State) : Host.Outcome State Fault Refusal :=
  anyEffect (onJtag (fun j => { j with ir := 2, sel := .idcode, shifted := 0x147400DF, driving := false })) s

/-- BYPASS, and every code without an instruction: one bit passes; a bypass register captures 0 (IEEE 1149.1). -/
def execBypass (code : BitVec 4) (tdi : Bool) (s : State) : Host.Outcome State Fault Refusal :=
  anyEffect (fun w => whenW (!decide (code.toNat ≤ 2)) (onJtag (fun j => { j with
    ir := code, sel := .bypass, shifted := 0, bypass := tdi, driving := false })) w) s

end Sys2Proof.Machine
end

