-- ==== Sys2Proof/Machine/Boundary.lean ====
section
/-! DEFINITION. The tick boundary: what it applies, in order (01 R20 to R30), ledgers (12 R323 to R325), summaries (12 R340), and the command
TICK_BOUNDARY. -/

namespace Sys2Proof.Machine

/-! ## What a closed epoch leaves to the next -/

/-- Flags and largest values of the epoch that has closed start again. -/
def newEpoch (w : World) : World :=
  let w := onMer (fun m => { m with
    atBoundary := none
    frcStatus := m.frcStatus.map (fun f => { f with relocked := false })
    clocks := m.clocks.map (fun l => { l with stepped := false })
    trackers := m.trackers.map (fun t => { t with switched := false }) }) w
  let w := onTiles (fun t => { t with ctxs := t.ctxs.map (fun c => (c.1, { c.2 with stallMax := 0, overrunMax := 0 })) }) w
  let w := onSolver (fun s => { s with engines := s.engines.map (fun e => (e.1, { e.2 with busy := 0, queueMax := e.2.queue.length })) }) w
  let w := onHalo (fun h => { h with engines := h.engines.map (fun e => (e.1, { e.2 with queueMax := e.2.queue.length })) }) w
  let w := onServing (fun v => { v with
    allgather := []
    parts := v.parts.map (fun p => (p.1, { p.2 with perfN := 0, slowSum := 0, slowMax := 0, obsMax := 0, interfFar := 0, interfSlice := 0 })) }) w
  onDev (fun d => { d with dies := d.dies.map (fun x => { x with hottest := hottestOf x.sensors }) }) w

/-- The cycles that running descriptors have taken up to a boundary are of the epoch it closes (05 Table 5.16). -/
def bankBusy (lc0 : Nat) (w : World) : World :=
  onSolver (fun s => { s with engines := s.engines.map (fun e => (e.1, match e.2.run with
    | some r =>
      let cycles := (lc0 / 65536 - r.start) * 7 / 10
      { e.2 with busy := e.2.busy + (cycles - r.counted), run := some { r with counted := max r.counted cycles } }
    | none => e.2)) }) w

/-! ## Ledgers (12 R323 to R325) -/

/-- Ledgers whose loss term has grown since the last closed epoch are recorded; one whose equation fails is a fault of the device. -/
def checkLedgers (served w : World) : World :=
  eachW allLedgers (fun l w =>
    let w := whenW (decide (ledgerLoss served l.2.1 l.2.2 < ledgerLoss w l.2.1 l.2.2)) (record 0x51 4 l.2.1 l.2.2) w
    if ledgerOk w l.2.1 l.2.2 then w
    else record 0x52 4 l.2.1 l.2.2 (onDie 4 (fun x => { x with ledgerFault := true }) w)) w

/-! ## Summaries (12 R340) -/

/-- A summary record, at most once a second for an object and only when its counts have changed. -/
def summary (type source index object total : Nat) (w : World) : World :=
  let k := type * 65536 + object
  let last := sFind w.cont.obs.summaries k
  let due := match last with
    | some (at_, n) => n != total && decide (at_ + 1000000000 ≤ nowNs w)
    | none => total != 0
  if due then onObs (fun o => { o with summaries := sInsert o.summaries k (nowNs w, total) }) (record type source index object w) else w

def summaries (w : World) : World :=
  let w := eachW (tmplsOf w.cfg.active) (fun t w => summary 0x23 (((tmplEngine w t).map (· / 8)).getD 15) 0x4100 t (tmpl w t).noted w) w
  eachW (upTo 160) (fun e w =>
    summary 0x24 (if e < 128 then e / 32 else (e - 128) / 8) 0x7000 e
      (sumList ((upTo 5).map (fun i => sGet 0 w.tiles.arithCount (e * 5 + i)))) w) w

/-! ## The boundary (01 R26) -/

/-- Step 1: solves that retired on time are published, the rest are judged; loops close of themselves (07 R191). -/
def boundaryPublish (lc0 : Nat) (lc3 : Int) (w : World) : World :=
  readRegime (autoClose lc3 (publishAll lc0 (mendTables (strikeReaders w))))

/-- Step 3: the exchange that names this boundary, or its failure; whether the sets changed places, and for whom. -/
def boundarySwap (lc0 : Nat) (w : World) : World × Option PendingSwap :=
  let due (x : PendingSwap) : Bool :=
    if x.target = 0 then decide ((x.at_ + 1000000) * 65536 ≤ lc0) else decide (x.target ≤ w.dev.epoch + 1)
  match w.cfg.swap with
  | none => (w, none)
  | some x =>
    if !due x then (w, none)
    else if !x.prepared then (failSwap aTooLate 0 .admitted w, none)
    else
      let w := exchangeSets lc0 (onCfg (fun c => { c with swap := none }) w)
      let w := onCfg (fun c => { c with firstEpoch := w.dev.epoch + 1 }) w
      (swapResult 0 x.admitId (w.dev.epoch + 1) 0 w, some x)

/-- Step 4: the epoch counter, the stamps and marks of the epoch, the mode of its arithmetic; the clocks of its boundary, with what has
been applied to them at it (02 R57). -/
def closeEpoch (lc0 : Nat) (lc3 : Int) (w : World) : World :=
  let shown := { w.mer.atBoundary.getD (timeSample lc0 w) with lcs := (upTo 16).map (fun n => lcAtInstant w n lc0) }
  let w := onMer (fun m => { m with atBoundary := some shown }) w
  onDev (fun d => { d with
    epoch := d.epoch + 1, boundaryLc0 := lc0, boundaryLc3 := lc3, boundaryDue := none
    markFallback := d.pendFallback, markLoss := d.pendLoss, pendFallback := false, pendLoss := false
    bounded := d.bounded || d.boundedNext, boundedNext := false
    boundedSince := if d.boundedNext && !d.bounded then d.epoch + 1 else d.boundedSince }) w

/-- The first boundary of a set swapped in while quiet: OUT_LIVE rises, and the SWAP is answered (11 R314; 10 R276). -/
def riseLive (w : World) : World :=
  match w.cfg.firstSwap with
  | none => w
  | some (n, r) =>
    let w := onCfg (fun c => { c with firstSwap := none, firstEpoch := w.dev.epoch }) w
    let w := oweSyncs (onDev (fun d => { d with outLive := true }) w)
    respond n 0x19 0 r (u64 w.dev.epoch) w

/-- What a boundary answers and sends: writes, the SWAP, publications. -/
def boundaryAnswers (answers : List (RwWrite × Option Nat)) (swapped : Option PendingSwap) (first : Bool) (v : View) (w : World) : World :=
  let w := answerWrites swapped.isSome answers w
  let w := match swapped with
    | some x => respond x.session 0x19 0 x.reqId (u64 w.dev.epoch) w
    | none => w
  publishDue v (whenW (swapped.isSome || first) (cancelSubs v) w)

/-- The releases of the epoch tracker's tick (06 R150). -/
def boundaryReleases (lc0 : Nat) (w : World) : World :=
  let k := epochTracker w
  tickReleases k (tracker w k).tickCount lc0 w

/-- TICK_BOUNDARY: a tick of the epoch tracker closes an epoch; what it made visible is what hosts are served from. Dies that have
missed a second heartbeat are declared lost. -/
def tickBoundary (posted : BitVec 8) (w served : World) (lost : Store World) : World × World × Store World :=
  match w.dev.boundaryDue with
  | none => (w, served, lost)
  | some (lc0, lc3) =>
    let first := w.cfg.firstSwap.isSome
    let w := boundaryPublish lc0 lc3 w
    let (w, answers) := applyWrites lc0 lc3 w
    let (w, swapped) := boundarySwap lc0 w
    let w := closeEpoch lc0 lc3 w
    let w := mendHalo (mendBasalt (publishOutputs w))
    let w := copyReplicas (checkLedgers served (bankBusy lc0 w))
    let w := riseLive (summaries w)
    let now := settle w
    let v := viewOf now now lost
    let w := boundaryAnswers answers swapped first v w
    let w := closeSpent (boundaryReleases lc0 (newEpoch w))
    let r := heartbeats posted w
    (eachW r.2 (fun d => loseDie d 6) r.1, now, r.2.foldl (fun l d => sInsert l d now) lost)

/-- TICK_BOUNDARY. -/
def execTickBoundary (posted : BitVec 8) (s : State) : Host.Outcome State Fault Refusal := serveEffect (tickBoundary posted) s

end Sys2Proof.Machine
end

