-- ==== Sys2Proof/Machine/Dispatch.lean ====
section
/-! DEFINITION. The effect of each command: one arm for each row of the opcode table, in the table's order. -/

namespace Sys2Proof.Machine

def exec (i : Instr) (s : State) : Host.Outcome State Fault Refusal :=
  match i with
  | .powerOnReset viaResetN => Sys2Proof.Machine.execPowerOnReset viaResetN s
  | .resetEnd => Sys2Proof.Machine.execResetEnd s
  | .bootEntry => Sys2Proof.Machine.execBootEntry s
  | .bootComplete => Sys2Proof.Machine.execBootComplete s
  | .rngHealthFailure => Sys2Proof.Machine.execRngHealthFailure s
  | .rngRetest pass => Sys2Proof.Machine.execRngRetest pass s
  | .rngReseed => Sys2Proof.Machine.execRngReseed s
  | .advertSend port => Sys2Proof.Machine.execAdvertSend port s
  | .start port f => Sys2Proof.Machine.execStart port f s
  | .data port f => Sys2Proof.Machine.execData port f s
  | .enrol port f => Sys2Proof.Machine.execEnrol port f s
  | .abort port f => Sys2Proof.Machine.execAbort port f s
  | .bootTransferTimeout => Sys2Proof.Machine.execBootTransferTimeout s
  | .bootVerifyComplete => Sys2Proof.Machine.execBootVerifyComplete s
  | .dieLoadDone failed => Sys2Proof.Machine.execDieLoadDone failed s
  | .selftestComplete failed portFailed => Sys2Proof.Machine.execSelftestComplete failed portFailed s
  | .timeAcquireEnd => Sys2Proof.Machine.execTimeAcquireEnd s
  | .quietHeartbeatCheck posted => Sys2Proof.Machine.execQuietHeartbeatCheck posted s
  | .frcHoldover frc => Sys2Proof.Machine.execFrcHoldover frc s
  | .frcRelock frc => Sys2Proof.Machine.execFrcRelock frc s
  | .bedrockFailure => Sys2Proof.Machine.execBedrockFailure s
  | .lcRate w => Sys2Proof.Machine.execLcRate w s
  | .lcOffsetAdj w => Sys2Proof.Machine.execLcOffsetAdj w s
  | .slewComplete clock => Sys2Proof.Machine.execSlewComplete clock s
  | .lc3RampStep => Sys2Proof.Machine.execLc3RampStep s
  | .lc3TrackCompare => Sys2Proof.Machine.execLc3TrackCompare s
  | .lcRelease w => Sys2Proof.Machine.execLcRelease w s
  | .lcForceStep w => Sys2Proof.Machine.execLcForceStep w s
  | .ptpSyncReceive port h origin => Sys2Proof.Machine.execPtpSyncReceive port h origin s
  | .ptpAnnounceReceive port a => Sys2Proof.Machine.execPtpAnnounceReceive port a s
  | .ptpDelayMessageReceive port h m => Sys2Proof.Machine.execPtpDelayMessageReceive port h m s
  | .announceReceiptTimeout port => Sys2Proof.Machine.execAnnounceReceiptTimeout port s
  | .ptpSyncTransmit port egressDelay => Sys2Proof.Machine.execPtpSyncTransmit port egressDelay s
  | .ppsInEdge frac => Sys2Proof.Machine.execPpsInEdge frac s
  | .ppsOutPulse => Sys2Proof.Machine.execPpsOutPulse s
  | .ppsOutPulseEnd => Sys2Proof.Machine.execPpsOutPulseEnd s
  | .encoderEdge enc e frac => Sys2Proof.Machine.execEncoderEdge enc e frac s
  | .encoderZPulse enc => Sys2Proof.Machine.execEncoderZPulse enc s
  | .trackerFallback f => Sys2Proof.Machine.execTrackerFallback f s
  | .trackerResumeValid at_ fromFallback frac => Sys2Proof.Machine.execTrackerResumeValid at_ fromFallback frac s
  | .trackerTick at_ boundary forward frac => Sys2Proof.Machine.execTrackerTick at_ boundary forward frac s
  | .fallbackTick at_ frac => Sys2Proof.Machine.execFallbackTick at_ frac s
  | .delayedTick at_ boundary frac => Sys2Proof.Machine.execDelayedTick at_ boundary frac s
  | .angleEventFire at_ event forward frac => Sys2Proof.Machine.execAngleEventFire at_ event forward frac s
  | .tickPulseStart pin => Sys2Proof.Machine.execTickPulseStart pin s
  | .tickPulseEnd pin => Sys2Proof.Machine.execTickPulseEnd pin s
  | .atOmegaSyn w => Sys2Proof.Machine.execAtOmegaSyn w s
  | .tickBoundary posted => Sys2Proof.Machine.execTickBoundary posted s
  | .arithSticky w => Sys2Proof.Machine.execArithSticky w s
  | .li c rd imm => Sys2Proof.Machine.execLi c rd imm s
  | .add c rd ra rb => Sys2Proof.Machine.execAdd c rd ra rb s
  | .addi c rd ra imm => Sys2Proof.Machine.execAddi c rd ra imm s
  | .sub c rd ra rb => Sys2Proof.Machine.execSub c rd ra rb s
  | .and c rd ra rb => Sys2Proof.Machine.execAnd c rd ra rb s
  | .or c rd ra rb => Sys2Proof.Machine.execOr c rd ra rb s
  | .xor c rd ra rb => Sys2Proof.Machine.execXor c rd ra rb s
  | .shli c rd ra imm => Sys2Proof.Machine.execShli c rd ra imm s
  | .shri c rd ra imm => Sys2Proof.Machine.execShri c rd ra imm s
  | .jmp c imm => Sys2Proof.Machine.execJmp c imm s
  | .bz c ra imm => Sys2Proof.Machine.execBz c ra imm s
  | .bnz c ra imm => Sys2Proof.Machine.execBnz c ra imm s
  | .dbnz c ra imm => Sys2Proof.Machine.execDbnz c ra imm s
  | .issue c ra rb mask farp imm => Sys2Proof.Machine.execIssue c ra rb mask farp imm s
  | .waittag c rd imm => Sys2Proof.Machine.execWaittag c rd imm s
  | .fence c => Sys2Proof.Machine.execFence c s
  | .spost c imm => Sys2Proof.Machine.execSpost c imm s
  | .swait c imm => Sys2Proof.Machine.execSwait c imm s
  | .stepEnd c => Sys2Proof.Machine.execStepEnd c s
  | .stallTimeout tile ctx => Sys2Proof.Machine.execStallTimeout tile ctx s
  | .nop c => Sys2Proof.Machine.execNop c s
  | .matmul c => Sys2Proof.Machine.execMatmul c s
  | .tacc c => Sys2Proof.Machine.execTacc c s
  | .taccLoad c => Sys2Proof.Machine.execTaccLoad c s
  | .vld c => Sys2Proof.Machine.execVld c s
  | .vst c => Sys2Proof.Machine.execVst c s
  | .vop c => Sys2Proof.Machine.execVop c s
  | .vsf c => Sys2Proof.Machine.execVsf c s
  | .vred c => Sys2Proof.Machine.execVred c s
  | .dmaLd r => Sys2Proof.Machine.execDmaLd r s
  | .dmaSt r => Sys2Proof.Machine.execDmaSt r s
  | .dmaLc r => Sys2Proof.Machine.execDmaLc r s
  | .wopen c => Sys2Proof.Machine.execWopen c s
  | .wclose c => Sys2Proof.Machine.execWclose c s
  | .rput c => Sys2Proof.Machine.execRput c s
  | .rget c => Sys2Proof.Machine.execRget c s
  | .windowTransferArrive c => Sys2Proof.Machine.execWindowTransferArrive c s
  | .windowRetire tile slot => Sys2Proof.Machine.execWindowRetire tile slot s
  | .tileCommandRetire c => Sys2Proof.Machine.execTileCommandRetire c s
  | .sliceEnd tile => Sys2Proof.Machine.execSliceEnd tile s
  | .sliceStart tile ctx => Sys2Proof.Machine.execSliceStart tile ctx s
  | .chol be => Sys2Proof.Machine.execChol be s
  | .ldl be => Sys2Proof.Machine.execLdl be s
  | .qr be => Sys2Proof.Machine.execQr be s
  | .lu be => Sys2Proof.Machine.execLu be s
  | .tri be => Sys2Proof.Machine.execTri be s
  | .mul be => Sys2Proof.Machine.execMul be s
  | .refine be => Sys2Proof.Machine.execRefine be s
  | .kfup be => Sys2Proof.Machine.execKfup be s
  | .qpbox be => Sys2Proof.Machine.execQpbox be s
  | .basaltRetire be cycles => Sys2Proof.Machine.execBasaltRetire be cycles s
  | .deadlineReached template => Sys2Proof.Machine.execDeadlineReached template s
  | .basaltUncorrectable be => Sys2Proof.Machine.execBasaltUncorrectable be s
  | .asmLatestReached template => Sys2Proof.Machine.execAsmLatestReached template s
  | .assemblyStart template => Sys2Proof.Machine.execAssemblyStart template s
  | .sample trunk f => Sys2Proof.Machine.execSample trunk f s
  | .haloLoopUpdate he => Sys2Proof.Machine.execHaloLoopUpdate he s
  | .commandDiscardNotice loop => Sys2Proof.Machine.execCommandDiscardNotice loop s
  | .loopOpen w => Sys2Proof.Machine.execLoopOpen w s
  | .loopClose w => Sys2Proof.Machine.execLoopClose w s
  | .loopCoeffWrite sub w => Sys2Proof.Machine.execLoopCoeffWrite sub w s
  | .profileStep gen => Sys2Proof.Machine.execProfileStep gen s
  | .injStart w => Sys2Proof.Machine.execInjStart w s
  | .injStop w => Sys2Proof.Machine.execInjStop w s
  | .injectorEnd inj => Sys2Proof.Machine.execInjectorEnd inj s
  | .capArm w => Sys2Proof.Machine.execCapArm w s
  | .capTrigger w => Sys2Proof.Machine.execCapTrigger w s
  | .tokenClose seq => Sys2Proof.Machine.execTokenClose seq s
  | .stepForm part => Sys2Proof.Machine.execStepForm part s
  | .pageRingRefill part tile slot => Sys2Proof.Machine.execPageRingRefill part tile slot s
  | .stepEndPhase part => Sys2Proof.Machine.execStepEndPhase part s
  | .stepOverrun part => Sys2Proof.Machine.execStepOverrun part s
  | .teardownComplete part => Sys2Proof.Machine.execTeardownComplete part s
  | .backgroundSpill pool => Sys2Proof.Machine.execBackgroundSpill pool s
  | .pageMoveComplete seq entry => Sys2Proof.Machine.execPageMoveComplete seq entry s
  | .prefetchComplete seq entry => Sys2Proof.Machine.execPrefetchComplete seq entry s
  | .preemptReturn seq => Sys2Proof.Machine.execPreemptReturn seq s
  | .stalledFlushRetry part => Sys2Proof.Machine.execStalledFlushRetry part s
  | .modelSwitchStart part => Sys2Proof.Machine.execModelSwitchStart part s
  | .modelSwitchComplete part => Sys2Proof.Machine.execModelSwitchComplete part s
  | .partCtrlStart w => Sys2Proof.Machine.execPartCtrlStart w s
  | .partCtrlStop w => Sys2Proof.Machine.execPartCtrlStop w s
  | .partCtrlRestart w => Sys2Proof.Machine.execPartCtrlRestart w s
  | .trunkLinkUp trunk rate master => Sys2Proof.Machine.execTrunkLinkUp trunk rate master s
  | .trunkLinkDown trunk cameUpAt => Sys2Proof.Machine.execTrunkLinkDown trunk cameUpAt s
  | .credit trunk f frac => Sys2Proof.Machine.execCredit trunk f frac s
  | .announce trunk f => Sys2Proof.Machine.execAnnounce trunk f s
  | .cellcfgAck trunk f => Sys2Proof.Machine.execCellcfgAck trunk f s
  | .alarm trunk f => Sys2Proof.Machine.execAlarm trunk f s
  | .cellLostTimeout trunk cell => Sys2Proof.Machine.execCellLostTimeout trunk cell s
  | .cellcfgSetSend trunk cell => Sys2Proof.Machine.execCellcfgSetSend trunk cell s
  | .trunkSyncSend trunk cell egressDelay => Sys2Proof.Machine.execTrunkSyncSend trunk cell egressDelay s
  | .quietSyncSend trunk egressDelay => Sys2Proof.Machine.execQuietSyncSend trunk egressDelay s
  | .outLiveChangeSync trunk cell egressDelay => Sys2Proof.Machine.execOutLiveChangeSync trunk cell egressDelay s
  | .commandDeparture trunk frac => Sys2Proof.Machine.execCommandDeparture trunk frac s
  | .commandExpire trunk cell number => Sys2Proof.Machine.execCommandExpire trunk cell number s
  | .hello m => Sys2Proof.Machine.execHello m s
  | .proof m => Sys2Proof.Machine.execProof m s
  | .proofTimeout slot => Sys2Proof.Machine.execProofTimeout slot s
  | .close m => Sys2Proof.Machine.execClose m s
  | .sessionTimeout session => Sys2Proof.Machine.execSessionTimeout session s
  | .keepalive m => Sys2Proof.Machine.execKeepalive m s
  | .masterAcquire m => Sys2Proof.Machine.execMasterAcquire m s
  | .masterRelease m => Sys2Proof.Machine.execMasterRelease m s
  | .read m => Sys2Proof.Machine.execRead m s
  | .write m => Sys2Proof.Machine.execWrite m s
  | .registerWrite index sub type w => Sys2Proof.Machine.execRegisterWrite index sub type w s
  | .paramWrite sub w => Sys2Proof.Machine.execParamWrite sub w s
  | .snapshot m => Sys2Proof.Machine.execSnapshot m s
  | .blockInit m => Sys2Proof.Machine.execBlockInit m s
  | .blockSeg m => Sys2Proof.Machine.execBlockSeg m s
  | .blockEnd m => Sys2Proof.Machine.execBlockEnd m s
  | .blockTransferTimeout session xfer => Sys2Proof.Machine.execBlockTransferTimeout session xfer s
  | .subscribe m => Sys2Proof.Machine.execSubscribe m s
  | .admitReq m => Sys2Proof.Machine.execAdmitReq m s
  | .admitVerdict durationMs => Sys2Proof.Machine.execAdmitVerdict durationMs s
  | .swap m => Sys2Proof.Machine.execSwap m s
  | .swapCancel m => Sys2Proof.Machine.execSwapCancel m s
  | .swapPrepared => Sys2Proof.Machine.execSwapPrepared s
  | .firstSwap => Sys2Proof.Machine.execFirstSwap s
  | .ledger m => Sys2Proof.Machine.execLedger m s
  | .attest m => Sys2Proof.Machine.execAttest m s
  | .copyActive w => Sys2Proof.Machine.execCopyActive w s
  | .clear w => Sys2Proof.Machine.execClear w s
  | .pageWriteResponse m => Sys2Proof.Machine.execPageWriteResponse m s
  | .pageReadResponse m => Sys2Proof.Machine.execPageReadResponse m s
  | .pageRequestResend session reqId => Sys2Proof.Machine.execPageRequestResend session reqId s
  | .neighborSolicitation port src mac target => Sys2Proof.Machine.execNeighborSolicitation port src mac target s
  | .icmpv6EchoRequest port src dst mac payload => Sys2Proof.Machine.execIcmpv6EchoRequest port src dst mac payload s
  | .uncorrectableError die store address => Sys2Proof.Machine.execUncorrectableError die store address s
  | .scrubPatrol die store address word => Sys2Proof.Machine.execScrubPatrol die store address word s
  | .seamReplay endpoint failed => Sys2Proof.Machine.execSeamReplay endpoint failed s
  | .seamRetrainTimeout seam => Sys2Proof.Machine.execSeamRetrainTimeout seam s
  | .dieDeclaredLost die cause => Sys2Proof.Machine.execDieDeclaredLost die cause s
  | .takeover => Sys2Proof.Machine.execTakeover s
  | .derivedSetInForce => Sys2Proof.Machine.execDerivedSetInForce s
  | .derivedSetsComputed => Sys2Proof.Machine.execDerivedSetsComputed s
  | .obsidianCommit => Sys2Proof.Machine.execObsidianCommit s
  | .drain w => Sys2Proof.Machine.execDrain w s
  | .drainHandover => Sys2Proof.Machine.execDrainHandover s
  | .load w => Sys2Proof.Machine.execLoad w s
  | .dieLoadReady die passed => Sys2Proof.Machine.execDieLoadReady die passed s
  | .rejoin w => Sys2Proof.Machine.execRejoin w s
  | .rejoinHandover => Sys2Proof.Machine.execRejoinHandover s
  | .bedrockSwitch w => Sys2Proof.Machine.execBedrockSwitch w s
  | .stageVerifyComplete => Sys2Proof.Machine.execStageVerifyComplete s
  | .floorRaise w => Sys2Proof.Machine.execFloorRaise w s
  | .rootRetire w => Sys2Proof.Machine.execRootRetire w s
  | .enrolClaim w => Sys2Proof.Machine.execEnrolClaim w s
  | .enrolTransfer w => Sys2Proof.Machine.execEnrolTransfer w s
  | .enrolSetPolicy w => Sys2Proof.Machine.execEnrolSetPolicy w s
  | .enrolSetSlot w => Sys2Proof.Machine.execEnrolSetSlot w s
  | .enrolClearSlot w => Sys2Proof.Machine.execEnrolClearSlot w s
  | .enrolRelease w => Sys2Proof.Machine.execEnrolRelease w s
  | .thermalSample die samples => Sys2Proof.Machine.execThermalSample die samples s
  | .extest shiftIn => Sys2Proof.Machine.execExtest shiftIn s
  | .samplePreload shiftIn => Sys2Proof.Machine.execSamplePreload shiftIn s
  | .idcode => Sys2Proof.Machine.execIdcode s
  | .bypass code tdi => Sys2Proof.Machine.execBypass code tdi s
  | .angleEventRearm at_ event frac => Sys2Proof.Machine.execAngleEventRearm at_ event frac s
  | .seamRetrainComplete seam => Sys2Proof.Machine.execSeamRetrainComplete seam s
  | .hostFrameDropped port malformed => Sys2Proof.Machine.execHostFrameDropped port malformed s
  | .trunkFrameRefused trunk f => Sys2Proof.Machine.execTrunkFrameRefused trunk f s

end Sys2Proof.Machine
end

