-- ==== Sys2Proof/Machine/Step.lean ====
section
/-! DEFINITION. The step: the command at the front of the queue, or a nanosecond of time. -/

namespace Sys2Proof.Machine

/-- The command at the front of the queue takes its effect with the queue's rest; on an empty queue a nanosecond passes
(log 2). -/
def step (s : State) : Host.Outcome State Fault Refusal :=
  match s.pending with
  | [] => .next { s with live := passTime s.live }
  | c :: rest => exec c { s with pending := rest }

/-- The state with the command that a word spells in front of its queue: no word spells one (log 11). -/
def State.withFetchWord (s : State) (nbits w : Nat) : State :=
  match decodeTableWord nbits w with
  | some c => { s with pending := c :: s.pending }
  | none => s

end Sys2Proof.Machine
end

