-- ==== Sys2Proof/Safety.lean ====
section
/-! DEFINITION. What claims call a safe run, a sound state, and a command that runs. -/

namespace Sys2Proof

/-- A run of `k` steps that neither faults nor refuses. -/
def completes (k : Nat) (s : Machine.State) : Prop := ∃ t, Host.Core.run core k s = .next t

/-- The output pins agree with the device state (14 Table 14.3, R370). -/
def pinsAgree (w : Machine.World) : Prop := Machine.settle w = w

/-- The command answers a next state, with the queue as it stood, and `P` holds of that state. -/
def runsTo (c : Instr) (s : Machine.State) (P : Machine.State → Prop) : Prop :=
  ∃ t, Machine.exec c s = .next t ∧ t.pending = s.pending ∧ P t

/-- The device acts on commands, and its pins agree with its state. -/
def awake (s : Machine.State) : Prop := Machine.alive s.live = true ∧ pinsAgree s.live

end Sys2Proof
end

