-- ==== Sys2Proof/Certificates/Slice0/Obligations.lean ====
section
/-! DEFINITION. The statements about the model that the provers are asked for. Each definition says which rule of spec/ it rests on. -/

open Sys2Proof Sys2Proof.Machine

namespace Sys2Proof.Claims

/-- A boot frame that the ROM gives to the row of its type: whole, untagged, without a reserved bit set, on a port that is up, in
IMAGE_WAIT (14 R372, R374). -/
def bootFrameFor (s : State) (p : Fin 2) (f : Frame) (type : Nat) : Prop :=
  (hostPort s.live p).up = true ∧ f.fcsOk = true ∧ f.tagged = false ∧ 60 ≤ f.bytes.length ∧ bfOk f.bytes = true ∧
  bfType f.bytes = type ∧ s.live.dev.state = .imageWait

/-- The transfer that is open is this sender's. -/
def ownTransfer (s : State) (x : BootXfer) (p : Fin 2) (f : Frame) : Prop :=
  s.live.garnet.xfer = some x ∧ x.port = p ∧ x.mac = bfMac f.bytes

/-- Keys strictly rising in every table of a context. -/
def ctxOrdered (c : Ctx) : Prop :=
  storeSorted c.s ∧ storeSorted c.v ∧ storeSorted c.status ∧ storeSorted c.tagSerial

/-- Keys strictly rising in the tables that the statements below read after a write. -/
def ordered (w : World) : Prop :=
  storeSorted w.mer.edges ∧ storeSorted w.mer.pulseEnd ∧ storeSorted w.dev.startupTimes ∧
  storeSorted w.tiles.ctxs ∧ (∀ k, ctxOrdered (ctxAt w k)) ∧ storeSorted w.tiles.banks ∧ storeSorted w.tiles.windows ∧
  storeSorted w.tiles.sticky ∧ storeSorted w.tiles.arithCount ∧ storeSorted w.tiles.sync ∧
  storeSorted w.solver.engines ∧ storeSorted w.solver.tmpls ∧ storeSorted w.halo.engines ∧ storeSorted w.halo.loops ∧
  storeSorted w.halo.gens ∧ storeSorted w.halo.injs ∧ storeSorted w.halo.caps ∧ storeSorted w.serving.seqs ∧
  storeSorted w.serving.parts ∧ storeSorted w.trunks.trunks ∧ storeSorted w.trunks.cells ∧ storeSorted w.trunks.streams ∧
  storeSorted w.tiles.slice ∧ storeSorted w.cont.sync ∧ storeSorted w.serving.pools ∧ storeSorted w.serving.prefixes

/-- Every byte memory of the device lists its cells in rising order and none that is zero. -/
def memoriesOk (w : World) : Prop :=
  Memory.wf w.tiles.scratch ∧ Memory.wf w.tiles.stratum ∧ Memory.wf w.solver.mem

/-- The device with a request of a session noted as open, as it stands while the request is judged (11 R295). -/
def asked (s : State) (n : Nat) (reqId : BitVec 32) : World :=
  onSession n (fun x => { x with open_ := { reqId := reqId, shadow := false, peer := x.peer } :: x.open_ }) s.live

/-- The request that a row's write is judged as. -/
def writeOf (index sub type : Nat) (x : ObjWrite) : WriteReq where
  sess := x.session
  reqId := x.reqId
  service := 0x11
  key := okey index sub x.inst
  value := wireToStored type x.value
  shadow := false

/-- A write of an object that its session may make and nothing refuses: served, new, permitted, of the object's type and size (11 R295,
R300, R415, Tables 11.8 and 11.8a). -/
def accepted (s : State) (index sub type : Nat) (x : ObjWrite) : Prop :=
  sub < 256 ∧ x.inst < 2 ^ 24 ∧ hostsServed s.live = true ∧ (session s.live x.session).live = true ∧
  (session s.live x.session).cache.find? (fun e => e.1 = x.reqId) = none ∧
  (session s.live x.session).open_.any (fun r => r.reqId = x.reqId) = false ∧ (session s.live x.session).open_.length < 16 ∧
  hasRole (asked s x.session x.reqId) x.session 1 = true ∧
  ∃ o, findObj (okey index sub x.inst) = .ok o ∧ o.access ≠ .ro ∧ o.access ≠ .co ∧ o.type = type ∧ index ≠ 0x9002 ∧
    x.value.length ≤ 1386 ∧ sizeOk o x.value.length = true ∧
    permission (asked s x.session x.reqId) (writeOf index sub type x) o = none ∧
    writeBad (asked s x.session x.reqId) (writeOf index sub type x) o = none

/-- The object that a row of the table writes, where the row is a write of the active set that waits for its boundary: index, subindex,
type (01 R27; 02 R37, R39, R40, R47; 03 R71; 06 R416; 07 R188 to R190, R196, R198; 09 R249, R254; 12 R343). -/
def rowWrites : Instr → Option (Nat × Nat × Nat × ObjWrite)
  | .lcRate x => some (0x2010, 1, 5, x)
  | .lcOffsetAdj x => some (0x2012, 1, 5, x)
  | .lcForceStep x => some (0x2013, 1, 5, x)
  | .lcRelease x => some (0x2014, 1, tU8, x)
  | .atOmegaSyn x => some (0x2100, 1, tReal, x)
  | .arithSticky x => some (0x7000, 1, tU8, x)
  | .loopOpen x => if x.value = [0] then some (0x5012, 1, tU8, x) else none
  | .loopClose x => if x.value = [1] then some (0x5012, 1, tU8, x) else none
  | .loopCoeffWrite sub x => some (0x5011, sub.toNat, if sub = 8 then tU8 else if sub = 9 then tU32 else tReal, x)
  | .injStart x => some (0x5031, 1, tU8, x)
  | .injStop x => some (0x5031, 2, tU8, x)
  | .capArm x => if x.value = [1] then some (0x5041, 1, tU8, x) else none
  | .capTrigger x => if x.value = [2] then some (0x5041, 1, tU8, x) else none
  | .partCtrlStart x => if x.value = [1] then some (0x3001, 1, tU8, x) else none
  | .partCtrlStop x => if x.value = [0] then some (0x3001, 1, tU8, x) else none
  | .partCtrlRestart x => if x.value = [2] then some (0x3001, 1, tU8, x) else none
  | .registerWrite index sub type x => some (index.toNat, sub.toNat, type.toNat, x)
  | .paramWrite none x => some (0x4110, 0, tReal, x)
  | .paramWrite (some i) x => some (0x4111, i.toNat, tReal, x)
  | .drain x => if x.value.length = 2 ∧ upOp (beNat x.value) = 1 then some (0x8020, 1, tU16, x) else none
  | .load x => if x.value.length = 2 ∧ upOp (beNat x.value) = 2 then some (0x8020, 1, tU16, x) else none
  | .rejoin x => if x.value.length = 2 ∧ upOp (beNat x.value) = 3 then some (0x8020, 1, tU16, x) else none
  | .bedrockSwitch x => if x.value.length = 2 ∧ upOp (beNat x.value) = 4 then some (0x8020, 1, tU16, x) else none
  | _ => none

/-- The KIND of the enrolment record that a row writes (13 R360, Table 13.7). -/
def rowEnrols : Instr → Option (Nat × ObjWrite)
  | .enrolClaim x => some (1, x)
  | .enrolSetSlot x => some (2, x)
  | .enrolClearSlot x => some (3, x)
  | .enrolTransfer x => some (4, x)
  | .enrolRelease x => some (5, x)
  | .enrolSetPolicy x => some (6, x)
  | _ => none

/-- What a scalar arithmetic instruction writes to RD, as a function of the registers (04 Table 4.3). -/
def scalarValue : Instr → Option (TileCtx × Fin 16 × ((Fin 16 → W32) → W32))
  | .li c rd imm => some (c, rd, fun _ => imm)
  | .add c rd ra rb => some (c, rd, fun r => r ra + r rb)
  | .addi c rd ra imm => some (c, rd, fun r => r ra + imm)
  | .sub c rd ra rb => some (c, rd, fun r => r ra - r rb)
  | .and c rd ra rb => some (c, rd, fun r => r ra &&& r rb)
  | .or c rd ra rb => some (c, rd, fun r => r ra ||| r rb)
  | .xor c rd ra rb => some (c, rd, fun r => r ra ^^^ r rb)
  | .shli c rd ra imm => some (c, rd, fun r => r ra <<< (imm.toNat % 32))
  | .shri c rd ra imm => some (c, rd, fun r => r ra >>> (imm.toNat % 32))
  | _ => none

/-- When a jump is taken, as a function of the registers, and its target (04 Table 4.3). -/
def scalarJump : Instr → Option (TileCtx × ((Fin 16 → W32) → Bool) × W32)
  | .jmp c imm => some (c, fun _ => true, imm)
  | .bz c ra imm => some (c, fun r => r ra == 0, imm)
  | .bnz c ra imm => some (c, fun r => r ra != 0, imm)
  | _ => none

/-- The context of a scalar instruction (04 Table 4.3). -/
def scalarRow : Instr → Option TileCtx
  | .li c _ _ | .add c _ _ _ | .addi c _ _ _ | .sub c _ _ _ | .and c _ _ _ | .or c _ _ _ | .xor c _ _ _ | .shli c _ _ _
  | .shri c _ _ _ | .jmp c _ | .bz c _ _ | .bnz c _ _ | .dbnz c _ _ | .issue c _ _ _ _ _ | .waittag c _ _ | .fence c | .spost c _
  | .swait c _ | .stepEnd c => some c
  | _ => none

/-- The row of a command that a unit of a tile runs by itself: its context, its opcode, what it does (04 Table 4.6). -/
def unitRow : Instr → Option (TileCtx × Nat × (SbEntry → World → BitVec 8 × World))
  | .nop c => some (c, 0x00, fun _ w => (0, w))
  | .matmul c => some (c, 0x01, runMatmul c.tile)
  | .tacc c => some (c, 0x02, runTacc c.tile)
  | .taccLoad c => some (c, 0x03, runTaccLoad c.tile)
  | .vld c => some (c, 0x10, runVld c.tile (TileCtx.key c))
  | .vst c => some (c, 0x11, runVst c.tile (TileCtx.key c))
  | .vop c => some (c, 0x12, runVop (TileCtx.key c))
  | .vsf c => some (c, 0x13, runVsf (TileCtx.key c))
  | .vred c => some (c, 0x14, runVred (TileCtx.key c))
  | _ => none

/-- The row of a DMA command: its context, its opcode, how many bursts it moves, what one burst does (04 Table 4.6, R104). -/
def dmaRow : Instr → Option (TileCtx × Nat × Nat × (SbEntry → Nat → World → BitVec 8 × World))
  | .dmaLd r => some (r.c, 0x20, r.bursts, loadBurst r.c)
  | .dmaSt r => some (r.c, 0x21, r.bursts, storeBurst r.c)
  | .dmaLc r => some (r.c, 0x22, r.bursts, copyBurst r.c)
  | _ => none

/-- The bytes of a tile's scratchpad that a range of words covers. -/
def inWords (tile : Nat) (r : Nat × Nat) (a : Nat) : Prop := padAddr tile (r.1 * 32) ≤ a ∧ a < padAddr tile (r.1 * 32) + r.2 * 32

/-- The row of a Basalt command: its engine, its opcode, what one instance yields (05 Table 5.3). -/
def basaltRow : Instr → Option (Fin 32 × Nat × (World → Nat → BitVec 512 → Nat → BM BOut))
  | .chol e => some (e, 1, runChol)
  | .ldl e => some (e, 2, runLdl)
  | .qr e => some (e, 3, runQr)
  | .lu e => some (e, 4, runLu)
  | .tri e => some (e, 5, runTri)
  | .mul e => some (e, 6, runMul)
  | .refine e => some (e, 7, runRefine)
  | .kfup e => some (e, 8, runKfup)
  | .qpbox e => some (e, 9, runQpbox)
  | _ => none

/-- The loop as an update finds it: after a discard notice LEVEL and LAST_EXEC are the command shadow's (07 R182). -/
def loopNow (w : World) (l : Nat) : LoopRt :=
  if (loop w l).discard then
    { loop w l with discard := false, level := (shadow w l).level, lastExec := (shadow w l).lastExec } else loop w l

/-- RF after an update, and its error (07 R176). -/
def nextRf (w : World) (q : QSample) : W32 :=
  hAdd (loop w q.loop).rf (hMul (lpAlpha (loopRec w q.loop)) (hSub
    (if lpRefMode (loopRec w q.loop) then (gen w (lpRefGen (loopRec w q.loop))).p else lpRef (loopRec w q.loop)) (loop w q.loop).rf))
def loopErr (w : World) (q : QSample) : W32 :=
  hSub (hAdd (hAdd (nextRf w q) (feedForward w (loopRec w q.loop)).1) (injAt w q.loop 0 q.t1)) (hAdd q.y (injAt w q.loop 1 q.t1))

/-- slope_ok, the band centre with the integrator that the law reaches, and the earliest execute time (07 R176, R178). -/
def slopeUsable (w : World) (q : QSample) : Bool :=
  decide ((loop w q.loop).t0 ≠ 0) && decide ((q.t1 : Int) - (loop w q.loop).t0 ≤ 4 * lpTs (loopRec w q.loop))
def bandCentre (w : World) (q : QSample) : W32 :=
  hSub (lpBandC (loopRec w q.loop)) (if lpIntEn (loopRec w q.loop) && slopeUsable w q then
    (integrate (loopRec w q.loop) (loopErr w q) ((q.t1 : Int) - (loop w q.loop).t0) (loop w q.loop)).integ else (loop w q.loop).integ)
def updOf (w : World) (q : QSample) : Upd := { l := q.loop, rcd := loopRec w q.loop, q := q }
def earliest (w : World) (q : QSample) : Nat :=
  max (q.ta + lpLead (loopRec w q.loop)) ((loopNow w q.loop).lastExec + dwellOf w (updOf w q))

/-- The sample at the head of an engine's queue is one that its loop takes, and no injector of the loop waits to start. -/
def loopTakes (s : State) (e : Fin 16) (q : QSample) (rest : List QSample) : Prop :=
  (he s.live e).queue = q :: rest ∧ loopRuns s.live q.loop e = true ∧
  ∀ i ∈ injsOf s.live q.loop 0 ++ injsOf s.live q.loop 1, (inj s.live i).armed = none

/-- A generator that one step brings to its target: position, velocity and acceleration within what J_MAX gives in a period (07 R193). -/
def genThere (r : Bytes) (x : GenRt) : Bool :=
  let d := hMul (hInt (gnPeriod r)) hMicro
  le32 (hAbs (hSub (gnTarget r) x.p)) (hMul (gnJMax r) (hMul (hMul d d) d)) && le32 (hAbs x.v) (hMul (gnJMax r) (hMul d d)) &&
  le32 (hAbs x.a) (hMul (gnJMax r) d)

/-- A frame that a trunk accepts on a link that is up, of a type, for a cell (10 R265). -/
def frameAccepted (s : State) (t : Fin 16) (f : Frame) (type : Nat) : Prop :=
  (trunk s.live t).up = true ∧ refusal s.live t f = none ∧ frType f.bytes = type
def cellOf (t : Fin 16) (f : Frame) : Nat := cellKey t (frCell f.bytes)

/-- What a trunk loss leaves (10 R264, R271): link down, every enabled cell of the trunk LOST, one more loss; nothing sent, no other
trunk or cell touched, and the commands that wait or are outstanding left to expire. -/
def trunkLost (s t : State) (n : Fin 16) : Prop :=
  trunk t.live n = { trunk s.live n with up := false, counters := (trunk t.live n).counters } ∧
  (s.live.cfg.present = true → ∀ k ∈ cellsOf s.live.cfg.active, k / 256 = n.val →
    cell t.live k = { cell s.live k with mode := .lost, setDue := some (nowNs s.live) }) ∧
  (∀ k, k / 256 ≠ n.val ∨ k ∉ cellsOf s.live.cfg.active → cell t.live k = cell s.live k) ∧
  (∀ k, k ≠ n.val → trunk t.live k = trunk s.live k) ∧
  (storeSorted (trunk s.live n).counters → sGet 0 (trunk t.live n).counters 14 = sGet 0 (trunk s.live n).counters 14 + 1) ∧
  t = { s with live := { s.live with trunks := t.live.trunks, cont := t.live.cont, free := t.live.free } }

/-- Channels received less those consumed or dropped, by the sample ledger of a trunk (10 R284). -/
def sampleBalance (x : Trunk) : Int := (x.received : Int) - x.consumed - sumList ((upTo 6).map (fun k => sGet 0 x.dropped (k + 1)))

/-- A command number that an acknowledgement names (10 R268). -/
def acknowledges (b : Bytes) (n : Nat) : Prop := ∃ i, i < 32 ∧ bit (beAt b 44 4) i = true ∧ n = (beAt b 42 2 + i) % 65536

/-- Page `i` of list `n` of a sequence, at entry `e` of its page table, and the pool it lies in (08 R218). -/
def pageAt (w : World) (s n i : Nat) : Page := nth {} (pageList w (seqPart w s) s n).pages i
def entryAt (w : World) (s e n i : Nat) : Prop :=
  tableEntry (listsOf w (seqPart w s) s) e = some (n, i) ∧ s < 16384 ∧ storeSorted (seq w s).lists

/-- The mode that a sequence with a token takes when it is ready for its next one (08 R209). -/
def readyMode (w : World) (s : Nat) : SeqMode := if (seq w s).token.isSome = true ∧ pfxReady w s = true then .due else .idle

/-- Every byte of a partition's shares outside the code regions is zero, but for the tier T0 frames of pages that were valid before
(09 R241). -/
def sharesScrubbed (s t : World) (p : Nat) : Prop :=
  ∀ tile ∈ pTiles (actPart s p), ∀ a, pShareBase (actPart s p) * 32 ≤ a → a < codeByte (actPart s p) →
    (∀ x ∈ poolPages s p, x.2.2.tier = 0 → x.2.2.valid = true →
      padAddr tile a < padAddr (x.2.2.frame / 256) (frameT0At s.cfg.active p x.2.2.frame) ∨
      padAddr (x.2.2.frame / 256) (frameT0At s.cfg.active p x.2.2.frame) + x.2.2.bytes.length ≤ padAddr tile a) →
    Mem.get t.tiles.scratch (padAddr tile a) = 0
/-- A context that differs at most by what the turn of a shared tile's slice does to it: its parked commands issue again, and its time off is
counted (04 R111, 09 R248). -/
def sliceOnly (a b : Ctx) : Prop :=
  a = { b with
    sb := a.sb, parked := a.parked, offSince := a.offSince, offCycles := a.offCycles, overrun := a.overrun
    stallSince := a.stallSince, stallMax := a.stallMax }
/-- Feature `i` in the oldest open interval of a sequence (08 R209). -/
def openFeat (w : World) (s i : Nat) : Feat := sGet {} (((seq w s).spans.headD []).headD []) i
/-- A partition whose share lies in its tiles and holds its code (09 Table 9.1). -/
def shareFits (w : World) (p : Nat) : Prop :=
  pCodeLen (actPart w p) ≤ pShareLen (actPart w p) ∧ (pShareBase (actPart w p) + pShareLen (actPart w p)) * 32 ≤ 327680

/-- The members that a step takes: prefix runs, then DUE sequences whose pages are fetched (09 R243; 08 R220, R224). -/
def nextMembers (w : World) (p : Nat) : List Nat :=
  (duePrefixes w p ++ (dueSeqs w p).filter (fetched w)).take (pMaxBatch (actPart w p))

/-! Host messages -/

/-- A datagram that reaches the dictionary: hosts are served, the port is enabled and up, it is sent to an address of the port and to
PDS_PORT, the form is right (11 R290 to R292). -/
def reaches (s : State) (m : HostMsg) (p : PdsMsg) : Prop :=
  hostsServed s.live = true ∧ portCarries s.live m.port = true ∧ m.dst ∈ portAddrs s.live m.port ∧
  m.dstPort.toNat = pdsPort s.live m.port ∧ parsePds m.bytes = some p

/-- The device with the datagram counted; with its session's counter, time and sender taken; with its request noted as open. -/
def arrived (s : State) (m : HostMsg) : World := onPort m.port (fun x => { x with nRx := x.nRx + 1 }) s.live
def heardFrom (s : State) (m : HostMsg) (p : PdsMsg) : World :=
  onSession p.sess (fun x => { takeCounter p.counter x with
    heard := nowNs s.live, peer := peerOf m }) (arrived s m)
def inHand (s : State) (m : HostMsg) (p : PdsMsg) : World :=
  onSession p.sess (fun x => { x with open_ := { reqId := p.reqId, shadow := bit p.flags 2, peer := peerOf m } :: x.open_ })
    (heardFrom s m p)

/-- A message of a live session whose tag and counter are good (11 R294). -/
def inSession (s : State) (m : HostMsg) (p : PdsMsg) (type : Nat) : Prop :=
  reaches s m p ∧ p.type = type ∧ (session s.live p.sess).live = true ∧ hmac (session s.live p.sess).khd p.signed = p.tag ∧
  p.counter ≤ 2 ^ 63 ∧ counterOk (session s.live p.sess) p.counter = true

/-- A new request of a session that has the role it asks; `role` 8 asks for none (11 R295, Table 11.5). -/
def newRequest (s : State) (m : HostMsg) (p : PdsMsg) (type role : Nat) : Prop :=
  inSession s m p type ∧ (session s.live p.sess).cache.find? (fun e => e.1 = p.reqId) = none ∧
  (session s.live p.sess).open_.any (fun r => r.reqId = p.reqId) = false ∧ (session s.live p.sess).open_.length < 16 ∧
  hasRole s.live p.sess role = true

/-- What services read of. -/
def servedView (s : State) : View := viewOf s.live s.served s.dieServed

/-- A die's heartbeats of an interval: posted by a core that is not lost, or not asked of a die that loads its image (14 R383). -/
def beats (w : World) (posted : BitVec 8) (d : Nat) : Bool :=
  (posted.getLsbD (2 * d) && !bit (die w d).coresLost 0) || (posted.getLsbD (2 * d + 1) && !bit (die w d).coresLost 1) ||
  decide ((die w d).state = .loading)

/-- An address of a store that a die in service has (12 R322, Table 12.2). -/
def inStore (s : State) (d : Fin 5) (store : Fin 11) (a : Nat) : Prop :=
  hasStore d store = true ∧ a < max 1 (storeSize store) ∧ dieGood (die s.live d) = true ∧ d.val < s.live.dev.dies.length

end Sys2Proof.Claims

open Sys2Proof.Claims

/-! ## The queue, time, the outcome of a step -/

/-- The step on a queue that is not empty is the front command on the state with the queue's rest. -/
def Obligations.StepRunsTheFrontCommand : Prop :=
  ∀ (s : State) (c : Instr) (rest : List Instr), s.pending = c :: rest → step s = exec c { s with pending := rest }

/-- No state stops the machine: every step answers a next state and takes exactly the front command off the queue (log 1). On an empty
queue a nanosecond passes on FRC0 to FRC3, and nothing else changes; held reset holds them at zero (log 2: the model's choice of what a
step without a command is). -/
def Obligations.EveryStepAnswersAndTakesOneCommand : Prop :=
  (∀ s : State, ∃ t, step s = .next t ∧ t.pending = s.pending.tail) ∧
  (∀ s : State, s.pending = [] →
    ∃ t, step s = .next t ∧ t = { s with live := { s.live with mer := t.live.mer } } ∧
      t.live.mer = { s.live.mer with frc0 := t.live.mer.frc0, frc1 := t.live.mer.frc1, frc2 := t.live.mer.frc2, frc3 := t.live.mer.frc3 } ∧
      (s.live.dev.inReset = true → t = s) ∧
      (s.live.dev.inReset = false → t.live.mer.frc0 = s.live.mer.frc0 + 1 ∧ t.live.mer.frc1 = s.live.mer.frc1 + 1 ∧
        t.live.mer.frc2 = s.live.mer.frc2 + 1 ∧ t.live.mer.frc3 = s.live.mer.frc3 + 1))

/-- The epoch counter (01 R21): a TICK_BOUNDARY that closes an epoch adds one, while an admitted set exists; a reset zeroes it; no other step
changes it, in any state in which a boundary that has not run belongs to a set in force; and every step keeps the states so. -/
def Obligations.EpochCountsTickBoundariesOnly : Prop :=
  ∀ s t : State, step s = .next t → (s.live.dev.boundaryDue.isSome = true → s.live.cfg.present = true) →
    (t.live.dev.boundaryDue.isSome = true → t.live.cfg.present = true) ∧
    (∀ b rest, s.pending = .powerOnReset b :: rest → t.live.dev.epoch = 0) ∧
    (∀ posted rest, s.pending = .tickBoundary posted :: rest → awake s → s.live.dev.boundaryDue.isSome = true →
      s.live.cfg.present = true ∧ t.live.dev.epoch = s.live.dev.epoch + 1) ∧
    ((∀ b rest, s.pending ≠ .powerOnReset b :: rest) →
      t.live.dev.epoch = s.live.dev.epoch ∨
      ∃ posted rest, s.pending = .tickBoundary posted :: rest ∧ s.live.dev.boundaryDue.isSome = true ∧
        t.live.dev.epoch = s.live.dev.epoch + 1)

/-- The output pins agree with the device state in the state after every step that starts from one in which they do (14 Table 14.3,
R370; 01 R15). What agreeing pins mean: OUT_LIVE, PPS_OUT and a driven TICK pin only while an active set is in force; FAULT_N high
exactly from IMAGE_WAIT on, while it is not held low, no reset is held and Bedrock has not failed. -/
def Obligations.EveryStepKeepsPinsAgreeing : Prop :=
  (∀ s t : State, pinsAgree s.live → step s = .next t → pinsAgree t.live) ∧
  (∀ w : World, pinsAgree w →
    (w.dev.outLive = true → running w.dev.state = true ∧ alive w = true) ∧
    (w.dev.ppsOut = true → running w.dev.state = true ∧ alive w = true) ∧
    (w.dev.tick0 = .high ∨ w.dev.tick1 = .high ∨ w.dev.tick2 = .high ∨ w.dev.tick3 = .high →
      running w.dev.state = true ∧ alive w = true) ∧
    (w.dev.faultN = true ↔ 3 ≤ devCode w.dev.state ∧ w.dev.faultHeld = false ∧ w.dev.inReset = false ∧ w.dev.bedrockFailed = false))

/-- What the invariants say holds at reset: pins agree with the device state, byte memories are canonical, tables are in order; reset is
held, no set exists, no session is open, every counter and the epoch are zero, OUT_LIVE and FAULT_N are low (14 R367). -/
def Obligations.ResetIsSound : Prop :=
  pinsAgree State.reset.live ∧ memoriesOk State.reset.live ∧ ordered State.reset.live ∧ State.reset.pending = [] ∧
  State.reset.live.dev.inReset = true ∧ State.reset.live.cfg = {} ∧ (∀ n, (session State.reset.live n).live = false) ∧
  (∀ n, frc State.reset.live.mer n = 0) ∧ State.reset.live.dev.epoch = 0 ∧ State.reset.live.dev.outLive = false ∧
  State.reset.live.dev.faultN = false ∧ State.reset.live.tiles.scratch = []

/-- Every step keeps the byte memories canonical: addresses rising, no byte listed that an unlisted one reads as (log 4). -/
def Obligations.EveryStepKeepsMemoriesCanonical : Prop :=
  ∀ s t : State, memoriesOk s.live → step s = .next t → memoriesOk t.live

/-- Every step keeps the keys of every table rising, so that equal tables are equal data and a read after a write gives what was written. -/
def Obligations.EveryStepKeepsTablesOrdered : Prop :=
  ∀ s t : State, ordered s.live → step s = .next t → ordered t.live

/-- After a Bedrock failure nothing resumes without a reset: however many steps run, with no POWER_ON_RESET among their commands, the
device-wide state stays as it is, OUT_LIVE and FAULT_N stay low, and nothing leaves the device (01 R15). -/
def Obligations.BedrockFailureLastsUntilReset : Prop :=
  ∀ (k : Nat) (s t : State), s.live.dev.bedrockFailed = true → s.live.dev.inReset = false → pinsAgree s.live →
    (∀ b, Instr.powerOnReset b ∉ s.pending) → Host.Core.run core k s = .next t →
    t.live.dev = s.live.dev ∧ t.live.dev.outLive = false ∧ t.live.dev.faultN = false ∧ t.live.out = s.live.out ∧
    t.live.cfg = s.live.cfg ∧ t.live.trunks = s.live.trunks ∧ t.live.halo = s.live.halo

/-- A Bedrock failure drives OUT_LIVE and FAULT_N low, queues a pinned record where its queue has room, and changes nothing else; from
then on no frame leaves and nothing resumes, however many steps run, until a POWER_ON_RESET; and the record, where it is the oldest
one, is committed by the next OBSIDIAN_COMMIT, which Obsidian's being reachable then is (01 R15; log 89). -/
def Obligations.BedrockFailureDrivesPinsLow : Prop :=
  ∀ s : State, awake s → runsTo .bedrockFailure s (fun t =>
    t.live.dev.bedrockFailed = true ∧ t.live.dev.outLive = false ∧ t.live.dev.faultN = false ∧
    (s.live.cont.obs.pinned.length < 256 →
      ∃ r, t.live.cont.obs.pinned = s.live.cont.obs.pinned ++ [r] ∧ r.type = 0x80 ∧ r.lc0 = nowNs s.live ∧ r.epoch = s.live.dev.epoch) ∧
    t = { s with live := { s.live with dev := t.live.dev, cont := t.live.cont, free := t.live.free } } ∧
    (∀ (k : Nat) (u : State), (∀ b, Instr.powerOnReset b ∉ t.pending) → Host.Core.run core k t = .next u →
      u.live.out = s.live.out ∧ u.live.dev = t.live.dev) ∧
    (s.live.cont.obs.pinned = [] → runsTo .obsidianCommit t (fun u => u.live.cont.obs.pinned = [] ∧
      u.live.cont.obs.seq = s.live.cont.obs.seq + 1 ∧ u.live.dev = t.live.dev ∧
      u = { t with live := { t.live with cont := u.live.cont } })))

/-! ## Reset and boot -/

/-- A reset zeroes the counters and the epoch, clears both sets, closes every session, empties every block and Obsidian's queues, keeps
what Obsidian has committed and the SYSTEM section, holds OUT_LIVE and FAULT_N low, and says its cause. -/
def Obligations.PowerOnResetClearsTheDevice : Prop :=
  ∀ (s : State) (viaResetN : Bool), runsTo (.powerOnReset viaResetN) s (fun t =>
    t.live.mer.frc0 = 0 ∧ t.live.mer.frc1 = 0 ∧ t.live.mer.frc2 = 0 ∧ t.live.mer.frc3 = 0 ∧ t.live.mer = {} ∧
    t.live.dev.epoch = 0 ∧ t.live.dev.inReset = true ∧ t.live.dev.bedrockFailed = false ∧ t.live.dev.outLive = false ∧
    t.live.dev.faultN = false ∧ t.live.dev.resetCause = (if viaResetN then 1 else 0) ∧
    t.live.cfg = {} ∧ t.live.link = {} ∧ t.live.tiles = {} ∧ t.live.solver = {} ∧ t.live.halo = {} ∧ t.live.serving = {} ∧
    t.live.trunks = {} ∧ t.live.cont.obs.queue = [] ∧ t.live.cont.obs.pinned = [] ∧
    t.live.cont.obs.slots = s.live.cont.obs.slots ∧ t.live.cont.obs.seq = s.live.cont.obs.seq ∧
    t.live.garnet.floorA = s.live.garnet.floorA ∧ t.live.garnet.floorB = s.live.garnet.floorB ∧
    t.live.garnet.ownerA = s.live.garnet.ownerA ∧ t.live.garnet.ownerB = s.live.garnet.ownerB ∧
    t.live.garnet.slots = s.live.garnet.slots ∧ t.live.garnet.staged = none ∧ t.live.garnet.xfer = none)

/-- From reset to IMAGE_WAIT: each command enters its state, with its LC0 instant in STARTUP_TIMES, and FAULT_N rises at IMAGE_WAIT. -/
def Obligations.BootChainEntersImageWait : Prop :=
  (∀ s : State, s.live.dev.inReset = true → runsTo .resetEnd s (fun t =>
    t.live.dev.inReset = false ∧ t.live.dev.state = .powerUp ∧ t.live.dev.faultN = false ∧
    (storeSorted s.live.dev.startupTimes → sGet 0 t.live.dev.startupTimes 1 = nowNs s.live) ∧
    t = { s with live := { s.live with dev := t.live.dev, jtag := t.live.jtag } })) ∧
  (∀ s : State, awake s → s.live.dev.state = .powerUp → runsTo .bootEntry s (fun t =>
    t.live.dev.state = .boot ∧ t.live.dev.faultN = false ∧
    t.live.garnet.seed = (if s.live.garnet.pufFail then s.live.garnet.seed
      else (reconstruct s.live.garnet.readout).or s.live.garnet.seed) ∧
    t.live.cont.obs.seq = (obsScan s.live.cont.obs).seq ∧ t.live.cont.obs.next = (obsScan s.live.cont.obs).next ∧
    (nth {} t.live.mer.frcStatus 0).locked = (decide (0 < s.live.mer.frcStatus.length)) ∧
    t = { s with live := { s.live with
      dev := t.live.dev, mer := t.live.mer, garnet := t.live.garnet, cont := t.live.cont, free := t.live.free } })) ∧
  (∀ s : State, awake s → s.live.dev.state = .boot → s.live.garnet.seed.isSome = true → s.live.garnet.rng.fail = false →
    runsTo .bootComplete s (fun t =>
      t.live.dev.state = .imageWait ∧ t.live.dev.faultN = !s.live.dev.faultHeld ∧ t.live.garnet.rng.running = true ∧
      t.live.garnet.nonce ≠ [] ∧ t.live.garnet.xfer = none ∧ t.live.garnet.seed = s.live.garnet.seed ∧
      t.live.garnet.queue = s.live.garnet.queue ∧ t.live.garnet.slots = s.live.garnet.slots ∧
      t = { s with live := { s.live with dev := t.live.dev, garnet := t.live.garnet, free := t.live.free } }))

/-- The random source (13 R350): a failed test stops it and is recorded; the test repeated a second later starts it again or counts
once more; it reseeds with fresh entropy. Nothing but the source, the records and the count of free values changes, save a nonce that
could not be drawn before. -/
def Obligations.RandomSourceFailsRetestsAndReseeds : Prop :=
  (∀ s : State, awake s → 2 ≤ devCode s.live.dev.state → runsTo .rngHealthFailure s (fun t =>
    t.live.garnet = { s.live.garnet with rng := { s.live.garnet.rng with
      fail := true, failures := s.live.garnet.rng.failures + 1, failEpoch := s.live.dev.epoch, seededAt := nowNs s.live } } ∧
    t = { s with live := { s.live with garnet := t.live.garnet, cont := t.live.cont, free := t.live.free } })) ∧
  (∀ s : State, awake s → s.live.garnet.rng.fail = true → s.live.garnet.rng.seededAt + 1000000000 ≤ nowNs s.live →
    runsTo (.rngRetest true) s (fun t =>
      t.live.garnet.rng.fail = false ∧ t.live.garnet.rng.running = true ∧
      (s.live.dev.state = .imageWait → t.live.garnet.nonce ≠ []) ∧
      (s.live.dev.state ≠ .imageWait → t.live.garnet.nonce = s.live.garnet.nonce) ∧
      t = { s with live := { s.live with garnet := t.live.garnet, free := t.live.free } }) ∧
    runsTo (.rngRetest false) s (fun t =>
      t.live.garnet.rng.fail = true ∧ t.live.garnet.rng.failures = s.live.garnet.rng.failures + 1 ∧
      t.live.garnet.rng.seededAt = nowNs s.live ∧
      t = { s with live := { s.live with garnet := t.live.garnet, cont := t.live.cont, free := t.live.free } })) ∧
  (∀ s : State, awake s → s.live.garnet.rng.running = true → s.live.garnet.rng.fail = false →
    (65536 ≤ s.live.garnet.rng.requests ∨ s.live.garnet.rng.seededAt + 1000000000 ≤ nowNs s.live) →
    runsTo .rngReseed s (fun t =>
      t.live.garnet.rng.reseeds = s.live.garnet.rng.reseeds + 1 ∧ t.live.garnet.rng.requests = 0 ∧
      t.live.garnet.rng.seededAt = nowNs s.live ∧
      (t.live.garnet.rng.key, t.live.garnet.rng.v) =
        drbgUpdate s.live.garnet.rng.key s.live.garnet.rng.v (padTo 48 (Config.entropy s.live.free)) ∧
      t = { s with live := { s.live with
        garnet := { s.live.garnet with rng := t.live.garnet.rng }, free := s.live.free + 1 } }))

/-- An ADVERT that is due leaves on a port whose link is up, with the device's identity, state, nonce and floor (14 R372, R373). -/
def Obligations.AdvertLeavesWhereDue : Prop :=
  ∀ (s : State) (p : Fin 2) (gap : Nat), awake s → advertGap s.live = some gap → (hostPort s.live p).up = true →
    (∀ at_, (if p = 0 then s.live.garnet.advert0 else s.live.garnet.advert1) = some at_ → at_ + gap ≤ nowNs s.live) →
    runsTo (.advertSend p) s (fun t =>
      t.live.out = .boot p 1 0xFFFFFFFFFFFF (if p = 0 then s.live.garnet.bootSeq0 else s.live.garnet.bootSeq1)
        (padTo (max 40 (advertBody s.live).length) (advertBody s.live)) :: s.live.out ∧
      (if p = 0 then t.live.garnet.advert0 else t.live.garnet.advert1) = some (nowNs s.live) ∧
      (hostPort t.live p).nTx = (hostPort s.live p).nTx + (if p.val < s.live.link.ports.length then 1 else 0) ∧
      t = { s with live := { s.live with garnet := t.live.garnet, link := t.live.link, out := t.live.out } })

/-- START (14 R374): with no transfer open, a length that is a multiple of 64 and at most 1,048,576, and the nonce echoed, it opens the
transfer and is acknowledged with NEXT 0 and WINDOW 65,536; otherwise it is answered BAD_START or STALE_NONCE and opens none. -/
def Obligations.StartOpensATransferOrIsAnswered : Prop :=
  ∀ (s : State) (p : Fin 2) (f : Frame), awake s → bootFrameFor s p f 2 → s.live.garnet.xfer = none →
    (beAt f.bytes 20 4 % 64 = 0 → beAt f.bytes 20 4 ≤ 1048576 → slice f.bytes 120 32 = s.live.garnet.nonce →
      runsTo (.start p f) s (fun t =>
        t.live.garnet.xfer = some { port := p, mac := bfMac f.bytes, total := beAt f.bytes 20 4, digest := slice f.bytes 24 32,
                                    auth := slice f.bytes 56 64, nonce := slice f.bytes 120 32, at_ := nowNs s.live } ∧
        t.live.garnet.nStarted = s.live.garnet.nStarted + 1 ∧
        (∃ q, t.live.out = .boot p 4 (bfMac f.bytes) q (padTo 40 (beBytes 4 0 ++ beBytes 4 65536 ++ [0])) :: s.live.out) ∧
        t = { s with live := { s.live with garnet := t.live.garnet, link := t.live.link, out := t.live.out } })) ∧
    (beAt f.bytes 20 4 % 64 ≠ 0 ∨ 1048576 < beAt f.bytes 20 4 →
      runsTo (.start p f) s (fun t => t.live.garnet.xfer = none ∧
        ∃ q v, t.live.out = .boot p 4 (bfMac f.bytes) q (padTo 40 (beBytes 8 v ++ beBytes 1 2)) :: s.live.out)) ∧
    (beAt f.bytes 20 4 % 64 = 0 → beAt f.bytes 20 4 ≤ 1048576 → slice f.bytes 120 32 ≠ s.live.garnet.nonce →
      runsTo (.start p f) s (fun t => t.live.garnet.xfer = none ∧
        ∃ q v, t.live.out = .boot p 4 (bfMac f.bytes) q (padTo 40 (beBytes 8 v ++ beBytes 1 3)) :: s.live.out))

/-- DATA (14 R374): a block that fits the open transfer is held, and the last one enters VERIFY with the bytes in order. -/
def Obligations.DataFillsTheTransfer : Prop :=
  ∀ (s : State) (p : Fin 2) (f : Frame) (x : BootXfer), awake s → bootFrameFor s p f 3 → ownTransfer s x p f →
    blockOk x (beAt f.bytes 20 4) (beAt f.bytes 24 2) = true → (sFind x.blocks (beAt f.bytes 20 4)).isNone = true →
    runsTo (.data p f) s (fun t =>
      ∃ y, t.live.garnet.xfer = some y ∧
        y.blocks = sInsert x.blocks (beAt f.bytes 20 4) (slice f.bytes 28 (beAt f.bytes 24 2)) ∧ y.at_ = nowNs s.live ∧
        y.port = x.port ∧ y.mac = x.mac ∧ y.total = x.total ∧ y.digest = x.digest ∧ y.auth = x.auth ∧ y.nonce = x.nonce ∧
        t.live.dev.state = (if nextOffset y < y.total then .imageWait else .verify) ∧
        (y.total ≤ nextOffset y → t.live.garnet.bundle = (y.blocks.map (·.2)).flatten) ∧
        t = { s with live := { s.live with
          dev := t.live.dev, garnet := t.live.garnet, link := t.live.link, out := t.live.out } })

/-- ENROL queues a record while fewer than eight wait; ABORT and a second without DATA abandon the transfer: one STATUS, and IMAGE_WAIT
again with no transfer open (14 R374, R375). -/
def Obligations.EnrolQueuesAndTransfersAreAbandoned : Prop :=
  (∀ (s : State) (p : Fin 2) (f : Frame), awake s → bootFrameFor s p f 5 → s.live.garnet.xfer = none →
    s.live.garnet.queue.length < 8 → runsTo (.enrol p f) s (fun t =>
      t.live.garnet = { s.live.garnet with
        queue := s.live.garnet.queue ++ [slice f.bytes 20 192], nQueued := s.live.garnet.nQueued + 1 } ∧
      t = { s with live := { s.live with garnet := t.live.garnet, link := t.live.link } })) ∧
  (∀ (s : State) (p : Fin 2) (f : Frame) (x : BootXfer), awake s → bootFrameFor s p f 7 → ownTransfer s x p f →
    runsTo (.abort p f) s (fun t => t.live.garnet.xfer = none ∧ t.live.dev.state = .imageWait ∧
      t.live.garnet.nAbandoned = s.live.garnet.nAbandoned + 1 ∧ t.live.garnet.queue = s.live.garnet.queue ∧
      (∃ q b, t.live.out = .boot p 6 x.mac q b :: s.live.out))) ∧
  (∀ (s : State) (x : BootXfer), awake s → s.live.dev.state = .imageWait → s.live.garnet.xfer = some x →
    x.at_ + 1000000000 ≤ nowNs s.live → runsTo .bootTransferTimeout s (fun t => t.live.garnet.xfer = none ∧
      t.live.dev.state = .imageWait ∧ t.live.garnet.nAbandoned = s.live.garnet.nAbandoned + 1 ∧
      (∃ q b, t.live.out = .boot x.port 6 x.mac q b :: s.live.out)))

/-- The verification of a boot bundle (13 R353; 14 R374, R375): OK enters DIE_LOAD with image receipt noted and the queue applied; any
other result is LAST_RESULT, discards the queue and enters IMAGE_WAIT again with a fresh nonce. One STATUS with the result, and with how
many queued records were applied and refused, goes to the sender either way. It completes in every VERIFY with its transfer. -/
def Obligations.BootVerificationDecides : Prop :=
  ∀ (s : State) (x : BootXfer), awake s → s.live.dev.state = .verify → s.live.garnet.xfer = some x →
    runsTo .bootVerifyComplete s (fun t =>
      t.live.garnet.xfer = none ∧ t.live.garnet.queue = [] ∧ t.live.garnet.lastResult = bootResult s.live x ∧
      t.live.garnet.verifyResult = bootResult s.live x ∧
      t.live.dev.state = (if bootResult s.live x = 0 then .dieLoad else .imageWait) ∧
      (∀ r, r = applyQueue (verified 0 s.live) → bootResult s.live x = 0 →
        t.live.dev.imageReceipt = x.at_ ∧ t.live.garnet.booted = s.live.garnet.bundle ∧ t.live.garnet.bank = 0 ∧
        t.live.garnet.ownerA = r.2.2.garnet.ownerA ∧ t.live.garnet.ownerB = r.2.2.garnet.ownerB ∧
        t.live.garnet.slots = r.2.2.garnet.slots ∧
        (∃ q b, t.live.out = .boot x.port 6 x.mac q b :: s.live.out ∧
          b.take 3 = beBytes 1 0 ++ beBytes 1 r.1 ++ beBytes 1 r.2.1)) ∧
      (bootResult s.live x ≠ 0 → t.live.garnet.nVerifyFail = s.live.garnet.nVerifyFail + 1 ∧
        t.live.garnet.slots = s.live.garnet.slots ∧ t.live.garnet.ownerA = s.live.garnet.ownerA ∧
        t.live.garnet.ownerB = s.live.garnet.ownerB ∧ (s.live.garnet.rng.running = true → s.live.garnet.rng.fail = false →
          t.live.garnet.nonce ≠ []) ∧
        (∃ q b, t.live.out = .boot x.port 6 x.mac q b :: s.live.out ∧
          b.take 3 = beBytes 1 (bootResult s.live x) ++ beBytes 1 0 ++ beBytes 1 0)) ∧
      t.live.garnet.floorA = s.live.garnet.floorA ∧ t.live.garnet.floorB = s.live.garnet.floorB ∧
      t = { s with live := { s.live with dev := t.live.dev, mer := t.live.mer, garnet := t.live.garnet, cont := t.live.cont
                                         link := t.live.link, out := t.live.out, free := t.live.free } })

/-- DIE_LOAD, SELFTEST and TIME_ACQUIRE end (14 R376 to R381): what failed is EXCLUDED with cause SELFTEST; with three good dies and
Bedrock good TIME_ACQUIRE is entered; with fewer dies SELFTEST holds with FAULT_N low. READY_QUIET begins duplicate address detection on
the link-local address of each port that carries frames (11 Table 11.1; log 93). -/
def Obligations.StartUpEndsInReadyQuiet : Prop :=
  (∀ (s : State) (failed : BitVec 4), awake s → s.live.dev.state = .dieLoad → s.live.garnet.trimValid = true →
    5 ≤ s.live.dev.dies.length → runsTo (.dieLoadDone failed) s (fun t => t.live.dev.state = .selftest ∧
      (∀ d : Fin 4, if failed.getLsbD d then (die t.live d).state = .excluded ∧ (die t.live d).cause = 7
        else (die t.live d).loaded = true ∧ (die t.live d).image = imageOf s.live.garnet.booted d ∧
          (die t.live d).state = (die s.live d).state) ∧
      t = { s with live := { s.live with dev := t.live.dev } })) ∧
  (∀ (s : State) (failed : List (BitVec 11)) (pf : BitVec 18), awake s → s.live.dev.state = .selftest →
    s.live.dev.faultHeld = false → 5 ≤ s.live.dev.dies.length → bedrockUnfit (nth 0 failed 4).toNat pf = false →
    runsTo (.selftestComplete failed pf) s (fun t =>
      (∀ d : Fin 4, dieGood (die s.live d) = true → (nth 0 failed d).toNat % 256 ≠ 0 →
        (die t.live d).state = .excluded ∧ (die t.live d).cause = 7 ∧ (die t.live d).testFailed = (nth 0 failed d).toNat % 256) ∧
      (∀ d : Fin 4, (nth 0 failed d).toNat % 256 = 0 → die t.live d = die s.live d) ∧
      t.live.dev.state = (if 3 ≤ (goodDies t.live).length then .timeAcquire else .selftest) ∧
      t.live.dev.faultN = decide (3 ≤ (goodDies t.live).length) ∧ t.live.dev.portFailed = pf ∧
      t = { s with live := { s.live with
        dev := t.live.dev, cont := t.live.cont, free := t.live.free
        garnet := { s.live.garnet with advert0 := t.live.garnet.advert0, advert1 := t.live.garnet.advert1 } } })) ∧
  (∀ s : State, awake s → s.live.dev.state = .timeAcquire →
    (acquisitionOver s.live = true ∨ sGet 0 s.live.dev.startupTimes 7 + 400000000 ≤ nowNs s.live) →
    runsTo .timeAcquireEnd s (fun t => t.live.dev.state = .readyQuiet ∧ t.live.dev.outLive = false ∧
      (∀ p : Fin 2, p.val < s.live.link.ports.length → portCarries s.live p = true → linkLocal p ≠ 0 →
        (linkLocal p, nowNs s.live) ∈ (hostPort t.live p).detecting ∧ .neighborSolicit p (linkLocal p) ∈ t.live.out) ∧
      t = { s with live := { s.live with dev := t.live.dev, link := t.live.link, out := t.live.out } }))

/-! ## Counters and clocks -/

/-- FRC1 to FRC3 go into holdover and come back (02 R32); FRC0 has none (02 R33). No counter is stepped. -/
def Obligations.CountersHoldOverAndRelock : Prop :=
  (∀ (s : State) (n : Fin 4), awake s → n ≠ 0 → n.val < s.live.mer.frcStatus.length →
    (nth {} s.live.mer.frcStatus n).holdover = false → runsTo (.frcHoldover n) s (fun t =>
      nth {} t.live.mer.frcStatus n = { nth {} s.live.mer.frcStatus n with locked := false, holdover := true } ∧
      (∀ k, k ≠ n.val → nth {} t.live.mer.frcStatus k = nth {} s.live.mer.frcStatus k) ∧
      t.live.mer = { s.live.mer with frcStatus := t.live.mer.frcStatus } ∧
      t = { s with live := { s.live with mer := t.live.mer, cont := t.live.cont, free := t.live.free } })) ∧
  (∀ s : State, awake s → runsTo (.frcHoldover 0) s (fun t => t = s)) ∧
  (∀ (s : State) (n : Fin 4), awake s → n.val < s.live.mer.frcStatus.length → runsTo (.frcRelock n) s (fun t =>
      nth {} t.live.mer.frcStatus n = { present := true, locked := true, holdover := false, relocked :=
        (nth {} s.live.mer.frcStatus n).relocked || (nth {} s.live.mer.frcStatus n).holdover } ∧
      (∀ k, k ≠ n.val → nth {} t.live.mer.frcStatus k = nth {} s.live.mer.frcStatus k) ∧
      t.live.mer = { s.live.mer with frcStatus := t.live.mer.frcStatus } ∧
      t = { s with live := { s.live with mer := t.live.mer } }))

/-- LC3's effective rate moves by at most 0.01 ppm in one ramp step, and its value does not jump (02 R41); no step comes within 10 ms of
the last; where no correction is in progress the rate goes toward its target. A correction that has been consumed ends with a rebase that
leaves the clock's value and rate (02 R35, R38); on LC3 only the last step of its slew term ends it, 10 ms after the change before. -/
def Obligations.RatesAndCorrectionsMoveWithoutJumps : Prop :=
  (∀ s : State, awake s → runsTo .lc3RampStep s (fun t =>
    (((lcAt t.live.mer 3).rate + (lcAt t.live.mer 3).slew) - ((lcAt s.live.mer 3).rate + (lcAt s.live.mer 3).slew)).natAbs ≤ 2814749 ∧
    lcNow t.live 3 = lcNow s.live 3 ∧ (∀ k, k ≠ 3 → lcAt t.live.mer k = lcAt s.live.mer k) ∧
    t.live.mer = { s.live.mer with clocks := t.live.mer.clocks } ∧
    t = { s with live := { s.live with
      mer := t.live.mer, cfg := { s.live.cfg with active := t.live.cfg.active } } })) ∧
  (∀ s : State, awake s → nowNs s.live < (lcAt s.live.mer 3).lastChange + 10000000 → runsTo .lc3RampStep s (fun t => t = s)) ∧
  (∀ s : State, awake s → (lcAt s.live.mer 3).lastChange + 10000000 ≤ nowNs s.live → 3 < s.live.mer.clocks.length →
    (lcAt s.live.mer 3).rate ≠ (lcAt s.live.mer 3).rateTarget → (lcAt s.live.mer 3).slew = 0 → (lcAt s.live.mer 3).remainder = 0 →
    ((lcAt s.live.mer 3).rateTarget.natAbs : Int) ≤ rateLimit →
    runsTo .lc3RampStep s (fun t =>
      (lcAt t.live.mer 3).rate = (if (lcAt s.live.mer 3).rate < (lcAt s.live.mer 3).rateTarget
        then min (lcAt s.live.mer 3).rateTarget ((lcAt s.live.mer 3).rate + 2814749)
        else max (lcAt s.live.mer 3).rateTarget ((lcAt s.live.mer 3).rate - 2814749)) ∧
      (lcAt t.live.mer 3).lastChange = nowNs s.live)) ∧
  (∀ (s : State) (n : Fin 16), awake s → n ≠ 0 → n.val < s.live.mer.clocks.length → (lcAt s.live.mer n).remainder ≠ 0 →
    (n = 3 → (lcAt s.live.mer 3).slew.natAbs ≤ 2814749 ∧
      ((lcAt s.live.mer 3).slew = 0 ∨ (lcAt s.live.mer 3).lastChange + 10000000 ≤ nowNs s.live)) →
    (lcRemainder s.live.mer (lcAt s.live.mer n) = 0 ∨
      (0 < (lcAt s.live.mer n).remainder ∧ lcRemainder s.live.mer (lcAt s.live.mer n) < 0) ∨
      ((lcAt s.live.mer n).remainder < 0 ∧ 0 < lcRemainder s.live.mer (lcAt s.live.mer n))) →
    runsTo (.slewComplete n) s (fun t =>
      lcNow t.live n = lcNow s.live n ∧ (lcAt t.live.mer n).slew = 0 ∧
      (lcAt t.live.mer n).remainder = (if n = 3 then lcRemainder s.live.mer (lcAt s.live.mer 3) else 0) ∧
      (lcAt t.live.mer n).slewing = decide ((lcAt t.live.mer n).remainder ≠ 0) ∧
      (n ≠ 3 → (lcAt t.live.mer n).slewLimited = false) ∧
      (lcAt t.live.mer n).rate = (lcAt s.live.mer n).rate ∧ (lcAt t.live.mer n).source = (lcAt s.live.mer n).source ∧
      (∀ k, k ≠ n.val → lcAt t.live.mer k = lcAt s.live.mer k) ∧
      t.live.mer = { s.live.mer with clocks := t.live.mer.clocks } ∧ t = { s with live := { s.live with mer := t.live.mer } }))

/-- Every 125 ms LC3 is compared with the clock that LC3_TRACK names: further away than its JUMP_THRESHOLD it sets TRACK_FAR and asks for
nothing, within it the difference becomes the remainder of a correction; its value does not jump; its rate target is the reference's own
rate since the last comparison with it (log 15: the model's choice); a reference in HOLD suspends it (02 R41). 0xFF follows none. -/
def Obligations.Lc3FollowsItsReference : Prop :=
  (∀ (s : State) (r : Nat), awake s → leNat (actObj s.live 0x2015 1 3) = r → r < 16 → r ≠ 3 → 3 < s.live.mer.clocks.length →
    (∀ a p, s.live.mer.trackAt = some (a, p) → a + 125000000 ≤ nowNs s.live) → (lcAt s.live.mer r).hold = false →
    runsTo .lc3TrackCompare s (fun t =>
      t.live.mer.trackAt = some (nowNs s.live, r, lcNow s.live r) ∧ lcNow t.live 3 = lcNow s.live 3 ∧
      (lcAt t.live.mer 3).trackFar = decide (((lcJumpThreshold (lcRec s.live 3) * 65536 : Nat) : Int) <
        ((lcNow s.live r - lcNow s.live 3).natAbs : Int)) ∧
      ((lcAt t.live.mer 3).trackFar = true → (lcAt t.live.mer 3).remainder = (lcAt s.live.mer 3).remainder) ∧
      ((lcAt t.live.mer 3).trackFar = false → lcRemainder s.live.mer (lcAt s.live.mer 3) = 0 →
        (lcAt t.live.mer 3).remainder = lcNow s.live r - lcNow s.live 3) ∧
      (∀ a v, s.live.mer.trackAt = some (a, r, v) → (lcAt t.live.mer 3).rateTarget = max (-rateLimit) (min rateLimit
        (((lcNow s.live r - v) - ((nowNs s.live - a) * 65536 : Nat)) * 2 ^ 48 / ((nowNs s.live - a) * 65536 : Nat)))) ∧
      (∀ k, k ≠ 3 → lcAt t.live.mer k = lcAt s.live.mer k) ∧
      t.live.mer = { s.live.mer with clocks := t.live.mer.clocks, trackAt := t.live.mer.trackAt } ∧
      t = { s with live := { s.live with mer := t.live.mer, cont := t.live.cont, free := t.live.free } })) ∧
  (∀ (s : State) (r : Nat), awake s → leNat (actObj s.live 0x2015 1 3) = r → r < 16 → r ≠ 3 → (lcAt s.live.mer r).hold = true →
    runsTo .lc3TrackCompare s (fun t => t.live.mer.clocks = s.live.mer.clocks ∧
      t = { s with live := { s.live with mer := { s.live.mer with trackAt := t.live.mer.trackAt } } })) ∧
  (∀ s : State, awake s → leNat (actObj s.live 0x2015 1 3) = 0xFF → runsTo .lc3TrackCompare s (fun t => t = s))

/-- What a supported Sync measures: its receive stamp less its origin and the path delay (02 R42, R43). -/
def Sys2Proof.Claims.syncOffset (s : State) (p : Fin 2) (origin : Int) (frac : BitVec 16) : Int :=
  lcNow s.live (p.val + 1) frac.toNat - origin - (nth {} s.live.mer.ptp p).pathDelay

/-- A Sync that the port supports (02 Table 2.7). -/
def Sys2Proof.Claims.syncOk (s : State) (p : Fin 2) (h : PtpHeader) : Bool :=
  ptpHeaderOk p h s.live && decide (-7 ≤ h.logInterval ∧ h.logInterval ≤ 0)

/-- PTP on a host port (02 R42, R43; 14 R380, R381; log 16): a supported Sync gives the offset, ends GM_LOST, moves the lock run, sets the
rate of a clock it writes (what rate, the part's servo says), and clocks that hold only count the correction they ignore; the first in
TIME_ACQUIRE steps the port's clock; Announce selects the grandmaster; an exchange that completes measures the delay; an interval request
is honoured; a grandmaster that is silent for the receipt timeout leaves the clocks as they run; what is not supported is only counted. -/
def Obligations.PtpMeasuresAndLocks : Prop :=
  (∀ (s : State) (p : Fin 2) (h : PtpHeader) (origin : Int), awake s → 7 ≤ devCode s.live.dev.state →
    p.val < s.live.mer.ptp.length → syncOk s p h = true →
    ¬(s.live.dev.state = .timeAcquire ∧ (nth {} s.live.mer.ptp p).acquired = false) →
    runsTo (.ptpSyncReceive p h origin) s (fun t =>
      (nth {} t.live.mer.ptp p).offset = syncOffset s p origin h.frac ∧ (nth {} t.live.mer.ptp p).gmLost = false ∧
      (nth {} t.live.mer.ptp p).lastHeard = nowNs s.live ∧
      (nth {} t.live.mer.ptp p).received = (nth {} s.live.mer.ptp p).received + 1 ∧
      (nth {} t.live.mer.ptp p).lockRun =
        (if (syncOffset s p origin h.frac).natAbs < lockThreshold p s.live then (nth {} s.live.mer.ptp p).lockRun + 1 else 0) ∧
      (nth {} t.live.mer.ptp p).locked = decide (16 ≤ (nth {} t.live.mer.ptp p).lockRun) ∧
      (∀ k, k ≠ p.val → nth {} t.live.mer.ptp k = nth {} s.live.mer.ptp k) ∧
      (∀ n, lcWriter n (lcRec s.live n) ≠ p.val + 1 → lcAt t.live.mer n = lcAt s.live.mer n) ∧
      (∀ n, n < 16 → n < s.live.mer.clocks.length → lcWriter n (lcRec s.live n) = p.val + 1 → (lcAt s.live.mer n).hold = true →
        lcAt t.live.mer n = { lcAt s.live.mer n with ignored := (lcAt s.live.mer n).ignored + 1 }) ∧
      (∀ n, n < 16 → n < s.live.mer.clocks.length → lcWriter n (lcRec s.live n) = p.val + 1 → (lcAt s.live.mer n).hold = false →
        (∀ k, k < 16 → k ≠ n → lcWriter k (lcRec s.live k) ≠ p.val + 1) →
        ∀ o, o = Config.ptpServo (actObj s.live 0x2202 0 p) (nth {} s.live.mer.ptp p).integ (syncOffset s p origin h.frac) →
        (nth {} t.live.mer.ptp p).integ = o.2.2 ∧
        (lcAt t.live.mer n).rate = (if jumpTooFar n o.1 s.live = true then (lcAt s.live.mer n).rate
          else max (-rateLimit) (min rateLimit o.2.1))) ∧
      t = { s with live := { s.live with
        mer := t.live.mer, cfg := { s.live.cfg with active := t.live.cfg.active }, cont := t.live.cont, free := t.live.free } })) ∧
  (∀ (s : State) (p : Fin 2) (h : PtpHeader) (origin : Int), awake s → s.live.dev.state = .timeAcquire →
    p.val < s.live.mer.ptp.length → p.val + 1 < s.live.mer.clocks.length → (nth {} s.live.mer.ptp p).acquired = false →
    (nth {} s.live.mer.ptp p).acqSteps = 0 → syncOk s p h = true →
    runsTo (.ptpSyncReceive p h origin) s (fun t =>
      lcNow t.live (p.val + 1) = lcNow s.live (p.val + 1) - syncOffset s p origin h.frac ∧ (nth {} t.live.mer.ptp p).acqSteps = 1 ∧
      (∀ n, n ≠ p.val + 1 → lcAt t.live.mer n = lcAt s.live.mer n) ∧
      t = { s with live := { s.live with mer := t.live.mer, cont := t.live.cont, free := t.live.free } })) ∧
  (∀ (s : State) (p : Fin 2) (h : PtpHeader) (origin : Int), awake s → 7 ≤ devCode s.live.dev.state →
    p.val < s.live.mer.ptp.length → syncOk s p h = false → runsTo (.ptpSyncReceive p h origin) s (fun t =>
      nth {} t.live.mer.ptp p = { nth {} s.live.mer.ptp p with
        received := (nth {} s.live.mer.ptp p).received + 1, discarded := (nth {} s.live.mer.ptp p).discarded + 1 } ∧
      t = { s with live := { s.live with mer := { s.live.mer with ptp := t.live.mer.ptp } } })) ∧
  (∀ (s : State) (p : Fin 2) (h : PtpHeader) (a : AnnounceData), awake s → 7 ≤ devCode s.live.dev.state →
    p.val < s.live.mer.ptp.length → ptpHeaderOk p h s.live = true → runsTo (.ptpAnnounceReceive p ⟨h, a⟩) s (fun t =>
      (∀ g, (nth {} t.live.mer.ptp p).gm = some g → (nth {} s.live.mer.ptp p).gm = some g ∨ g = a) ∧
      ((nth {} s.live.mer.ptp p).gm = none → (nth {} t.live.mer.ptp p).gm = some a) ∧
      (∀ g, (nth {} s.live.mer.ptp p).gm = some g → g.identity ≠ a.identity → announceKey g ≤ announceKey a →
        (nth {} t.live.mer.ptp p).gm = some g) ∧
      (∀ g, (nth {} s.live.mer.ptp p).gm = some g → announceKey a < announceKey g → (nth {} t.live.mer.ptp p).gm = some a) ∧
      (nth {} t.live.mer.ptp p).lastHeard = nowNs s.live ∧
      t = { s with live := { s.live with mer := { s.live.mer with ptp := t.live.mer.ptp } } })) ∧
  (∀ (s : State) (p : Fin 2) (h : PtpHeader) (m : PtpOther), awake s → 7 ≤ devCode s.live.dev.state →
    p.val < s.live.mer.ptp.length → ptpHeaderOk p h s.live = true → ptpOtherOk p m s.live = true →
    runsTo (.ptpDelayMessageReceive p h m) s (fun t =>
      nth {} t.live.mer.ptp p = (match m with
        | .pdelayResp t1 t2 t3 => { nth {} s.live.mer.ptp p with
            pathDelay := ((lcNow s.live (p.val + 1) h.frac.toNat - t1) - (t3 - t2)) / 2, received := (nth {} s.live.mer.ptp p).received + 1 }
        | .delayResp t3 t4 => { nth {} s.live.mer.ptp p with
            pathDelay := (((nth {} s.live.mer.ptp p).syncT2 - (nth {} s.live.mer.ptp p).syncT1) + (t4 - t3)) / 2
            received := (nth {} s.live.mer.ptp p).received + 1 }
        | .intervalRequest link sync ann => { nth {} s.live.mer.ptp p with
            logPdelay := askedInterval (nth {} s.live.mer.ptp p).logPdelay link
            logSync := askedInterval (nth {} s.live.mer.ptp p).logSync sync
            logAnnounce := askedInterval (nth {} s.live.mer.ptp p).logAnnounce ann
            received := (nth {} s.live.mer.ptp p).received + 1 }
        | _ => { nth {} s.live.mer.ptp p with received := (nth {} s.live.mer.ptp p).received + 1 }) ∧
      t = { s with live := { s.live with mer := { s.live.mer with ptp := t.live.mer.ptp } } })) ∧
  (∀ (s : State) (p : Fin 2), awake s → 7 ≤ devCode s.live.dev.state → p.val < s.live.mer.ptp.length →
    (nth {} s.live.mer.ptp p).lastHeard + (Config.announceTimeout p).toNat ≤ nowNs s.live → runsTo (.announceReceiptTimeout p) s (fun t =>
      nth {} t.live.mer.ptp p = { nth {} s.live.mer.ptp p with gmLost := true, gm := none } ∧
      t = { s with live := { s.live with mer := { s.live.mer with ptp := t.live.mer.ptp } } }))

/-- A Sync that the port sends as master carries the clock at egress, and a frame check sequence over what it then holds (02 R43, R45; the
rest of the frame: log 91); PPS_IN is stamped in every counter and clock, and discarded where it comes more than a millisecond from a
second after the last accepted edge; PPS_OUT rises at the whole second of its clock and falls after its width, each within 4 ns (02
R46). -/
def Obligations.SyncsAndPulsesPerSecond : Prop :=
  (∀ (s : State) (p : Fin 2) (egress : Nat), awake s → 7 ≤ devCode s.live.dev.state → p.val < s.live.mer.ptp.length →
    ptpMaster p s.live = true → runsTo (.ptpSyncTransmit p egress) s (fun t =>
      (∃ o c f, t.live.out = .ptp p f (frameCheck f) :: s.live.out ∧ f = ptpSyncFrame s.live p o c (nth {} s.live.mer.ptp p) ∧
        o = lcNow s.live (p.val + 1) / 65536 ∧ o * 65536 + c = lcNow s.live (p.val + 1) egress) ∧
      (nth {} t.live.mer.ptp p).syncSeq = ((nth {} s.live.mer.ptp p).syncSeq + 1) % 65536 ∧
      t = { s with live := { s.live with mer := { s.live.mer with ptp := t.live.mer.ptp }, out := t.live.out } })) ∧
  (∀ (w : World) (p : Nat) (o c : Int) (q : Ptp), beAt (ptpSyncFrame w p o c q) 22 8 = unsigned 64 c % 2 ^ 64 ∧
    beAt (ptpSyncFrame w p o c q) 48 6 = o.toNat / 1000000000 % 2 ^ 48 ∧
    beAt (ptpSyncFrame w p o c q) 54 4 = o.toNat % 1000000000 ∧ (ptpSyncFrame w p o c q).length = 58) ∧
  (∀ (s : State) (frac : BitVec 16), awake s → runsTo (.ppsInEdge frac) s (fun t =>
      t.live.mer.ppsFrc = (upTo 4).map (fun n => frc s.live.mer n * 65536 + frac.toNat) ∧
      (∀ n, n < 16 → nth 0 t.live.mer.ppsLc n = lcNow s.live n frac.toNat) ∧
      ((∃ l, s.live.mer.ppsLast = some l ∧
          1000000 * 65536 < ((now16 s.live frac.toNat : Int) - l - 1000000000 * 65536).natAbs) →
        t.live.mer.ppsRejected = s.live.mer.ppsRejected + 1 ∧ t.live.mer.ppsLast = s.live.mer.ppsLast ∧
        t.live.mer.clocks = s.live.mer.clocks) ∧
      ((∀ l, s.live.mer.ppsLast = some l →
          ((now16 s.live frac.toNat : Int) - l - 1000000000 * 65536).natAbs ≤ 1000000 * 65536) →
        t.live.mer.ppsRejected = s.live.mer.ppsRejected ∧ t.live.mer.ppsLast = some (now16 s.live frac.toNat) ∧
        (∀ n, lcWriter n (lcRec s.live n) ≠ 4 → lcAt t.live.mer n = lcAt s.live.mer n)) ∧
      t = { s with live := { s.live with
        mer := t.live.mer, cfg := { s.live.cfg with active := t.live.cfg.active }, cont := t.live.cont, free := t.live.free } })) ∧
  (∀ s : State, awake s → running s.live.dev.state = true → s.live.cfg.present = true →
    hasObj s.live.cfg.active 0x2021 0 0 = true →
    (((lcNow s.live (beAt (actObj s.live 0x2021 0 0) 0 1 % 16) -
      roundDiv (lcNow s.live (beAt (actObj s.live 0x2021 0 0) 0 1 % 16)) 65536000000000 * 65536000000000).natAbs : Int) ≤ 4 * 65536) →
    runsTo .ppsOutPulse s (fun t => t.live.dev.ppsOut = true ∧ t.live.dev = { s.live.dev with ppsOut := true } ∧
      (storeSorted s.live.mer.pulseEnd →
        sFind t.live.mer.pulseEnd 4 = some (now16 s.live + beAt (actObj s.live 0x2021 0 0) 1 4 * 65536)) ∧
      t = { s with live := { s.live with dev := t.live.dev, mer := { s.live.mer with pulseEnd := t.live.mer.pulseEnd } } })) ∧
  (∀ (s : State) (e : Nat), awake s → sFind s.live.mer.pulseEnd 4 = some e → e ≤ now16 s.live + 4 * 65536 → runsTo .ppsOutPulseEnd s (fun t =>
    t.live.dev = { s.live.dev with ppsOut := false } ∧
    (storeSorted s.live.mer.pulseEnd → sFind t.live.mer.pulseEnd 4 = none) ∧
    t = { s with live := { s.live with dev := t.live.dev, mer := { s.live.mer with pulseEnd := t.live.mer.pulseEnd } } }))

/-! ## Angle trackers and ticks -/

/-- An accepted encoder edge moves the level and counts one, up where A leads B, on every tracker in ENCODER mode on the input (02 R417:
A's edge counts up where its new level differs from B's, B's where it equals A's); an edge to the level that stands is none. A Z pulse
aligns a VALID tracker to PHASE the first time, and afterwards only marks a mismatch of more than two counts. -/
def Obligations.EncoderEdgesAndZPulsesCount : Prop :=
  (∀ (s : State) (enc : Fin 4) (pinB rising : Bool) (frac : BitVec 16), awake s → s.live.mer.trackers.length = 8 →
    s.live.dev.encPins.getLsbD (2 * enc.val + b2n pinB) ≠ rising → runsTo (.encoderEdge enc ⟨pinB, rising⟩ frac) s (fun t =>
      (∀ i, i < 8 → t.live.dev.encPins.getLsbD i = if i = 2 * enc.val + b2n pinB then rising else s.live.dev.encPins.getLsbD i) ∧
      (∀ k, k ∈ encTrackers s.live enc → ∀ fwd : Bool,
        (fwd = true ↔ if pinB then rising = s.live.dev.encPins.getLsbD (2 * enc.val)
                      else rising ≠ s.live.dev.encPins.getLsbD (2 * enc.val + 1)) →
        (tracker t.live k).count = (tracker s.live k).count + (if fwd then 1 else -1) ∧
        (tracker t.live k).edgeAt = some (now16 s.live frac.toNat) ∧ (tracker t.live k).edgeFwd = fwd ∧
        (tracker t.live k).edgeGap = (tracker s.live k).edgeAt.map (fun e => now16 s.live frac.toNat - e) ∧
        (tracker t.live k).edgeRun = (if (tracker s.live k).edgeFwd = fwd then (tracker s.live k).edgeRun + 1 else 1) ∧
        (tracker t.live k).tickCount = (tracker s.live k).tickCount ∧ (tracker t.live k).mode = (tracker s.live k).mode) ∧
      (∀ k, k ∉ encTrackers s.live enc → tracker t.live k = tracker s.live k) ∧
      t = { s with live := { s.live with
        dev := { s.live.dev with encPins := t.live.dev.encPins }, mer := { s.live.mer with trackers := t.live.mer.trackers } } })) ∧
  (∀ (s : State) (enc : Fin 4) (pinB : Bool) (frac : BitVec 16), awake s →
    runsTo (.encoderEdge enc ⟨pinB, s.live.dev.encPins.getLsbD (2 * enc.val + b2n pinB)⟩ frac) s (fun t => t = s)) ∧
  (∀ (s : State) (enc : Fin 4), awake s → s.live.mer.trackers.length = 8 → runsTo (.encoderZPulse enc) s (fun t =>
    (∀ k, k ∈ encTrackers s.live enc → atZEn (atRec s.live k) = true →
      (tracker t.live k).zSeen = true ∧
      ((tracker s.live k).mode ≠ .valid → tracker t.live k = { tracker s.live k with zSeen := true }) ∧
      ((tracker s.live k).mode = .valid → (tracker s.live k).zAligned = false →
        (tracker t.live k).zAligned = true ∧ (tracker t.live k).base = atPhase (atRec s.live k) ∧ (tracker t.live k).count = 0 ∧
        countedTheta (atRec s.live k) (tracker t.live k) = atPhase (atRec s.live k) ∧ (tracker t.live k).mode = .valid ∧
        (tracker t.live k).lastB = (tracker s.live k).lastB ∧ (tracker t.live k).tickCount = (tracker s.live k).tickCount) ∧
      ((tracker s.live k).mode = .valid → (tracker s.live k).zAligned = true →
        (tracker t.live k).count = (tracker s.live k).count ∧
        (tracker t.live k).zMismatches = (tracker s.live k).zMismatches +
          (if 2 < (tracker s.live k).count % (4 * atLines (atRec s.live k) : Nat) ∧
              (tracker s.live k).count % (4 * atLines (atRec s.live k) : Nat) < (4 * atLines (atRec s.live k) : Nat) - 2 then 1 else 0))) ∧
    (∀ k, k ∉ encTrackers s.live enc ∨ atZEn (atRec s.live k) = false → tracker t.live k = tracker s.live k) ∧
    t = { s with live := { s.live with mer := { s.live.mer with trackers := t.live.mer.trackers } } }))

/-- A VALID tracker that is slower than ω_min, whose source is lost, or whose encoder's A and B have changed together, goes on from the
same θ in FALLBACK with its last ω noted (02 Table 2.10, R48, R49); any other stays VALID. It becomes VALID again after RESUME_TICKS good
ticks, at the measured θ. Either way the switch is counted and marks the epoch; a tracker that only acquires counts none. -/
def Obligations.TrackersFallBackAndReturn : Prop :=
  (∀ (s : State) (k : Fin 8) (together : Bool), awake s → k.val < s.live.mer.trackers.length → (tracker s.live k).mode = .valid →
    atMode (atRec s.live k) ≠ 4 →
    (lt32 (omegaNow s.live k &&& 0x7FFFFFFF) (atOmegaMin (atRec s.live k)) = true ∨ sourceGood s.live k (now16 s.live) = false ∨
      (atMode (atRec s.live k) = 1 ∧ together = true)) → runsTo (.trackerFallback ⟨k, together⟩) s (fun t =>
      (tracker t.live k).mode = .fallback ∧ thetaAt t.live k = thetaAt s.live k ∧
      (tracker t.live k).validOmega = omegaNow s.live k ∧
      (tracker t.live k).switches = (tracker s.live k).switches + 1 ∧ (tracker t.live k).switched = true ∧
      (tracker t.live k).goodTicks = 0 ∧ (tracker t.live k).delayed = (tracker s.live k).delayed ∧
      (tracker t.live k).tickCount = (tracker s.live k).tickCount ∧ (tracker t.live k).lastB = (tracker s.live k).lastB ∧
      t.live.dev = { s.live.dev with pendFallback := true } ∧ (∀ j, j ≠ k.val → tracker t.live j = tracker s.live j) ∧
      t = { s with live := { s.live with
        dev := t.live.dev, mer := { s.live.mer with trackers := t.live.mer.trackers }, cont := t.live.cont, free := t.live.free } })) ∧
  (∀ (s : State) (k : Fin 8) (together : Bool), awake s →
    ((tracker s.live k).mode ≠ .valid ∨ atMode (atRec s.live k) = 4 ∨
      (lt32 (omegaNow s.live k &&& 0x7FFFFFFF) (atOmegaMin (atRec s.live k)) = false ∧ sourceGood s.live k (now16 s.live) = true ∧
        (atMode (atRec s.live k) = 1 → together = false))) → runsTo (.trackerFallback ⟨k, together⟩) s (fun t => t = s)) ∧
  (∀ (s : State) (k : Fin 8) (fromFallback : Bool) (frac : BitVec 16), awake s → k.val < s.live.mer.trackers.length →
    (tracker s.live k).mode = (if fromFallback then .fallback else .acquiring) → atMode (atRec s.live k) ≠ 4 →
    atResume (atRec s.live k) ≤ (tracker s.live k).goodTicks → runsTo (.trackerResumeValid k fromFallback frac) s (fun t =>
      (tracker t.live k).mode = .valid ∧ (tracker t.live k).wasValid = true ∧ (tracker t.live k).zAligned = false ∧
      (tracker t.live k).tickCount = (tracker s.live k).tickCount ∧ (tracker t.live k).sinceBack = true ∧
      (tracker t.live k).validOmega = measuredOmega (atRec s.live k) (tracker s.live k) (now16 s.live frac.toNat) ∧
      (tracker t.live k).omega = (tracker t.live k).validOmega ∧
      (atMode (atRec s.live k) = 1 → (tracker t.live k).theta = countedTheta (atRec s.live k) (tracker s.live k) ∧
        (tracker t.live k).thetaAt = now16 s.live frac.toNat) ∧
      (atMode (atRec s.live k) ≠ 1 → (tracker t.live k).theta = dirAngle (atRec s.live k) (tracker s.live k).mTheta ∧
        (tracker t.live k).thetaAt = (tracker s.live k).mAt) ∧
      (fromFallback = true → (tracker t.live k).switches = (tracker s.live k).switches + 1 ∧
        t.live.dev = { s.live.dev with pendFallback := true }) ∧
      (fromFallback = false → (tracker t.live k).switches = (tracker s.live k).switches ∧ t.live.dev = s.live.dev) ∧
      (∀ j, j ≠ k.val → tracker t.live j = tracker s.live j) ∧
      t = { s with live := { s.live with
        dev := t.live.dev, mer := { s.live.mer with trackers := t.live.mer.trackers }, cont := t.live.cont, free := t.live.free } }))

/-- A tick (02 R50 to R52, R49; 01 R20): a crossing whose instant comes T_min or later after the last tick is one, with its boundary,
direction and stamp; a sooner one waits, and a further one is skipped; right after a switch-back a sooner one passes; the delayed tick is
that of the boundary that caused it, T_min after the last tick; a command that names another boundary is none of these and changes nothing
(the model's own reading, log 1); the fallback generator makes one each fallback interval. A tick of the
epoch tracker is a tick boundary, stamped in LC0 and LC3. An edge that is due drives its TICK pin active, by POL, until WIDTH has passed
(R53). -/
def Obligations.TicksAndTheirPulses : Prop :=
  (∀ (s : State) (k : Fin 8) (fwd : Bool) (frac : BitVec 16) (c : Fin 32768) (b stamp : Nat) (u : Int), awake s →
    k.val < s.live.mer.trackers.length → (tracker s.live k).mode = .valid → c.val = crossedB (atRec s.live k) (tracker s.live k) fwd → hasReached s.live k (now16 s.live frac.toNat) fwd = true →
    b = nextBoundary (atRec s.live k) (tracker s.live k).lastB fwd → u = nextU (atRec s.live k) (tracker s.live k).tickU fwd →
    stamp = reachInstant s.live k (now16 s.live frac.toNat) u →
    runsTo (.trackerTick k c fwd frac) s (fun t =>
      ((tracker s.live k).delayed = none →
        spanReaches (atRec s.live k) (atOmegaMax (atRec s.live k)) ((stamp : Int) - (tracker s.live k).lastTickAt) = true →
        (tracker t.live k).lastB = b ∧ (tracker t.live k).tickU = u ∧
        (tracker t.live k).tickCount = (tracker s.live k).tickCount + 1 ∧ (tracker t.live k).lastTickAt = stamp ∧
        (tracker t.live k).lastFwd = fwd ∧ (tracker t.live k).delayed = none ∧
        t.live.dev.boundaryDue = (if k.val = epochTracker s.live ∧ s.live.cfg.present = true
          then some (stamp, lcAtInstant s.live 3 stamp) else s.live.dev.boundaryDue)) ∧
      ((tracker s.live k).delayed = none → (tracker s.live k).sinceBack = false →
        spanReaches (atRec s.live k) (atOmegaMax (atRec s.live k)) ((stamp : Int) - (tracker s.live k).lastTickAt) = false →
        (tracker t.live k).tickCount = (tracker s.live k).tickCount ∧ (tracker t.live k).overspeed = true ∧
        (tracker t.live k).delays = (tracker s.live k).delays + 1 ∧ (tracker t.live k).delayed = some (b, fwd) ∧
        (tracker t.live k).lastB = (tracker s.live k).lastB ∧ t.live.dev = s.live.dev) ∧
      ((tracker s.live k).delayed = none → (tracker s.live k).sinceBack = true →
        spanReaches (atRec s.live k) (atOmegaMax (atRec s.live k)) ((stamp : Int) - (tracker s.live k).lastTickAt) = false →
        tracker t.live k = { tracker s.live k with lastB := b, tickU := u } ∧ t.live.dev = s.live.dev) ∧
      ((tracker s.live k).delayed.isSome = true →
        (tracker t.live k).tickCount = (tracker s.live k).tickCount ∧ (tracker t.live k).delayed = (tracker s.live k).delayed ∧
        (tracker t.live k).lastB = (tracker s.live k).lastB ∧
        (tracker t.live k).skipped = (tracker s.live k).skipped + 1 ∧ t.live.dev = s.live.dev) ∧
      (∀ j, j ≠ k.val → tracker t.live j = tracker s.live j) ∧
      t = { s with live := { s.live with
        dev := { s.live.dev with boundaryDue := t.live.dev.boundaryDue }, solver := t.live.solver, serving := t.live.serving
        mer := { s.live.mer with trackers := t.live.mer.trackers, edges := t.live.mer.edges, atBoundary := t.live.mer.atBoundary } } })) ∧
  (∀ (s : State) (k : Fin 8) (frac : BitVec 16) (c : Fin 32768) (fwd : Bool), awake s →
    (c.val ≠ crossedB (atRec s.live k) (tracker s.live k) fwd → runsTo (.trackerTick k c fwd frac) s (fun t => t = s)) ∧
    (((tracker s.live k).delayed.map (·.1)) ≠ some c.val → runsTo (.delayedTick k c frac) s (fun t => t = s))) ∧
  (∀ (s : State) (k : Fin 8) (frac : BitVec 16) (b : Fin 32768) (fwd : Bool), awake s → k.val < s.live.mer.trackers.length →
    (tracker s.live k).mode ≠ .off → (tracker s.live k).delayed = some (b.val, fwd) →
    (tracker s.live k).lastTickAt + interval16 (atRec s.live k) (atOmegaMax (atRec s.live k)) ≤ now16 s.live frac.toNat →
    runsTo (.delayedTick k b frac) s (fun t =>
      (tracker t.live k).tickCount = (tracker s.live k).tickCount + 1 ∧
      (tracker t.live k).lastTickAt = (tracker s.live k).lastTickAt + interval16 (atRec s.live k) (atOmegaMax (atRec s.live k)) ∧
      (tracker t.live k).lastFwd = fwd ∧ (tracker t.live k).lastB = b.val ∧ (tracker t.live k).delayed = none ∧
      (∀ j, j ≠ k.val → tracker t.live j = tracker s.live j) ∧
      t = { s with live := { s.live with
        dev := { s.live.dev with boundaryDue := t.live.dev.boundaryDue }, solver := t.live.solver, serving := t.live.serving
        mer := { s.live.mer with trackers := t.live.mer.trackers, edges := t.live.mer.edges, atBoundary := t.live.mer.atBoundary } } })) ∧
  (∀ (s : State) (k : Fin 8) (frac : BitVec 16), awake s → k.val < s.live.mer.trackers.length →
    (tracker s.live k).mode = .fallback ∨ (tracker s.live k).mode = .acquiring → (tracker s.live k).delayed = none →
    fallbackStamp (atRec s.live k) (tracker s.live k) ≤ now16 s.live frac.toNat →
    runsTo (.fallbackTick k frac) s (fun t =>
      (tracker t.live k).tickCount = (tracker s.live k).tickCount + 1 ∧
      (tracker t.live k).lastTickAt = max ((tracker s.live k).lastTickAt +
        interval16 (atRec s.live k) (fallbackRate (atRec s.live k) (tracker s.live k))) (tracker s.live k).thetaAt.toNat ∧
      (tracker t.live k).lastB = nextBoundary (atRec s.live k) (tracker s.live k).lastB
        (!(fallbackRate (atRec s.live k) (tracker s.live k)).getLsbD 31) ∧
      (tracker t.live k).mode = (if (tracker s.live k).mode = .acquiring ∧ atMode (atRec s.live k) = 4 then .valid
        else (tracker s.live k).mode) ∧
      (∀ j, j ≠ k.val → tracker t.live j = tracker s.live j) ∧
      t = { s with live := { s.live with
        dev := { s.live.dev with boundaryDue := t.live.dev.boundaryDue }, solver := t.live.solver, serving := t.live.serving
        mer := { s.live.mer with trackers := t.live.mer.trackers, edges := t.live.mer.edges, atBoundary := t.live.mer.atBoundary } } })) ∧
  (∀ (s : State) (p : Fin 4) (a : Nat) (rest : List Nat), awake s → ordered s.live → running s.live.dev.state = true →
    s.live.cfg.present = true → sGet [] s.live.mer.edges p = a :: rest → a ≤ now16 s.live → bit (tickOut s.live p) 3 = true →
    runsTo (.tickPulseStart p) s (fun t =>
      (match p with | 0 => t.live.dev.tick0 | 1 => t.live.dev.tick1 | 2 => t.live.dev.tick2 | 3 => t.live.dev.tick3) =
        (if bit (tickOut s.live p) 4 then .low else .high) ∧
      sFind t.live.mer.pulseEnd p = some (a + bits (tickOut s.live p) 55 36 * 65536) ∧ sGet [] t.live.mer.edges p = rest ∧
      (∀ q, q ≠ p.val → sGet [] t.live.mer.edges q = sGet [] s.live.mer.edges q) ∧
      t.live.mer = { s.live.mer with edges := t.live.mer.edges, pulseEnd := t.live.mer.pulseEnd } ∧
      t = { s with live := { s.live with mer := t.live.mer, dev := { s.live.dev with
        tick0 := if p = 0 then t.live.dev.tick0 else s.live.dev.tick0, tick1 := if p = 1 then t.live.dev.tick1 else s.live.dev.tick1
        tick2 := if p = 2 then t.live.dev.tick2 else s.live.dev.tick2
        tick3 := if p = 3 then t.live.dev.tick3 else s.live.dev.tick3 } } })) ∧
  (∀ (s : State) (p : Fin 4) (e : Nat), awake s → ordered s.live → running s.live.dev.state = true →
    sFind s.live.mer.pulseEnd p = some e → e ≤ now16 s.live → runsTo (.tickPulseEnd p) s (fun t =>
      (match p with | 0 => t.live.dev.tick0 | 1 => t.live.dev.tick1 | 2 => t.live.dev.tick2 | 3 => t.live.dev.tick3) =
        (if bit (tickOut s.live p) 4 then .high else .low) ∧
      sFind t.live.mer.pulseEnd p = none ∧
      t.live.mer = { s.live.mer with pulseEnd := t.live.mer.pulseEnd } ∧
      t = { s with live := { s.live with mer := t.live.mer, dev := { s.live.dev with
        tick0 := if p = 0 then t.live.dev.tick0 else s.live.dev.tick0, tick1 := if p = 1 then t.live.dev.tick1 else s.live.dev.tick1
        tick2 := if p = 2 then t.live.dev.tick2 else s.live.dev.tick2
        tick3 := if p = 3 then t.live.dev.tick3 else s.live.dev.tick3 } } }))

/-- An armed angle event whose angle is passed in a direction it enables fires once: it is disarmed, its action acts, nothing else of the
trackers changes; a quarter turn from its angle arms it again (02 R414, Table 2.15). -/
def Obligations.AngleEventsFireOnce : Prop :=
  (∀ (s : State) (k : Fin 8) (e : Fin 64) (fwd : Bool) (frac : BitVec 16), awake s → ordered s.live →
    k.val < s.live.mer.trackers.length → s.live.cfg.present = true → (tracker s.live k).mode ≠ .off →
    e.val ∉ (tracker s.live k).disarmed → eventDir (eventEntry s.live.cfg.active k e) fwd = true →
    passed s.live k e fwd (now16 s.live frac.toNat) = true → runsTo (.angleEventFire k e fwd frac) s (fun t =>
      e.val ∈ (tracker t.live k).disarmed ∧
      tracker t.live k = { tracker s.live k with disarmed := (tracker t.live k).disarmed } ∧
      (∀ j, j ≠ k.val → tracker t.live j = tracker s.live j) ∧
      (∀ j, j = bits (eventEntry s.live.cfg.active k e) 55 36 →
        (bits (eventEntry s.live.cfg.active k e) 35 32 = 1 → hasObj s.live.cfg.active 0x4100 0 j = true →
          (tmplEngine s.live j).isSome = true → (tmpl t.live j).nReleases = (tmpl s.live j).nReleases + 1) ∧
        (bits (eventEntry s.live.cfg.active k e) 35 32 = 2 → hasObj s.live.cfg.active 0x5030 0 j = true →
          ijKind (injRec s.live j) ≠ 0 → inj t.live j =
            { armed := some (lc3At s.live (passInstant s.live k e fwd (now16 s.live frac.toNat))), ts := none }) ∧
        (bits (eventEntry s.live.cfg.active k e) 35 32 = 3 → hasObj s.live.cfg.active 0x5040 0 j = true →
          cpTrig (capRec s.live j) = 1 → (cap s.live j).state = .armed →
          cap t.live j = { cap s.live j with pending := some (lc3At s.live (passInstant s.live k e fwd (now16 s.live frac.toNat))) }) ∧
        (bits (eventEntry s.live.cfg.active k e) 35 32 = 4 →
          (∀ c ∈ s.live.tiles.ctxs, c.2.wait ≠ .sync j) → syncCount t.live j = syncCount s.live j + 1)) ∧
      t.live.mer = { s.live.mer with trackers := t.live.mer.trackers, edges := t.live.mer.edges } ∧
      t = { s with live := { s.live with
        mer := t.live.mer, solver := t.live.solver, halo := t.live.halo, tiles := t.live.tiles, cont := t.live.cont } })) ∧
  (∀ (s : State) (k : Fin 8) (e : Fin 64) (frac : BitVec 16), awake s → k.val < s.live.mer.trackers.length →
    (tracker s.live k).mode ≠ .off → e.val ∈ (tracker s.live k).disarmed →
    2 ^ 30 ≤ (angleDiff (BitVec.ofInt 32 (judgedU s.live k (now16 s.live frac.toNat)))
      (BitVec.ofNat 32 (bits (eventEntry s.live.cfg.active k e) 31 0))).natAbs →
    runsTo (.angleEventRearm k e frac) s (fun t =>
      (∀ n, n ∈ (tracker t.live k).disarmed ↔ n ∈ (tracker s.live k).disarmed ∧ n ≠ e.val) ∧
      tracker t.live k = { tracker s.live k with disarmed := (tracker t.live k).disarmed, armedU := (tracker t.live k).armedU } ∧
      (storeSorted (tracker s.live k).armedU →
        sFind (tracker t.live k).armedU e = some (judgedU s.live k (now16 s.live frac.toNat))) ∧
      (∀ j, j ≠ k.val → tracker t.live j = tracker s.live j) ∧
      t = { s with live := { s.live with mer := { s.live.mer with trackers := t.live.mer.trackers } } }))

/-- A tick boundary closes the epoch: the counter goes up by one, the boundary keeps the stamps of its tick, the writes accepted before
its instant have been taken while the others wait on, and the device as it stands at the close is what hosts are served from (01 R20, R21,
R22, R26, R27, R29). -/
def Obligations.TickBoundaryClosesTheEpoch : Prop :=
  ∀ (s : State) (posted : BitVec 8) (lc0 : Nat) (lc3 : Int), awake s → s.live.dev.boundaryDue = some (lc0, lc3) →
    runsTo (.tickBoundary posted) s (fun t =>
      t.live.dev.epoch = s.live.dev.epoch + 1 ∧ t.live.dev.boundaryLc0 = lc0 ∧ t.live.dev.boundaryLc3 = lc3 ∧
      t.live.dev.boundaryDue = none ∧ (∀ r ∈ t.live.cfg.rw, lc0 / 65536 ≤ r.at_) ∧
      t.served.dev.epoch = s.live.dev.epoch + 1 ∧ t.served.dev.boundaryLc0 = lc0 ∧
      t.served.cfg.rw = s.live.cfg.rw.filter (fun r => decide (lc0 / 65536 ≤ r.at_)) ∧
      t.live.mer.frc0 = s.live.mer.frc0 ∧ t.live.mer.frc1 = s.live.mer.frc1 ∧ t.live.mer.frc2 = s.live.mer.frc2 ∧
      t.live.mer.frc3 = s.live.mer.frc3 ∧ t.live.jtag = s.live.jtag)

/-! ## Writes of one object -/

/-- An accepted write of the active set waits for its boundary, in order of acceptance, and changes nothing else; its request stays open
(01 R27; 11 R295). One clause for every row that is such a write. -/
def Obligations.AcceptedWritesWaitForTheirBoundary : Prop :=
  ∀ (s : State) (c : Instr) (index sub type : Nat) (x : ObjWrite), awake s → rowWrites c = some (index, sub, type, x) →
    index ≠ 0x1202 → index < 0x9000 → accepted s index sub type x → runsTo c s (fun t =>
      t.live.cfg.rw = s.live.cfg.rw ++ [{ session := x.session, reqId := x.reqId, service := 0x11, index := index, sub := sub, inst := x.inst,
                                          value := wireToStored type x.value, at_ := nowNs s.live }] ∧
      t.live.cfg = { s.live.cfg with rw := t.live.cfg.rw } ∧ t.live.link = (asked s x.session x.reqId).link ∧
      t = { s with live := { s.live with cfg := t.live.cfg, link := t.live.link } })

/-- Writes of SHADOW_CTRL and of the security objects act at acceptance and are answered with EPOCH 0 (11 R308; 13 R357, R360, R364): COPY
takes the active set as the latest closed epoch left it, CLEAR empties the shadow, the floor record rises and roots are retired. -/
def Obligations.ShadowAndFloorWritesActAtOnce : Prop :=
  (∀ (s : State) (x : ObjWrite), awake s → x.value = [1] → accepted s 0x1202 1 tU8 x → runsTo (.copyActive x) s (fun t =>
    t.live = respond x.session 0x11 0 x.reqId (beBytes 8 0)
      { asked s x.session x.reqId with cfg := { s.live.cfg with
        shadow := (viewOf s.live s.served s.dieServed).world.cfg.active, state := .editing } } ∧
    t = { s with live := t.live })) ∧
  (∀ (s : State) (x : ObjWrite), awake s → x.value = [2] → accepted s 0x1202 1 tU8 x → runsTo (.clear x) s (fun t =>
    t.live = respond x.session 0x11 0 x.reqId (beBytes 8 0)
      { asked s x.session x.reqId with cfg := { s.live.cfg with shadow := [], state := .empty } } ∧
    t = { s with live := t.live })) ∧
  (∀ (s : State) (x : ObjWrite) (c : Instr), awake s → (c = .floorRaise x ∨ c = .rootRetire x) → accepted s 0x9003 2 tU64 x →
    runsTo c s (fun t =>
      (floorNow t.live.garnet).floor = bits (leNat x.value.reverse) 15 0 ∧
      (floorNow t.live.garnet).rootMask =
        (floorNow s.live.garnet).rootMask &&& ~~~(BitVec.ofNat 2 (bits (leNat x.value.reverse) 17 16)) ∧
      (∀ b, t.live.garnet.staged = some b ↔
        s.live.garnet.staged = some b ∧ bits (leNat x.value.reverse) 15 0 ≤ buSvn b) ∧
      ownerNow t.live.garnet = ownerNow s.live.garnet ∧ t.live.garnet.slots = s.live.garnet.slots ∧
      (∃ w, t.live = respond x.session 0x11 0 x.reqId (beBytes 8 0) w ∧
        w = { asked s x.session x.reqId with garnet := w.garnet, cont := w.cont, free := w.free }) ∧ t = { s with live := t.live }))

/-- An enrolment record that may be applied changes the owner or the slots as its KIND says and nothing else of either, and is answered;
any other is counted, refused, and changes none of them (13 R360, R361). -/
def Obligations.EnrolmentRecordsAreApplied : Prop :=
  ∀ (s : State) (c : Instr) (kind : Nat) (x : ObjWrite), awake s → rowEnrols c = some (kind, x) → enKind x.value = kind →
    s.live.garnet.slots.length = 8 → accepted s 0x9011 0 tDomain x → runsTo c s (fun t =>
      (enrolOk s.live.garnet x.value = true →
        (ownerNow t.live.garnet).enrolCount = enCounter x.value ∧
        (kind = 1 → ownerNow t.live.garnet =
          { claimed := true, key := enKey x.value, policy := BitVec.ofNat 8 (enPolicy x.value), enrolCount := enCounter x.value }) ∧
        (kind = 2 → nth {} t.live.garnet.slots (enSlot x.value) = { key := enKey x.value, roles := BitVec.ofNat 8 (enRoles x.value) }) ∧
        (kind = 3 → nth {} t.live.garnet.slots (enSlot x.value) = {}) ∧
        (kind = 4 → (ownerNow t.live.garnet).key = enKey x.value) ∧
        (kind = 5 → (ownerNow t.live.garnet).claimed = false ∧ ∀ n, nth {} t.live.garnet.slots n = {}) ∧
        (kind = 6 → (ownerNow t.live.garnet).policy = BitVec.ofNat 8 (enPolicy x.value)) ∧
        (kind ≠ 5 → ∀ n, (kind = 2 ∨ kind = 3 → n ≠ enSlot x.value) → nth {} t.live.garnet.slots n = nth {} s.live.garnet.slots n) ∧
        (∃ w, t.live = respond x.session 0x11 0 x.reqId (beBytes 8 0) w ∧
          w = { asked s x.session x.reqId with garnet := w.garnet, cont := w.cont, free := w.free })) ∧
      (enrolOk s.live.garnet x.value = false →
        t.live.garnet = { s.live.garnet with nEnrolRefused := s.live.garnet.nEnrolRefused + 1 } ∧
        (∃ w, t.live = abortReq x.session 0x11 x.reqId aValueRange w ∧
          w = { asked s x.session x.reqId with garnet := w.garnet, cont := w.cont, free := w.free })) ∧
      t = { s with live := t.live })

/-- What a waiting write does when its boundary takes it (01 R26; 02 R35, R37 to R40, R47; 03 R71; 07 R188 to R190, R196, R198; 12 R343):
the second part of the answer is the code of a refusal. -/
def Obligations.WaitingWritesTakeEffect : Prop :=
  ∀ (w : World) (lc0 : Nat) (lc3 : Int) (r : RwWrite), w.cfg.present = true → ordered w →
    (holderAbsent w.cfg.active r.index r.inst = true → applyRw lc0 lc3 r w = (w, some aNoInstance)) ∧
    (holderAbsent w.cfg.active r.index r.inst = false →
    (r.index = 0x2010 → 0 < r.inst → r.inst < w.mer.clocks.length → (applyRw lc0 lc3 r w).2 = none ∧
      (lcAt (applyRw lc0 lc3 r w).1.mer r.inst).rate = signed 64 (leNat r.value) ∧
      lcNow (applyRw lc0 lc3 r w).1 r.inst = lcNow w r.inst) ∧
    (r.index = 0x2012 → jumpTooFar r.inst (signed 64 (leNat r.value)) w = true → (applyRw lc0 lc3 r w).2 = some aJumpRefused ∧
      lcNow (applyRw lc0 lc3 r w).1 r.inst = lcNow w r.inst) ∧
    (r.index = 0x2012 → jumpTooFar r.inst (signed 64 (leNat r.value)) w = false → 0 < r.inst → r.inst < w.mer.clocks.length →
      (applyRw lc0 lc3 r w).2 = none ∧ (lcStepMode r.inst (lcRec w r.inst) = false →
        lcNow (applyRw lc0 lc3 r w).1 r.inst = lcNow w r.inst ∧ (lcAt (applyRw lc0 lc3 r w).1.mer r.inst).remainder =
          lcRemainder w.mer (lcAt w.mer r.inst) + signed 64 (leNat r.value)) ∧
      (lcStepMode r.inst (lcRec w r.inst) = true → lcNow (applyRw lc0 lc3 r w).1 r.inst =
        lcNow w r.inst + lcRemainder w.mer (lcAt w.mer r.inst) + signed 64 (leNat r.value))) ∧
    (r.index = 0x2013 → 0 < r.inst → r.inst < w.mer.clocks.length → (applyRw lc0 lc3 r w).2 = none ∧
      lcNow (applyRw lc0 lc3 r w).1 r.inst = lcNow w r.inst + signed 64 (leNat r.value) ∧
      (lcAt (applyRw lc0 lc3 r w).1.mer r.inst).stepped = true ∧ (lcAt (applyRw lc0 lc3 r w).1.mer r.inst).hold = false) ∧
    (r.index = 0x2014 → 0 < r.inst → r.inst < w.mer.clocks.length → (applyRw lc0 lc3 r w).2 = none ∧
      lcAt (applyRw lc0 lc3 r w).1.mer r.inst = { lcAt w.mer r.inst with hold := false, jumpRefused := false }) ∧
    (r.index = 0x2100 → atMode (atRec w r.inst) = 4 → (tracker w r.inst).mode = .valid → r.inst < w.mer.trackers.length →
      (applyRw lc0 lc3 r w).2 = none ∧ (tracker (applyRw lc0 lc3 r w).1 r.inst).theta =
        BitVec.ofInt 32 (thetaU w r.inst (match w.dev.boundaryDue with | some d => d.1 | none => now16 w))) ∧
    (r.index = 0x3001 → leNat r.value = 1 → (applyRw lc0 lc3 r w).2 = none ∧
      part (applyRw lc0 lc3 r w).1 r.inst = { part w r.inst with
        started := true, stopping := false, mode := if (part w r.inst).mode = .reservedIdle then .idle else (part w r.inst).mode }) ∧
    (r.index = 0x3001 → leNat r.value = 0 → (applyRw lc0 lc3 r w).2 = none ∧ part (applyRw lc0 lc3 r w).1 r.inst =
      if (part w r.inst).mode = .stepping ∨ (part w r.inst).mode = .teardown then { part w r.inst with stopping := true }
      else { part w r.inst with started := false, stopping := false, mode := if (part w r.inst).mode = .idle then .reservedIdle
        else (part w r.inst).mode }) ∧
    (r.index = 0x3001 → leNat r.value = 2 → (part w r.inst).mode = .halted → (applyRw lc0 lc3 r w).2 = none ∧
      part (applyRw lc0 lc3 r w).1 r.inst = { part w r.inst with mode := restMode w r.inst }) ∧
    (r.index = 0x4111 → deltaOk (keepWrite r w) (r.inst / 4096) (r.inst % 4096) r.sub 0 = true → r.sub ≠ 0x1FF →
      (applyRw lc0 lc3 r w).2 = none ∧ ∃ d, d ∈ (tmpl (applyRw lc0 lc3 r w).1 (r.inst / 4096)).pending ∧ d.slot = r.inst % 4096 ∧
        d.inst = r.sub ∧ d.value = field32 r.value 0 ∧ d.prod = lc0 / 65536) ∧
    (r.index ∉ [0x2010, 0x2012, 0x2013, 0x2014, 0x2100, 0x3001, 0x4110, 0x4111, 0x5011, 0x5012, 0x5031, 0x5041, 0x7000, 0x8020,
      0x8180] → applyRw lc0 lc3 r w = ({ w with cfg := { w.cfg with
        active := storeIn w.cfg.active r.index r.sub r.inst r.value } }, none)) ∧
    (r.index = 0x7000 → (applyRw lc0 lc3 r w).2 = none ∧ ∀ e, sGet 0 (applyRw lc0 lc3 r w).1.tiles.sticky e =
      if e = r.inst then sGet 0 w.tiles.sticky e &&& ~~~(BitVec.ofNat 8 (leNat r.value)) else sGet 0 w.tiles.sticky e) ∧
    (r.index = 0x5011 → hasFlag lfClosed (loop w r.inst).flags = true → applyRw lc0 lc3 r w = (w, some aCoeffClosed)) ∧
    (r.index = 0x5011 → hasFlag lfClosed (loop w r.inst).flags = false → (applyRw lc0 lc3 r w).2 = none ∧
      (applyRw lc0 lc3 r w).1.cfg.active = storeIn w.cfg.active 0x5011 r.sub r.inst r.value) ∧
    (r.index = 0x5012 → leNat r.value = 0 → (applyRw lc0 lc3 r w).2 = none ∧
      hasFlag lfClosed (loop (applyRw lc0 lc3 r w).1 r.inst).flags = false ∧ (loop (applyRw lc0 lc3 r w).1 r.inst).level = (loop w r.inst).level) ∧
    (r.index = 0x5012 → leNat r.value = 1 → hasFlag lfClosed (loop w r.inst).flags = false → (applyRw lc0 lc3 r w).2 = none ∧
      hasFlag lfClosed (loop (applyRw lc0 lc3 r w).1 r.inst).flags = true ∧
      hasFlag lfPending (loop (applyRw lc0 lc3 r w).1 r.inst).flags = true) ∧
    (r.index = 0x5031 → r.sub = 1 → hasObj w.cfg.active 0x5030 0 r.inst = true → ijKind (injRec w r.inst) ≠ 0 →
      inj (applyRw lc0 lc3 r w).1 r.inst = { armed := some (lc3 / 65536).toNat, ts := none }) ∧
    (r.index = 0x5031 → r.sub = 2 → inj (applyRw lc0 lc3 r w).1 r.inst = {}) ∧
    (r.index = 0x5041 → leNat r.value = 1 → hasObj w.cfg.active 0x5040 0 r.inst = true →
      (cap (applyRw lc0 lc3 r w).1 r.inst).state = .armed ∧ (cap (applyRw lc0 lc3 r w).1 r.inst).pending = none) ∧
    (r.index = 0x8020 → upgradeBad w r.inst (leNat r.value) = none → r.inst < w.dev.dies.length → (applyRw lc0 lc3 r w).2 = none ∧
      (upOp (leNat r.value) = 1 → (die (applyRw lc0 lc3 r w).1 r.inst).state = .draining) ∧
      (upOp (leNat r.value) = 2 → (die (applyRw lc0 lc3 r w).1 r.inst).state = .loading) ∧
      (upOp (leNat r.value) = 3 → (die (applyRw lc0 lc3 r w).1 r.inst).state = .rejoining) ∧
      (upOp (leNat r.value) = 4 → (applyRw lc0 lc3 r w).1.garnet.bank = 1 - w.garnet.bank)))

/-! ## The scalar sequencer -/

/-- A scalar arithmetic instruction that the word at the program counter spells writes RD with the value of Table 4.3 modulo 2^32, goes to
the next instruction, and changes nothing else (04 R89, R90, Tables 4.2 and 4.3). -/
def Obligations.ScalarArithmeticWritesOneRegister : Prop :=
  ∀ (s : State) (i : Instr) (c : TileCtx) (rd : Fin 16) (f : (Fin 16 → W32) → W32), awake s → ordered s.live →
    scalarValue i = some (c, rd, f) → fetches s.live c i = true → runsTo i s (fun t =>
      sReg (ctxAt t.live (TileCtx.key c)) rd = f (sReg (ctxAt s.live (TileCtx.key c))) ∧
      (∀ r, r ≠ rd → sReg (ctxAt t.live (TileCtx.key c)) r = sReg (ctxAt s.live (TileCtx.key c)) r) ∧
      (ctxAt t.live (TileCtx.key c)).pc = (ctxAt s.live (TileCtx.key c)).pc + 1 ∧
      ctxAt t.live (TileCtx.key c) = { ctxAt s.live (TileCtx.key c) with
        s := (ctxAt t.live (TileCtx.key c)).s, pc := (ctxAt t.live (TileCtx.key c)).pc } ∧
      (∀ k, k ≠ TileCtx.key c → ctxAt t.live k = ctxAt s.live k) ∧
      t = { s with live := { s.live with tiles := { s.live.tiles with ctxs := t.live.tiles.ctxs } } })

/-- A jump sets the program counter to IMM where its condition holds, else to the next instruction; DBNZ lowers its register first; nothing
else changes (04 Table 4.3). STEP_END ends the context's part of the step where it stands. -/
def Obligations.ScalarJumpsSetTheProgramCounter : Prop :=
  (∀ (s : State) (i : Instr) (c : TileCtx) (g : (Fin 16 → W32) → Bool) (imm : W32), awake s → ordered s.live →
    scalarJump i = some (c, g, imm) → fetches s.live c i = true → runsTo i s (fun t =>
      ctxAt t.live (TileCtx.key c) = { ctxAt s.live (TileCtx.key c) with
        pc := if g (sReg (ctxAt s.live (TileCtx.key c))) then imm.toNat else (ctxAt s.live (TileCtx.key c)).pc + 1 } ∧
      (∀ k, k ≠ TileCtx.key c → ctxAt t.live k = ctxAt s.live k) ∧
      t = { s with live := { s.live with tiles := { s.live.tiles with ctxs := t.live.tiles.ctxs } } })) ∧
  (∀ (s : State) (c : TileCtx) (ra : Fin 16) (imm : W32), awake s → ordered s.live → fetches s.live c (.dbnz c ra imm) = true →
    runsTo (.dbnz c ra imm) s (fun t =>
      sReg (ctxAt t.live (TileCtx.key c)) ra = sReg (ctxAt s.live (TileCtx.key c)) ra - 1 ∧
      (∀ r, r ≠ ra → sReg (ctxAt t.live (TileCtx.key c)) r = sReg (ctxAt s.live (TileCtx.key c)) r) ∧
      (ctxAt t.live (TileCtx.key c)).pc = (if sReg (ctxAt s.live (TileCtx.key c)) ra = 1
        then (ctxAt s.live (TileCtx.key c)).pc + 1 else imm.toNat) ∧
      ctxAt t.live (TileCtx.key c) = { ctxAt s.live (TileCtx.key c) with
        s := (ctxAt t.live (TileCtx.key c)).s, pc := (ctxAt t.live (TileCtx.key c)).pc } ∧
      (∀ k, k ≠ TileCtx.key c → ctxAt t.live k = ctxAt s.live k) ∧
      t = { s with live := { s.live with tiles := { s.live.tiles with ctxs := t.live.tiles.ctxs } } })) ∧
  (∀ (s : State) (c : TileCtx), awake s → ordered s.live → fetches s.live c (.stepEnd c) = true → runsTo (.stepEnd c) s (fun t =>
    ctxAt t.live (TileCtx.key c) = { ctxAt s.live (TileCtx.key c) with atEnd := true, endAt := nowNs s.live } ∧
    (∀ k, k ≠ TileCtx.key c → ctxAt t.live k = ctxAt s.live k) ∧
    t = { s with live := { s.live with tiles := { s.live.tiles with ctxs := t.live.tiles.ctxs } } }))

/-- WAITTAG gives the status word of its tag once the tag's latest command has retired, FENCE passes once all have, and either waits until
then; SPOST posts one token, SWAIT takes one or waits (04 Table 4.3; 01 R18). -/
def Obligations.WaitsAndTokens : Prop :=
  (∀ (s : State) (c : TileCtx) (rd : Fin 16) (imm : W32), awake s → ordered s.live → fetches s.live c (.waittag c rd imm) = true →
    runsTo (.waittag c rd imm) s (fun t =>
      (retired (ctxAt s.live (TileCtx.key c)) (sGet 0 (ctxAt s.live (TileCtx.key c)).tagSerial (imm.toNat % 256)) = true →
        sReg (ctxAt t.live (TileCtx.key c)) rd = sGet 0 (ctxAt s.live (TileCtx.key c)).status (imm.toNat % 256) ∧
        (ctxAt t.live (TileCtx.key c)).pc = (ctxAt s.live (TileCtx.key c)).pc + 1 ∧ (ctxAt t.live (TileCtx.key c)).wait = .none ∧
        ∀ r, r ≠ rd → sReg (ctxAt t.live (TileCtx.key c)) r = sReg (ctxAt s.live (TileCtx.key c)) r) ∧
      (retired (ctxAt s.live (TileCtx.key c)) (sGet 0 (ctxAt s.live (TileCtx.key c)).tagSerial (imm.toNat % 256)) = false →
        ctxAt t.live (TileCtx.key c) = { ctxAt s.live (TileCtx.key c) with wait := .tag rd (imm.toNat % 256) }) ∧
      (∀ k, k ≠ TileCtx.key c → ctxAt t.live k = ctxAt s.live k) ∧
      t = { s with live := { s.live with tiles := { s.live.tiles with ctxs := t.live.tiles.ctxs } } })) ∧
  (∀ (s : State) (c : TileCtx), awake s → ordered s.live → fetches s.live c (.fence c) = true → runsTo (.fence c) s (fun t =>
    ctxAt t.live (TileCtx.key c) = (if allRetired (ctxAt s.live (TileCtx.key c))
      then { ctxAt s.live (TileCtx.key c) with wait := .none, pc := (ctxAt s.live (TileCtx.key c)).pc + 1 }
      else { ctxAt s.live (TileCtx.key c) with wait := .fence }) ∧
    (∀ k, k ≠ TileCtx.key c → ctxAt t.live k = ctxAt s.live k) ∧
    t = { s with live := { s.live with tiles := { s.live.tiles with ctxs := t.live.tiles.ctxs } } })) ∧
  (∀ (s : State) (c : TileCtx) (imm : W32), awake s → ordered s.live → fetches s.live c (.spost c imm) = true →
    runsTo (.spost c imm) s (fun t =>
      (ctxAt t.live (TileCtx.key c)).pc = (ctxAt s.live (TileCtx.key c)).pc + 1 ∧
      (∀ o, o ≠ imm.toNat % 32768 → syncCount t.live o = syncCount s.live o) ∧
      ((∀ e ∈ s.live.tiles.ctxs, e.2.wait ≠ .sync (imm.toNat % 32768)) →
        syncCount t.live (imm.toNat % 32768) = syncCount s.live (imm.toNat % 32768) + 1 ∧
        ∀ k, k ≠ TileCtx.key c → ctxAt t.live k = ctxAt s.live k) ∧
      t = { s with live := { s.live with
        tiles := { s.live.tiles with ctxs := t.live.tiles.ctxs, sync := t.live.tiles.sync }
        cont := { s.live.cont with sync := t.live.cont.sync } } })) ∧
  (∀ (s : State) (c : TileCtx) (imm : W32), awake s → ordered s.live → fetches s.live c (.swait c imm) = true →
    runsTo (.swait c imm) s (fun t =>
      (syncCount s.live (imm.toNat % 32768) = 0 →
        ctxAt t.live (TileCtx.key c) = { ctxAt s.live (TileCtx.key c) with wait := .sync (imm.toNat % 32768) } ∧
        t.live.tiles.sync = s.live.tiles.sync ∧ t.live.cont = s.live.cont) ∧
      (0 < syncCount s.live (imm.toNat % 32768) →
        ctxAt t.live (TileCtx.key c) = { ctxAt s.live (TileCtx.key c) with pc := (ctxAt s.live (TileCtx.key c)).pc + 1 } ∧
        syncCount t.live (imm.toNat % 32768) = syncCount s.live (imm.toNat % 32768) - 1) ∧
      (∀ o, o ≠ imm.toNat % 32768 → syncCount t.live o = syncCount s.live o) ∧
      (∀ k, k ≠ TileCtx.key c → ctxAt t.live k = ctxAt s.live k) ∧
      t = { s with live := { s.live with
        tiles := { s.live.tiles with ctxs := t.live.tiles.ctxs, sync := t.live.tiles.sync }
        cont := { s.live.cont with sync := t.live.cont.sync } } }))

/-- ISSUE (04 R91, R94, R95, R99, R102): a command whose form, ranges and cycles are right and whose ranges are free enters the scoreboard;
one that must wait stalls; each check that fails is a context fault with its reason (which of several comes first: log 20). A context
whose stall passes its bound while its command still cannot issue faults too (R101); a word that spells no instruction is BAD_CMD (R12), and
a command that the word at the program counter does not spell does nothing (log 12). -/
def Obligations.IssueChecksAndEntersTheScoreboard : Prop :=
  (∀ (s : State) (c : TileCtx) (ra rb : Fin 16) (mask : BitVec 6) (farp : Bool) (imm : W32) (p : Nat) (raw cmd d : BitVec 256) (fits : Bool),
    awake s → ordered s.live → fetches s.live c (.issue c ra rb mask farp imm) = true → (ctxAt s.live (TileCtx.key c)).part = some p →
    codeAt s.live c.tile (actPart s.live p) imm.toNat = some raw →
    patchCmd mask (sReg (ctxAt s.live (TileCtx.key c)) ra).toNat raw = (cmd, fits) →
    (if isDma (cOp cmd) then codeAt s.live c.tile (actPart s.live p) (cField cmd 31 0) else some 0) = some d →
    runsTo (.issue c ra rb mask farp imm) s (fun t =>
      ∀ d', d' = patchDesc (farp && (cOp cmd == 0x20 || cOp cmd == 0x21)) (sReg (ctxAt s.live (TileCtx.key c)) rb).toNat d →
      ∀ form : Bool, form = (formOk (tileShared s.live c.tile) (c.tile / 32) c.ctx cmd d' && !(isDma (cOp cmd) && cField cmd 55 32 != 0)) →
        (form = false → (ctxAt t.live (TileCtx.key c)).stopped = true ∧ (ctxAt t.live (TileCtx.key c)).faultReason = 3) ∧
        (form = true → (fits && rangesOk (actPart s.live p) cmd d') = false →
          (ctxAt t.live (TileCtx.key c)).stopped = true ∧ (ctxAt t.live (TileCtx.key c)).faultReason = 2) ∧
        (form = true → (fits && rangesOk (actPart s.live p) cmd d') = true → cycleOk cmd = false →
          (ctxAt t.live (TileCtx.key c)).stopped = true ∧ (ctxAt t.live (TileCtx.key c)).faultReason = 4) ∧
        (form = true → (fits && rangesOk (actPart s.live p) cmd d') = true → cycleOk cmd = true →
          sbFree (ctxAt s.live (TileCtx.key c)).sb cmd d' = true →
          (ctxAt t.live (TileCtx.key c)).sb = (ctxAt s.live (TileCtx.key c)).sb ++
            [{ cmd := cmd, desc := d', serial := (ctxAt s.live (TileCtx.key c)).nextSerial }] ∧
          (ctxAt t.live (TileCtx.key c)).pc = (ctxAt s.live (TileCtx.key c)).pc + 1 ∧
          (ctxAt t.live (TileCtx.key c)).stallSince = none ∧
          (ctxAt t.live (TileCtx.key c)).stallMax =
            max (ctxAt s.live (TileCtx.key c)).stallMax (stallCount s.live (ctxAt s.live (TileCtx.key c))) ∧
          sGet 0 (ctxAt t.live (TileCtx.key c)).tagSerial (cTag cmd) = (ctxAt s.live (TileCtx.key c)).nextSerial ∧
          (∀ r, sReg (ctxAt t.live (TileCtx.key c)) r = sReg (ctxAt s.live (TileCtx.key c)) r) ∧
          (∀ k, k ≠ TileCtx.key c → ctxAt t.live k = ctxAt s.live k) ∧
          t = { s with live := { s.live with tiles := { s.live.tiles with ctxs := t.live.tiles.ctxs } } }) ∧
        (form = true → (fits && rangesOk (actPart s.live p) cmd d') = true → cycleOk cmd = true →
          sbFree (ctxAt s.live (TileCtx.key c)).sb cmd d' = false →
          ctxAt t.live (TileCtx.key c) = { ctxAt s.live (TileCtx.key c) with
            stallSince := some ((ctxAt s.live (TileCtx.key c)).stallSince.getD (nowNs s.live)) } ∧
          t = { s with live := { s.live with tiles := { s.live.tiles with ctxs := t.live.tiles.ctxs } } }))) ∧
  (∀ (s : State) (c : TileCtx) (ra rb : Fin 16) (mask : BitVec 6) (farp : Bool) (imm : W32), awake s → ordered s.live →
    fetches s.live c (.issue c ra rb mask farp imm) = true → patched s.live c ra rb mask farp imm = none →
    runsTo (.issue c ra rb mask farp imm) s (fun t =>
      (ctxAt t.live (TileCtx.key c)).stopped = true ∧ (ctxAt t.live (TileCtx.key c)).faultReason = 3)) ∧
  (∀ (s : State) (i : Instr) (c : TileCtx), awake s → ordered s.live → scalarRow i = some c → mayRun s.live (TileCtx.key c) = true →
    (nextInstr s.live c = none → runsTo i s (fun t => (ctxAt t.live (TileCtx.key c)).stopped = true ∧
      (ctxAt t.live (TileCtx.key c)).faultReason = 3 ∧ (ctxAt t.live (TileCtx.key c)).faultPc = (ctxAt s.live (TileCtx.key c)).pc)) ∧
    (∀ j, nextInstr s.live c = some j → j ≠ i → runsTo i s (fun t => t = s))) ∧
  (∀ (s : State) (c : TileCtx) (p : Nat) (cmd d : BitVec 256), awake s → ordered s.live → ctxLive (ctxAt s.live (TileCtx.key c)) = true →
    (ctxAt s.live (TileCtx.key c)).part = some p → nextIssue s.live c = some (cmd, d) →
    sbFree (ctxAt s.live (TileCtx.key c)).sb cmd d = false →
    pStallBound (actPart s.live p) < stallCount s.live (ctxAt s.live (TileCtx.key c)) → runsTo (.stallTimeout c.tile c.ctx) s (fun t =>
      (ctxAt t.live (TileCtx.key c)).stopped = true ∧ (ctxAt t.live (TileCtx.key c)).faultReason = 1 ∧
      (ctxAt t.live (TileCtx.key c)).faults = (ctxAt s.live (TileCtx.key c)).faults + 1 ∧
      (ctxAt t.live (TileCtx.key c)).faultPc = (ctxAt s.live (TileCtx.key c)).pc ∧
      stallCount s.live (ctxAt s.live (TileCtx.key c)) ≤ (ctxAt t.live (TileCtx.key c)).stallMax ∧
      t = { s with live := { s.live with
        tiles := { s.live.tiles with ctxs := t.live.tiles.ctxs }, serving := t.live.serving, cont := t.live.cont, free := t.live.free } })) ∧
  (∀ (s : State) (c : TileCtx), awake s → stallOver s.live c = false → runsTo (.stallTimeout c.tile c.ctx) s (fun t => t = s))

/-! ## Tile commands -/

/-- A unit runs its oldest command that it has not begun where the opcode is the row's: the entry is done with its flags, still in the
scoreboard, and what the command does is all that changes (04 R95, R100). A DMA command moves its next bursts, in order, and is done with
its last; a far one does so where its far range lies in the pages of its partition (R104; what a burst is: log 23), otherwise it faults
with FAR_BOUNDS and moves nothing. -/
def Obligations.UnitsRunTheirNextCommand : Prop :=
  (∀ (s : State) (i : Instr) (c : TileCtx) (op : Nat) (f : SbEntry → World → BitVec 8 × World) (e : SbEntry), awake s → ordered s.live →
    unitRow i = some (c, op, f) → nextFor (ctxAt s.live (TileCtx.key c)) (unitOf op) = some e → cOp e.cmd = op → runsTo i s (fun t =>
      (ctxAt t.live (TileCtx.key c)).sb = (ctxAt s.live (TileCtx.key c)).sb.map (fun g => if g.serial = e.serial
        then { g with begun := true, done := true, flags := g.flags ||| (f e s.live).1 } else g) ∧
      ctxAt t.live (TileCtx.key c) = { ctxAt (f e s.live).2 (TileCtx.key c) with sb := (ctxAt t.live (TileCtx.key c)).sb } ∧
      (∀ k, k ≠ TileCtx.key c → ctxAt t.live k = ctxAt s.live k) ∧
      t.live.tiles = { (f e s.live).2.tiles with ctxs := t.live.tiles.ctxs } ∧
      t.live.tiles = { s.live.tiles with ctxs := t.live.tiles.ctxs, banks := t.live.tiles.banks, scratch := t.live.tiles.scratch } ∧
      t = { s with live := { s.live with tiles := t.live.tiles, free := t.live.free } })) ∧
  (∀ (s : State) (i : Instr) (c : TileCtx) (op n stop : Nat) (f : SbEntry → Nat → World → BitVec 8 × World) (e : SbEntry)
    (moved : BitVec 8 × World), awake s → ordered s.live →
    dmaRow i = some (c, op, n, f) → farHead s.live c op = some e → stop = min (allBursts e.desc) (e.bursts + n) →
    (op = 0x20 → e.begun = false → farOk s.live c (dSrc e.desc) e.desc = true) →
    (op = 0x21 → e.begun = false → farOk s.live c (dDst e.desc) e.desc = true) →
    moved = (upTo (stop - e.bursts)).foldl (fun (a : BitVec 8 × World) j =>
      (a.1 ||| (f e (e.bursts + j) a.2).1, (f e (e.bursts + j) a.2).2)) (0, s.live) → runsTo i s (fun t =>
      ctxAt t.live (TileCtx.key c) = { ctxAt s.live (TileCtx.key c) with
        sb := (ctxAt s.live (TileCtx.key c)).sb.map (fun g => if g.serial = e.serial then { g with
          begun := true, done := decide (stop = allBursts e.desc), bursts := stop, flags := g.flags ||| moved.1 } else g) } ∧
      (∀ k, k ≠ TileCtx.key c → ctxAt t.live k = ctxAt s.live k) ∧
      t.live.tiles = { s.live.tiles with
        ctxs := t.live.tiles.ctxs, scratch := moved.2.tiles.scratch, stratum := moved.2.tiles.stratum } ∧
      t = { s with live := { s.live with tiles := t.live.tiles, out := moved.2.out, free := moved.2.free } })) ∧
  (∀ (s : State) (c : TileCtx) (e : SbEntry) (i : Instr) (n : Nat), awake s → ordered s.live → e.begun = false →
    ((i = .dmaLd ⟨c, n⟩ ∧ farHead s.live c 0x20 = some e ∧ farOk s.live c (dSrc e.desc) e.desc = false) ∨
      (i = .dmaSt ⟨c, n⟩ ∧ farHead s.live c 0x21 = some e ∧ farOk s.live c (dDst e.desc) e.desc = false)) → runsTo i s (fun t =>
      (ctxAt t.live (TileCtx.key c)).faultReason = 5 ∧ (ctxAt t.live (TileCtx.key c)).stopped = true ∧
      (ctxAt t.live (TileCtx.key c)).sb = (ctxAt s.live (TileCtx.key c)).sb.filter (fun g => g.serial != e.serial) ∧
      t.live.tiles.scratch = s.live.tiles.scratch ∧ t.live.tiles.stratum = s.live.tiles.stratum ∧ t.live.out = s.live.out))

/-- A tile command whose form and ranges passed the checks of ISSUE writes no byte of scratchpad outside its write ranges (04 R94), and
none of Stratum unless it is DMA_ST, which writes only from its far address to the end of its far extent. -/
def Obligations.TileCommandsWriteWithinTheirRanges : Prop :=
  ∀ (s t : State) (i : Instr) (c : TileCtx) (op : Nat) (e : SbEntry) (shared : Bool) (rcd : Bytes), awake s → memoriesOk s.live →
    ((∃ f, unitRow i = some (c, op, f) ∧ nextFor (ctxAt s.live (TileCtx.key c)) (unitOf op) = some e ∧ cOp e.cmd = op) ∨
      (∃ n f, dmaRow i = some (c, op, n, f) ∧ farHead s.live c op = some e)) →
    formOk shared (c.tile / 32) c.ctx e.cmd e.desc = true → rangesOk rcd e.cmd e.desc = true → exec i s = .next t →
    (∀ a, (∀ r ∈ cWrites e.cmd e.desc, ¬ inWords c.tile r a) → Mem.get t.live.tiles.scratch a = Mem.get s.live.tiles.scratch a) ∧
    (op ≠ 0x21 → t.live.tiles.stratum = s.live.tiles.stratum) ∧
    (∀ a, a < farStart s.live c e.desc + dFar e.desc ∨ farStart s.live c e.desc + dFar e.desc + farExtent (dDst e.desc) e.desc ≤ a →
      Mem.get t.live.tiles.stratum a = Mem.get s.live.tiles.stratum a)

/-- The vector unit (04 R89, R98, Table 4.10): VOP and VSF give each lane of VD the function of the same lane of their operands, VRED gives
lane 0 of VD a reduction, VLD of FP32 copies bits from the range to the registers and VST from the registers to the range; no
other lane changes. -/
def Obligations.VectorCommandsActLaneByLane : Prop :=
  (∀ (w : World) (k : Nat) (e : SbEntry) (i : Nat), ordered w → i < 64 * vCount e.cmd →
    lane (ctxAt (runVop k e w).2 k) (vD e.cmd) i = (vopLane (vSub e.cmd) (cSat e.cmd) (lane (ctxAt w k) (vA e.cmd) i)
      (lane (ctxAt w k) (vB e.cmd) i) (lane (ctxAt w k) (vC e.cmd) i) (lane (ctxAt w k) (vA e.cmd) 0) (lane (ctxAt w k) (vB e.cmd) 0)).1 ∧
    lane (ctxAt (runVsf k e w).2 k) (vD e.cmd) i = (vsfLane (vSub e.cmd) (cSat e.cmd) (lane (ctxAt w k) (vA e.cmd) i)).1) ∧
  (∀ (w : World) (k : Nat) (e : SbEntry) (j : Nat), ordered w → (j < vD e.cmd * 64 ∨ vD e.cmd * 64 + 64 * vCount e.cmd ≤ j) →
    lane (ctxAt (runVop k e w).2 k) 0 j = lane (ctxAt w k) 0 j ∧ lane (ctxAt (runVsf k e w).2 k) 0 j = lane (ctxAt w k) 0 j) ∧
  (∀ (w : World) (k : Nat) (e : SbEntry), ordered w → w.dev.bounded = false → vSub e.cmd = 0 →
    lane (ctxAt (runVred k e w).2 k) (vD e.cmd) 0 = (pack32 (cSat e.cmd)
      (reduceSum accZero ((group (ctxAt w k) (vA e.cmd) (vCount e.cmd)).map (fun v => (operand32 v).1))).1).1) ∧
  (∀ (w : World) (k : Nat) (e : SbEntry) (j : Nat), ordered w → j ≠ vD e.cmd * 64 →
    lane (ctxAt (runVred k e w).2 k) 0 j = lane (ctxAt w k) 0 j) ∧
  (∀ (w : World) (tile k : Nat) (e : SbEntry) (i : Nat), ordered w → tFmt e.cmd = 3 → i < 64 * tCount e.cmd →
    lane (ctxAt (runVld tile k e w).2 k) (tReg e.cmd) i =
      BitVec.ofNat 32 (leNat (padRead w tile (cBase e.cmd 0 * 32 + 4 * i) 4)) ∧ (runVld tile k e w).1 = 0) ∧
  (∀ (w : World) (tile k : Nat) (e : SbEntry) (i : Nat), ordered w → memoriesOk w → tFmt e.cmd = 3 → i < 64 * tCount e.cmd →
    BitVec.ofNat 32 (leNat (padRead (runVst tile k e w).2 tile (cBase e.cmd 0 * 32 + 4 * i) 4)) = lane (ctxAt w k) (tReg e.cmd) i)

/-- The tensor unit (04 R96, R97): MATMUL writes the M rows and N columns of its bank, starting each sum from the entry where ACC is set
and from zero otherwise; TACC_LOAD writes the same block from FP32 rows; TACC with CLEAR leaves the bank zero, without it as it
was; no other entry of any bank changes. -/
def Obligations.TensorCommandsActOnTheirBank : Prop :=
  (∀ (w : World) (tile : Nat) (e : SbEntry) (k : Nat), ordered w →
    (∀ i j, i < mmM e.cmd → j < mmN e.cmd → k ≠ bankKey tile (mmBank e.cmd) i j) →
    bankGet (runMatmul tile e w).2 k = bankGet w k) ∧
  (∀ (w v : World) (tile : Nat) (e : SbEntry) (i j : Nat), ordered w → ordered v → mmN e.cmd ≤ 64 → i < mmM e.cmd → j < mmN e.cmd →
    w.tiles.scratch = v.tiles.scratch → w.dev.bounded = false → v.dev.bounded = false →
    (mmAcc e.cmd = true → bankGet w (bankKey tile (mmBank e.cmd) i j) = bankGet v (bankKey tile (mmBank e.cmd) i j)) →
    bankGet (runMatmul tile e w).2 (bankKey tile (mmBank e.cmd) i j) = bankGet (runMatmul tile e v).2 (bankKey tile (mmBank e.cmd) i j)) ∧
  (∀ (w : World) (tile : Nat) (e : SbEntry) (k : Nat), ordered w →
    (∀ i j, i < tM e.cmd → j < tN e.cmd → k ≠ bankKey tile (tBank e.cmd) i j) →
    bankGet (runTaccLoad tile e w).2 k = bankGet w k) ∧
  (∀ (w : World) (tile : Nat) (e : SbEntry) (i j : Nat), ordered w → tN e.cmd ≤ 64 → i < tM e.cmd → j < tN e.cmd →
    bankGet (runTaccLoad tile e w).2 (bankKey tile (tBank e.cmd) i j) = (unpack32 (BitVec.ofNat 32
      (leNat (padRead w tile ((cBase e.cmd 0 + i * wordsOf (4 * tN e.cmd)) * 32 + 4 * j) 4)))).1) ∧
  (∀ (w : World) (tile : Nat) (e : SbEntry) (k : Nat), ordered w → bankGet (runTacc tile e w).2 k =
    if tClear e.cmd = true ∧ bankKey tile (tBank e.cmd) 0 0 ≤ k ∧ k < bankKey tile (tBank e.cmd) 0 0 + 16384 then accZero else bankGet w k)

/-- Windows (04 R107 to R110): WOPEN opens a slot over its range, or faults where R107 forbids it; WCLOSE puts the slot in its closing
state; RPUT and RGET leave for the neighbour; a transfer that the owner accepts moves its words between the two scratchpads, and
one it drops moves none and says why; a closing window with nothing in flight frees its slot. -/
def Obligations.WindowsOpenTransferAndClose : Prop :=
  (∀ (s : State) (c : TileCtx) (e : SbEntry), awake s → ordered s.live → nextOp s.live (TileCtx.key c) 0x30 = some e →
    (wopenBad s.live c.tile (TileCtx.key c) e.cmd = false → runsTo (.wopen c) s (fun t =>
      winAt t.live (winKey c.tile (wSlot e.cmd)) = {
        isOpen := true, closing := false, ctx := TileCtx.key c, base := cBase e.cmd 0, len := cLen e.cmd 0, rights := wRights e.cmd, dir := wDir e.cmd, serial := e.serial, inFlight := 0 } ∧
      (∀ k, k ≠ winKey c.tile (wSlot e.cmd) → winAt t.live k = winAt s.live k) ∧
      (∀ g ∈ (ctxAt t.live (TileCtx.key c)).sb, g.serial = e.serial → g.begun = true) ∧
      t = { s with live := { s.live with tiles := { s.live.tiles with ctxs := t.live.tiles.ctxs, windows := t.live.tiles.windows } } })) ∧
    (wopenBad s.live c.tile (TileCtx.key c) e.cmd = true → runsTo (.wopen c) s (fun t =>
      (ctxAt t.live (TileCtx.key c)).faultReason = 6 ∧ (ctxAt t.live (TileCtx.key c)).stopped = true ∧
      t.live.tiles.windows = s.live.tiles.windows))) ∧
  (∀ (s : State) (c : TileCtx) (e : SbEntry), awake s → ordered s.live → nextOp s.live (TileCtx.key c) 0x31 = some e →
    (winAt s.live (winKey c.tile (wSlot e.cmd))).isOpen = true → (winAt s.live (winKey c.tile (wSlot e.cmd))).ctx = TileCtx.key c →
    (winAt s.live (winKey c.tile (wSlot e.cmd))).closing = false → runsTo (.wclose c) s (fun t =>
      winAt t.live (winKey c.tile (wSlot e.cmd)) = { winAt s.live (winKey c.tile (wSlot e.cmd)) with closing := true } ∧
      (∀ k, k ≠ winKey c.tile (wSlot e.cmd) → winAt t.live k = winAt s.live k) ∧
      t = { s with live := { s.live with tiles := { s.live.tiles with ctxs := t.live.tiles.ctxs, windows := t.live.tiles.windows } } })) ∧
  (∀ (s : State) (c : TileCtx) (e : SbEntry) (i : Instr), awake s → ordered s.live →
    (i = .rput c ∧ nextOp s.live (TileCtx.key c) 0x32 = some e ∨ i = .rget c ∧ nextOp s.live (TileCtx.key c) 0x33 = some e) →
    (neighbour c.tile (wDir e.cmd)).isSome = true → runsTo i s (fun t =>
      (∀ g ∈ (ctxAt t.live (TileCtx.key c)).sb, g.serial = e.serial → g.begun = true) ∧
      t = { s with live := { s.live with tiles := { s.live.tiles with ctxs := t.live.tiles.ctxs } } })) ∧
  (∀ (s : State) (c : TileCtx) (e : SbEntry) (n : Nat) (v : Window), awake s → ordered s.live → memoriesOk s.live →
    (ctxAt s.live (TileCtx.key c)).sb.find? (fun e => unitOf (cOp e.cmd) == 4 && e.begun && !e.done) = some e →
    neighbour c.tile (wDir e.cmd) = some n → winAt s.live (winKey n (wSlot e.cmd)) = v →
    (judgeTransfer v e = 0 → runsTo (.windowTransferArrive c) s (fun t =>
      (cOp e.cmd = 0x32 → padRead t.live n ((v.base + wOffset e.cmd) * 32) (cLen e.cmd 0 * 32) =
          padRead s.live c.tile (cBase e.cmd 0 * 32) (cLen e.cmd 0 * 32) ∧
        ∀ a, ¬ inWords n (v.base + wOffset e.cmd, cLen e.cmd 0) a → Mem.get t.live.tiles.scratch a = Mem.get s.live.tiles.scratch a) ∧
      (cOp e.cmd ≠ 0x32 → padRead t.live c.tile (cBase e.cmd 0 * 32) (cLen e.cmd 0 * 32) =
          padRead s.live n ((v.base + wOffset e.cmd) * 32) (cLen e.cmd 0 * 32) ∧
        ∀ a, ¬ inWords c.tile (cRange e.cmd 0) a → Mem.get t.live.tiles.scratch a = Mem.get s.live.tiles.scratch a) ∧
      winAt t.live (winKey n (wSlot e.cmd)) = { v with inFlight := v.inFlight + 1 } ∧
      (∀ g ∈ (ctxAt t.live (TileCtx.key c)).sb, g.serial = e.serial → g.done = true) ∧
      t = { s with live := { s.live with tiles := { s.live.tiles with
        ctxs := t.live.tiles.ctxs, windows := t.live.tiles.windows, scratch := t.live.tiles.scratch } } })) ∧
    (judgeTransfer v e ≠ 0 → runsTo (.windowTransferArrive c) s (fun t =>
      t.live.tiles.scratch = s.live.tiles.scratch ∧ t.live.tiles.windows = s.live.tiles.windows ∧
      (∀ g ∈ (ctxAt t.live (TileCtx.key c)).sb, g.serial = e.serial → g.done = true ∧ g.result = judgeTransfer v e) ∧
      t = { s with live := { s.live with tiles := { s.live.tiles with
        ctxs := t.live.tiles.ctxs, winDropped := t.live.tiles.winDropped, winNack := t.live.tiles.winNack } } }))) ∧
  (∀ (s : State) (tile : Fin 128) (slot : Fin 8), awake s → ordered s.live →
    (winAt s.live (winKey tile slot)).isOpen = true → (winAt s.live (winKey tile slot)).closing = true →
    (winAt s.live (winKey tile slot)).inFlight = 0 → runsTo (.windowRetire tile slot) s (fun t =>
      winAt t.live (winKey tile slot) = {} ∧ (∀ k, k ≠ winKey tile slot → winAt t.live k = winAt s.live k) ∧
      t.live.tiles.scratch = s.live.tiles.scratch ∧ t.live.tiles.banks = s.live.tiles.banks ∧
      (∀ k, k ≠ (winAt s.live (winKey tile slot)).ctx → ctxAt t.live k = ctxAt s.live k) ∧
      t = { s with live := { s.live with tiles := t.live.tiles } }))

/-- A completed command retires: its status word is the tag's if it is the tag's latest, its flags enter ARITH_STICKY, its entry leaves
the scoreboard, an accepted transfer leaves its window (04 R100, R108, R112; 03 R71). A slice ends once SLICE less the overrun owed has passed
or its context has no step in RUN, and parks what has not begun; the next is the other context's, once every unit has finished what it
executed (04 R111; 09 R248). -/
def Obligations.CommandsRetireAndSlicesAlternate : Prop :=
  (∀ (s : State) (c : TileCtx) (e : SbEntry), awake s → ordered s.live →
    (ctxAt s.live (TileCtx.key c)).sb.find? (fun e => e.done) = some e → runsTo (.tileCommandRetire c) s (fun t =>
      (sGet 0 (ctxAt s.live (TileCtx.key c)).tagSerial (cTag e.cmd) = e.serial →
        sGet 0 (ctxAt t.live (TileCtx.key c)).status (cTag e.cmd) =
          BitVec.ofNat 32 (cTag e.cmd * 2 ^ 24 + e.result * 2 ^ 8 + e.flags.toNat)) ∧
      (sGet 0 (ctxAt s.live (TileCtx.key c)).tagSerial (cTag e.cmd) ≠ e.serial →
        (ctxAt t.live (TileCtx.key c)).status = (ctxAt s.live (TileCtx.key c)).status) ∧
      sGet 0 t.live.tiles.sticky c.tile = sGet 0 s.live.tiles.sticky c.tile ||| e.flags ∧
      (∀ n, n ≠ c.tile.val → sGet 0 t.live.tiles.sticky n = sGet 0 s.live.tiles.sticky n) ∧
      ((ctxAt s.live (TileCtx.key c)).parked = [] →
        (ctxAt t.live (TileCtx.key c)).sb = (ctxAt s.live (TileCtx.key c)).sb.filter (fun g => g.serial != e.serial)) ∧
      (∀ k, k ≠ TileCtx.key c → ctxAt t.live k = ctxAt s.live k) ∧
      (unitOf (cOp e.cmd) = 4 → e.result = 0 → ∀ n, neighbour c.tile (wDir e.cmd) = some n →
        winAt t.live (winKey n (wSlot e.cmd)) = { winAt s.live (winKey n (wSlot e.cmd)) with
          inFlight := (winAt s.live (winKey n (wSlot e.cmd))).inFlight - 1 }) ∧
      t.live.tiles.scratch = s.live.tiles.scratch ∧ t = { s with live := { s.live with tiles := t.live.tiles } })) ∧
  (∀ (s : State) (tile : Fin 128), awake s → sliceOver s.live tile (sGet 0 s.live.tiles.slice tile) = false →
    runsTo (.sliceEnd tile) s (fun t => t = s)) ∧
  (∀ (s : State) (tile : Fin 128) (cur : Nat), awake s → ordered s.live → tileShared s.live tile = true →
    sGet 0 s.live.tiles.slice tile = cur → cur < 2 →
    (inRun s.live (ctxKey tile cur) = false ∨ pSlice (ctxRec s.live (ctxKey tile cur)) - (ctxAt s.live (ctxKey tile cur)).overrun ≤
      cyclesOfNs (nowNs s.live - sGet 0 s.live.tiles.sliceAt tile)) → runsTo (.sliceEnd tile) s (fun t =>
      sGet 0 t.live.tiles.slice tile = 2 + cur ∧
      ctxAt t.live (ctxKey tile cur) = { ctxAt s.live (ctxKey tile cur) with
        sb := (ctxAt s.live (ctxKey tile cur)).sb.filter (fun e => e.begun)
        parked := (ctxAt s.live (ctxKey tile cur)).sb.filter (fun e => !e.begun) ++ (ctxAt s.live (ctxKey tile cur)).parked
        offSince := some (nowNs s.live) } ∧
      (∀ k, k ≠ ctxKey tile cur → ctxAt t.live k = ctxAt s.live k) ∧
      (storeSorted s.live.tiles.sliceAt → sGet 0 t.live.tiles.sliceAt tile = nowNs s.live) ∧
      t = { s with live := { s.live with tiles := { s.live.tiles with
        ctxs := t.live.tiles.ctxs, slice := t.live.tiles.slice, sliceAt := t.live.tiles.sliceAt } } })) ∧
  (∀ (s : State) (tile : Fin 128) (ctx : Fin 2) (cur overrun : Nat), awake s → ordered s.live → cur = 1 - ctx.val →
    sGet 0 s.live.tiles.slice tile = 2 + cur → unitsDone (ctxAt s.live (ctxKey tile cur)) = true →
    overrun = min 4096 (cyclesOfNs (nowNs s.live - sGet 0 s.live.tiles.sliceAt tile)) → runsTo (.sliceStart tile ctx) s (fun t =>
      sGet 0 t.live.tiles.slice tile = ctx.val ∧
      ctxAt t.live (ctxKey tile cur) = { ctxAt s.live (ctxKey tile cur) with
        overrun := overrun, overrunMax := max (ctxAt s.live (ctxKey tile cur)).overrunMax overrun } ∧
      (ctxAt t.live (ctxKey tile (1 - cur))).offSince = none ∧
      ((ctxAt s.live (ctxKey tile (1 - cur))).parked = [] → ctxAt t.live (ctxKey tile (1 - cur)) =
        { ctxAt s.live (ctxKey tile (1 - cur)) with offSince := none, offCycles := (ctxAt t.live (ctxKey tile (1 - cur))).offCycles }) ∧
      (∀ k, k ≠ ctxKey tile 0 → k ≠ ctxKey tile 1 → ctxAt t.live k = ctxAt s.live k) ∧
      t = { s with live := { s.live with tiles := { s.live.tiles with
        ctxs := t.live.tiles.ctxs, slice := t.live.tiles.slice, sliceAt := t.live.tiles.sliceAt } } }))

/-! ## Basalt and templates -/

/-- The descriptor at the head of an engine's queue runs where its holds allow and its opcode is the row's (05 R117, R118, R139): outputs
and status words of every instance are computed from the memory as it stands and stand in local memory in the order of the instances, each
output as the row's command gives it and each status word behind its outputs; no byte outside them changes, and the descriptor waits for
its retirement. So each of the nine commands completes wherever its descriptor is at the head, its form right and its holds clear. -/
def Obligations.BasaltCommandsWriteOutputsAndStatus : Prop :=
  ∀ (s : State) (i : Instr) (e : Fin 32) (op : Nat) (f : World → Nat → BitVec 512 → Nat → BM BOut) (q : BeDesc), awake s → ordered s.live →
    memoriesOk s.live → basaltRow i = some (e, op, f) → headReady s.live e = some q → bOp q.desc = op → runsTo i s (fun t =>
      ∀ out : Nat → BOut × BFlags, (∀ n, out n = Id.run ((f s.live (tHome s.live q.template) q.desc n).run {})) →
      ∀ pre : Store Nat, pre = (match releaseOf s.live q.template q.release with | some r => r.pre | none => []) →
        (∃ r, (be t.live e).run = some r ∧ r.start = nowNs s.live ∧
          r.status = (upTo (bBatch q.desc)).map (fun n => BitVec.ofNat 64 (bStatus (out n).1 (out n).2 (sGet 0 pre n))) ∧
          r.flags = (if (upTo (bBatch q.desc)).any (fun n => (out n).2.ovf) then 1 else 0)) ∧
        be t.live e = { be s.live e with run := (be t.live e).run } ∧
        (∀ k, k ≠ e.val → be t.live k = be s.live k) ∧
        t.live.solver.mem = (upTo (bBatch q.desc)).foldl (fun m n => Mem.writeNat
          ((out n).1.writes.foldl (fun m x => elPut (tHome s.live q.template) m x.1 x.2) m)
          (elAddr (tHome s.live q.template) (itemAt q.desc n 7)) 32 (bStatus (out n).1 (out n).2 (sGet 0 pre n))) s.live.solver.mem ∧
        (∀ n, bBatch q.desc = n + 1 → Mem.readNat t.live.solver.mem (elAddr (tHome s.live q.template) (itemAt q.desc n 7)) 32 =
          bStatus (out n).1 (out n).2 (sGet 0 pre n) % 2 ^ 256) ∧
        (∀ a, (∀ n, n < bBatch q.desc →
            (∀ x ∈ (out n).1.writes, a < elAddr (tHome s.live q.template) x.1 ∨ elAddr (tHome s.live q.template) x.1 + 4 ≤ a) ∧
            (a < elAddr (tHome s.live q.template) (itemAt q.desc n 7) ∨ elAddr (tHome s.live q.template) (itemAt q.desc n 7) + 32 ≤ a)) →
          Mem.get t.live.solver.mem a = Mem.get s.live.solver.mem a) ∧
        t = { s with live := { s.live with solver := { s.live.solver with mem := t.live.solver.mem, engines := t.live.solver.engines } } })

/-- Retirement (05 R119, R121, R140): within its cycle bound the head descriptor leaves with a completion record DONE, its flags enter
ARITH_STICKY, and the next waits at the head; the last of a solve that its deadline has passed loses its release (R142); one whose form is
wrong is refused with BAD_DESC and its release is lost; a number of cycles beyond the bound is none that the engine can take. -/
def Obligations.BasaltRetiresWithACompletionRecord : Prop :=
  (∀ (s : State) (e : Fin 32) (cycles : Nat) (q : BeDesc) (rest : List BeDesc) (r : BeRun), awake s → ordered s.live →
    (be s.live e).queue = q :: rest → (be s.live e).run = some r →
    (cycles ≤ cycBound q.desc (slowest r.status) →
      (∀ z, releaseOf s.live q.template q.release = some z → inFlight z = true → deadlineMet s.live q.template z = false) →
      runsTo (.basaltRetire e cycles) s (fun t =>
      (be t.live e).commands = (be s.live e).commands + 1 ∧ (be t.live e).run = none ∧
      (∃ l, (be t.live e).queue = rest ++ l) ∧ ((be s.live e).waiting = [] → (be t.live e).queue = rest) ∧
      (be t.live e).last.template = bTemplate q.desc ∧ (be t.live e).last.tag = bTag q.desc ∧ (be t.live e).last.result = 0 ∧
      (be t.live e).last.flags = r.flags ||| q.asmFlags ∧ (be t.live e).last.cycles = cycles ∧
      (be t.live e).last.endLc0 = nowNs s.live ∧ (be t.live e).fifo = (be s.live e).fifo ++ [(be t.live e).last] ∧
      (be t.live e).busy = (be s.live e).busy + (cycles - r.counted) ∧
      sGet 0 t.live.tiles.sticky (128 + e.val) = sGet 0 s.live.tiles.sticky (128 + e.val) ||| (r.flags ||| q.asmFlags) ∧
      (∀ k, k ≠ e.val → be t.live k = be s.live k) ∧
      ((∀ x ∈ s.live.solver.tmpls, x.2.imageDue = []) → t.live.solver.mem = s.live.solver.mem) ∧
      t.live.tiles.scratch = s.live.tiles.scratch ∧ t.live.tiles.banks = s.live.tiles.banks ∧
      t = { s with live := { s.live with
        solver := t.live.solver, tiles := t.live.tiles, cont := t.live.cont, free := t.live.free } })) ∧
    (cycles ≤ cycBound q.desc (slowest r.status) → ∀ z, releaseOf s.live q.template q.release = some z → inFlight z = true →
      deadlineMet s.live q.template z = true → (∀ n l, rest = n :: l → ¬(n.template = q.template ∧ n.release = q.release)) →
      runsTo (.basaltRetire e cycles) s (fun t => ∀ y ∈ (tmpl t.live q.template).releases, y.num = q.release →
        y.dead = true ∧ y.fail = some 1 ∧ y.doneAt = some (nowNs s.live))) ∧
    (cycBound q.desc (slowest r.status) < cycles → runsTo (.basaltRetire e cycles) s (fun t => t = s))) ∧
  (∀ (s : State) (e : Fin 32) (cycles : Nat) (q : BeDesc) (rest : List BeDesc), awake s → ordered s.live →
    (be s.live e).queue = q :: rest → (be s.live e).run = none → bDescOk q.desc = false → runsTo (.basaltRetire e cycles) s (fun t =>
      (be t.live e).badDesc = (be s.live e).badDesc + 1 ∧ q ∉ (be t.live e).queue ∧
      (∀ z ∈ (tmpl t.live q.template).releases, z.num = q.release → z.fail = some 5) ∧
      ((∀ x ∈ s.live.solver.tmpls, x.2.imageDue = []) → t.live.solver.mem = s.live.solver.mem)))

/-- The deadline of a release (05 R142; 02 R55; 06 R150, R162, R166), its latest assembly (06 R152), and an uncorrectable error in the
running descriptor (05 R143): the deadline instant comes when the figure of DEADLINE has passed and θ has travelled DEADLINE since the
release, the later of the two; then a release is dead, and lost where its solve is not done; before it nothing happens; from ASM_LATEST
assembly waits no longer; an error loses the release. -/
def Obligations.ReleasesMeetDeadlinesAndErrors : Prop :=
  (∀ (s : State) (n : Fin 4096) (r : Release) (span : Nat), awake s → ordered s.live →
    (tmpl s.live n).releases.find? (fun r => !r.dead) = some r → span = tDeadline (tRec s.live.cfg.active n) →
    figureInstant s.live n r span ≤ nowNs s.live →
    r.travel + span ≤ travelAt s.live (tTracker (tRec s.live.cfg.active n)) (now16 s.live 65535) → runsTo (.deadlineReached n) s (fun t =>
      (r.judged = true → (tmpl t.live n).releases = (tmpl s.live n).releases.filter (fun z => z.num ≠ r.num)) ∧
      (r.judged = false → (∃ z ∈ (tmpl t.live n).releases, z.num = r.num) ∧
        (∀ z ∈ (tmpl t.live n).releases, z.num = r.num → z.dead = true ∧
          (r.fail = none → r.doneAt = none → z.fail = some 1))) ∧
      (r.judged = true ∨ r.doneAt.isSome = true → t.live.solver.engines = s.live.solver.engines) ∧
      ((∀ x ∈ s.live.solver.tmpls, x.2.imageDue = []) → t.live.solver.mem = s.live.solver.mem) ∧
      t = { s with live := { s.live with solver := t.live.solver, tiles := t.live.tiles } })) ∧
  (∀ (s : State) (n : Fin 4096) (r : Release), awake s → (tmpl s.live n).releases.find? (fun r => !r.dead) = some r →
    (nowNs s.live < figureInstant s.live n r (tDeadline (tRec s.live.cfg.active n)) ∨
      travelAt s.live (tTracker (tRec s.live.cfg.active n)) (now16 s.live 65535) < r.travel + tDeadline (tRec s.live.cfg.active n)) →
    runsTo (.deadlineReached n) s (fun t => t = s)) ∧
  (∀ (s : State) (n : Fin 4096) (r : Release), awake s → ordered s.live → nextAssembly s.live n = some r →
    figureInstant s.live n r (tAsmLatest (tRec s.live.cfg.active n)) ≤ nowNs s.live → runsTo (.asmLatestReached n) s (fun t =>
      (tmpl t.live n).releases = (tmpl s.live n).releases.map (fun z => if z.num = r.num then { z with latest := true } else z) ∧
      (∀ k, k ≠ n.val → tmpl t.live k = tmpl s.live k) ∧
      t = { s with live := { s.live with solver := { s.live.solver with tmpls := t.live.solver.tmpls } } })) ∧
  (∀ (s : State) (e : Fin 32) (q : BeDesc) (rest : List BeDesc), awake s → ordered s.live → (be s.live e).queue = q :: rest →
    (be s.live e).run.isSome = true → runsTo (.basaltUncorrectable e) s (fun t =>
      (be t.live e).uncorrectable = (be s.live e).uncorrectable + 1 ∧
      (∀ z ∈ (tmpl t.live q.template).releases, z.num = q.release → z.fail = some 2) ∧
      ((∀ x ∈ s.live.solver.tmpls, x.2.imageDue = []) → t.live.solver.mem = s.live.solver.mem) ∧
      t = { s with live := { s.live with
        dev := { s.live.dev with dies := t.live.dev.dies }, solver := t.live.solver, tiles := t.live.tiles, cont := t.live.cont
        free := t.live.free } }))

/-- The assembly of a release (06 R147, R152): where its inputs and its buffer are ready and no template of the engine goes first, the
release has started in that buffer, the buffers alternate, and its chain stands behind what the engine already holds. -/
def Obligations.AssemblyEnqueuesTheChain : Prop :=
  ∀ (s : State) (n : Fin 4096) (r : Release) (e : Nat), awake s → ordered s.live → nextAssembly s.live n = some r →
    tmplEngine s.live n = some e → asmReady s.live n = true → asmFirst s.live n e = true → runsTo (.assemblyStart n) s (fun t =>
      (∀ z ∈ (tmpl t.live n).releases, z.num = r.num → z.started = true ∧ z.buffer = (tmpl s.live n).nextBuffer) ∧
      (tmpl t.live n).nextBuffer =
        (if tBuffers (tRec s.live.cfg.active n) = 1 then 1 - (tmpl s.live n).nextBuffer else 0) ∧
      ((be t.live e).queue ++ (be t.live e).waiting.flatten).map (·.desc) =
        ((be s.live e).queue ++ (be s.live e).waiting.flatten).map (·.desc) ++
          bufferChain s.live.cfg.active n (tmpl s.live n).nextBuffer ∧
      (∀ q ∈ (be t.live e).queue ++ (be t.live e).waiting.flatten,
        q ∈ (be s.live e).queue ++ (be s.live e).waiting.flatten ∨ (q.template = n.val ∧ q.release = r.num)) ∧
      (∀ k, k ≠ e → be t.live k = be s.live k) ∧ (∀ k, k ≠ n.val → tmpl t.live k = tmpl s.live k) ∧
      t = { s with live := { s.live with solver := { s.live.solver with
        mem := t.live.solver.mem, engines := t.live.solver.engines, tmpls := t.live.solver.tmpls } } })

/-! ## Halo -/

/-- A loop update (07 R176 to R178, R182, R183, R189, R190). A sample whose loop does not run on the engine is dropped from the queue.
Otherwise RF follows the reference; an error that is not finite sets ARITH and commands nothing; outside the band a closed loop steps
one level toward it, no earlier than the lead and the dwell allow, and only against a credit; within the band, without a usable
slope, it commands nothing; a loop that closes preloads its integrator and commands nothing; an open one commands only OPEN_LEVEL.
A discard notice gives the next update LEVEL and LAST_EXEC from the command shadow. -/
def Obligations.LoopsActOnTheirSamples : Prop :=
  (∀ (s : State) (e : Fin 16) (q : QSample) (rest : List QSample), awake s → ordered s.live → (he s.live e).queue = q :: rest →
    loopRuns s.live q.loop e = false → runsTo (.haloLoopUpdate e) s (fun t =>
      he t.live e = { he s.live e with queue := rest } ∧ (∀ k, k ≠ e.val → he t.live k = he s.live k) ∧
      t = { s with live := { s.live with halo := { s.live.halo with engines := t.live.halo.engines } } })) ∧
  (∀ (s : State) (e : Fin 16) (q : QSample) (rest : List QSample), awake s → ordered s.live → loopTakes s e q rest →
    runsTo (.haloLoopUpdate e) s (fun t =>
      (he t.live e).queue = rest ∧ (he t.live e).updates = (he s.live e).updates + 1 ∧ (∀ k, k ≠ e.val → he t.live k = he s.live k) ∧
      (loop t.live q.loop).discard = false ∧ (loop t.live q.loop).rf = nextRf s.live q ∧
      (∀ k, k ≠ q.loop → loop t.live k = loop s.live k) ∧
      (isFin32 (loopErr s.live q) = true → (loop t.live q.loop).e0 = loopErr s.live q ∧ (loop t.live q.loop).t0 = q.t1) ∧
      (isFin32 (loopErr s.live q) = false → (loop t.live q.loop).nArith = (loop s.live q.loop).nArith + 1 ∧
        hasFlag lfArith (loop t.live q.loop).flags = true ∧ (loop t.live q.loop).level = (loopNow s.live q.loop).level ∧
        (loop t.live q.loop).t0 = (loop s.live q.loop).t0 ∧ t.live.trunks = s.live.trunks) ∧
      t = { s with live := { s.live with
        halo := { s.live.halo with engines := t.live.halo.engines, loops := t.live.halo.loops, caps := t.live.halo.caps }
        trunks := t.live.trunks, tiles := { s.live.tiles with stratum := t.live.tiles.stratum } } })) ∧
  (∀ (s : State) (e : Fin 16) (q : QSample) (rest : List QSample) (d new : Int), awake s → ordered s.live → loopTakes s e q rest →
    isFin32 (loopErr s.live q) = true → hasFlag lfClosed (loop s.live q.loop).flags = true →
    hasFlag lfPending (loop s.live q.loop).flags = false → (loopNow s.live q.loop).lastExec ≤ q.t1 →
    (lt32 (hAdd (bandCentre s.live q) (loop s.live q.loop).h) (loopErr s.live q) = true ∧ d = 1 ∨
      lt32 (hAdd (bandCentre s.live q) (loop s.live q.loop).h) (loopErr s.live q) = false ∧
      lt32 (loopErr s.live q) (hSub (bandCentre s.live q) (loop s.live q.loop).h) = true ∧ d = -1) →
    new = ((loopNow s.live q.loop).level : Int) + (if lpPol (loopRec s.live q.loop) then -d else d) →
    runsTo (.haloLoopUpdate e) s (fun t =>
      (new < 0 ∨ (lpLevels (loopRec s.live q.loop) : Int) < new → hasFlag lfEnd (loop t.live q.loop).flags = true ∧
        (loop t.live q.loop).nEndLevel = (loop s.live q.loop).nEndLevel + 1 ∧
        (loop t.live q.loop).level = (loopNow s.live q.loop).level ∧ t.live.trunks = s.live.trunks) ∧
      (0 ≤ new → new ≤ (lpLevels (loopRec s.live q.loop) : Int) →
        (mayHand s.live (lpTrunk (loopRec s.live q.loop)) (lpCell (loopRec s.live q.loop)) e = true →
          (loop t.live q.loop).level = new.toNat ∧ (loop t.live q.loop).lastExec = earliest s.live q ∧
          (loop t.live q.loop).nCommands = (loop s.live q.loop).nCommands + 1 ∧
          hasFlag lfCredit (loop t.live q.loop).flags = false ∧
          (trunk t.live (lpTrunk (loopRec s.live q.loop))).queue = (trunk s.live (lpTrunk (loopRec s.live q.loop))).queue ++
            [{ cell := lpCell (loopRec s.live q.loop), output := lpOutput (loopRec s.live q.loop), level := new.toNat, loop := q.loop
               engine := e, exec := earliest s.live q, epoch := BitVec.ofNat 32 s.live.dev.epoch
               number := (cell s.live (cellKey (lpTrunk (loopRec s.live q.loop)) (lpCell (loopRec s.live q.loop)))).cmdSeq
               angle := if lpStamp (loopRec s.live q.loop) then some (lpTracker (loopRec s.live q.loop),
                 targetAngle s.live (updOf s.live q) (earliest s.live q)) else none }] ∧
          (∀ k, k ≠ lpTrunk (loopRec s.live q.loop) → trunk t.live k = trunk s.live k)) ∧
        (mayHand s.live (lpTrunk (loopRec s.live q.loop)) (lpCell (loopRec s.live q.loop)) e = false →
          hasFlag lfCredit (loop t.live q.loop).flags = true ∧
          (loop t.live q.loop).nCreditWaits = (loop s.live q.loop).nCreditWaits + 1 ∧
          (loop t.live q.loop).level = (loopNow s.live q.loop).level ∧
          (loop t.live q.loop).lastExec = (loopNow s.live q.loop).lastExec ∧ t.live.trunks = s.live.trunks)))) ∧
  (∀ (s : State) (e : Fin 16) (q : QSample) (rest : List QSample), awake s → ordered s.live → loopTakes s e q rest →
    isFin32 (loopErr s.live q) = true → hasFlag lfClosed (loop s.live q.loop).flags = true →
    hasFlag lfPending (loop s.live q.loop).flags = false →
    (q.t1 < (loopNow s.live q.loop).lastExec ∨
      lt32 (hAdd (bandCentre s.live q) (loop s.live q.loop).h) (loopErr s.live q) = false ∧
      lt32 (loopErr s.live q) (hSub (bandCentre s.live q) (loop s.live q.loop).h) = false ∧ slopeUsable s.live q = false) →
    runsTo (.haloLoopUpdate e) s (fun t => (loop t.live q.loop).level = (loopNow s.live q.loop).level ∧
      hasFlag lfNoSlope (loop t.live q.loop).flags = !slopeUsable s.live q ∧ t.live.trunks = s.live.trunks)) ∧
  (∀ (s : State) (e : Fin 16) (q : QSample) (rest : List QSample), awake s → ordered s.live → loopTakes s e q rest →
    isFin32 (loopErr s.live q) = true → hasFlag lfClosed (loop s.live q.loop).flags = true →
    hasFlag lfPending (loop s.live q.loop).flags = true → (loopNow s.live q.loop).lastExec ≤ q.t1 →
    runsTo (.haloLoopUpdate e) s (fun t => hasFlag lfPending (loop t.live q.loop).flags = false ∧
      hasFlag lfWindow (loop t.live q.loop).flags = false ∧ (loop t.live q.loop).swCount = 0 ∧
      (loop t.live q.loop).level = (loopNow s.live q.loop).level ∧ t.live.trunks = s.live.trunks ∧
      (loop t.live q.loop).integ = (if lpIntEn (loopRec s.live q.loop) then
        hClamp (hSub (lpBandC (loopRec s.live q.loop)) (loopErr s.live q)) (hNeg (lpIMax (loopRec s.live q.loop)))
          (lpIMax (loopRec s.live q.loop)) else (loop s.live q.loop).integ))) ∧
  (∀ (s : State) (e : Fin 16) (q : QSample) (rest : List QSample), awake s → ordered s.live → loopTakes s e q rest →
    isFin32 (loopErr s.live q) = true → hasFlag lfClosed (loop s.live q.loop).flags = false →
    runsTo (.haloLoopUpdate e) s (fun t => (loop t.live q.loop).integ = (loop s.live q.loop).integ ∧
      (loop t.live q.loop).h = (loop s.live q.loop).h ∧
      ((loop t.live q.loop).level = (loopNow s.live q.loop).level ∨
        (loop t.live q.loop).level = lpOpenLevel (loopRec s.live q.loop)) ∧
      (lpOpenLevel (loopRec s.live q.loop) = 15 → t.live.trunks = s.live.trunks))) ∧
  (∀ (s : State) (l : Fin 16384), awake s → ordered s.live → hasObj s.live.cfg.active 0x5010 0 l = true →
    runsTo (.commandDiscardNotice l) s (fun t => loop t.live l = { loop s.live l with discard := true } ∧
      (∀ k, k ≠ l.val → loop t.live k = loop s.live k) ∧
      t = { s with live := { s.live with halo := { s.live.halo with loops := t.live.halo.loops } } }))

/-- Generators, injectors and capture channels (07 R193, R196, R198): a generator that is due steps, and one within one step of its target
stops there; an injector armed for a loop starts at the loop's update and is idle again when its duration has passed, and its loop's
INJECTING ends with the last that acts; an armed channel of the loop counts one entry and moves on. -/
def Obligations.GeneratorsInjectorsAndCaptures : Prop :=
  (∀ (s : State) (g : Fin 4096), awake s → ordered s.live → s.live.cfg.present = true → hasObj s.live.cfg.active 0x5020 0 g = true →
    gnMode (genRec s.live g) = 1 → (gen s.live g).stopped = false → (gen s.live g).struck = false →
    dieGood (die s.live ((gen s.live g).engine / 4)) = true →
    ((gen s.live g).stepAt + gnPeriod (genRec s.live g) * 1000 : Int) ≤ lc3Ns s.live → runsTo (.profileStep g) s (fun t =>
      gen t.live g = { genStep (genRec s.live g) (gen s.live g) with
        stepAt := (gen s.live g).stepAt + gnPeriod (genRec s.live g) * 1000 } ∧
      (genThere (genRec s.live g) (gen s.live g) = true → (gen t.live g).p = gnTarget (genRec s.live g) ∧ (gen t.live g).v = 0 ∧
        (gen t.live g).a = 0 ∧ (gen t.live g).flags = 1) ∧
      (∀ k, k ≠ g.val → gen t.live k = gen s.live k) ∧
      t = { s with live := { s.live with halo := { s.live.halo with gens := t.live.halo.gens } } })) ∧
  (∀ (s : State) (i : Fin 64) (ts : Nat), awake s → ordered s.live → (inj s.live i).ts = some ts → ijDuration (injRec s.live i) ≠ 0 →
    (ts + ijDuration (injRec s.live i) * 1000 : Int) ≤ lc3Ns s.live → runsTo (.injectorEnd i) s (fun t =>
      inj t.live i = {} ∧ (∀ k, k ≠ i.val → inj t.live k = inj s.live k) ∧
      (∀ k, loop t.live k = { loop s.live k with flags := (loop t.live k).flags }) ∧
      (∀ k, k ≠ ijLoop (injRec s.live i) → loop t.live k = loop s.live k) ∧
      ((∀ k ∈ injsOf s.live (ijLoop (injRec s.live i)) 0 ++ injsOf s.live (ijLoop (injRec s.live i)) 1, k ≠ i.val →
          (inj s.live k).ts = none) → hasFlag lfInject (loop t.live (ijLoop (injRec s.live i))).flags = false) ∧
      t = { s with live := { s.live with halo := { s.live.halo with injs := t.live.halo.injs, loops := t.live.halo.loops } } })) ∧
  (∀ (s : State) (e : Fin 16) (q : QSample) (rest : List QSample) (i at_ : Nat), awake s → ordered s.live →
    (he s.live e).queue = q :: rest → loopRuns s.live q.loop e = true → i ∈ injsOf s.live q.loop 0 ++ injsOf s.live q.loop 1 →
    (inj s.live i).armed = some at_ → runsTo (.haloLoopUpdate e) s (fun t =>
      inj t.live i = (if at_ ≤ q.t1 then { armed := none, ts := some q.t1 } else inj s.live i))) ∧
  (∀ (s : State) (e : Fin 16) (q : QSample) (rest : List QSample) (c : Nat), awake s → ordered s.live → loopTakes s e q rest →
    storeSorted s.live.cfg.active → c < 2 ^ 24 → hasObj s.live.cfg.active 0x5040 0 c = true → cpLoop (capRec s.live c) = q.loop →
    (cap s.live c).state = .armed → (cap s.live c).pending = none → (cap s.live c).decim = 0 → runsTo (.haloLoopUpdate e) s (fun t =>
      (cap t.live c).state = .armed ∧ (cap t.live c).count = (cap s.live c).count + 1 ∧
      (cap t.live c).decim = cpDecim (capRec s.live c) - 1 ∧
      (cap t.live c).idx = (if (cap s.live c).idx + 1 < cpEntries (capRec s.live c) then (cap s.live c).idx + 1 else 0)))

/-! ## Partitions -/

/-- A batch step and what ends it (09 R241 to R245, R248, R252 to R254, Tables 9.3 and 9.5; 08 R219): a step takes its members, writes the
member table to each die's step area (its format is the model's, log 104), posts and starts every context at the start of its
program; a ring slot that is empty takes the next page descriptor of the walk; at END the members' tokens are consumed, their
positions advance and the partition rests, but a step that has run for STEP_LIMIT cycles is torn down; a teardown scrubs the share
and ends IDLE, HALTED or LOADING with the members' tokens kept; a model switch begins where no step runs and ends with the share
scrubbed and the new model and its weights resident. No other partition is touched. -/
def Obligations.PartitionsStepSwitchAndTearDown : Prop :=
  (∀ (s : State) (p : Fin 32), awake s → ordered s.live → memoriesOk s.live → pInSet s.live.cfg.active p = true →
    (part s.live p).mode = .idle → (part s.live p).switchTo = none → (part s.live p).stoppedBy = false → nextMembers s.live p ≠ [] →
    areaBase s.live.cfg.active p + 12 * (nextMembers s.live p).length ≤ 2 ^ 32 → runsTo (.stepForm p) s (fun t =>
      (part t.live p).mode = .stepping ∧ (part t.live p).members = nextMembers s.live p ∧
      (part t.live p).step = (part s.live p).step + 1 ∧ (part t.live p).stepAt = nowNs s.live ∧ (part t.live p).ring = [] ∧
      (∀ k ∈ pCtxs (actPart s.live p), (ctxAt t.live k).pc = 0 ∧ (ctxAt t.live k).running = true ∧ (ctxAt t.live k).stopped = false ∧
        (ctxAt t.live k).atEnd = false ∧ (ctxAt t.live k).wait = .none ∧ (ctxAt t.live k).part = some p.val) ∧
      (∀ k, k ∉ pCtxs (actPart s.live p) → sliceOnly (ctxAt t.live k) (ctxAt s.live k)) ∧
      (∀ m ∈ nextMembers s.live p, (isPfx m = false → (seq t.live m).mode = .running) ∧
        (isPfx m = true → (pfx t.live (pfxKey m p)).running = true)) ∧
      (∀ d ∈ pDies (actPart s.live p), Mem.read t.live.tiles.stratum (farBase p d + areaBase s.live.cfg.active p)
        (12 * (nextMembers s.live p).length) = (nextMembers s.live p).flatMap (memberEntry s.live p)) ∧
      (∀ k, k ≠ p.val → part t.live k = part s.live k) ∧
      t = { s with live := { s.live with
        serving := t.live.serving
        tiles := { s.live.tiles with
          ctxs := t.live.tiles.ctxs, scratch := t.live.tiles.scratch, stratum := t.live.tiles.stratum
          slice := t.live.tiles.slice, sliceAt := t.live.tiles.sliceAt }
        cont := { s.live.cont with sync := t.live.cont.sync } } })) ∧
  (∀ (s : State) (p : Fin 32) (tile : Fin 128) (slot : Nat) (x : Nat × Nat × Nat) (rest : List (Nat × Nat × Nat)), awake s →
    ordered s.live → memoriesOk s.live → storeSorted (part s.live p).walk → storeSorted (part s.live p).ring →
    (part s.live p).mode = .stepping → sGet [] (part s.live p).walk tile = x :: rest → slot < ringSize p tile →
    sFind (part s.live p).ring (tile.val * 64 + slot) = none → runsTo (.pageRingRefill p tile slot) s (fun t =>
      sGet [] (part t.live p).walk tile = rest ∧
      sGet 0 (part t.live p).ring (tile.val * 64 + slot) = pageDesc s.live p x.1 x.2.1 x.2.2 ∧
      leNat (padRead t.live tile (ringByte (actPart s.live p) p tile slot) 32) = (pageDesc s.live p x.1 x.2.1 x.2.2).toNat ∧
      (∀ o, o ≠ ringFill (actPart s.live p) p tile → syncCount t.live o = syncCount s.live o) ∧
      ((∀ e ∈ s.live.tiles.ctxs, e.2.wait ≠ .sync (ringFill (actPart s.live p) p tile)) →
        syncCount t.live (ringFill (actPart s.live p) p tile) = syncCount s.live (ringFill (actPart s.live p) p tile) + 1) ∧
      (∀ k, k ≠ p.val → part t.live k = part s.live k) ∧
      t = { s with live := { s.live with
        serving := { s.live.serving with parts := t.live.serving.parts }
        tiles := { s.live.tiles with scratch := t.live.tiles.scratch, sync := t.live.tiles.sync, ctxs := t.live.tiles.ctxs }
        cont := { s.live.cont with sync := t.live.cont.sync } } })) ∧
  (∀ (s : State) (p : Fin 32), awake s → ordered s.live → (part s.live p).mode = .stepping →
    (∀ k ∈ pCtxs (actPart s.live p), (ctxAt s.live k).atEnd = true) →
    (pStepLimit (actPart s.live p) ≤ stepCycles s.live p → runsTo (.stepEndPhase p) s (fun t =>
      part t.live p = { part s.live p with
        mode := .teardown, cause := 2, reason := 0, nOverruns := (part s.live p).nOverruns + 1 } ∧
      t.live.serving.seqs = s.live.serving.seqs)) ∧
    (stepCycles s.live p < pStepLimit (actPart s.live p) → runsTo (.stepEndPhase p) s (fun t =>
      (part t.live p).mode = (if pMode (actPart s.live p) = 2 ∧ ((part s.live p).started = false ∨ (part s.live p).stopping = true)
        then .reservedIdle else .idle) ∧
      (part t.live p).members = [] ∧ (part t.live p).sinceStep = 0 ∧ (part t.live p).nSteps = (part s.live p).nSteps + 1 ∧
      (part t.live p).nTokens = (part s.live p).nTokens +
        ((part s.live p).members.filter (fun m => !isPfx m && decide ((seq s.live m).mode = .running))).length ∧
      (part t.live p).obsMax = max (part s.live p).obsMax (stepCycles s.live p) ∧
      (part t.live p).perfN = (part s.live p).perfN + 1 ∧
      (∀ k ∈ pCtxs (actPart s.live p), (ctxAt t.live k).running = false ∧ (ctxAt t.live k).atEnd = false) ∧
      (∀ k, k ∉ pCtxs (actPart s.live p) → sliceOnly (ctxAt t.live k) (ctxAt s.live k)) ∧
      (∀ m ∈ (part s.live p).members, isPfx m = false → (seq s.live m).mode = .running → (seq t.live m).token = none ∧
        (seq t.live m).mode ≠ .running ∧ ((seq s.live m).noOutput = false →
          (seq s.live m).p + 1 < mdMaxCtx (seqModel s.live m) → (seq t.live m).p = (seq s.live m).p + 1)) ∧
      (∀ k, k ≠ p.val → part t.live k = part s.live k) ∧
      t = { s with live := { s.live with
        serving := t.live.serving
        tiles := { s.live.tiles with
          ctxs := t.live.tiles.ctxs, scratch := t.live.tiles.scratch, stratum := t.live.tiles.stratum
          slice := t.live.tiles.slice, sliceAt := t.live.tiles.sliceAt
          sticky := t.live.tiles.sticky, arithCount := t.live.tiles.arithCount }
        solver := { s.live.solver with tmpls := t.live.solver.tmpls }
        cont := { s.live.cont with obs := t.live.cont.obs }, link := t.live.link, out := t.live.out, free := t.live.free } }))) ∧
  (∀ (s : State) (p : Fin 32), awake s → ordered s.live → (part s.live p).mode = .stepping →
    pStepLimit (actPart s.live p) ≤ stepCycles s.live p → runsTo (.stepOverrun p) s (fun t =>
      part t.live p = { part s.live p with
        mode := .teardown, cause := 2, reason := 0, nOverruns := (part s.live p).nOverruns + 1 } ∧
      (∀ k ∈ pCtxs (actPart s.live p), (ctxAt t.live k).stopped = true ∧ (ctxAt t.live k).running = false) ∧
      (∀ k, k ∉ pCtxs (actPart s.live p) → ctxAt t.live k = ctxAt s.live k) ∧
      (∀ k, k ≠ p.val → part t.live k = part s.live k) ∧
      t = { s with live := { s.live with
        serving := { s.live.serving with parts := t.live.serving.parts }
        tiles := { s.live.tiles with ctxs := t.live.tiles.ctxs } } })) ∧
  (∀ (s : State) (p : Fin 32), awake s → ordered s.live → memoriesOk s.live → shareFits s.live p → (part s.live p).mode = .teardown →
    runsTo (.teardownComplete p) s (fun t => sharesScrubbed s.live t.live p ∧
      (part t.live p).members = [] ∧ (part t.live p).nTeardowns = (part s.live p).nTeardowns + 1 ∧
      (part t.live p).sinceStep = (part s.live p).sinceStep + (if (part s.live p).cause = 3 then 0 else 1) ∧
      (part t.live p).mode = (if (part s.live p).cause ≠ 3 ∧ pFaultLimit (actPart s.live p) ≤ (part s.live p).sinceStep + 1 then .halted
        else if (part s.live p).gone = true then .loading
        else if pMode (actPart s.live p) = 2 ∧ ((part s.live p).started = false ∨ (part s.live p).stopping = true)
          then .reservedIdle else .idle) ∧
      (∀ k ∈ pCtxs (actPart s.live p), (ctxAt t.live k).sb = [] ∧ (ctxAt t.live k).parked = [] ∧
        (ctxAt t.live k).running = false ∧ (ctxAt t.live k).stopped = false) ∧
      (∀ k, k ∉ pCtxs (actPart s.live p) → sliceOnly (ctxAt t.live k) (ctxAt s.live k)) ∧
      (∀ m ∈ (part s.live p).members, isPfx m = false → (seq s.live m).mode = .running → (seq s.live m).noOutput = false →
        (seq t.live m).token = (seq s.live m).token ∧ (seq t.live m).p = (seq s.live m).p ∧ (seq t.live m).mode ≠ .running) ∧
      (∀ k, k ≠ p.val → part t.live k = part s.live k) ∧
      t = { s with live := { s.live with
        serving := t.live.serving, tiles := t.live.tiles, cont := t.live.cont, link := t.live.link, out := t.live.out
        free := t.live.free } })) ∧
  (∀ (s : State) (p : Fin 32) (e : Nat), awake s → ordered s.live →
    ((part s.live p).mode = .idle ∨ (part s.live p).mode = .reservedIdle) → (part s.live p).switchTo = some e →
    (part s.live p).stoppedBy = false → runsTo (.modelSwitchStart p) s (fun t =>
      part t.live p = { part s.live p with mode := .loading, nSwitches := (part s.live p).nSwitches + 1 } ∧
      (∀ k, k ≠ p.val → part t.live k = part s.live k) ∧
      t = { s with live := { s.live with serving := { s.live.serving with parts := t.live.serving.parts } } })) ∧
  (∀ (s : State) (p : Fin 32) (m : Nat), awake s → ordered s.live → memoriesOk s.live → shareFits s.live p →
    (part s.live p).mode = .loading → m = pModel (actPart s.live p) ((part s.live p).switchTo.getD (residentEntry s.live p)) →
    runsTo (.modelSwitchComplete p) s (fun t => sharesScrubbed s.live t.live p ∧
      part t.live p = { part s.live p with model := m, switchTo := none, mode := (part t.live p).mode } ∧
      (part t.live p).mode = (if pMode (actPart s.live p) = 2 ∧ (part s.live p).started = false then .reservedIdle else .idle) ∧
      (∀ i b, i < (pDies (actPart s.live p)).length →
        b = regionImage (modelIn s.live.cfg.active m) (actObj s.live 0x3101 0 m) (pDies (actPart s.live p)).length i →
        regionBase s.live.cfg.active p + b.length ≤ 2 ^ 32 →
        regionBase s.live.cfg.active p + 65536 * pagesOf (regionBytes s.live.cfg.active p) ≤ 2 ^ 32 →
        (∀ j, regionBase s.live.cfg.active p + (regionImage (modelIn s.live.cfg.active m) (actObj s.live 0x3101 0 m)
          (pDies (actPart s.live p)).length j).length ≤ 2 ^ 32) →
        Mem.read t.live.tiles.stratum (farBase p (nth 0 (pDies (actPart s.live p)) i) + regionBase s.live.cfg.active p) b.length = b) ∧
      (∀ k, k ≠ p.val → part t.live k = part s.live k) ∧
      t = { s with live := { s.live with
        serving := { s.live.serving with parts := t.live.serving.parts }
        tiles := { s.live.tiles with scratch := t.live.tiles.scratch, stratum := t.live.tiles.stratum } } }))

/-- Tokens, pages and pools (08 R209, R210, R224 to R230): a token boundary closes with one reduced value for each feature, or stretches
while a token waits; a spill starts one page down a tier; a move or a prefetch whose exchange with the session is done ends with the
page's bytes in its frame; a pre-empted sequence is asked back once it is first and there is room, and goes on when everything has
come; a waiting flush is tried again and takes a frame where there is one. -/
def Obligations.TokensAndPagesMoveAsTheRulesSay : Prop :=
  (∀ (s : State) (q : Fin 16384) (stamp : Nat) (later : List Nat), awake s → ordered s.live →
    hasObj s.live.cfg.active 0x3800 0 q = true → (seq s.live q).closings = stamp :: later →
    ((lc3Ns s.live : Int) < stamp + sqGrace (sqRec s.live q) * 1000 → runsTo (.tokenClose q) s (fun t => t = s)) ∧
    ((stamp + sqGrace (sqRec s.live q) * 1000 : Int) ≤ lc3Ns s.live → runsTo (.tokenClose q) s (fun t =>
      (seq t.live q).closings = later ∧
      ((seq s.live q).token.isSome = true → seq t.live q = { seq s.live q with
        closings := later, spans := mergeSpan (seq s.live q).spans, stretching := true }) ∧
      ((seq s.live q).token = none → ∃ vals, (seq t.live q).token = some vals ∧
        vals.length = featCount s.live (sqMap (sqRec s.live q)) ∧
        (∀ i, i < vals.length → nth 0 vals i =
          if (openFeat s.live q i).n = 0 then (openFeat s.live q i).prevVal
          else hMul (hSub (reduced (feOp (featEntry s.live (sqMap (sqRec s.live q)) i)) (openFeat s.live q i))
            (feOffset (featEntry s.live (sqMap (sqRec s.live q)) i))) (feScale (featEntry s.live (sqMap (sqRec s.live q)) i))) ∧
        (seq t.live q).mode = (if (seq s.live q).mode = .idle ∧ pfxReady s.live q = true then .due else (seq s.live q).mode) ∧
        (seq t.live q).nTokens = (seq s.live q).nTokens + 1 ∧ (seq t.live q).boundary = stamp ∧
        (seq t.live q).stretched = (seq s.live q).stretching ∧ (seq t.live q).stretching = false ∧
        ((seq t.live q).gap = true ↔ ∃ i, i < vals.length ∧ (openFeat s.live q i).n = 0) ∧
        (∀ i, i < vals.length → 2 ≤ (seq s.live q).spans.length → (∀ row ∈ (seq s.live q).spans, row ≠ [] ∧ ∀ st ∈ row, storeSorted st) →
          openFeat t.live q i = { sGet {} (nth [] (nth [] (seq s.live q).spans 1) 0) i with
            prevVal := nth 0 vals i
            prevLast := if (openFeat s.live q i).n = 0 then (openFeat s.live q i).prevLast else (openFeat s.live q i).last })) ∧
      (∀ k, k ≠ q.val → seq t.live k = seq s.live k) ∧
      t = { s with live := { s.live with
        serving := { s.live.serving with seqs := t.live.serving.seqs }, link := t.live.link, out := t.live.out, free := t.live.free } }))) ∧
  (∀ (s : State) (p : Fin 32) (q n i d : Nat) (dest : Nat × Nat), awake s → ordered s.live → pInSet s.live.cfg.active p = true →
    kvSpill (kvRec s.live p) = true → d ∈ pDies (actPart s.live p) → freeT1 s.live p d < kvSpillFloor (kvRec s.live p) →
    lowestSeq s.live p (fun k => (oldestPage s.live p k 1).isSome) = some q → oldestPage s.live p q 1 = some (n, i) →
    q < 16384 → storeSorted (seq s.live q).lists →
    lowerFrame s.live p 1 (nth {} (pageList s.live p q n).pages i).die = some dest → runsTo (.backgroundSpill p) s (fun t =>
      nth {} (pageList t.live p q n).pages i = { nth {} (pageList s.live p q n).pages i with moving := true, dest := some dest } ∧
      (pool t.live p).nSpills = (pool s.live p).nSpills + 1 ∧ (∀ k, k ≠ q → seq t.live k = seq s.live k) ∧
      (∀ k, k ≠ p.val → pool t.live k = pool s.live k) ∧
      t = { s with live := { s.live with
        serving := { s.live.serving with seqs := t.live.serving.seqs, pools := t.live.serving.pools }
        link := t.live.link, out := t.live.out, free := t.live.free } })) ∧
  (∀ (s : State) (q : Fin 16384) (e n i tier f : Nat), awake s → ordered s.live → memoriesOk s.live →
    hasObj s.live.cfg.active 0x3800 0 q = true →
    entryAt s.live q e n i → (pageAt s.live q n i).dest = some (tier, f) → (pageAt s.live q n i).pinned = false →
    (tier = 3 → swapDone s.live (seqPart s.live q) true f = true) →
    (tier ≠ 3 → (pageAt s.live q n i).tier = 3 → swapDone s.live (seqPart s.live q) false (pageAt s.live q n i).frame = true) →
    ((seq s.live q).mode = .preempted → (seq s.live q).returning = false → tier = 3) →
    runsTo (.pageMoveComplete q e) s (fun t =>
      pageAt t.live q n i = { pageAt s.live q n i with
        tier := tier, frame := f, moving := false, dest := none
        die := if tier = 2 then kvT2Die (kvRec s.live (seqPart s.live q)) else (pageAt s.live q n i).die } ∧
      (tier = 1 ∨ tier = 2 → Mem.read t.live.tiles.stratum (farBase (seqPart s.live q) (pageAt t.live q n i).die +
        frameAt s.live.cfg.active (seqPart s.live q) f) (pageAt s.live q n i).bytes.length = (pageAt s.live q n i).bytes) ∧
      (∀ k, (seq t.live k).mode = (seq s.live k).mode ∧ (seq t.live k).p = (seq s.live k).p) ∧
      t = { s with live := { s.live with
        serving := { s.live.serving with seqs := t.live.serving.seqs }
        tiles := { s.live.tiles with scratch := t.live.tiles.scratch, stratum := t.live.tiles.stratum } } })) ∧
  (∀ (s : State) (q : Fin 16384) (e n i d f : Nat), awake s → ordered s.live → memoriesOk s.live →
    hasObj s.live.cfg.active 0x3800 0 q = true →
    entryAt s.live q e n i → (pageAt s.live q n i).fetching = true → (pageAt s.live q n i).copy = some (d, f) →
    swapDone s.live (seqPart s.live q) false (pageAt s.live q n i).frame = true →
    runsTo (.prefetchComplete q e) s (fun t =>
      pageAt t.live q n i = { pageAt s.live q n i with fetching := false, prefetched := true } ∧
      Mem.read t.live.tiles.stratum (farBase (seqPart s.live q) d + frameAt s.live.cfg.active (seqPart s.live q) f)
        (pageAt s.live q n i).bytes.length = (pageAt s.live q n i).bytes ∧
      (pool t.live (seqPart s.live q)).nPrefetch = (pool s.live (seqPart s.live q)).nPrefetch + 1 ∧
      (∀ k, k ≠ q.val → seq t.live k = seq s.live k) ∧
      t = { s with live := { s.live with
        serving := { s.live.serving with seqs := t.live.serving.seqs, pools := t.live.serving.pools }
        tiles := { s.live.tiles with stratum := t.live.tiles.stratum } } })) ∧
  (∀ (s : State) (q : Fin 16384), awake s → ordered s.live → hasObj s.live.cfg.active 0x3800 0 q = true →
    (seq s.live q).mode = .preempted →
    (settledT3 s.live (seqPart s.live q) q = true → (seq s.live q).returning = true → runsTo (.preemptReturn q) s (fun t =>
      (seq t.live q).mode = readyMode s.live q ∧ (seq t.live q).token = (seq s.live q).token ∧ (seq t.live q).returning = false ∧
      (seq t.live q).nReturns = (seq s.live q).nReturns + 1 ∧ (∀ l ∈ (seq t.live q).lists, l.2.away = []) ∧
      (∀ k, k ≠ q.val → seq t.live k = seq s.live k) ∧
      t = { s with live := { s.live with
        serving := { s.live.serving with seqs := t.live.serving.seqs }
        cont := { s.live.cont with obs := t.live.cont.obs }, link := t.live.link, out := t.live.out, free := t.live.free } })) ∧
    (settledT3 s.live (seqPart s.live q) q = true → (seq s.live q).returning = false →
      returnsFirst s.live (seqPart s.live q) q = true → storeSorted (seq s.live q).lists →
      (∀ d ∈ pDies (actPart s.live (seqPart s.live q)),
        returnNeeds s.live (seqPart s.live q) q d ≤ openT1 s.live (seqPart s.live q) d) → runsTo (.preemptReturn q) s (fun t =>
      ((seq t.live q).mode = .preempted ∧ (seq t.live q).returning = true ∨
        (seq t.live q).mode = readyMode s.live q ∧ (seq t.live q).nReturns = (seq s.live q).nReturns + 1) ∧
      (∀ n, n < mdLists (seqModel s.live q) → (pageList t.live (seqPart s.live q) q n).reserve = true) ∧
      (seq t.live q).token = (seq s.live q).token ∧ (∀ k, k ≠ q.val → seq t.live k = seq s.live k))) ∧
    (settledT3 s.live (seqPart s.live q) q = false ∨ (seq s.live q).returning = false ∧
      (returnsFirst s.live (seqPart s.live q) q = false ∨ ∃ d ∈ pDies (actPart s.live (seqPart s.live q)),
        openT1 s.live (seqPart s.live q) d < returnNeeds s.live (seqPart s.live q) q d) →
      runsTo (.preemptReturn q) s (fun t => t = s))) ∧
  (∀ (s : State) (p : Fin 32) (q n d f : Nat) (res : Bool) (tier : Nat), awake s → ordered s.live → memoriesOk s.live →
    pInSet s.live.cfg.active p = true → q ∈ seqsIn s.live p → q < 16384 → storeSorted (seq s.live q).lists →
    (pageList s.live p q n).stalled = true → 64 ≤ (pageList s.live p q n).staged.length →
    (∀ m ∈ holders s.live p, ∀ l ∈ listsOf s.live p m, l.2.stalled = true → m = q ∧ l.1 = n) →
    flushFrame s.live p q n = some (tier, d, f, res) → runsTo (.stalledFlushRetry p) s (fun t =>
      (pageList t.live p q n).staged = (pageList s.live p q n).staged.drop 64 ∧ (pageList t.live p q n).stalled = false ∧
      (pageList t.live p q n).pages.length = (pageList s.live p q n).pages.length + 1 ∧
      nth {} (pageList t.live p q n).pages (pageList s.live p q n).pages.length = {
        tier := tier
        die := d
        frame := f
        bytes := pageOf (memberDesc s.live q) (n % 2 == 1) ((pageList s.live p q n).staged.take 64) } ∧
      (tier = 1 → ∀ b, b = pageOf (memberDesc s.live q) (n % 2 == 1) ((pageList s.live p q n).staged.take 64) →
        Mem.read t.live.tiles.stratum (farBase p d + frameAt s.live.cfg.active p f) b.length = b) ∧
      (pool t.live p).flushed = (pool s.live p).flushed + 1 ∧ (pool t.live p).live = (pool s.live p).live + 1))

/-! ## Trunks and cells -/

/-- Links and cell states (10 R263 to R265, R270, R271): a link comes up within range in its role, or is a trunk loss; a refused frame is
counted under its reason and does nothing else, whatever its type; ANNOUNCE, ACK and four silent intervals move the state of the
cell, and of no other; an ACK that echoes another CFG_ID is ignored; a re-announced cell's commands expire, those that wait at the
trunk in their places; an ALARM is counted, kept and recorded and nothing more. -/
def Obligations.LinksAndCellsFollowTheirFrames : Prop :=
  (∀ (s : State) (n : Fin 16) (rate : Fin 3) (master : Bool), awake s → ordered s.live → trEnable (trunkRec s.live n) = true →
    rate.val ≤ trRateMax (trunkRec s.live n) → (trAnEn (trunkRec s.live n) = true ∨ rate.val = trRateMax (trunkRec s.live n)) →
    runsTo (.trunkLinkUp n rate master) s (fun t =>
      (trRateMin (trunkRec s.live n) ≤ rate.val →
        trunk t.live n = { trunk s.live n with
          up := true, rate := rate
          master := if trRole (trunkRec s.live n) = 0 then true else if trRole (trunkRec s.live n) = 1 then false else master } ∧
        (∀ k, k ≠ n.val → trunk t.live k = trunk s.live k) ∧
        t = { s with live := { s.live with trunks := { s.live.trunks with trunks := t.live.trunks.trunks } } }) ∧
      (rate.val < trRateMin (trunkRec s.live n) → trunkLost s t n))) ∧
  (∀ (s : State) (n : Fin 16) (at_ : Option (Fin 3)), awake s → ordered s.live →
    (at_ = none ∧ (trunk s.live n).up = true ∨
      ∃ r, at_ = some r ∧ trEnable (trunkRec s.live n) = true ∧ r.val < trRateMin (trunkRec s.live n)) →
    runsTo (.trunkLinkDown n at_) s (fun t => trunkLost s t n)) ∧
  (∀ (s : State) (n : Fin 16) (f : Frame) (frac : BitVec 16) (reason : Nat) (i : Instr), awake s → ordered s.live →
    storeSorted (trunk s.live n).counters → (trunk s.live n).up = true → refusal s.live n f = some reason →
    i ∈ [.trunkFrameRefused n f, .sample n f, .credit n f frac, .announce n f, .cellcfgAck n f, .alarm n f] →
    runsTo i s (fun t =>
      sGet 0 (trunk t.live n).counters 1 = sGet 0 (trunk s.live n).counters 1 + 1 ∧
      sGet 0 (trunk t.live n).counters reason = sGet 0 (trunk s.live n).counters reason + 1 ∧
      trunk t.live n = { trunk s.live n with counters := (trunk t.live n).counters } ∧
      (∀ k, k ≠ n.val → trunk t.live k = trunk s.live k) ∧
      t = { s with live := { s.live with trunks := { s.live.trunks with trunks := t.live.trunks.trunks } } })) ∧
  (∀ (s : State) (n : Fin 16) (f : Frame), awake s → ordered s.live → frameAccepted s n f 4 → beAt f.bytes 20 1 = 1 →
    runsTo (.announce n f) s (fun t =>
      (cell t.live (cellOf n f)).mode = (if (cell s.live (cellOf n f)).mode = .off then .off else .announced) ∧
      (cell t.live (cellOf n f)).slots = beAt f.bytes 21 1 ∧ (cell t.live (cellOf n f)).heard = nowNs s.live ∧
      ((cell s.live (cellOf n f)).mode ≠ .off → (cell t.live (cellOf n f)).setDue = some (nowNs s.live)) ∧
      ((cell s.live (cellOf n f)).mode = .configured ∨ (cell s.live (cellOf n f)).mode = .lost →
        (cell t.live (cellOf n f)).outstanding = [] ∧
        (trunk t.live n).queue = (trunk s.live n).queue.map (fun c =>
          if c.cell = frCell f.bytes then { c with expired := true } else c) ∧
        (trunk t.live n).expired = (trunk s.live n).expired + (cell s.live (cellOf n f)).outstanding.length +
          ((trunk s.live n).queue.filter (fun c => c.cell == frCell f.bytes && !c.expired)).length) ∧
      (∀ k, k ≠ cellOf n f → cell t.live k = cell s.live k) ∧ (∀ k, k ≠ n.val → trunk t.live k = trunk s.live k) ∧
      t = { s with live := { s.live with trunks := t.live.trunks } })) ∧
  (∀ (s : State) (n : Fin 16) (f : Frame), awake s → ordered s.live → frameAccepted s n f 4 → beAt f.bytes 20 1 = 3 →
    runsTo (.cellcfgAck n f) s (fun t =>
      (cell t.live (cellOf n f)).mode = (if beAt f.bytes 28 4 ≠ clCfgId (cellRec s.live (cellOf n f)) ∨
          (cell s.live (cellOf n f)).mode = .off ∨ (cell s.live (cellOf n f)).mode = .unseen then (cell s.live (cellOf n f)).mode
        else if clSlots (cellRec s.live (cellOf n f)) ≤ beAt f.bytes 21 1 ∧
          (upTo 4).all (fun k => clPeriod (cellRec s.live (cellOf n f)) k == 0 || bit (beAt f.bytes 23 1) k) = true then .configured
        else .mismatch) ∧
      (cell t.live (cellOf n f)).outstanding = (cell s.live (cellOf n f)).outstanding ∧
      (beAt f.bytes 28 4 ≠ clCfgId (cellRec s.live (cellOf n f)) →
        cell t.live (cellOf n f) = { cell s.live (cellOf n f) with heard := nowNs s.live }) ∧
      (∀ k, k ≠ cellOf n f → cell t.live k = cell s.live k) ∧ (∀ k, k ≠ n.val → trunk t.live k = trunk s.live k) ∧
      t = { s with live := { s.live with trunks := t.live.trunks } })) ∧
  (∀ (s : State) (n : Fin 16) (f : Frame), awake s → ordered s.live → frameAccepted s n f 5 → runsTo (.alarm n f) s (fun t =>
    cell t.live (cellOf n f) = { cell s.live (cellOf n f) with
      heard := nowNs s.live, alarm := slice f.bytes 20 28, alarmEpoch := s.live.dev.epoch
      nAlarms := (cell s.live (cellOf n f)).nAlarms + 1 } ∧
    (∀ k, k ≠ cellOf n f → cell t.live k = cell s.live k) ∧
    (s.live.cont.obs.queue.length + s.live.cont.obs.pinned.length < 256 →
      ∃ r, r ∈ t.live.cont.obs.queue ++ t.live.cont.obs.pinned ∧ r.type = 0x40 ∧ r.lc0 = nowNs s.live ∧ r.epoch = s.live.dev.epoch) ∧
    t = { s with live := { s.live with trunks := t.live.trunks, cont := t.live.cont, free := t.live.free } })) ∧
  (∀ (s : State) (n : Fin 16) (c : Fin 256), awake s → ordered s.live →
    ((cell s.live (cellKey n c)).mode = .announced ∨ (cell s.live (cellKey n c)).mode = .configured ∨
      (cell s.live (cellKey n c)).mode = .mismatch) →
    (cell s.live (cellKey n c)).heard + 4 * syncInterval s.live n ≤ nowNs s.live → runsTo (.cellLostTimeout n c) s (fun t =>
      cell t.live (cellKey n c) = { cell s.live (cellKey n c) with mode := .lost, setDue := some (nowNs s.live) } ∧
      (∀ k, k ≠ cellKey n c → cell t.live k = cell s.live k) ∧
      t = { s with live := { s.live with trunks := { s.live.trunks with cells := t.live.trunks.cells } } }))

/-- Samples (10 R283, R284): a frame from a cell that is not CONFIGURED, of another format or out of order is dropped whole under its
reason; of an accepted one each channel is unmapped, decimated, or scaled with one rounding and delivered; what is received is
consumed or dropped. -/
def Obligations.SamplesAreScaledAndAccountedFor : Prop :=
  (∀ (s : State) (n : Fin 16) (f : Frame), awake s → ordered s.live → frameAccepted s n f 1 → storeSorted (trunk s.live n).dropped →
    runsTo (.sample n f) s (fun t =>
      (trunk t.live n).received = (trunk s.live n).received + beAt f.bytes 29 1 ∧
      sampleBalance (trunk t.live n) = sampleBalance (trunk s.live n) ∧
      (cell t.live (cellOf n f)).status = beAt f.bytes 32 2 ∧ (cell t.live (cellOf n f)).mode = (cell s.live (cellOf n f)).mode ∧
      (∀ k, k ≠ cellOf n f → cell t.live k = cell s.live k) ∧ (∀ k, k ≠ n.val → trunk t.live k = trunk s.live k) ∧
      (∀ k, (k < (cellOf n f * 4 + beAt f.bytes 28 1) * 16 ∨
        (cellOf n f * 4 + beAt f.bytes 28 1) * 16 + beAt f.bytes 29 1 ≤ k) → stream t.live k = stream s.live k) ∧
      t = { s with live := { s.live with
        trunks := t.live.trunks, halo := { s.live.halo with engines := t.live.halo.engines }
        mer := { s.live.mer with trackers := t.live.mer.trackers }
        serving := { s.live.serving with seqs := t.live.serving.seqs } } })) ∧
  (∀ (s : State) (n : Fin 16) (f : Frame) (reason : Nat), awake s → ordered s.live → frameAccepted s n f 1 →
    storeSorted (trunk s.live n).dropped →
    ((cell s.live (cellOf n f)).mode ≠ .configured ∧ reason = 5 ∨
      (cell s.live (cellOf n f)).mode = .configured ∧
        (beAt f.bytes 29 1 ≠ clChans (cellRec s.live (cellOf n f)) (beAt f.bytes 28 1) ∨
          beAt f.bytes 30 2 ≠ clFmt (cellRec s.live (cellOf n f)) (beAt f.bytes 28 1)) ∧ reason = 3 ∨
      (cell s.live (cellOf n f)).mode = .configured ∧
        beAt f.bytes 29 1 = clChans (cellRec s.live (cellOf n f)) (beAt f.bytes 28 1) ∧
        beAt f.bytes 30 2 = clFmt (cellRec s.live (cellOf n f)) (beAt f.bytes 28 1) ∧
        beAt f.bytes 20 8 ≤ nth 0 (cell s.live (cellOf n f)).lastT (beAt f.bytes 28 1) ∧ reason = 4) →
    runsTo (.sample n f) s (fun t =>
      sGet 0 (trunk t.live n).dropped reason = sGet 0 (trunk s.live n).dropped reason + beAt f.bytes 29 1 ∧
      (trunk t.live n).consumed = (trunk s.live n).consumed ∧ t.live.trunks.streams = s.live.trunks.streams ∧
      t.live.halo = s.live.halo ∧ t.live.serving = s.live.serving ∧ t.live.mer = s.live.mer)) ∧
  (∀ (s : State) (n : Fin 16) (f : Frame) (i st : Nat), awake s → ordered s.live → frameAccepted s n f 1 →
    (cell s.live (cellOf n f)).mode = .configured → beAt f.bytes 29 1 = clChans (cellRec s.live (cellOf n f)) (beAt f.bytes 28 1) →
    beAt f.bytes 30 2 = clFmt (cellRec s.live (cellOf n f)) (beAt f.bytes 28 1) →
    nth 0 (cell s.live (cellOf n f)).lastT (beAt f.bytes 28 1) < beAt f.bytes 20 8 →
    (cell s.live (cellOf n f)).lastT.length = 4 → i < beAt f.bytes 29 1 → st = (cellOf n f * 4 + beAt f.bytes 28 1) * 16 + i →
    (stream s.live st).struck = false → runsTo (.sample n f) s (fun t =>
      nth 0 (cell t.live (cellOf n f)).lastT (beAt f.bytes 28 1) = beAt f.bytes 20 8 ∧
      stream t.live st = (if fieldLe (actObj s.live 0x6020 0 st) 31 24 = 0 then stream s.live st
        else if 0 < (stream s.live st).decimCnt then { stream s.live st with decimCnt := (stream s.live st).decimCnt - 1 }
        else { lastT := beAt f.bytes 20 8, lastArr := nowNs s.live, ever := true
               decimCnt := fieldLe (actObj s.live 0x6020 0 st) 31 24 - 1
               value := (fma32 (channelValue (bit (beAt f.bytes 30 2) i) (beAt f.bytes (36 + 2 * i) 2))
                 (field32 (actObj s.live 0x6020 0 st) 64) (field32 (actObj s.live 0x6020 0 st) 32)).1
               nonfinite := !isFin32 (fma32 (channelValue (bit (beAt f.bytes 30 2) i) (beAt f.bytes (36 + 2 * i) 2))
                 (field32 (actObj s.live 0x6020 0 st) 64) (field32 (actObj s.live 0x6020 0 st) 32)).1 })))

/-- The sample ledger of every trunk balances (10 R284): what is received is what is consumed plus what is dropped, in the state after
every step that starts from one in which it is so, whatever frames come and whatever is lost. -/
def Obligations.SampleLedgersBalance : Prop :=
  ∀ s t : State, ordered s.live → (∀ n, sampleBalance (trunk s.live n) = 0 ∧ storeSorted (trunk s.live n).dropped) → step s = .next t →
    ∀ n, sampleBalance (trunk t.live n) = 0 ∧ storeSorted (trunk t.live n).dropped

/-- Commands and SYNCs (10 R267, R268, R271, R276, R280, R286; 02 R45): the command in front leaves with its number and is outstanding until
an acknowledgement names it or its time has run out; SET, unicast SYNC in its turn, multicast SYNC and the extra SYNC leave when they
are due and no command has to go before, one frame each under its frame check sequence; one that must let a command go before waits. -/
def Obligations.CommandsAndSyncsLeaveAndReturn : Prop :=
  (∀ (s : State) (n : Fin 16) (frac : BitVec 16) (c : TxCmd) (rest : List TxCmd), awake s → ordered s.live →
    (trunk s.live n).queue = c :: rest → (trunk s.live n).up = true → runsTo (.commandDeparture n frac) s (fun t =>
      (trunk t.live n).queue = rest ∧ (trunk t.live n).issued = (trunk s.live n).issued ∧
      (∃ (x : Nat) (b : Bytes), (c.angle = none → x = c.exec ∧ beAt b 28 2 = 0) ∧
        (cell t.live (cellKey n c.cell)).outstanding = (cell s.live (cellKey n c.cell)).outstanding ++
          (if c.expired = true then [] else [{ number := c.number, loop := c.loop, engine := c.engine, exec := x }]) ∧
        (storeSorted s.live.halo.shadows → shadow t.live c.loop = { level := c.level, lastExec := x }) ∧
        t.live.out = .trunk n b (frameCheck b) :: s.live.out ∧ frType b = 2 ∧ frSeq b = c.number % 65536 ∧
        (c.cell < 256 → frCell b = cellKey n c.cell % 256) ∧ beAt b 20 8 = x % 2 ^ 64 ∧ beAt b 30 1 = c.output % 256 ∧
        beAt b 31 1 = c.level % 256 ∧ b.length = 60) ∧
      (∀ k, k ≠ cellKey n c.cell → cell t.live k = cell s.live k) ∧ (∀ k, k ≠ n.val → trunk t.live k = trunk s.live k) ∧
      (c.angle = none → t.live.halo.loops = s.live.halo.loops) ∧
      t = { s with live := { s.live with trunks := t.live.trunks, halo := { s.live.halo with
        shadows := t.live.halo.shadows, loops := t.live.halo.loops, engines := t.live.halo.engines }, out := t.live.out } })) ∧
  (∀ (s : State) (n : Fin 16) (c : Fin 256) (number : BitVec 16), awake s → ordered s.live → runsTo (.commandExpire n c number) s (fun t =>
    (∀ o, o ∈ (cell t.live (cellKey n c)).outstanding ↔ o ∈ (cell s.live (cellKey n c)).outstanding ∧
      ¬ (o.number = number.toNat ∧ (o.exec + trAckTimeout (trunkRec s.live n) * 1000 : Int) ≤ lc3Ns s.live)) ∧
    (∀ i, (nth {} (trunk t.live n).queue i) = if (nth {} (trunk s.live n).queue i).cell = c.val ∧
        (nth {} (trunk s.live n).queue i).number = number.toNat ∧ i < (trunk s.live n).queue.length ∧
        ((nth {} (trunk s.live n).queue i).exec + trAckTimeout (trunkRec s.live n) * 1000 : Int) ≤ lc3Ns s.live
      then { nth {} (trunk s.live n).queue i with expired := true } else nth {} (trunk s.live n).queue i) ∧
    (trunk t.live n).expired + (cell t.live (cellKey n c)).outstanding.length +
        ((trunk t.live n).queue.filter (fun x => !x.expired)).length =
      (trunk s.live n).expired + (cell s.live (cellKey n c)).outstanding.length +
        ((trunk s.live n).queue.filter (fun x => !x.expired)).length ∧
    (∀ k, k ≠ cellKey n c → cell t.live k = cell s.live k) ∧
    t = { s with live := { s.live with trunks := t.live.trunks } })) ∧
  (∀ (s : State) (n : Fin 16) (f : Frame) (frac : BitVec 16), awake s → ordered s.live → frameAccepted s n f 3 →
    runsTo (.credit n f frac) s (fun t =>
      (∀ o, o ∈ (cell t.live (cellOf n f)).outstanding ↔
        o ∈ (cell s.live (cellOf n f)).outstanding ∧ ¬ acknowledges f.bytes o.number) ∧
      (cell t.live (cellOf n f)).mode = (cell s.live (cellOf n f)).mode ∧ (trunk t.live n).queue = (trunk s.live n).queue ∧
      (∀ k, k ≠ cellOf n f → cell t.live k = cell s.live k) ∧ (∀ k, k ≠ n.val → trunk t.live k = trunk s.live k) ∧
      t = { s with live := { s.live with trunks := t.live.trunks } })) ∧
  (∀ (s : State) (n : Fin 16) (c : Fin 256) (iv : Nat), awake s → ordered s.live → (trunk s.live n).up = true →
    s.live.cfg.present = true →
    ((cell s.live (cellKey n c)).mode = .announced ∧ iv = 10000000 ∨
      ((cell s.live (cellKey n c)).mode = .lost ∨ (cell s.live (cellKey n c)).mode = .mismatch) ∧ iv = 100000000) →
    (∀ a, (cell s.live (cellKey n c)).setDue = some a → a ≤ nowNs s.live) →
    (mayStart s.live n ((cell s.live (cellKey n c)).setDue.getD (nowNs s.live)) = false →
      runsTo (.cellcfgSetSend n c) s (fun t => t = s)) ∧
    (mayStart s.live n ((cell s.live (cellKey n c)).setDue.getD (nowNs s.live)) = true → runsTo (.cellcfgSetSend n c) s (fun t =>
      (∃ b, t.live.out = .trunk n b (frameCheck b) :: s.live.out ∧ frType b = 4 ∧ frCell b = c.val ∧ beAt b 20 1 = 2 ∧
        beAt b 24 4 = clCfgId (cellRec s.live (cellKey n c)) ∧ b.length = 76) ∧
      (cell t.live (cellKey n c)).setDue = some (nowNs s.live + iv) ∧
      (cell t.live (cellKey n c)).mode = (cell s.live (cellKey n c)).mode ∧
      ((trunk s.live n).queue ≠ [] → (trunk t.live n).heldAt = some (nowNs s.live)) ∧
      (∀ k, k ≠ cellKey n c → cell t.live k = cell s.live k) ∧
      t = { s with live := { s.live with trunks := t.live.trunks, out := t.live.out } }))) ∧
  (∀ (s : State) (n : Fin 16) (c : Fin 256) (egress : Nat), awake s → ordered s.live → (trunk s.live n).up = true →
    (∀ due, s.live.cfg.present = true → clEnable (cellRec s.live (cellKey n c)) = true →
      syncSlot s.live n (cellKey n c) = some due → (∀ a, (cell s.live (cellKey n c)).syncAt = some a → a < due) →
      mayStart s.live n due = true → runsTo (.trunkSyncSend n c egress) s (fun t =>
        (∃ b, t.live.out = .trunk n b (frameCheck b) :: s.live.out ∧ b.length = 60 ∧ beAt b 30 1 = b2n s.live.dev.outLive ∧
          beAt b 31 1 = 2 * b2n (cell s.live (cellKey n c)).pathDelay.isNone ∧ beAt b 32 1 = c.val) ∧
        (cell t.live (cellKey n c)).syncAt = some (nowNs s.live) ∧ (∀ k, k ≠ cellKey n c → cell t.live k = cell s.live k) ∧
        t = { s with live := { s.live with trunks := t.live.trunks, out := t.live.out } })) ∧
    (∀ due, (cell s.live (cellKey n c)).extraSync = some due → mayStart s.live n due = true →
      runsTo (.outLiveChangeSync n c egress) s (fun t =>
        (∃ b, t.live.out = .trunk n b (frameCheck b) :: s.live.out ∧ b.length = 60 ∧ beAt b 30 1 = b2n s.live.dev.outLive ∧
          beAt b 32 1 = c.val) ∧
        (storeSorted (trunk s.live n).counters → sGet 0 (trunk t.live n).counters 13 = sGet 0 (trunk s.live n).counters 13 + 1) ∧
        (cell t.live (cellKey n c)).extraSync = none ∧ (∀ k, k ≠ cellKey n c → cell t.live k = cell s.live k) ∧
        t = { s with live := { s.live with trunks := t.live.trunks, out := t.live.out } })) ∧
    (s.live.cfg.present = false → hostsServed s.live = true → trEnable (trunkRec s.live n) = true →
      (∀ a, (trunk s.live n).quietAt = some a → a + 62500000 ≤ nowNs s.live) → (trunk s.live n).queue = [] →
      runsTo (.quietSyncSend n egress) s (fun t =>
        (∃ b, t.live.out = .trunk n b (frameCheck b) :: s.live.out ∧ b.length = 60 ∧ beAt b 0 6 = 0x011B19000000 ∧
          beAt b 30 1 = b2n s.live.dev.outLive ∧ beAt b 31 1 = 1 ∧ beAt b 47 1 = (256 - quietLog s.live n) % 256) ∧
        (trunk t.live n).quietAt = some (nowNs s.live) ∧ t.live.trunks.cells = s.live.trunks.cells ∧
        t = { s with live := { s.live with trunks := t.live.trunks, out := t.live.out } })))

/-! ## Hosts -/

/-- Sessions (11 R294 to R298, R301): HELLO on an open slot starts a set-up and is challenged, on a closed one it is counted and not
answered; a PROOF whose tag and signature verify opens the session with the roles of its slot, another opens none; a set-up without
PROOF ends after a second; KEEPALIVE answers epoch, state, holder and mode; the token is taken where none holds it and given back
by its holder; CLOSE and silence end the session, and with it the token it held. -/
def Obligations.SessionsAreSetUpHeldAndClosed : Prop :=
  (∀ (s : State) (m : HostMsg) (p : PdsMsg), awake s → reaches s m p → p.type = 1 → p.body.length = 101 →
    (slotClosed s.live (beAt p.body 0 1) = false → s.live.link.handshakes.length < 4 →
      s.live.garnet.rng.running = true → s.live.garnet.rng.fail = false → runsTo (.hello m) s (fun t =>
        ∃ h b, t.live.link.handshakes = s.live.link.handshakes ++ [h] ∧ h.slot = beAt p.body 0 1 ∧ h.hello = p.body ∧ h.challenge = b ∧
          h.at_ = nowNs s.live ∧ h.port = m.port.val ∧
          t.live.out = .pds (routeTo s.live (peerOf m)) 0xFF 2 128 0 p.reqId 0 b [] :: s.live.out ∧
          b.take 1 = beBytes 1 (beAt p.body 0 1) ∧ t.live.link.sessions = s.live.link.sessions ∧
          t = { s with live := { s.live with
            link := t.live.link, garnet := { s.live.garnet with rng := t.live.garnet.rng }, out := t.live.out, free := t.live.free } })) ∧
    (slotClosed s.live (beAt p.body 0 1) = true ∨ 4 ≤ s.live.link.handshakes.length → runsTo (.hello m) s (fun t =>
      t.live.link = (onPort m.port (fun x => { x with nHandshake := x.nHandshake + 1 }) (arrived s m)).link ∧
      t = { s with live := { s.live with link := t.live.link } }))) ∧
  (∀ (s : State) (m : HostMsg) (p : PdsMsg) (h : Handshake) (th2 khd kdh : Bytes), awake s → reaches s m p → p.type = 3 →
    p.body.length = 64 → p.sess < s.live.link.sessions.length →
    s.live.link.handshakes.filter (fun x => x.slot = p.sess) = [h] → setupKeys h = some (th2, khd, kdh) →
    hmac khd p.signed = p.tag → slotClosed s.live p.sess = false → nowNs s.live ≤ h.at_ + 1000000000 →
    runsTo (.proof m) s (fun t =>
      t.live.link.handshakes = s.live.link.handshakes.filter (· ≠ h) ∧
      (ecdsaVerify (nth {} s.live.garnet.slots p.sess).key (ascii "PDS-HOST" ++ th2) p.body = true →
        (session t.live p.sess).live = true ∧ (session t.live p.sess).roles = (nth {} s.live.garnet.slots p.sess).roles ∧
        (session t.live p.sess).khd = khd ∧ (session t.live p.sess).kdh = kdh ∧ (session t.live p.sess).txNext = 1 ∧
        (session t.live p.sess).rxHigh = 0 ∧ (session t.live p.sess).open_ = [] ∧
        (session t.live p.sess).peer = peerOf m ∧
        (∃ tag, t.live.out = .pds (routeTo s.live (peerOf m)) p.sess 4 (if s.live.dev.bounded = true then 136 else 128) 0 p.reqId 0
          (beBytes 1 p.sess ++ beBytes 1 (s.live.link.master.getD 0xFF) ++
          beBytes 1 (devCode s.live.dev.state) ++ [0] ++ beBytes 8 s.live.dev.epoch) tag :: s.live.out)) ∧
      (ecdsaVerify (nth {} s.live.garnet.slots p.sess).key (ascii "PDS-HOST" ++ th2) p.body = false →
        t.live.link.sessions = s.live.link.sessions ∧ t.live.out = s.live.out) ∧
      (∀ k, k ≠ p.sess → session t.live k = session s.live k) ∧
      t = { s with live := { s.live with link := t.live.link, out := t.live.out } })) ∧
  (∀ (s : State) (slot : Fin 8), awake s → runsTo (.proofTimeout slot) s (fun t =>
    t.live.link.handshakes = s.live.link.handshakes.filter
      (fun h => !(decide (h.slot = slot.val) && decide (h.at_ + 1000000000 ≤ nowNs s.live))) ∧
    t.live.link.sessions = s.live.link.sessions ∧ t = { s with live := { s.live with link := t.live.link } })) ∧
  (∀ (s : State) (m : HostMsg) (p : PdsMsg), awake s → newRequest s m p 0x06 0 → p.body = [] → runsTo (.keepalive m) s (fun t =>
    t.live = closeSpent (respond p.sess 0x06 0 p.reqId (beBytes 8 s.live.dev.epoch ++ beBytes 1 (devCode s.live.dev.state) ++
      beBytes 1 (s.live.link.master.getD 0xFF) ++ beBytes 1 (b2n s.live.dev.bounded)) (inHand s m p)) ∧
    t = { s with live := t.live })) ∧
  (∀ (s : State) (m : HostMsg) (p : PdsMsg) (i : Instr), awake s → newRequest s m p 0x07 8 →
    (i = .masterAcquire m ∨ i = .masterRelease m) →
    (p.body = [1] → hasRole s.live p.sess 2 = true → s.live.link.master = none → runsTo i s (fun t =>
      t.live = closeSpent (respond p.sess 0x07 0 p.reqId (beBytes 1 p.sess)
        (onLink (fun l => { l with master := some p.sess }) (inHand s m p))) ∧ t = { s with live := t.live })) ∧
    (p.body = [1] → hasRole s.live p.sess 2 = true → s.live.link.master.isSome = true → runsTo i s (fun t =>
      t.live = closeSpent (abortReq p.sess 0x07 p.reqId aMasterHeld (inHand s m p)) ∧ t = { s with live := t.live })) ∧
    (p.body = [2] → s.live.link.master = some p.sess → runsTo i s (fun t =>
      t.live = closeSpent (respond p.sess 0x07 0 p.reqId (beBytes 1 0xFF)
        (onLink (fun l => { l with master := none }) (inHand s m p))) ∧ t = { s with live := t.live }))) ∧
  (∀ (s : State) (m : HostMsg) (p : PdsMsg), awake s → newRequest s m p 0x05 8 → p.body = [] → runsTo (.close m) s (fun t =>
    (session t.live p.sess).live = false ∧ (session t.live p.sess).roles = 0 ∧ (session t.live p.sess).cache = [] ∧
    t.live.link.master ≠ some p.sess ∧ t.live.link.handshakes = s.live.link.handshakes)) ∧
  (∀ (s : State) (n : Fin 8), awake s → (session s.live n).live = true →
    (session s.live n).heard + sessionTimeoutNs s.live ≤ nowNs s.live → runsTo (.sessionTimeout n) s (fun t =>
      (session t.live n).live = false ∧ (session t.live n).roles = 0 ∧ (session t.live n).subs = [] ∧
      t.live.link.master ≠ some n.val ∧ t.live.link.handshakes = s.live.link.handshakes))

/-- Services (11 R291, R293, R295, R299, R302 to R307; 01 R29, R30; 13 R362): a response goes out once, tagged, to whom the request came
from, and is cached; READ, SNAPSHOT, LEDGER and ATTEST answer from the closed epoch that is served, a lost die's value with the last
epoch in which it was served; WRITE goes to the shadow or waits for its boundary; transfers open, move and end; subscriptions are
kept; a host's answer ends its page request, and one without an answer is sent again. -/
def Obligations.ServicesAnswerAsTheirRulesSay : Prop :=
  (∀ (w : World) (n type flags fl : Nat) (reqId : BitVec 32) (body : Bytes), n < w.link.sessions.length → (session w n).live = true →
    (session w n).txNext ≤ 2 ^ 63 → type ≠ 0x12 → type ≠ 0x17 → type ≠ 0x1A → body.length ≤ 1396 →
    fl = 128 ||| flags ||| (if (openReq (session w n) reqId).shadow = true then 4 else 0) ||| (if w.dev.bounded = true then 8 else 0) →
    (portCarries w (openReq (session w n) reqId).peer.port = true → ∃ tag, (respond n type flags reqId body w).out =
      .pds (routeTo w (openReq (session w n) reqId).peer) n type fl (session w n).txNext reqId 0 body tag :: w.out) ∧
    (portCarries w (openReq (session w n) reqId).peer.port = false → (respond n type flags reqId body w).out = w.out) ∧
    (session (respond n type flags reqId body w) n).txNext = (session w n).txNext + 1 ∧
    (session (respond n type flags reqId body w) n).open_ = (session w n).open_.filter (fun x => x.reqId ≠ reqId) ∧
    (session (respond n type flags reqId body w) n).cache = ((reqId, type, fl, body) :: (session w n).cache).take 64 ∧
    (∀ k, k ≠ n → session (respond n type flags reqId body w) k = session w k)) ∧
  (∀ (s : State) (m : HostMsg) (p : PdsMsg), awake s → newRequest s m p 0x10 0 → p.body.length = 6 → runsTo (.read m) s (fun t =>
    (∀ d x lost, fetch (inHand s m p) (servedView s) (wantsShadow p) (keyOfBytes p.body) = .ok (d, x, lost) → x.length ≤ 1384 →
      t.live = closeSpent (respond p.sess 0x10 (flagsOf (servedView s) (wantsShadow p) lost.isSome) p.reqId
        (u64 (lost.getD (if wantsShadow p then 0 else (servedView s).epoch)) ++ u8 d.type ++ [0] ++ u16 x.length ++ x) (inHand s m p))) ∧
    (∀ c, fetch (inHand s m p) (servedView s) (wantsShadow p) (keyOfBytes p.body) = .error c →
      t.live = closeSpent (abortReq p.sess 0x10 p.reqId c (inHand s m p))) ∧ t = { s with live := t.live })) ∧
  (∀ (s : State) (m : HostMsg) (p : PdsMsg) (b : Bytes) (lost : Bool), awake s → newRequest s m p 0x12 0 →
    1 ≤ beAt p.body 0 2 → beAt p.body 0 2 ≤ 232 → p.body.length = 2 + 6 * beAt p.body 0 2 →
    snapAll (inHand s m p) (servedView s) (wantsShadow p) (addrList p.body 2 (beAt p.body 0 2)) 0 = .ok (b, lost) →
    8 + b.length ≤ 65536 → runsTo (.snapshot m) s (fun t =>
      t.live = closeSpent (respond p.sess 0x12 (flagsOf (servedView s) (wantsShadow p) lost) p.reqId
        (u64 (if wantsShadow p then 0 else (servedView s).epoch) ++ b) (inHand s m p)) ∧ t = { s with live := t.live })) ∧
  (∀ (s : State) (m : HostMsg) (p : PdsMsg), awake s → newRequest s m p 0x1A 0 → p.body = [] → runsTo (.ledger m) s (fun t =>
    t.live = closeSpent (respond p.sess 0x1A (flagsOf (servedView s) false (ledgerLost (servedView s))) p.reqId
      (ledgerBody (servedView s).epoch (servedView s).world) (inHand s m p)) ∧ t = { s with live := t.live })) ∧
  (∀ (s : State) (m : HostMsg) (p : PdsMsg), awake s → newRequest s m p 0x1B 0 → p.body.length = 32 → runsTo (.attest m) s (fun t =>
    (∃ sig, t.live = closeSpent (respond p.sess 0x1B (flagsOf (servedView s) false false) p.reqId
      (attestBody (servedView s) p.body ++ sig) (inHand s m p)) ∧
      sig = ecdsaSign (identityScalar s.live.garnet) (ascii "GX4-ATTEST" ++ attestBody (servedView s) p.body)) ∧
    t = { s with live := t.live })) ∧
  (∀ (s : State) (m : HostMsg) (p : PdsMsg) (o : ObjDef) (x : WriteReq), awake s → newRequest s m p 0x11 1 → 10 ≤ p.body.length →
    p.body.length = 10 + beAt p.body 8 2 → findObj (keyOfBytes p.body) = .ok o → o.access ≠ .ro → o.access ≠ .co →
    o.type = beAt p.body 6 1 → keyIndex (keyOfBytes p.body) ≠ 0x9002 → (p.body.drop 10).length ≤ 1386 →
    sizeOk o (p.body.drop 10).length = true →
    x = {
      sess := p.sess
      reqId := p.reqId
      service := 0x11
      key := keyOfBytes p.body
      value := wireToStored o.type (p.body.drop 10)
      shadow := wantsShadow p } →
    permission (inHand s m p) x o = none → writeBad (inHand s m p) x o = none → runsTo (.write m) s (fun t =>
      (x.toShadow o = true → t.live = closeSpent (respond p.sess 0x11 4 p.reqId (beBytes 8 0)
        (onCfg (fun c => { c with shadow := storeIn c.shadow x.index x.sub x.inst x.value, state := .editing }) (inHand s m p)))) ∧
      (x.toShadow o = false → x.index ≠ 0x1202 → x.index < 0x9000 → t.live = closeSpent (onCfg (fun c => { c with
        rw := c.rw ++ [⟨p.sess, p.reqId, 0x11, x.index, x.sub, x.inst, x.value, nowNs s.live⟩] }) (inHand s m p))) ∧
      t = { s with live := t.live })) ∧
  (∀ (s : State) (m : HostMsg) (p : PdsMsg) (o : ObjDef), awake s → newRequest s m p 0x13 8 → p.body.length = 44 →
    findObj (keyOfBytes p.body) = .ok o → o.type = tDomain → (session s.live p.sess).xfers.length < 2 →
    (∀ d x lost, beAt p.body 6 1 = 1 → hasRole s.live p.sess 0 = true → beAt p.body 8 4 = 0 → allZero (slice p.body 12 32) = true →
      fetch (inHand s m p) (servedView s) (wantsShadow p) (keyOfBytes p.body) = .ok (d, x, lost) → runsTo (.blockInit m) s (fun t =>
        t.live = closeSpent (openXfer p (flagsOf (servedView s) (wantsShadow p) lost.isSome)
          (lost.getD (if wantsShadow p then 0 else (servedView s).epoch)) {
            upload := true
            shadow := wantsShadow p
            addr := keyOfBytes p.body
            total := x.length
            digest := sha256 x
            latched := x } (inHand s m p)) ∧ t = { s with live := t.live })) ∧
    (beAt p.body 6 1 = 0 → hasRole s.live p.sess 1 = true → wantsShadow p = false →
      downloadBad (inHand s m p) (xferWrite p (keyOfBytes p.body) false []) o = none → sizeOk o (beAt p.body 8 4) = true →
      runsTo (.blockInit m) s (fun t =>
        t.live = closeSpent (openXfer p 0 0 { addr := keyOfBytes p.body, total := beAt p.body 8 4, digest := slice p.body 12 32 }
          (inHand s m p)) ∧ t = { s with live := t.live }))) ∧
  (∀ (s : State) (m : HostMsg) (p : PdsMsg) (x : Xfer), awake s → newRequest s m p 0x14 8 → 10 ≤ p.body.length →
    xferOf (inHand s m p) p.sess (beAt p.body 0 1) = some x →
    (x.upload = true → hasRole s.live p.sess 0 = true → p.body.length = 10 → 1 ≤ beAt p.body 8 2 → beAt p.body 8 2 ≤ 1024 →
      beAt p.body 4 4 + beAt p.body 8 2 ≤ x.total → runsTo (.blockSeg m) s (fun t =>
        t.live = closeSpent (respond p.sess 0x14 (if x.shadow then 4 else 0) p.reqId
          (beBytes 4 (beAt p.body 4 4) ++ slice x.latched (beAt p.body 4 4) (beAt p.body 8 2))
          (onXfer p.sess x.id (fun x => { x with at_ := nowNs s.live }) (inHand s m p))) ∧ t = { s with live := t.live })) ∧
    (x.upload = false → hasRole s.live p.sess 1 = true → beAt p.body 8 2 = 0 → x.next ≤ beAt p.body 4 4 →
      beAt p.body 4 4 < x.next + 16384 → beAt p.body 4 4 % 1024 = 0 → beAt p.body 4 4 < x.total →
      p.body.length = 10 + min 1024 (x.total - beAt p.body 4 4) → runsTo (.blockSeg m) s (fun t =>
        (∃ next segs, segs = sInsert x.segs (beAt p.body 4 4) (p.body.drop 10) ∧ x.next ≤ next ∧
          t.live = closeSpent (respond p.sess 0x14 (if x.shadow then 4 else 0) p.reqId (beBytes 4 next)
            (onXfer p.sess x.id (fun x => { x with segs := segs, next := next, at_ := nowNs s.live }) (inHand s m p)))) ∧
        t = { s with live := t.live }))) ∧
  (∀ (s : State) (m : HostMsg) (p : PdsMsg) (x : Xfer), awake s → newRequest s m p 0x15 8 → p.body.length = 1 →
    xferOf (inHand s m p) p.sess (beAt p.body 0 1) = some x → runsTo (.blockEnd m) s (fun t =>
      (x.upload = true → t.live = closeSpent (respond p.sess 0x15 (if x.shadow then 4 else 0) p.reqId (beBytes 8 0)
        (endXfer p.sess x.id (inHand s m p)))) ∧
      (x.upload = false → (x.next ≠ x.total ∨ sha256 (x.segs.flatMap (·.2)) ≠ x.digest) →
        t.live = closeSpent (abortReq p.sess 0x15 p.reqId aDigest (endXfer p.sess x.id (inHand s m p)))) ∧
      (∀ o, x.upload = false → x.next = x.total → sha256 (x.segs.flatMap (·.2)) = x.digest → findObj x.addr = .ok o →
        t.live = closeSpent (judgeWrite (servedView s) (xferWrite p x.addr x.shadow (x.segs.flatMap (·.2))) o
          (endXfer p.sess x.id (inHand s m p)))) ∧ t = { s with live := t.live })) ∧
  (∀ (s : State) (n : Fin 8) (id : BitVec 8) (x : Xfer), awake s → n.val < s.live.link.sessions.length →
    xferOf s.live n id.toNat = some x → x.at_ + sessionTimeoutNs s.live ≤ nowNs s.live → runsTo (.blockTransferTimeout n id) s (fun t =>
      xferOf t.live n id.toNat = none ∧ (session t.live n).open_ = (session s.live n).open_ ∧
      (∀ k, k ≠ n.val → session t.live k = session s.live k) ∧ t = { s with live := { s.live with link := t.live.link } })) ∧
  (∀ (s : State) (m : HostMsg) (p : PdsMsg), awake s → newRequest s m p 0x16 0 → s.live.cfg.present = true →
    p.body.length = 6 + 6 * beAt p.body 4 2 → beAt p.body 0 1 < 64 → beAt p.body 1 1 ≤ 16 →
    (beAt p.body 4 2 = 0 → runsTo (.subscribe m) s (fun t =>
      t.live = closeSpent (respond p.sess 0x16 0 p.reqId [] (onSession p.sess (fun x => { x with
        subs := x.subs.filter (fun y => y.id ≠ beAt p.body 0 1) }) (inHand s m p))) ∧ t = { s with live := t.live })) ∧
    (∀ b lost subs, 1 ≤ beAt p.body 4 2 → beAt p.body 4 2 ≤ 231 →
      snapAll (inHand s m p) (servedView s) false (addrList p.body 6 (beAt p.body 4 2)) 0 = .ok (b, lost) → 12 + b.length ≤ 65536 →
      subs = (session s.live p.sess).subs.filter (fun y => y.id ≠ beAt p.body 0 1) ++
        [{
          id := beAt p.body 0 1
          periodLog2 := beAt p.body 1 1
          phase := beAt p.body 2 2
          addrs := addrList p.body 6 (beAt p.body 4 2) }] →
      ratesOk (inHand s m p) (servedView s) p.sess subs = true → p.sess < s.live.link.sessions.length → runsTo (.subscribe m) s (fun t =>
        t.live = closeSpent (respond p.sess 0x16 0 p.reqId [] (onSession p.sess (fun x => { x with subs := subs }) (inHand s m p))) ∧
        t = { s with live := t.live }))) ∧
  (∀ (s : State) (m : HostMsg) (p : PdsMsg) (r : PageReq), awake s →
    (inSession s m p 0x20 → (session s.live p.sess).pages.find? (fun r => r.reqId = p.reqId ∧ r.write = true) = some r →
      bit p.flags 6 = false → p.body = [] → p.sess < s.live.link.sessions.length → runsTo (.pageWriteResponse m) s (fun t =>
        t.live = closeSpent (onSession p.sess (fun x => { x with pages := x.pages.filter (fun y => y.reqId ≠ r.reqId) })
          (heardFrom s m p)) ∧ t = { s with live := t.live })) ∧
    (inSession s m p 0x21 → (session s.live p.sess).pages.find? (fun r => r.reqId = p.reqId ∧ r.write = false) = some r →
      bit p.flags 6 = false → p.body.length = beAt r.body 10 2 → p.sess < s.live.link.sessions.length →
      runsTo (.pageReadResponse m) s (fun t =>
        t.live = closeSpent (pageData p.sess (beAt r.body 0 8) (beAt r.body 8 2) p.body
          (onSession p.sess (fun x => { x with pages := x.pages.filter (fun y => y.reqId ≠ r.reqId) }) (heardFrom s m p))) ∧
        t = { s with live := t.live }))) ∧
  (∀ (s : State) (n : Fin 8) (reqId : BitVec 32) (r : PageReq), awake s → n.val < s.live.link.sessions.length →
    (session s.live n).pages.find? (fun r => r.reqId = reqId) = some r →
    (r.resends < 3 → (∀ k, (session s.live k).txNext < 2 ^ 63) → portCarries s.live (session s.live n).peer.port = true →
      runsTo (.pageRequestResend n reqId) s (fun t =>
      (∃ tag, t.live.out = .pds (routeTo s.live (session s.live n).peer) n (if r.write then 0x20 else 0x21) 0 (session s.live n).txNext reqId 0 r.body tag :: s.live.out) ∧
      (session t.live n).nResends = (session s.live n).nResends + 1 ∧
      (∀ k, k ≠ n.val → session t.live k = session s.live k) ∧
      t = { s with live := { s.live with link := t.live.link, out := t.live.out } })) ∧
    (3 ≤ r.resends → runsTo (.pageRequestResend n reqId) s (fun t => (session t.live n).live = false)))

/-- The shadow's way into force (11 R301, R308, R309, R311 to R314): ADMIT of the holder starts a verdict; the verdict admits the set
under the next ADMIT_ID or lets it be edited further, and answers; SWAP of that ADMIT_ID is pending until its boundary or its
cancelling; the first SWAP puts the set in force, with the epoch still to be opened. Nothing of this changes the active set before. -/
def Obligations.SetsAreAdmittedThenExchanged : Prop :=
  (∀ (s : State) (m : HostMsg) (p : PdsMsg), awake s → newRequest s m p 0x18 8 → setService s.live = true → p.body = [] →
    (s.live.link.master = some p.sess → shadowBusy s.live = false → s.live.cfg.state ≠ .empty → runsTo (.admitReq m) s (fun t =>
      t.live = closeSpent (onCfg (fun c => { c with
        state := .admitting, admitting := some { session := p.sess, reqId := p.reqId, epoch := s.live.dev.epoch } })
        (inHand s m p)) ∧ t = { s with live := t.live })) ∧
    (s.live.link.master ≠ some p.sess → runsTo (.admitReq m) s (fun t =>
      t.live = closeSpent (abortReq p.sess 0x18 p.reqId aNotMaster (inHand s m p)) ∧ t = { s with live := t.live }))) ∧
  (∀ (s : State) (ms : Nat) (a : PendingAdmit), awake s → s.live.cfg.admitting = some a → runsTo (.admitVerdict ms) s (fun t =>
    (∀ fails notes, fails = allFails (fun l => s.live.cfg.present && !(loop s.live l).stopped &&
          loopCarried s.live.cfg.active s.live.cfg.shadow l) s.live.cfg.shadow s.live.dev.portFailed (goodDies s.live) →
        notes = (fillNotes s.live.cfg.shadow {
          dies := goodDies s.live
          map := placeSet s.live.cfg.shadow (goodDies s.live) []
          critical := false }).map (fun f => (0, f)) →
      t.live.cfg.report = ((fails ++ notes).take 1024).flatMap (fun f => failBytes f.1 f.2) ∧
      (fails = [] → t.live.cfg.state = .admitted ∧ t.live.cfg.admitId = s.live.cfg.lastAdmitId + 1 ∧
        t.live.cfg.lastAdmitId = s.live.cfg.lastAdmitId + 1 ∧
        t.live.cfg.mappingShadow = placeSet s.live.cfg.shadow (goodDies s.live) [] ∧
        t.live.cfg.digestShadow = setDigest t.live.cfg.shadow ∧ t.live.cfg.shadow.map (·.1) = s.live.cfg.shadow.map (·.1)) ∧
      (fails ≠ [] → t.live.cfg.state = .editing ∧ t.live.cfg.admitId = s.live.cfg.admitId ∧
        t.live.cfg.shadow = s.live.cfg.shadow)) ∧
    t.live.cfg.admitting = none ∧ t.live.cfg.active = s.live.cfg.active ∧ t.live.cfg.present = s.live.cfg.present ∧
    t = { s with live := { s.live with
      cfg := t.live.cfg, cont := t.live.cont, link := t.live.link, out := t.live.out, free := t.live.free } })) ∧
  (∀ (s : State) (m : HostMsg) (p : PdsMsg) (i : Instr), awake s → newRequest s m p 0x19 8 → p.body.length = 24 →
    setService s.live = true → s.live.link.master = some p.sess → (i = .swap m ∨ i = .swapCancel m) →
    (beAt p.body 0 1 = 1 → s.live.cfg.state = .admitted → beAt p.body 8 8 = s.live.cfg.admitId →
      (s.live.cfg.present = false → beAt p.body 16 8 = 0) →
      (beAt p.body 16 8 ≠ 0 → s.live.dev.epoch + 2 ≤ beAt p.body 16 8) → runsTo i s (fun t =>
        t.live = closeSpent (onCfg (fun c => { c with
          state := .swapPending
          swap := some {
            session := p.sess
            reqId := p.reqId
            admitId := beAt p.body 8 8
            target := beAt p.body 16 8
            at_ := nowNs s.live } }) (inHand s m p)) ∧
        t = { s with live := t.live })) ∧
    (beAt p.body 0 1 = 1 → (s.live.cfg.state ≠ .admitted ∨ beAt p.body 8 8 ≠ s.live.cfg.admitId) → runsTo i s (fun t =>
      t.live = closeSpent (abortReq p.sess 0x19 p.reqId aNotAdmitted (inHand s m p)) ∧ t = { s with live := t.live })) ∧
    (beAt p.body 0 1 = 2 → s.live.cfg.swap.isSome = true → runsTo i s (fun t =>
      t.live.cfg.swap = none ∧ t.live.cfg.state = .admitted ∧ t.live.cfg.active = s.live.cfg.active ∧
      t.live.cfg.shadow = s.live.cfg.shadow ∧ t.live.dev = s.live.dev))) ∧
  (∀ (s : State) (x : PendingSwap), awake s → s.live.cfg.swap = some x → runsTo .swapPrepared s (fun t =>
    t = { s with live := { s.live with cfg := { s.live.cfg with swap := some { x with prepared := true } } } })) ∧
  (∀ (s : State) (x : PendingSwap), awake s → s.live.cfg.swap = some x → x.prepared = true → s.live.cfg.present = false →
    s.live.dev.state = .readyQuiet → runsTo .firstSwap s (fun t =>
      t.live.cfg.present = true ∧ t.live.cfg.state = .editing ∧ t.live.cfg.shadow = [] ∧ t.live.cfg.swap = none ∧
      (storeSorted s.live.cfg.shadow → ∀ k, keyIndex k ≠ 0x5020 → sFind t.live.cfg.active k = sFind s.live.cfg.shadow k) ∧
      t.live.cfg.digestActive = s.live.cfg.digestShadow ∧ t.live.cfg.firstSwap = some (x.session, x.reqId) ∧
      t.live.dev.state = serviceState s.live ∧ t.live.dev.epoch = s.live.dev.epoch ∧ t.live.dev.outLive = false))

/-! ## Errors, losses, upgrades -/

/-- Errors (12 R319 to R321, R338, R339, Tables 12.1 and 12.2): an uncorrectable word is counted with its address and time and strikes what
the store held there; the patrol writes a corrected codeword back and leaves a clean one; four replays that fail in a row at an
endpoint retrain its Seam, which a timeout fails and a completion brings back; a record is committed with the next SEQ, pinned-class
records first, the oldest of each class first. -/
def Obligations.ErrorsAreCountedStruckAndRecorded : Prop :=
  (∀ (s : State) (d : Fin 5) (store : Fin 11) (a : Nat), awake s → ordered s.live → memoriesOk s.live → inStore s d store a →
    storeSorted s.live.cont.uncorrectable → runsTo (.uncorrectableError d store a) s (fun t =>
      sGet 0 t.live.cont.uncorrectable (d.val * 16 + store.val) = sGet 0 s.live.cont.uncorrectable (d.val * 16 + store.val) + 1 ∧
      sGet (0, 0, 0) t.live.cont.lastUnc (d.val * 16 + store.val) = (a, s.live.dev.epoch, nowNs s.live) ∧
      nowNs s.live ∈ (die t.live d).reports ∧
      (store = 6 → t = { s with live := { s.live with dev := t.live.dev, cont := t.live.cont, free := t.live.free } }) ∧
      (store = 7 → (stream t.live (a / 32)).struck = true ∧
        (∀ k, k ≠ a / 32 → stream t.live k = stream s.live k) ∧ t.live.trunks.trunks = s.live.trunks.trunks) ∧
      (store = 9 → (∀ o, o / 4 = a / 32 → syncCount t.live o = 0) ∧ (∀ o, o / 4 ≠ a / 32 → syncCount t.live o = syncCount s.live o)) ∧
      (store = 10 → storeSorted s.live.cont.obs.slots → 1024 ≤ a / 64 → sGet [] t.live.cont.obs.slots (a / 64) = [] ∧
        t.live.cont.obs.nInvalid = s.live.cont.obs.nInvalid + 1 ∧
        ∀ k, k ≠ a / 64 → sGet [] t.live.cont.obs.slots k = sGet [] s.live.cont.obs.slots k) ∧
      (store = 0 → (∀ p, p < 32 → pInSet s.live.cfg.active p = false) → ∀ b, Mem.get t.live.tiles.scratch b =
        if padAddr (d.val * 32 + a / 327680) (a % 327680 / 32 * 32) ≤ b ∧
          b < padAddr (d.val * 32 + a / 327680) (a % 327680 / 32 * 32) + 32 then 0 else Mem.get s.live.tiles.scratch b))) ∧
  (∀ (s : State) (d : Fin 5) (store : Fin 11) (a : Nat) (word : Bytes), awake s → ordered s.live → memoriesOk s.live →
    inStore s d store a → a < storeSize store → a % 32 = 0 → word.length = 36 → storeSorted s.live.cont.uncorrectable →
    storeSorted s.live.cont.corrected → storeSorted s.live.cont.scrubs → runsTo (.scrubPatrol d store a word) s (fun t =>
      sGet 0 t.live.cont.scrubs (d.val * 16 + store.val) = sGet 0 s.live.cont.scrubs (d.val * 16 + store.val) +
        (if a + 32 = storeSize store then 1 else 0) ∧
      (∀ c, sscDecode word = some c →
        sGet 0 t.live.cont.corrected (d.val * 16 + store.val) = sGet 0 s.live.cont.corrected (d.val * 16 + store.val) +
          (if c = word then 0 else 1) ∧
        t.live.cont.uncorrectable = s.live.cont.uncorrectable ∧ t.live.dev = s.live.dev ∧
        (c ≠ word → store = 4 → c.length = 36 → Mem.read t.live.tiles.stratum (d.val * 2 ^ 32 + a) 32 = c.take 32) ∧
        (c ≠ word → store = 0 → c.length = 36 → Mem.read t.live.tiles.scratch (d.val * 32 * 327680 + a) 32 = c.take 32) ∧
        (c = word → t = { s with live := { s.live with cont := t.live.cont } })) ∧
      (sscDecode word = none →
        sGet 0 t.live.cont.uncorrectable (d.val * 16 + store.val) = sGet 0 s.live.cont.uncorrectable (d.val * 16 + store.val) + 1 ∧
        sGet (0, 0, 0) t.live.cont.lastUnc (d.val * 16 + store.val) = (a, s.live.dev.epoch, nowNs s.live)))) ∧
  (∀ (s : State) (e : Fin 16) (failed : Bool), awake s → e.val / 2 < s.live.cont.seams.length →
    (seam s.live (e / 2)).retraining = false → (seam s.live (e / 2)).failed = false → runsTo (.seamReplay e failed) s (fun t =>
      (storeSorted s.live.cont.replays → sGet 0 t.live.cont.replays e = sGet 0 s.live.cont.replays e + 1) ∧
      (seam t.live (e / 2)).retraining = (failed && decide (3 ≤ (if e.val % 2 = 0 then (seam s.live (e / 2)).fails0
        else (seam s.live (e / 2)).fails1))) ∧
      (failed = false → (if e.val % 2 = 0 then (seam t.live (e / 2)).fails0 else (seam t.live (e / 2)).fails1) = 0) ∧
      (∀ k, k ≠ e.val / 2 → seam t.live k = seam s.live k) ∧ t = { s with live := { s.live with cont := t.live.cont } })) ∧
  (∀ (s : State) (n : Fin 8), awake s → n.val < s.live.cont.seams.length → (seam s.live n).retraining = true →
    runsTo (.seamRetrainTimeout n) s (fun t => seam t.live n = { seam s.live n with retraining := false, failed := true } ∧
      (∀ k, k ≠ n.val → seam t.live k = seam s.live k) ∧ t = { s with live := { s.live with cont := t.live.cont } }) ∧
    runsTo (.seamRetrainComplete n) s (fun t => seam t.live n = {} ∧
      (∀ k, k ≠ n.val → seam t.live k = seam s.live k) ∧ t = { s with live := { s.live with cont := t.live.cont } })) ∧
  (∀ (s : State) (r : ObsRec) (rest : List ObsRec), awake s → (s.live.cont.obs.pinned = r :: rest ∨
      s.live.cont.obs.pinned = [] ∧ s.live.cont.obs.queue = r :: rest) → runsTo .obsidianCommit s (fun t =>
    (s.live.cont.obs.pinned = r :: rest → t.live.cont.obs.pinned = rest ∧ t.live.cont.obs.queue = s.live.cont.obs.queue) ∧
    (s.live.cont.obs.pinned = [] → t.live.cont.obs.pinned = [] ∧ t.live.cont.obs.queue = rest) ∧
    t.live.cont.obs.seq = s.live.cont.obs.seq + 1 ∧ t.live.cont.obs.nRecords = s.live.cont.obs.nRecords + 1 ∧
    t.live.cont.obs.next = (if s.live.cont.obs.next = 131071 then 4096 else s.live.cont.obs.next + 1) ∧
    sGet [] t.live.cont.obs.slots s.live.cont.obs.next = obsBytes (commonFormat s.live) (s.live.cont.obs.seq + 1) 3 r ∧
    t = { s with live := { s.live with cont := t.live.cont } }))

/-- Losses, take-overs and the rolling upgrade (12 R326, R327, R331, R333 to R335, R343, R344; 14 R383, R385): a die whose condition holds is
LOST with its cause, epoch and instant, and its waiting commands are gone; a set that cannot be carried is withdrawn, one that can
goes on, each critical loop from its command shadow; then a derived set comes into force; a drained die is loaded and rejoins. -/
def Obligations.LossesAreSurvivedAndDiesUpgraded : Prop :=
  (∀ (s : State) (d : Fin 4) (cause : BitVec 4), awake s → d.val < s.live.dev.dies.length → lossCounts s.live = true →
    dieGood (die s.live d) = true →
    (lossHolds s.live d cause.toNat = true → runsTo (.dieDeclaredLost d cause) s (fun t =>
      (die t.live d).state = .lost ∧ (die t.live d).cause = cause.toNat ∧ (die t.live d).declEpoch = s.live.dev.epoch ∧
      (die t.live d).declLc0 = nowNs s.live ∧ t.live.cont.nLosses = s.live.cont.nLosses + 1 ∧ t.live.cfg.swap = none ∧
      t.live.cfg.state ≠ .admitted ∧ t.served = s.served ∧
      (s.live.cfg.present = true → t.live.dev.state = .recovery ∧ sFind t.dieServed d = some s.served ∧
        t.live.cont.losses = s.live.cont.losses ++ [{ die := d, at_ := nowNs s.live }] ∧ t.live.dev.boundedNext = true ∧
        (ordered s.live → ∀ n, n < 16 → ∀ c ∈ (trunk t.live n).queue, c.engine / 4 ≠ d.val)) ∧
      (s.live.cfg.present = false → t.live.dev.state = s.live.dev.state ∧ t.dieServed = s.dieServed ∧
        t.live.dev.faultHeld = (s.live.dev.faultHeld || decide ((goodDies t.live).length < 3))))) ∧
    (lossHolds s.live d cause.toNat = false → runsTo (.dieDeclaredLost d cause) s (fun t => t = s))) ∧
  (∀ (s : State) (posted : BitVec 8) (d : Fin 4), awake s → s.live.cfg.present = false → lossCounts s.live = true →
    s.live.dev.dies.length = 5 → dieGood (die s.live d) = true → runsTo (.quietHeartbeatCheck posted) s (fun t =>
      (beats s.live posted d = true → (die t.live d).missedBeats = 0 ∧ (die t.live d).state = (die s.live d).state) ∧
      (beats s.live posted d = false → (die t.live d).missedBeats = (die s.live d).missedBeats + 1 ∧
        ((die s.live d).missedBeats = 0 → (die t.live d).state = (die s.live d).state) ∧
        (1 ≤ (die s.live d).missedBeats → (die t.live d).state = .lost ∧ (die t.live d).cause = 6)))) ∧
  (∀ (s : State) (b : Nat × Int) (x : Loss), awake s → ordered s.live → s.live.dev.boundaryDue = some b → s.live.cont.losses = [x] →
    x.taken = false → (x.at_ + 20000) * 65536 ≤ b.1 →
    (canCarry s.live x = false → runsTo .takeover s (fun t => t.live.dev.state = .readyQuiet ∧ t.live.cfg.present = false ∧
      t.live.dev.outLive = false ∧ t.live.dev.faultN = false ∧ t.live.cfg.rw = [] ∧ t.live.cont.losses = [] ∧
      t.live.cfg.active = s.live.cfg.active)) ∧
    (canCarry s.live x = true → runsTo .takeover s (fun t =>
      t.live.cont.nTakeovers = s.live.cont.nTakeovers + 1 ∧ t.live.dev.pendLoss = true ∧
      t.live.cont.losses = [{ x with taken := true }] ∧ t.live.dev.state = s.live.dev.state ∧ t.live.cfg = s.live.cfg ∧
      t.live.trunks = s.live.trunks ∧
      ∀ l ∈ criticalLoops s.live x.die, (loop t.live l).level = (shadow s.live l).level ∧
        (loop t.live l).lastExec = (shadow s.live l).lastExec ∧ (loop t.live l).stopped = false))) ∧
  (∀ (s : State) (b : Nat × Int) (x : Loss) (m : Mapping), awake s → s.live.dev.boundaryDue = some b →
    s.live.cont.losses.getLast? = some x → (∀ y ∈ s.live.cont.losses, y.taken = true) → s.live.dev.state = .recovery →
    derivedFor s.live x.die = some m → runsTo .derivedSetInForce s (fun t =>
      t.live.dev.state = .degraded ∧ t.live.cfg.mapping = m ∧ t.live.cfg.derivedDie = some x.die ∧ t.live.cfg.derivedReady = false ∧
      t.live.cont.losses = [] ∧ t.live.dev.bounded = false ∧ t.live.dev.epoch = s.live.dev.epoch)) ∧
  (∀ s : State, awake s → s.live.cfg.present = true → s.live.cont.losses = [] → s.live.cfg.derivedDie.isSome = true →
    runsTo .derivedSetsComputed s (fun t => t = { s with live := { s.live with cfg := { s.live.cfg with
      derived := derivedSets s.live.cfg.active (workDies s.live), derivedReady := true } } })) ∧
  (∀ (s : State) (b : Nat × Int) (u : Upgrade) (m : Mapping), awake s → s.live.dev.boundaryDue = some b →
    s.live.cont.upgrade = some u → u.op = 1 → u.die < s.live.dev.dies.length → (die s.live u.die).state = .draining →
    s.live.dev.state ≠ .recovery → sFind s.live.cfg.derived u.die = some m → runsTo .drainHandover s (fun t =>
      (die t.live u.die).state = .drained ∧ t.live.cfg.mapping = m ∧ t.live.cfg.derivedDie = some u.die ∧
      t.live.cont.upgrade = none ∧ t.live.cont.upgradeResult = 0 ∧
      t.live.dev.state = (if s.live.dev.state = .live then .degraded else s.live.dev.state))) ∧
  (∀ (s : State) (d : Fin 4) (passed : Bool), awake s → d.val < s.live.dev.dies.length → (die s.live d).state = .loading →
    runsTo (.dieLoadReady d passed) s (fun t =>
      (∀ c, passed = true → s.live.garnet.staged = some c →
        die t.live d = { die s.live d with state := .ready, image := imageOf c d, loaded := true } ∧ t.live.cont.upgradeResult = 0) ∧
      (passed = false ∨ s.live.garnet.staged = none → die t.live d = { die s.live d with state := .drained } ∧
        t.live.cont.upgradeResult = 6) ∧
      t.live.cont.upgrade = none ∧ (∀ k, k ≠ d.val → die t.live k = die s.live k) ∧
      t = { s with live := { s.live with dev := t.live.dev, cont := t.live.cont, free := t.live.free } })) ∧
  (∀ (s : State) (b : Nat × Int) (u : Upgrade), awake s → s.live.dev.boundaryDue = some b → s.live.cont.upgrade = some u → u.op = 3 →
    u.die < s.live.dev.dies.length → (die s.live u.die).state = .rejoining → s.live.dev.state ≠ .recovery →
    runsTo .rejoinHandover s (fun t => (die t.live u.die).state = .serving ∧ (die t.live u.die).missedBeats = 0 ∧
      t.live.cfg.derivedDie = none ∧ t.live.cont.upgrade = none ∧ t.live.cont.upgradeResult = 0 ∧
      t.live.cfg.mapping = (if (workDies t.live).length = 4 then placeSet s.live.cfg.active (workDies t.live) []
        else derive s.live.cfg.active (workDies t.live)) ∧
      t.live.dev.state = (if s.live.dev.state = .degraded ∧ (workDies t.live).length = 4 then .live else s.live.dev.state)))

/-- The package, the staged bundle, the ports below the dictionary (15 R403, R407, R408; 13 R353; 11 R290): a sensor sample is kept and
moves the run and the band it falls in; each JTAG instruction selects its register, and changes nothing else; a staged bundle that
verifies replaces the one before, another leaves it; solicitations and echoes for an address of the port are answered, at most a
hundred echoes a second, an address that another node claims while it is under detection is given up (log 93), and what is dropped
is counted. -/
def Obligations.SensorsScanStagingAndPorts : Prop :=
  (∀ (s : State) (d : Fin 5) (samples : List W32), awake s → d.val < s.live.dev.dies.length → dieGood (die s.live d) = true →
    samples.length = (if d = 4 then 2 else 5) → runsTo (.thermalSample d samples) s (fun t =>
      (die t.live d).sensors = samples ∧
      (die t.live d).hotRun = (if lt32 lossTemp (hottestOf samples) then (die s.live d).hotRun + 1 else 0) ∧
      (∀ b, lifeBand (hottestOf samples) = some b → (die s.live d).bands.length = 5 →
        nth 0 (die t.live d).bands b = nth 0 (die s.live d).bands b + 1) ∧
      (die t.live d).state = (die s.live d).state ∧ (∀ k, k ≠ d.val → die t.live k = die s.live k) ∧
      t = { s with live := { s.live with dev := { s.live.dev with dies := t.live.dev.dies } } })) ∧
  (∀ (s : State) (v : BitVec 22), pinsAgree s.live →
    runsTo (.extest v) s (fun t => t.live.jtag.ir = 0 ∧ t.live.jtag.sel = .boundary ∧ t.live.jtag.boundary = v ∧
      t.live.jtag.driving = s.live.dev.inReset ∧ (∃ ext, t.live.jtag.shifted = (ballLevels s.live ext).setWidth 32) ∧
      t = { s with live := { s.live with jtag := t.live.jtag, free := t.live.free } }) ∧
    runsTo (.samplePreload v) s (fun t => t.live.jtag.ir = 1 ∧ t.live.jtag.sel = .boundary ∧ t.live.jtag.boundary = v ∧
      t.live.jtag.driving = false ∧ (∃ ext, t.live.jtag.shifted = (ballLevels s.live ext).setWidth 32) ∧
      t = { s with live := { s.live with jtag := t.live.jtag, free := t.live.free } }) ∧
    runsTo .idcode s (fun t => t.live.jtag.ir = 2 ∧ t.live.jtag.sel = .idcode ∧ t.live.jtag.shifted = 0x147400DF ∧
      t = { s with live := { s.live with jtag := t.live.jtag } }) ∧
    (∀ (code : BitVec 4) (tdi : Bool), 3 ≤ code.toNat → runsTo (.bypass code tdi) s (fun t => t.live.jtag.ir = code ∧
      t.live.jtag.sel = .bypass ∧ t.live.jtag.bypass = tdi ∧ t = { s with live := { s.live with jtag := t.live.jtag } }))) ∧
  (∀ (s : State) (n : Nat) (reqId : BitVec 32) (b : Bytes), awake s → s.live.garnet.staging = some (n, reqId, b) →
    runsTo .stageVerifyComplete s (fun t => t.live.garnet.staging = none ∧ t.live.garnet.verifyResult = verifyBundle s.live none b ∧
      t.live.garnet.staged = (if verifyBundle s.live none b = 0 then some b else s.live.garnet.staged) ∧
      t.live.garnet.slots = s.live.garnet.slots ∧ t.live.garnet.floorA = s.live.garnet.floorA ∧
      t.live.garnet.ownerA = s.live.garnet.ownerA ∧
      t = { s with live := { s.live with
        garnet := t.live.garnet, cont := t.live.cont, link := t.live.link, out := t.live.out, free := t.live.free } })) ∧
  (∀ (s : State) (p : Fin 2) (src target : BitVec 128) (mac : BitVec 48), awake s → portServes s.live p = true →
    p.val < s.live.link.ports.length →
    (src = 0 → (hostPort s.live p).detecting.any (fun e => e.1 = target && decide (nowNs s.live ≤ e.2 + Config.detectTime.toNat)) = true →
      runsTo (.neighborSolicitation p src mac target) s (fun t => target ∉ portAddrs t.live p ∧ t.live.out = s.live.out ∧
        t = { s with live := { s.live with link := t.live.link } })) ∧
    ((src ≠ 0 ∨ (hostPort s.live p).detecting.any (fun e => e.1 = target && decide (nowNs s.live ≤ e.2 + Config.detectTime.toNat)) = false) →
      runsTo (.neighborSolicitation p src mac target) s (fun t =>
        t.live.out = (if (portAddrs s.live p).contains target then .neighborAdvert p src target mac :: s.live.out else s.live.out) ∧
        t = { s with live := { s.live with link := t.live.link, out := t.live.out } }))) ∧
  (∀ (s : State) (p : Fin 2) (src dst : BitVec 128) (mac : BitVec 48) (payload : Bytes), awake s → portServes s.live p = true →
    (portAddrs s.live p).contains dst = true → p.val < s.live.link.ports.length →
    runsTo (.icmpv6EchoRequest p src dst mac payload) s (fun t =>
      ((hostPort s.live p).echoSecond = nowNs s.live / 1000000000 → 100 ≤ (hostPort s.live p).echoCount →
        t.live.out = s.live.out ∧ (hostPort t.live p).nEchoDropped = (hostPort s.live p).nEchoDropped + 1) ∧
      ((hostPort s.live p).echoSecond ≠ nowNs s.live / 1000000000 ∨ (hostPort s.live p).echoCount < 100 →
        t.live.out = .echoReply p src dst mac payload :: s.live.out ∧ (hostPort t.live p).nEcho = (hostPort s.live p).nEcho + 1) ∧
      t = { s with live := { s.live with link := t.live.link, out := t.live.out } })) ∧
  (∀ (s : State) (p : Fin 2) (malformed : Bool), awake s → p.val < s.live.link.ports.length →
    runsTo (.hostFrameDropped p malformed) s (fun t =>
      hostPort t.live p = { hostPort s.live p with
        nRx := (hostPort s.live p).nRx + 1
        nMalformed := (hostPort s.live p).nMalformed + (if malformed then 1 else 0)
        nUnsupported := (hostPort s.live p).nUnsupported + (if malformed then 0 else 1) } ∧
      t.live.link.sessions = s.live.link.sessions ∧ t = { s with live := { s.live with link := t.live.link } }))
end

