-- ==== Sys2Proof/Laws/Bytes.lean ====
section
/-! SUPPORT. Sparse tables and byte memories: every operation keeps the canonical form, a read after a write gives what was written,
and a write leaves every other place alone. -/

namespace Sys2Proof.Machine

variable {α : Type}

/-! ## Entries and keys -/

theorem sErase_mem {s : Store α} {i : Nat} {e : Nat × α} (h : e ∈ sErase s i) : e ∈ s := by
  induction s with
  | nil => simp [sErase] at h
  | cons p s ih =>
    obtain ⟨k, v⟩ := p
    simp only [sErase] at h
    split at h
    · exact List.mem_cons_of_mem _ h
    · split at h
      · exact h
      · rcases List.mem_cons.mp h with h | h
        · exact h ▸ List.mem_cons_self
        · exact List.mem_cons_of_mem _ (ih h)

theorem sInsert_mem {s : Store α} {i : Nat} {v : α} {e : Nat × α} (h : e ∈ sInsert s i v) : e = (i, v) ∨ e ∈ s := by
  induction s with
  | nil => simpa [sInsert] using h
  | cons p s ih =>
    obtain ⟨k, u⟩ := p
    simp only [sInsert] at h
    split at h
    · rcases List.mem_cons.mp h with h | h
      · exact .inl h
      · exact .inr (List.mem_cons_of_mem _ h)
    · split at h
      · rcases List.mem_cons.mp h with h | h
        · exact .inl h
        · exact .inr h
      · rcases List.mem_cons.mp h with h | h
        · exact .inr (h ▸ List.mem_cons_self)
        · exact (ih h).imp_right (List.mem_cons_of_mem _)

/-! ## The canonical form -/

theorem sErase_sorted {s : Store α} (i : Nat) (h : storeSorted s) : storeSorted (sErase s i) := by
  induction s with
  | nil => simp [sErase]
  | cons p s ih =>
    obtain ⟨k, v⟩ := p
    have hs := List.pairwise_cons.mp h
    simp only [sErase]
    split
    · exact hs.2
    · split
      · exact h
      · exact List.pairwise_cons.mpr ⟨fun e he => hs.1 e (sErase_mem he), ih hs.2⟩

theorem sInsert_sorted {s : Store α} (i : Nat) (v : α) (h : storeSorted s) : storeSorted (sInsert s i v) := by
  induction s with
  | nil => simp [sInsert]
  | cons p s ih =>
    obtain ⟨k, u⟩ := p
    have hs := List.pairwise_cons.mp h
    simp only [sInsert]
    split
    · subst_vars; exact List.pairwise_cons.mpr ⟨hs.1, hs.2⟩
    · split
      · rename_i hlt
        refine List.pairwise_cons.mpr ⟨fun e he => ?_, h⟩
        rcases List.mem_cons.mp he with he | he
        · subst he; exact hlt
        · exact Nat.lt_trans hlt (hs.1 e he)
      · refine List.pairwise_cons.mpr ⟨fun e he => ?_, ih hs.2⟩
        rcases sInsert_mem he with he | he
        · subst he; show k < i; omega
        · exact hs.1 e he

theorem sPut_wf [DecidableEq α] {d : α} {s : Store α} (i : Nat) (v : α) (h : storeWf d s) : storeWf d (sPut d s i v) := by
  unfold sPut
  split
  · exact ⟨sErase_sorted i h.1, fun e he => h.2 e (sErase_mem he)⟩
  · rename_i hv
    refine ⟨sInsert_sorted i v h.1, fun e he => ?_⟩
    rcases sInsert_mem he with he | he
    · subst he; exact hv
    · exact h.2 e he

theorem sUpd_wf [DecidableEq α] {d : α} {s : Store α} (i : Nat) (f : α → α) (h : storeWf d s) : storeWf d (sUpd d s i f) :=
  sPut_wf i _ h

/-! ## Reading -/

theorem sGet_of_below {d : α} {s : Store α} {i : Nat} (h : ∀ e ∈ s, i < e.1) : sGet d s i = d := by
  cases s with
  | nil => rfl
  | cons p s =>
    obtain ⟨k, v⟩ := p
    have hk : i < k := h (k, v) List.mem_cons_self
    simp [sGet, hk, Nat.ne_of_gt hk]

theorem sGet_erase_same {d : α} {s : Store α} (i : Nat) (h : storeSorted s) : sGet d (sErase s i) i = d := by
  induction s with
  | nil => rfl
  | cons p s ih =>
    obtain ⟨k, v⟩ := p
    have hs := List.pairwise_cons.mp h
    simp only [sErase]
    split
    · subst_vars; exact sGet_of_below hs.1
    · split
      · rename_i hne hlt; simp [sGet, hne, hlt]
      · rename_i hne hlt; simp [sGet, hne, hlt, ih hs.2]

theorem sGet_erase_other {d : α} {s : Store α} {i j : Nat} (h : storeSorted s) (hij : j ≠ i) : sGet d (sErase s i) j = sGet d s j := by
  induction s with
  | nil => rfl
  | cons p s ih =>
    obtain ⟨k, v⟩ := p
    have hs := List.pairwise_cons.mp h
    simp only [sErase]
    split
    · subst_vars
      simp only [sGet, if_neg (Ne.symm hij)]
      split
      · rename_i hlt; exact sGet_of_below (fun e he => Nat.lt_trans hlt (hs.1 e he))
      · rfl
    · split
      · rfl
      · simp only [sGet, ih hs.2]

theorem sGet_insert_same {d : α} {s : Store α} (i : Nat) (v : α) : sGet d (sInsert s i v) i = v := by
  induction s with
  | nil => simp [sInsert, sGet]
  | cons p s ih =>
    obtain ⟨k, u⟩ := p
    simp only [sInsert]
    split
    · simp [sGet]
    · split
      · simp [sGet]
      · rename_i hne hlt; simp [sGet, hne, hlt, ih]

theorem sGet_insert_other {d : α} {s : Store α} {i j : Nat} (v : α) (h : storeSorted s) (hij : j ≠ i) :
    sGet d (sInsert s i v) j = sGet d s j := by
  induction s with
  | nil =>
    simp only [sInsert, sGet, if_neg (Ne.symm hij)]
    split <;> rfl
  | cons p s ih =>
    obtain ⟨k, u⟩ := p
    have hs := List.pairwise_cons.mp h
    simp only [sInsert]
    split
    · subst_vars; simp only [sGet, if_neg (Ne.symm hij)]
    · split
      · rename_i hlt
        simp only [sGet, if_neg (Ne.symm hij)]
        split
        · rename_i hji
          have hk : j < k := Nat.lt_trans hji hlt
          simp [Nat.ne_of_gt hk, hk]
        · rfl
      · simp only [sGet, ih hs.2]

@[simp] theorem sGet_put_same [DecidableEq α] {d : α} {s : Store α} (i : Nat) (v : α) (h : storeSorted s) :
    sGet d (sPut d s i v) i = v := by
  unfold sPut
  split
  · subst_vars; exact sGet_erase_same i h
  · exact sGet_insert_same i v

theorem sGet_put_other [DecidableEq α] {d : α} {s : Store α} {i j : Nat} (v : α) (h : storeSorted s) (hij : j ≠ i) :
    sGet d (sPut d s i v) j = sGet d s j := by
  unfold sPut
  split
  · exact sGet_erase_other h hij
  · exact sGet_insert_other v h hij

theorem sFind_insert_same {s : Store α} (i : Nat) (v : α) : sFind (sInsert s i v) i = some v := by
  induction s with
  | nil => simp [sInsert, sFind]
  | cons p s ih =>
    obtain ⟨k, u⟩ := p
    simp only [sInsert]
    split
    · simp [sFind]
    · split
      · simp [sFind]
      · rename_i hne hlt; simp [sFind, hne, hlt, ih]

/-! ## Byte memories -/

theorem Mem.put_wf {m : List Host.Cell} (a : Nat) (b : Byte) (h : Memory.wf m) : Memory.wf (Mem.put m a b) := sPut_wf a b h

theorem Mem.write_wf {m : List Host.Cell} (a : Nat) (bs : Bytes) (h : Memory.wf m) : Memory.wf (Mem.write m a bs) := by
  induction bs generalizing m a with
  | nil => exact h
  | cons b bs ih => exact ih (a + 1) (Mem.put_wf a b h)

theorem Mem.writeNat_wf {m : List Host.Cell} (a n v : Nat) (h : Memory.wf m) : Memory.wf (Mem.writeNat m a n v) :=
  Mem.write_wf a _ h

theorem Mem.clear_wf {m : List Host.Cell} (a n : Nat) (h : Memory.wf m) : Memory.wf (Mem.clear m a n) :=
  ⟨h.1.filter _, fun e he => h.2 e (List.mem_of_mem_filter he)⟩

theorem Mem.get_put_same {m : List Host.Cell} (a : Nat) (b : Byte) (h : Memory.wf m) : Mem.get (Mem.put m a b) a = b :=
  sGet_put_same a b h.1

theorem Mem.get_put_other {m : List Host.Cell} {a c : Nat} (b : Byte) (h : Memory.wf m) (hc : c ≠ a) :
    Mem.get (Mem.put m a b) c = Mem.get m c := sGet_put_other b h.1 hc

/-- A write leaves every byte outside it alone. -/
theorem Mem.get_write_outside {m : List Host.Cell} {a c : Nat} (bs : Bytes) (h : Memory.wf m) (hc : c < a ∨ a + bs.length ≤ c) :
    Mem.get (Mem.write m a bs) c = Mem.get m c := by
  induction bs generalizing m a with
  | nil => rfl
  | cons b bs ih =>
    simp only [List.length_cons] at hc
    rw [Mem.write, ih (Mem.put_wf a b h) (by omega), Mem.get_put_other b h (by omega)]

/-- A read of what was written gives what was written. -/
theorem Mem.read_write {m : List Host.Cell} (a : Nat) (bs : Bytes) (h : Memory.wf m) : Mem.read (Mem.write m a bs) a bs.length = bs := by
  induction bs generalizing m a with
  | nil => rfl
  | cons b bs ih =>
    rw [List.length_cons, Mem.read, Mem.write, ih (a + 1) (Mem.put_wf a b h),
      Mem.get_write_outside bs (Mem.put_wf a b h) (.inl (by omega)), Mem.get_put_same a b h]

/-- A memory with nothing listed is canonical, as reset leaves it. -/
theorem Memory.wf_nil : Memory.wf [] := ⟨List.Pairwise.nil, by simp⟩

end Sys2Proof.Machine
end

