-- ==== Sys2Proof/Laws/State.lean ====
section
/-! SUPPORT. What each update of one block of the world does to each block: one lemma a field an update. -/

namespace Sys2Proof.Machine

/-! ## onDev -/

@[simp] theorem onDev_dev (f : Dev → Dev) (w : World) : (onDev f w).dev = f w.dev := rfl
@[simp] theorem onDev_mer (f : Dev → Dev) (w : World) : (onDev f w).mer = w.mer := rfl
@[simp] theorem onDev_tiles (f : Dev → Dev) (w : World) : (onDev f w).tiles = w.tiles := rfl
@[simp] theorem onDev_solver (f : Dev → Dev) (w : World) : (onDev f w).solver = w.solver := rfl
@[simp] theorem onDev_halo (f : Dev → Dev) (w : World) : (onDev f w).halo = w.halo := rfl
@[simp] theorem onDev_serving (f : Dev → Dev) (w : World) : (onDev f w).serving = w.serving := rfl
@[simp] theorem onDev_trunks (f : Dev → Dev) (w : World) : (onDev f w).trunks = w.trunks := rfl
@[simp] theorem onDev_cfg (f : Dev → Dev) (w : World) : (onDev f w).cfg = w.cfg := rfl
@[simp] theorem onDev_link (f : Dev → Dev) (w : World) : (onDev f w).link = w.link := rfl
@[simp] theorem onDev_garnet (f : Dev → Dev) (w : World) : (onDev f w).garnet = w.garnet := rfl
@[simp] theorem onDev_cont (f : Dev → Dev) (w : World) : (onDev f w).cont = w.cont := rfl
@[simp] theorem onDev_jtag (f : Dev → Dev) (w : World) : (onDev f w).jtag = w.jtag := rfl
@[simp] theorem onDev_out (f : Dev → Dev) (w : World) : (onDev f w).out = w.out := rfl
@[simp] theorem onDev_free (f : Dev → Dev) (w : World) : (onDev f w).free = w.free := rfl

/-! ## onMer -/

@[simp] theorem onMer_dev (f : Meridian → Meridian) (w : World) : (onMer f w).dev = w.dev := rfl
@[simp] theorem onMer_mer (f : Meridian → Meridian) (w : World) : (onMer f w).mer = f w.mer := rfl
@[simp] theorem onMer_tiles (f : Meridian → Meridian) (w : World) : (onMer f w).tiles = w.tiles := rfl
@[simp] theorem onMer_solver (f : Meridian → Meridian) (w : World) : (onMer f w).solver = w.solver := rfl
@[simp] theorem onMer_halo (f : Meridian → Meridian) (w : World) : (onMer f w).halo = w.halo := rfl
@[simp] theorem onMer_serving (f : Meridian → Meridian) (w : World) : (onMer f w).serving = w.serving := rfl
@[simp] theorem onMer_trunks (f : Meridian → Meridian) (w : World) : (onMer f w).trunks = w.trunks := rfl
@[simp] theorem onMer_cfg (f : Meridian → Meridian) (w : World) : (onMer f w).cfg = w.cfg := rfl
@[simp] theorem onMer_link (f : Meridian → Meridian) (w : World) : (onMer f w).link = w.link := rfl
@[simp] theorem onMer_garnet (f : Meridian → Meridian) (w : World) : (onMer f w).garnet = w.garnet := rfl
@[simp] theorem onMer_cont (f : Meridian → Meridian) (w : World) : (onMer f w).cont = w.cont := rfl
@[simp] theorem onMer_jtag (f : Meridian → Meridian) (w : World) : (onMer f w).jtag = w.jtag := rfl
@[simp] theorem onMer_out (f : Meridian → Meridian) (w : World) : (onMer f w).out = w.out := rfl
@[simp] theorem onMer_free (f : Meridian → Meridian) (w : World) : (onMer f w).free = w.free := rfl

/-! ## onTiles -/

@[simp] theorem onTiles_dev (f : Tiles → Tiles) (w : World) : (onTiles f w).dev = w.dev := rfl
@[simp] theorem onTiles_mer (f : Tiles → Tiles) (w : World) : (onTiles f w).mer = w.mer := rfl
@[simp] theorem onTiles_tiles (f : Tiles → Tiles) (w : World) : (onTiles f w).tiles = f w.tiles := rfl
@[simp] theorem onTiles_solver (f : Tiles → Tiles) (w : World) : (onTiles f w).solver = w.solver := rfl
@[simp] theorem onTiles_halo (f : Tiles → Tiles) (w : World) : (onTiles f w).halo = w.halo := rfl
@[simp] theorem onTiles_serving (f : Tiles → Tiles) (w : World) : (onTiles f w).serving = w.serving := rfl
@[simp] theorem onTiles_trunks (f : Tiles → Tiles) (w : World) : (onTiles f w).trunks = w.trunks := rfl
@[simp] theorem onTiles_cfg (f : Tiles → Tiles) (w : World) : (onTiles f w).cfg = w.cfg := rfl
@[simp] theorem onTiles_link (f : Tiles → Tiles) (w : World) : (onTiles f w).link = w.link := rfl
@[simp] theorem onTiles_garnet (f : Tiles → Tiles) (w : World) : (onTiles f w).garnet = w.garnet := rfl
@[simp] theorem onTiles_cont (f : Tiles → Tiles) (w : World) : (onTiles f w).cont = w.cont := rfl
@[simp] theorem onTiles_jtag (f : Tiles → Tiles) (w : World) : (onTiles f w).jtag = w.jtag := rfl
@[simp] theorem onTiles_out (f : Tiles → Tiles) (w : World) : (onTiles f w).out = w.out := rfl
@[simp] theorem onTiles_free (f : Tiles → Tiles) (w : World) : (onTiles f w).free = w.free := rfl

/-! ## onSolver -/

@[simp] theorem onSolver_dev (f : Solver → Solver) (w : World) : (onSolver f w).dev = w.dev := rfl
@[simp] theorem onSolver_mer (f : Solver → Solver) (w : World) : (onSolver f w).mer = w.mer := rfl
@[simp] theorem onSolver_tiles (f : Solver → Solver) (w : World) : (onSolver f w).tiles = w.tiles := rfl
@[simp] theorem onSolver_solver (f : Solver → Solver) (w : World) : (onSolver f w).solver = f w.solver := rfl
@[simp] theorem onSolver_halo (f : Solver → Solver) (w : World) : (onSolver f w).halo = w.halo := rfl
@[simp] theorem onSolver_serving (f : Solver → Solver) (w : World) : (onSolver f w).serving = w.serving := rfl
@[simp] theorem onSolver_trunks (f : Solver → Solver) (w : World) : (onSolver f w).trunks = w.trunks := rfl
@[simp] theorem onSolver_cfg (f : Solver → Solver) (w : World) : (onSolver f w).cfg = w.cfg := rfl
@[simp] theorem onSolver_link (f : Solver → Solver) (w : World) : (onSolver f w).link = w.link := rfl
@[simp] theorem onSolver_garnet (f : Solver → Solver) (w : World) : (onSolver f w).garnet = w.garnet := rfl
@[simp] theorem onSolver_cont (f : Solver → Solver) (w : World) : (onSolver f w).cont = w.cont := rfl
@[simp] theorem onSolver_jtag (f : Solver → Solver) (w : World) : (onSolver f w).jtag = w.jtag := rfl
@[simp] theorem onSolver_out (f : Solver → Solver) (w : World) : (onSolver f w).out = w.out := rfl
@[simp] theorem onSolver_free (f : Solver → Solver) (w : World) : (onSolver f w).free = w.free := rfl

/-! ## onHalo -/

@[simp] theorem onHalo_dev (f : Halo → Halo) (w : World) : (onHalo f w).dev = w.dev := rfl
@[simp] theorem onHalo_mer (f : Halo → Halo) (w : World) : (onHalo f w).mer = w.mer := rfl
@[simp] theorem onHalo_tiles (f : Halo → Halo) (w : World) : (onHalo f w).tiles = w.tiles := rfl
@[simp] theorem onHalo_solver (f : Halo → Halo) (w : World) : (onHalo f w).solver = w.solver := rfl
@[simp] theorem onHalo_halo (f : Halo → Halo) (w : World) : (onHalo f w).halo = f w.halo := rfl
@[simp] theorem onHalo_serving (f : Halo → Halo) (w : World) : (onHalo f w).serving = w.serving := rfl
@[simp] theorem onHalo_trunks (f : Halo → Halo) (w : World) : (onHalo f w).trunks = w.trunks := rfl
@[simp] theorem onHalo_cfg (f : Halo → Halo) (w : World) : (onHalo f w).cfg = w.cfg := rfl
@[simp] theorem onHalo_link (f : Halo → Halo) (w : World) : (onHalo f w).link = w.link := rfl
@[simp] theorem onHalo_garnet (f : Halo → Halo) (w : World) : (onHalo f w).garnet = w.garnet := rfl
@[simp] theorem onHalo_cont (f : Halo → Halo) (w : World) : (onHalo f w).cont = w.cont := rfl
@[simp] theorem onHalo_jtag (f : Halo → Halo) (w : World) : (onHalo f w).jtag = w.jtag := rfl
@[simp] theorem onHalo_out (f : Halo → Halo) (w : World) : (onHalo f w).out = w.out := rfl
@[simp] theorem onHalo_free (f : Halo → Halo) (w : World) : (onHalo f w).free = w.free := rfl

/-! ## onServing -/

@[simp] theorem onServing_dev (f : Serving → Serving) (w : World) : (onServing f w).dev = w.dev := rfl
@[simp] theorem onServing_mer (f : Serving → Serving) (w : World) : (onServing f w).mer = w.mer := rfl
@[simp] theorem onServing_tiles (f : Serving → Serving) (w : World) : (onServing f w).tiles = w.tiles := rfl
@[simp] theorem onServing_solver (f : Serving → Serving) (w : World) : (onServing f w).solver = w.solver := rfl
@[simp] theorem onServing_halo (f : Serving → Serving) (w : World) : (onServing f w).halo = w.halo := rfl
@[simp] theorem onServing_serving (f : Serving → Serving) (w : World) : (onServing f w).serving = f w.serving := rfl
@[simp] theorem onServing_trunks (f : Serving → Serving) (w : World) : (onServing f w).trunks = w.trunks := rfl
@[simp] theorem onServing_cfg (f : Serving → Serving) (w : World) : (onServing f w).cfg = w.cfg := rfl
@[simp] theorem onServing_link (f : Serving → Serving) (w : World) : (onServing f w).link = w.link := rfl
@[simp] theorem onServing_garnet (f : Serving → Serving) (w : World) : (onServing f w).garnet = w.garnet := rfl
@[simp] theorem onServing_cont (f : Serving → Serving) (w : World) : (onServing f w).cont = w.cont := rfl
@[simp] theorem onServing_jtag (f : Serving → Serving) (w : World) : (onServing f w).jtag = w.jtag := rfl
@[simp] theorem onServing_out (f : Serving → Serving) (w : World) : (onServing f w).out = w.out := rfl
@[simp] theorem onServing_free (f : Serving → Serving) (w : World) : (onServing f w).free = w.free := rfl

/-! ## onTrunks -/

@[simp] theorem onTrunks_dev (f : TrunkPath → TrunkPath) (w : World) : (onTrunks f w).dev = w.dev := rfl
@[simp] theorem onTrunks_mer (f : TrunkPath → TrunkPath) (w : World) : (onTrunks f w).mer = w.mer := rfl
@[simp] theorem onTrunks_tiles (f : TrunkPath → TrunkPath) (w : World) : (onTrunks f w).tiles = w.tiles := rfl
@[simp] theorem onTrunks_solver (f : TrunkPath → TrunkPath) (w : World) : (onTrunks f w).solver = w.solver := rfl
@[simp] theorem onTrunks_halo (f : TrunkPath → TrunkPath) (w : World) : (onTrunks f w).halo = w.halo := rfl
@[simp] theorem onTrunks_serving (f : TrunkPath → TrunkPath) (w : World) : (onTrunks f w).serving = w.serving := rfl
@[simp] theorem onTrunks_trunks (f : TrunkPath → TrunkPath) (w : World) : (onTrunks f w).trunks = f w.trunks := rfl
@[simp] theorem onTrunks_cfg (f : TrunkPath → TrunkPath) (w : World) : (onTrunks f w).cfg = w.cfg := rfl
@[simp] theorem onTrunks_link (f : TrunkPath → TrunkPath) (w : World) : (onTrunks f w).link = w.link := rfl
@[simp] theorem onTrunks_garnet (f : TrunkPath → TrunkPath) (w : World) : (onTrunks f w).garnet = w.garnet := rfl
@[simp] theorem onTrunks_cont (f : TrunkPath → TrunkPath) (w : World) : (onTrunks f w).cont = w.cont := rfl
@[simp] theorem onTrunks_jtag (f : TrunkPath → TrunkPath) (w : World) : (onTrunks f w).jtag = w.jtag := rfl
@[simp] theorem onTrunks_out (f : TrunkPath → TrunkPath) (w : World) : (onTrunks f w).out = w.out := rfl
@[simp] theorem onTrunks_free (f : TrunkPath → TrunkPath) (w : World) : (onTrunks f w).free = w.free := rfl

/-! ## onCfg -/

@[simp] theorem onCfg_dev (f : Config → Config) (w : World) : (onCfg f w).dev = w.dev := rfl
@[simp] theorem onCfg_mer (f : Config → Config) (w : World) : (onCfg f w).mer = w.mer := rfl
@[simp] theorem onCfg_tiles (f : Config → Config) (w : World) : (onCfg f w).tiles = w.tiles := rfl
@[simp] theorem onCfg_solver (f : Config → Config) (w : World) : (onCfg f w).solver = w.solver := rfl
@[simp] theorem onCfg_halo (f : Config → Config) (w : World) : (onCfg f w).halo = w.halo := rfl
@[simp] theorem onCfg_serving (f : Config → Config) (w : World) : (onCfg f w).serving = w.serving := rfl
@[simp] theorem onCfg_trunks (f : Config → Config) (w : World) : (onCfg f w).trunks = w.trunks := rfl
@[simp] theorem onCfg_cfg (f : Config → Config) (w : World) : (onCfg f w).cfg = f w.cfg := rfl
@[simp] theorem onCfg_link (f : Config → Config) (w : World) : (onCfg f w).link = w.link := rfl
@[simp] theorem onCfg_garnet (f : Config → Config) (w : World) : (onCfg f w).garnet = w.garnet := rfl
@[simp] theorem onCfg_cont (f : Config → Config) (w : World) : (onCfg f w).cont = w.cont := rfl
@[simp] theorem onCfg_jtag (f : Config → Config) (w : World) : (onCfg f w).jtag = w.jtag := rfl
@[simp] theorem onCfg_out (f : Config → Config) (w : World) : (onCfg f w).out = w.out := rfl
@[simp] theorem onCfg_free (f : Config → Config) (w : World) : (onCfg f w).free = w.free := rfl

/-! ## onLink -/

@[simp] theorem onLink_dev (f : HostLink → HostLink) (w : World) : (onLink f w).dev = w.dev := rfl
@[simp] theorem onLink_mer (f : HostLink → HostLink) (w : World) : (onLink f w).mer = w.mer := rfl
@[simp] theorem onLink_tiles (f : HostLink → HostLink) (w : World) : (onLink f w).tiles = w.tiles := rfl
@[simp] theorem onLink_solver (f : HostLink → HostLink) (w : World) : (onLink f w).solver = w.solver := rfl
@[simp] theorem onLink_halo (f : HostLink → HostLink) (w : World) : (onLink f w).halo = w.halo := rfl
@[simp] theorem onLink_serving (f : HostLink → HostLink) (w : World) : (onLink f w).serving = w.serving := rfl
@[simp] theorem onLink_trunks (f : HostLink → HostLink) (w : World) : (onLink f w).trunks = w.trunks := rfl
@[simp] theorem onLink_cfg (f : HostLink → HostLink) (w : World) : (onLink f w).cfg = w.cfg := rfl
@[simp] theorem onLink_link (f : HostLink → HostLink) (w : World) : (onLink f w).link = f w.link := rfl
@[simp] theorem onLink_garnet (f : HostLink → HostLink) (w : World) : (onLink f w).garnet = w.garnet := rfl
@[simp] theorem onLink_cont (f : HostLink → HostLink) (w : World) : (onLink f w).cont = w.cont := rfl
@[simp] theorem onLink_jtag (f : HostLink → HostLink) (w : World) : (onLink f w).jtag = w.jtag := rfl
@[simp] theorem onLink_out (f : HostLink → HostLink) (w : World) : (onLink f w).out = w.out := rfl
@[simp] theorem onLink_free (f : HostLink → HostLink) (w : World) : (onLink f w).free = w.free := rfl

/-! ## onGarnet -/

@[simp] theorem onGarnet_dev (f : Garnet → Garnet) (w : World) : (onGarnet f w).dev = w.dev := rfl
@[simp] theorem onGarnet_mer (f : Garnet → Garnet) (w : World) : (onGarnet f w).mer = w.mer := rfl
@[simp] theorem onGarnet_tiles (f : Garnet → Garnet) (w : World) : (onGarnet f w).tiles = w.tiles := rfl
@[simp] theorem onGarnet_solver (f : Garnet → Garnet) (w : World) : (onGarnet f w).solver = w.solver := rfl
@[simp] theorem onGarnet_halo (f : Garnet → Garnet) (w : World) : (onGarnet f w).halo = w.halo := rfl
@[simp] theorem onGarnet_serving (f : Garnet → Garnet) (w : World) : (onGarnet f w).serving = w.serving := rfl
@[simp] theorem onGarnet_trunks (f : Garnet → Garnet) (w : World) : (onGarnet f w).trunks = w.trunks := rfl
@[simp] theorem onGarnet_cfg (f : Garnet → Garnet) (w : World) : (onGarnet f w).cfg = w.cfg := rfl
@[simp] theorem onGarnet_link (f : Garnet → Garnet) (w : World) : (onGarnet f w).link = w.link := rfl
@[simp] theorem onGarnet_garnet (f : Garnet → Garnet) (w : World) : (onGarnet f w).garnet = f w.garnet := rfl
@[simp] theorem onGarnet_cont (f : Garnet → Garnet) (w : World) : (onGarnet f w).cont = w.cont := rfl
@[simp] theorem onGarnet_jtag (f : Garnet → Garnet) (w : World) : (onGarnet f w).jtag = w.jtag := rfl
@[simp] theorem onGarnet_out (f : Garnet → Garnet) (w : World) : (onGarnet f w).out = w.out := rfl
@[simp] theorem onGarnet_free (f : Garnet → Garnet) (w : World) : (onGarnet f w).free = w.free := rfl

/-! ## onCont -/

@[simp] theorem onCont_dev (f : Cont → Cont) (w : World) : (onCont f w).dev = w.dev := rfl
@[simp] theorem onCont_mer (f : Cont → Cont) (w : World) : (onCont f w).mer = w.mer := rfl
@[simp] theorem onCont_tiles (f : Cont → Cont) (w : World) : (onCont f w).tiles = w.tiles := rfl
@[simp] theorem onCont_solver (f : Cont → Cont) (w : World) : (onCont f w).solver = w.solver := rfl
@[simp] theorem onCont_halo (f : Cont → Cont) (w : World) : (onCont f w).halo = w.halo := rfl
@[simp] theorem onCont_serving (f : Cont → Cont) (w : World) : (onCont f w).serving = w.serving := rfl
@[simp] theorem onCont_trunks (f : Cont → Cont) (w : World) : (onCont f w).trunks = w.trunks := rfl
@[simp] theorem onCont_cfg (f : Cont → Cont) (w : World) : (onCont f w).cfg = w.cfg := rfl
@[simp] theorem onCont_link (f : Cont → Cont) (w : World) : (onCont f w).link = w.link := rfl
@[simp] theorem onCont_garnet (f : Cont → Cont) (w : World) : (onCont f w).garnet = w.garnet := rfl
@[simp] theorem onCont_cont (f : Cont → Cont) (w : World) : (onCont f w).cont = f w.cont := rfl
@[simp] theorem onCont_jtag (f : Cont → Cont) (w : World) : (onCont f w).jtag = w.jtag := rfl
@[simp] theorem onCont_out (f : Cont → Cont) (w : World) : (onCont f w).out = w.out := rfl
@[simp] theorem onCont_free (f : Cont → Cont) (w : World) : (onCont f w).free = w.free := rfl

/-! ## onJtag -/

@[simp] theorem onJtag_dev (f : Jtag → Jtag) (w : World) : (onJtag f w).dev = w.dev := rfl
@[simp] theorem onJtag_mer (f : Jtag → Jtag) (w : World) : (onJtag f w).mer = w.mer := rfl
@[simp] theorem onJtag_tiles (f : Jtag → Jtag) (w : World) : (onJtag f w).tiles = w.tiles := rfl
@[simp] theorem onJtag_solver (f : Jtag → Jtag) (w : World) : (onJtag f w).solver = w.solver := rfl
@[simp] theorem onJtag_halo (f : Jtag → Jtag) (w : World) : (onJtag f w).halo = w.halo := rfl
@[simp] theorem onJtag_serving (f : Jtag → Jtag) (w : World) : (onJtag f w).serving = w.serving := rfl
@[simp] theorem onJtag_trunks (f : Jtag → Jtag) (w : World) : (onJtag f w).trunks = w.trunks := rfl
@[simp] theorem onJtag_cfg (f : Jtag → Jtag) (w : World) : (onJtag f w).cfg = w.cfg := rfl
@[simp] theorem onJtag_link (f : Jtag → Jtag) (w : World) : (onJtag f w).link = w.link := rfl
@[simp] theorem onJtag_garnet (f : Jtag → Jtag) (w : World) : (onJtag f w).garnet = w.garnet := rfl
@[simp] theorem onJtag_cont (f : Jtag → Jtag) (w : World) : (onJtag f w).cont = w.cont := rfl
@[simp] theorem onJtag_jtag (f : Jtag → Jtag) (w : World) : (onJtag f w).jtag = f w.jtag := rfl
@[simp] theorem onJtag_out (f : Jtag → Jtag) (w : World) : (onJtag f w).out = w.out := rfl
@[simp] theorem onJtag_free (f : Jtag → Jtag) (w : World) : (onJtag f w).free = w.free := rfl

/-! ## onObs -/

@[simp] theorem onObs_dev (f : Obsidian → Obsidian) (w : World) : (onObs f w).dev = w.dev := rfl
@[simp] theorem onObs_mer (f : Obsidian → Obsidian) (w : World) : (onObs f w).mer = w.mer := rfl
@[simp] theorem onObs_tiles (f : Obsidian → Obsidian) (w : World) : (onObs f w).tiles = w.tiles := rfl
@[simp] theorem onObs_solver (f : Obsidian → Obsidian) (w : World) : (onObs f w).solver = w.solver := rfl
@[simp] theorem onObs_halo (f : Obsidian → Obsidian) (w : World) : (onObs f w).halo = w.halo := rfl
@[simp] theorem onObs_serving (f : Obsidian → Obsidian) (w : World) : (onObs f w).serving = w.serving := rfl
@[simp] theorem onObs_trunks (f : Obsidian → Obsidian) (w : World) : (onObs f w).trunks = w.trunks := rfl
@[simp] theorem onObs_cfg (f : Obsidian → Obsidian) (w : World) : (onObs f w).cfg = w.cfg := rfl
@[simp] theorem onObs_link (f : Obsidian → Obsidian) (w : World) : (onObs f w).link = w.link := rfl
@[simp] theorem onObs_garnet (f : Obsidian → Obsidian) (w : World) : (onObs f w).garnet = w.garnet := rfl
@[simp] theorem onObs_cont (f : Obsidian → Obsidian) (w : World) : (onObs f w).cont = { w.cont with obs := f w.cont.obs } := rfl
@[simp] theorem onObs_jtag (f : Obsidian → Obsidian) (w : World) : (onObs f w).jtag = w.jtag := rfl
@[simp] theorem onObs_out (f : Obsidian → Obsidian) (w : World) : (onObs f w).out = w.out := rfl
@[simp] theorem onObs_free (f : Obsidian → Obsidian) (w : World) : (onObs f w).free = w.free := rfl

/-! ## emit, draw -/

@[simp] theorem emit_dev (o : Out) (w : World) : (emit o w).dev = w.dev := rfl
@[simp] theorem emit_mer (o : Out) (w : World) : (emit o w).mer = w.mer := rfl
@[simp] theorem emit_tiles (o : Out) (w : World) : (emit o w).tiles = w.tiles := rfl
@[simp] theorem emit_solver (o : Out) (w : World) : (emit o w).solver = w.solver := rfl
@[simp] theorem emit_halo (o : Out) (w : World) : (emit o w).halo = w.halo := rfl
@[simp] theorem emit_serving (o : Out) (w : World) : (emit o w).serving = w.serving := rfl
@[simp] theorem emit_trunks (o : Out) (w : World) : (emit o w).trunks = w.trunks := rfl
@[simp] theorem emit_cfg (o : Out) (w : World) : (emit o w).cfg = w.cfg := rfl
@[simp] theorem emit_link (o : Out) (w : World) : (emit o w).link = w.link := rfl
@[simp] theorem emit_garnet (o : Out) (w : World) : (emit o w).garnet = w.garnet := rfl
@[simp] theorem emit_cont (o : Out) (w : World) : (emit o w).cont = w.cont := rfl
@[simp] theorem emit_jtag (o : Out) (w : World) : (emit o w).jtag = w.jtag := rfl
@[simp] theorem emit_out (o : Out) (w : World) : (emit o w).out = o :: w.out := rfl
@[simp] theorem emit_free (o : Out) (w : World) : (emit o w).free = w.free := rfl

@[simp] theorem draw_dev (n : Nat) (w : World) : (draw n w).2.dev = w.dev := rfl
@[simp] theorem draw_mer (n : Nat) (w : World) : (draw n w).2.mer = w.mer := rfl
@[simp] theorem draw_tiles (n : Nat) (w : World) : (draw n w).2.tiles = w.tiles := rfl
@[simp] theorem draw_solver (n : Nat) (w : World) : (draw n w).2.solver = w.solver := rfl
@[simp] theorem draw_halo (n : Nat) (w : World) : (draw n w).2.halo = w.halo := rfl
@[simp] theorem draw_serving (n : Nat) (w : World) : (draw n w).2.serving = w.serving := rfl
@[simp] theorem draw_trunks (n : Nat) (w : World) : (draw n w).2.trunks = w.trunks := rfl
@[simp] theorem draw_cfg (n : Nat) (w : World) : (draw n w).2.cfg = w.cfg := rfl
@[simp] theorem draw_link (n : Nat) (w : World) : (draw n w).2.link = w.link := rfl
@[simp] theorem draw_garnet (n : Nat) (w : World) : (draw n w).2.garnet = w.garnet := rfl
@[simp] theorem draw_cont (n : Nat) (w : World) : (draw n w).2.cont = w.cont := rfl
@[simp] theorem draw_jtag (n : Nat) (w : World) : (draw n w).2.jtag = w.jtag := rfl
@[simp] theorem draw_out (n : Nat) (w : World) : (draw n w).2.out = w.out := rfl
@[simp] theorem draw_free (n : Nat) (w : World) : (draw n w).2.free = w.free + 1 := rfl

end Sys2Proof.Machine
end

