-- ==== Sys2Proof/Laws/Ops.lean ====
section
/-! SUPPORT. What each shared operation can do, said once: the pins, the lifts of an effect to a step's outcome, conditions and
repetitions, records. -/

namespace Sys2Proof.Machine

/-! ## Pins -/

@[simp] theorem settle_mer (w : World) : (settle w).mer = w.mer := rfl
@[simp] theorem settle_tiles (w : World) : (settle w).tiles = w.tiles := rfl
@[simp] theorem settle_solver (w : World) : (settle w).solver = w.solver := rfl
@[simp] theorem settle_halo (w : World) : (settle w).halo = w.halo := rfl
@[simp] theorem settle_serving (w : World) : (settle w).serving = w.serving := rfl
@[simp] theorem settle_trunks (w : World) : (settle w).trunks = w.trunks := rfl
@[simp] theorem settle_cfg (w : World) : (settle w).cfg = w.cfg := rfl
@[simp] theorem settle_link (w : World) : (settle w).link = w.link := rfl
@[simp] theorem settle_garnet (w : World) : (settle w).garnet = w.garnet := rfl
@[simp] theorem settle_cont (w : World) : (settle w).cont = w.cont := rfl
@[simp] theorem settle_jtag (w : World) : (settle w).jtag = w.jtag := rfl
@[simp] theorem settle_out (w : World) : (settle w).out = w.out := rfl
@[simp] theorem settle_free (w : World) : (settle w).free = w.free := rfl
@[simp] theorem settle_state (w : World) : (settle w).dev.state = w.dev.state := rfl
@[simp] theorem settle_inReset (w : World) : (settle w).dev.inReset = w.dev.inReset := rfl
@[simp] theorem settle_bedrockFailed (w : World) : (settle w).dev.bedrockFailed = w.dev.bedrockFailed := rfl
@[simp] theorem settle_faultHeld (w : World) : (settle w).dev.faultHeld = w.dev.faultHeld := rfl
@[simp] theorem settle_faultN (w : World) : (settle w).dev.faultN = faultLevel w.dev := rfl
@[simp] theorem settle_epoch (w : World) : (settle w).dev.epoch = w.dev.epoch := rfl
@[simp] theorem settle_dies (w : World) : (settle w).dev.dies = w.dev.dies := rfl
@[simp] theorem settle_bounded (w : World) : (settle w).dev.bounded = w.dev.bounded := rfl
@[simp] theorem settle_startupTimes (w : World) : (settle w).dev.startupTimes = w.dev.startupTimes := rfl
@[simp] theorem settle_boundaryDue (w : World) : (settle w).dev.boundaryDue = w.dev.boundaryDue := rfl
@[simp] theorem settle_encPins (w : World) : (settle w).dev.encPins = w.dev.encPins := rfl
@[simp] theorem alive_settle (w : World) : alive (settle w) = alive w := rfl

/-- Settling twice is settling once. -/
@[simp] theorem settle_settle (w : World) : settle (settle w) = settle w := by
  unfold settle
  simp only [faultLevel, tickIdle]
  cases running w.dev.state <;> cases w.dev.inReset <;> cases w.dev.bedrockFailed <;> simp

/-! ## Lifts -/

theorem liveEffect_alive {f : World → World} {s : State} (h : alive s.live = true) :
    liveEffect f s = .next { s with live := settle (f s.live) } := by simp [liveEffect, h]

theorem liveEffect_dead {f : World → World} {s : State} (h : alive s.live = false) : liveEffect f s = .next s := by
  simp [liveEffect, h]

theorem viewEffect_alive {f : View → World → World} {s : State} (h : alive s.live = true) :
    viewEffect f s = .next { s with live := settle (f (viewOf s.live s.served s.dieServed) s.live) } := liveEffect_alive h

theorem viewEffect_dead {f : View → World → World} {s : State} (h : alive s.live = false) : viewEffect f s = .next s := liveEffect_dead h

/-- What any lifted effect leaves: the queue as it was, and pins that agree with the state, or the device untouched. -/
theorem liveEffect_spec {f : World → World} {s t : State} (h : liveEffect f s = .next t) :
    t.pending = s.pending ∧ (t.live = settle (f s.live) ∨ t.live = s.live) ∧ t.served = s.served ∧ t.dieServed = s.dieServed := by
  unfold liveEffect at h
  split at h <;> (cases h; simp)

theorem anyEffect_spec {f : World → World} {s t : State} (h : anyEffect f s = .next t) :
    t.pending = s.pending ∧ t.live = settle (f s.live) ∧ t.served = s.served ∧ t.dieServed = s.dieServed := by
  cases h; simp

theorem viewEffect_spec {f : View → World → World} {s t : State} (h : viewEffect f s = .next t) :
    t.pending = s.pending ∧ (t.live = settle (f (viewOf s.live s.served s.dieServed) s.live) ∨ t.live = s.live) ∧
    t.served = s.served ∧ t.dieServed = s.dieServed := liveEffect_spec h

theorem serveEffect_spec {f : World → World → Store World → World × World × Store World} {s t : State} (h : serveEffect f s = .next t) :
    t.pending = s.pending ∧ (t.live = settle (f s.live s.served s.dieServed).1 ∨ t.live = s.live) := by
  unfold serveEffect at h
  split at h <;> (cases h; simp)

/-! ## Conditions and repetitions -/

@[simp] theorem whenW_true (f : World → World) (w : World) : whenW true f w = f w := rfl
@[simp] theorem whenW_false (f : World → World) (w : World) : whenW false f w = w := rfl
@[simp] theorem eachW_nil {α : Type} (f : α → World → World) (w : World) : eachW [] f w = w := rfl
@[simp] theorem eachW_cons {α : Type} (a : α) (l : List α) (f : α → World → World) (w : World) : eachW (a :: l) f w = eachW l f (f a w) := rfl

/-- What every repetition keeps, the whole keeps. -/
theorem eachW_keeps {α : Type} {P : World → Prop} {f : α → World → World} (hf : ∀ a w, P w → P (f a w)) (l : List α) {w : World} (h : P w) :
    P (eachW l f w) := by
  induction l generalizing w with
  | nil => exact h
  | cons a l ih => exact ih (hf a w h)

theorem whenW_keeps {P : World → Prop} {c : Bool} {f : World → World} (hf : ∀ w, P w → P (f w)) {w : World} (h : P w) : P (whenW c f w) := by
  cases c
  · exact h
  · exact hf w h

/-! ## Records -/

@[simp] theorem record_dev (ty so ix i : Nat) (w : World) : (record ty so ix i w).dev = w.dev := rfl
@[simp] theorem record_mer (ty so ix i : Nat) (w : World) : (record ty so ix i w).mer = w.mer := rfl
@[simp] theorem record_tiles (ty so ix i : Nat) (w : World) : (record ty so ix i w).tiles = w.tiles := rfl
@[simp] theorem record_solver (ty so ix i : Nat) (w : World) : (record ty so ix i w).solver = w.solver := rfl
@[simp] theorem record_halo (ty so ix i : Nat) (w : World) : (record ty so ix i w).halo = w.halo := rfl
@[simp] theorem record_serving (ty so ix i : Nat) (w : World) : (record ty so ix i w).serving = w.serving := rfl
@[simp] theorem record_trunks (ty so ix i : Nat) (w : World) : (record ty so ix i w).trunks = w.trunks := rfl
@[simp] theorem record_cfg (ty so ix i : Nat) (w : World) : (record ty so ix i w).cfg = w.cfg := rfl
@[simp] theorem record_link (ty so ix i : Nat) (w : World) : (record ty so ix i w).link = w.link := rfl
@[simp] theorem record_garnet (ty so ix i : Nat) (w : World) : (record ty so ix i w).garnet = w.garnet := rfl
@[simp] theorem record_jtag (ty so ix i : Nat) (w : World) : (record ty so ix i w).jtag = w.jtag := rfl
@[simp] theorem record_out (ty so ix i : Nat) (w : World) : (record ty so ix i w).out = w.out := rfl
/-- Queueing a record writes no slot and gives no SEQ. -/
theorem obsQueue_keeps (r : ObsRec) (o : Obsidian) : (obsQueue r o).slots = o.slots ∧ (obsQueue r o).seq = o.seq ∧ (obsQueue r o).next = o.next := by
  unfold obsQueue
  split <;> split <;> exact ⟨rfl, rfl, rfl⟩

@[simp] theorem record_slots (ty so ix i : Nat) (w : World) : (record ty so ix i w).cont.obs.slots = w.cont.obs.slots :=
  (obsQueue_keeps _ _).1

/-- The queues never grow past what they can hold. -/
theorem obsQueue_bounds (r : ObsRec) (o : Obsidian) (h : o.queue.length ≤ 4096 ∧ o.pinned.length ≤ 256) :
    (obsQueue r o).queue.length ≤ 4096 ∧ (obsQueue r o).pinned.length ≤ 256 := by
  unfold obsQueue
  split
  · split
    · rename_i hl; exact ⟨by rw [List.length_append]; exact hl, h.2⟩
    · exact h
  · split
    · rename_i hl; exact ⟨h.1, by rw [List.length_append]; exact hl⟩
    · exact h

/-! ## Time -/

@[simp] theorem passTime_dev (w : World) : (passTime w).dev = w.dev := by unfold passTime; split <;> rfl
@[simp] theorem passTime_held (w : World) (h : w.dev.inReset = true) : passTime w = w := by simp [passTime, h]

end Sys2Proof.Machine
end

