-- ==== Sys2Proof/WellFormed.lean ====
section
/-! DEFINITION. Which commands can be sent: the ranges that the operands' own types do not already fix. -/

namespace Sys2Proof

/-- A frame is at least an Ethernet header and at most a payload of 1,500 bytes (10 Table 10.1, 11 R290). -/
def Frame.wf (f : Frame) : Bool := decide (14 ≤ f.bytes.length) && decide (f.bytes.length ≤ 1514)

/-- A UDP payload fits the frame (11 R290). -/
def HostMsg.wf (m : HostMsg) : Bool := decide (m.bytes.length ≤ 1452)

/-- A written value is of 1 to 1,386 bytes, what a WRITE carries (11 Tables 11.4 and 11.8). -/
def ObjWrite.wf (w : ObjWrite) : Bool := decide (1 ≤ w.value.length) && decide (w.value.length ≤ 1386)

/-- The ranges of a command's operands. -/
def Instr.wf : Instr → Bool
  | .selftestComplete failed _ => decide (failed.length = 5)
  | .start _ f | .data _ f | .enrol _ f | .abort _ f => f.wf
  | .sample _ f | .credit _ f _ | .announce _ f | .cellcfgAck _ f | .alarm _ f | .trunkFrameRefused _ f => f.wf
  | .hello m | .proof m | .close m | .keepalive m | .masterAcquire m | .masterRelease m | .read m | .write m
  | .snapshot m | .blockInit m | .blockSeg m | .blockEnd m | .subscribe m | .admitReq m | .swap m | .swapCancel m
  | .ledger m | .attest m | .pageWriteResponse m | .pageReadResponse m => m.wf
  | .lcRate w | .lcOffsetAdj w | .lcRelease w | .lcForceStep w | .atOmegaSyn w | .arithSticky w | .loopOpen w
  | .loopClose w | .injStart w | .injStop w | .capArm w | .capTrigger w | .partCtrlStart w | .partCtrlStop w
  | .partCtrlRestart w | .copyActive w | .clear w | .drain w | .load w | .rejoin w | .bedrockSwitch w | .floorRaise w
  | .rootRetire w | .enrolClaim w | .enrolTransfer w | .enrolSetPolicy w | .enrolSetSlot w | .enrolClearSlot w
  | .enrolRelease w => w.wf
  | .loopCoeffWrite _ w | .registerWrite _ _ _ w | .paramWrite _ w => w.wf
  | .dmaLd r | .dmaSt r | .dmaLc r => decide (1 ≤ r.bursts)
  | .pageRingRefill _ _ slot => decide (slot < 64)
  | .scrubPatrol _ _ _ word => decide (word.length = 36)
  | .thermalSample _ samples => decide (1 ≤ samples.length)
  | .icmpv6EchoRequest _ _ _ _ payload => decide (payload.length ≤ 1452)
  -- no operand to check
  | .powerOnReset _ | .resetEnd | .bootEntry | .bootComplete | .rngHealthFailure | .rngRetest _ | .rngReseed
  | .advertSend _ | .bootTransferTimeout | .bootVerifyComplete | .dieLoadDone _ | .timeAcquireEnd
  | .quietHeartbeatCheck _ | .frcHoldover _ | .frcRelock _ | .bedrockFailure | .slewComplete _ | .lc3RampStep
  | .lc3TrackCompare | .ptpSyncReceive _ _ _ | .ptpAnnounceReceive _ _ | .ptpDelayMessageReceive _ _ _
  | .announceReceiptTimeout _ | .ptpSyncTransmit _ _ | .ppsInEdge _ | .ppsOutPulse | .ppsOutPulseEnd
  | .encoderEdge _ _ _ | .encoderZPulse _ | .trackerFallback _ | .trackerResumeValid _ _ _ | .trackerTick _ _ _ _
  | .fallbackTick _ _ | .delayedTick _ _ _ | .angleEventFire _ _ _ _ | .tickPulseStart _ | .tickPulseEnd _
  | .tickBoundary _ | .li _ _ _ | .add _ _ _ _ | .addi _ _ _ _ | .sub _ _ _ _ | .and _ _ _ _ | .or _ _ _ _
  | .xor _ _ _ _ | .shli _ _ _ _ | .shri _ _ _ _ | .jmp _ _ | .bz _ _ _ | .bnz _ _ _ | .dbnz _ _ _
  | .issue _ _ _ _ _ _ | .waittag _ _ _ | .fence _ | .spost _ _ | .swait _ _ | .stepEnd _ | .nop _ | .matmul _
  | .tacc _ | .taccLoad _ | .vld _ | .vst _ | .vop _ | .vsf _ | .vred _ | .stallTimeout _ _ | .wopen _
  | .wclose _ | .rput _ | .rget _ | .windowTransferArrive _ | .windowRetire _ _ | .tileCommandRetire _ | .sliceEnd _
  | .sliceStart _ _ | .chol _ | .ldl _ | .qr _ | .lu _ | .tri _ | .mul _ | .refine _ | .kfup _ | .qpbox _
  | .basaltRetire _ _ | .deadlineReached _ | .basaltUncorrectable _ | .asmLatestReached _ | .assemblyStart _
  | .haloLoopUpdate _ | .commandDiscardNotice _ | .profileStep _ | .injectorEnd _ | .tokenClose _ | .stepForm _
  | .stepEndPhase _ | .stepOverrun _ | .teardownComplete _ | .backgroundSpill _ | .pageMoveComplete _ _
  | .prefetchComplete _ _ | .preemptReturn _ | .stalledFlushRetry _ | .modelSwitchStart _ | .modelSwitchComplete _
  | .trunkLinkUp _ _ _ | .trunkLinkDown _ _ | .cellLostTimeout _ _ | .cellcfgSetSend _ _ | .trunkSyncSend _ _ _
  | .quietSyncSend _ _ | .outLiveChangeSync _ _ _ | .commandDeparture _ _ | .commandExpire _ _ _ | .proofTimeout _
  | .sessionTimeout _ | .blockTransferTimeout _ _ | .admitVerdict _ | .swapPrepared | .firstSwap
  | .pageRequestResend _ _ | .neighborSolicitation _ _ _ _ | .uncorrectableError _ _ _ | .seamReplay _ _
  | .seamRetrainTimeout _ | .dieDeclaredLost _ _ | .takeover | .derivedSetInForce | .derivedSetsComputed
  | .obsidianCommit | .drainHandover | .dieLoadReady _ _ | .rejoinHandover | .stageVerifyComplete | .extest _
  | .samplePreload _ | .idcode | .bypass _ _ | .angleEventRearm _ _ _ | .seamRetrainComplete _
  | .hostFrameDropped _ _ => true

end Sys2Proof
end

