-- ==== Sys2Proof/Tests/Slice0.lean ====
section
/-! SUPPORT. The model's own tests: ill-formed commands that WellFormed refuses, states and operands that meet the hypotheses of each
statement's clauses, and steps whose results are worked out from the spec. -/

namespace Sys2Proof.Tests

open Sys2Proof.Machine Sys2Proof.Claims

set_option maxRecDepth 100000
set_option Elab.async false

/-! ## Helpers -/

/-- A state with one world, its pins settled. -/
def mk (w : World) : State := { State.reset with live := settle w }

/-- The reset world in a device state, reset released. -/
def at_ (d : DevState) : World := { State.reset.live with dev := { State.reset.live.dev with inReset := false, state := d } }

/-- A world with an active set of these objects, in LIVE. -/
def withSet (objs : Store Bytes) : World :=
  { at_ .live with dev := { (at_ .live).dev with bounded := false }, cfg := { present := true, active := objs } }

theorem awake_mk {w : World} (h : alive w = true) : awake (mk w) := ⟨h, settle_settle w⟩
theorem pins_mk (w : World) : pinsAgree (mk w).live := settle_settle w

/-- `ordered` as a test, with the tables' entries in place of every key. -/
def orderedB (w : World) : Bool :=
  decide (storeSorted w.mer.edges ∧ storeSorted w.mer.pulseEnd ∧ storeSorted w.dev.startupTimes ∧ storeSorted w.tiles.ctxs) &&
  w.tiles.ctxs.all (fun e => decide (storeSorted e.2.s ∧ storeSorted e.2.v ∧ storeSorted e.2.status ∧ storeSorted e.2.tagSerial)) &&
  decide (storeSorted w.tiles.banks ∧ storeSorted w.tiles.windows ∧
    storeSorted w.tiles.sticky ∧ storeSorted w.tiles.arithCount ∧ storeSorted w.tiles.sync ∧
    storeSorted w.solver.engines ∧ storeSorted w.solver.tmpls ∧ storeSorted w.halo.engines ∧ storeSorted w.halo.loops ∧
    storeSorted w.halo.gens ∧ storeSorted w.halo.injs ∧ storeSorted w.halo.caps ∧ storeSorted w.serving.seqs ∧
    storeSorted w.serving.parts ∧ storeSorted w.trunks.trunks ∧ storeSorted w.trunks.cells ∧ storeSorted w.trunks.streams ∧
    storeSorted w.tiles.slice ∧ storeSorted w.cont.sync ∧ storeSorted w.serving.pools ∧ storeSorted w.serving.prefixes)

theorem sGet_mem {α : Type} (d : α) (s : Store α) (i : Nat) : sGet d s i = d ∨ ∃ e ∈ s, e.2 = sGet d s i := by
  induction s with
  | nil => exact .inl rfl
  | cons e rest ih =>
    obtain ⟨k, v⟩ := e
    simp only [sGet]
    split
    · exact .inr ⟨(k, v), by simp, rfl⟩
    · split
      · exact .inl rfl
      · rcases ih with h | ⟨e, he, h⟩
        · exact .inl h
        · exact .inr ⟨e, by simp [he], h⟩

theorem ordered_of {w : World} (h : orderedB w = true) : ordered w := by
  simp only [orderedB, Bool.and_eq_true, decide_eq_true_eq, List.all_eq_true] at h
  obtain ⟨⟨⟨h1, h2, h3, h4⟩, hc⟩, h5⟩ := h
  refine ⟨h1, h2, h3, h4, fun k => ?_, h5⟩
  rcases sGet_mem {} w.tiles.ctxs k with e | ⟨e, he, hk⟩
  · have : ctxAt w k = {} := e
    rw [this]; exact ⟨.nil, .nil, .nil, .nil⟩
  · have : ctxAt w k = e.2 := hk.symm
    rw [this]; exact hc e he

/-- A state after a command, for tests. -/
def after (c : Instr) (s : State) : State :=
  match exec c s with
  | .next t => t
  | _ => s

/-- A record of `n` bytes from its fields, each as its lowest bit and its value. -/
def fieldsOf (n : Nat) (fs : List (Nat × Nat)) : Bytes := leBytes n ((fs.map (fun f => f.2 * 2 ^ f.1)).foldl (· + ·) 0)
/-- A set from its objects: index, subindex, instance, value. -/
def setOf (l : List (Nat × Nat × Nat × Bytes)) : Store Bytes := l.foldl (fun s o => putObj s o.1 o.2.1 o.2.2.1 o.2.2.2) []
/-- A world at an instant of LC0. -/
def atTime (n : Nat) (w : World) : World := { w with mer := { w.mer with frc0 := BitVec.ofNat 64 n } }
/-- A world with Meridian changed. -/
def withMer (f : Meridian → Meridian) (w : World) : World := { w with mer := f w.mer }
/-- A world with clock, tracker, PTP port `n` as given. -/
def withLc (n : Nat) (l : Lc) : World → World := withMer (fun m => { m with clocks := updNth m.clocks n (fun _ => l) })
def withTracker (n : Nat) (t : Tracker) : World → World := withMer (fun m => { m with trackers := updNth m.trackers n (fun _ => t) })
def withPtp (n : Nat) (q : Ptp) : World → World := withMer (fun m => { m with ptp := updNth m.ptp n (fun _ => q) })

/-- Session 0 live with every role and the token. -/
def withSession (w : World) : World :=
  { w with link := { w.link with sessions := updNth w.link.sessions 0 (fun _ =>
      { live := true, roles := 0xFF, khd := List.replicate 32 1, kdh := List.replicate 32 2 }), master := some 0 } }

/-! ## WellFormed refuses what is out of range -/

def noFrame : Frame := ⟨List.replicate 13 0, true, false⟩
def bigFrame : Frame := ⟨List.replicate 1515 0, true, false⟩
def frame60 : Frame := ⟨List.replicate 60 0, true, false⟩
def msgOf (bs : Bytes) : HostMsg := ⟨0, 0x020000000001, 0xFE80, 4660, 0xFD00, 17556, bs⟩
def wr (v : Bytes) : ObjWrite := ⟨0, 7, 0, v⟩

theorem wf_refuses_frames : (Instr.start 0 noFrame).wf = false ∧ (Instr.sample 0 bigFrame).wf = false ∧
    (Instr.sample 0 frame60).wf = true := by decide +kernel
theorem wf_refuses_messages : (Instr.hello (msgOf (List.replicate 1453 0))).wf = false ∧
    (Instr.read (msgOf (List.replicate 1452 0))).wf = true := by decide +kernel
theorem wf_refuses_values : (Instr.lcRate (wr [])).wf = false ∧ (Instr.floorRaise (wr (List.replicate 1387 0))).wf = false ∧
    (Instr.registerWrite 0x2010 1 5 (wr (List.replicate 1386 0))).wf = true := by decide +kernel
theorem wf_refuses_counts : (Instr.selftestComplete [0, 0, 0, 0] 0).wf = false ∧ (Instr.dmaLd ⟨⟨0, 0⟩, 0⟩).wf = false ∧
    (Instr.pageRingRefill 0 0 64).wf = false ∧ (Instr.scrubPatrol 0 0 0 []).wf = false ∧ (Instr.thermalSample 0 []).wf = false ∧
    (Instr.icmpv6EchoRequest 0 0 0 0 (List.replicate 1453 0)).wf = false := by decide +kernel
theorem decode_none (n w : Nat) : decodeTableWord n w = none := rfl

/-! ## Witnesses: the queue, time, the outcome of a step -/

def front (c : Instr) (s : State) : State := { s with pending := [c] }
def wReady : State := mk (at_ .readyQuiet)
def wDue : State := mk { withSet [] with dev := { (at_ .live).dev with boundaryDue := some (65536, 0), epoch := 9 } }
theorem w_StepRunsTheFrontCommand : (front .bedrockFailure wReady).pending = .bedrockFailure :: [] := rfl
theorem w_EveryStepAnswers : wReady.pending = [] ∧ wReady.live.dev.inReset = false ∧ State.reset.live.dev.inReset = true := by decide
theorem w_EpochCounts : (wDue.live.dev.boundaryDue.isSome = true → wDue.live.cfg.present = true) ∧
    (front (.tickBoundary 0xFF) wDue).pending = .tickBoundary 0xFF :: [] ∧ awake wDue := ⟨fun _ => rfl, rfl, awake_mk rfl⟩
theorem w_EpochCounts_goes : (match step (front (.tickBoundary 0xFF) wDue) with | .next t => t.live.dev.epoch | _ => 0) = 10 ∧
    (match step (front (.powerOnReset true) wDue) with | .next t => t.live.dev.epoch | _ => 1) = 0 ∧
    (match step (front .resetEnd wDue) with | .next t => t.live.dev.epoch | _ => 1) = 9 := by decide +kernel
theorem w_Pins : pinsAgree wReady.live := pins_mk _
theorem w_Pins_high : (mk { withSet [] with dev := { (at_ .live).dev with outLive := true, ppsOut := true, tick0 := .high } }).live.dev.outLive = true ∧
    wReady.live.dev.faultN = true ∧ (mk (at_ .boot)).live.dev.faultN = false := by decide +kernel
theorem w_Memories : memoriesOk { withSet [] with tiles := { scratch := [(0, 1), (327680, 2)] } } := by unfold memoriesOk; decide +kernel
theorem w_Ordered : ordered { withSet [] with tiles := { ctxs := [(0, { s := [(0, 1), (15, 2)] }), (255, {})] } } := ordered_of (by decide +kernel)
def wFailed : State := mk { at_ .readyQuiet with dev := { (at_ .readyQuiet).dev with bedrockFailed := true } }
theorem w_BedrockFailureLasts : wFailed.live.dev.bedrockFailed = true ∧ wFailed.live.dev.inReset = false ∧ pinsAgree wFailed.live ∧
    (∀ b, Instr.powerOnReset b ∉ wFailed.pending) ∧ (match Host.Core.run core 3 wFailed with | .next _ => true | _ => false) = true :=
  ⟨rfl, rfl, pins_mk _, fun _ => by simp [wFailed, mk, State.reset], by decide +kernel⟩
theorem w_BedrockFailure : awake wReady ∧ wReady.live.cont.obs.pinned.length < 256 := ⟨awake_mk rfl, by decide⟩
theorem test_bedrockFailure : (after .bedrockFailure wReady).live.dev.faultN = false ∧
    (after .bedrockFailure wReady).live.cont.obs.pinned.length = 1 ∧
    (after .obsidianCommit (after .bedrockFailure wReady)).live.cont.obs.pinned = [] := by decide +kernel

/-! ## Witnesses: reset and boot -/

theorem w_BootChain : State.reset.live.dev.inReset = true ∧ (awake (mk (at_ .powerUp)) ∧ (mk (at_ .powerUp)).live.dev.state = .powerUp) :=
  ⟨rfl, awake_mk rfl, rfl⟩
def wBoot : State := mk { at_ .boot with garnet := { seed := some (List.replicate 32 1) } }
theorem w_BootChain_boot : awake wBoot ∧ wBoot.live.dev.state = .boot ∧ wBoot.live.garnet.seed.isSome = true ∧
    wBoot.live.garnet.rng.fail = false := ⟨awake_mk rfl, rfl, rfl, rfl⟩
theorem w_Random : awake wBoot ∧ 2 ≤ devCode wBoot.live.dev.state := ⟨awake_mk rfl, by decide⟩
def wRngFail (d : DevState) : State := mk (atTime 1000000000 { at_ d with garnet := { rng := { fail := true } } })
theorem w_Random_retest : awake (wRngFail .imageWait) ∧ (wRngFail .imageWait).live.garnet.rng.fail = true ∧
    (wRngFail .imageWait).live.garnet.rng.seededAt + 1000000000 ≤ nowNs (wRngFail .imageWait).live ∧
    (wRngFail .live).live.dev.state ≠ .imageWait := ⟨awake_mk rfl, by decide +kernel⟩
def wRngRun (n t : Nat) : State := mk (atTime t { at_ .live with garnet := { rng := { running := true, requests := n, seededAt := 5 } } })
theorem w_Random_reseed : awake (wRngRun 65536 9) ∧ (wRngRun 65536 9).live.garnet.rng.running = true ∧
    65536 ≤ (wRngRun 65536 9).live.garnet.rng.requests ∧ awake (wRngRun 0 1000000005) ∧
    (wRngRun 0 1000000005).live.garnet.rng.seededAt + 1000000000 ≤ nowNs (wRngRun 0 1000000005).live :=
  ⟨awake_mk rfl, by decide +kernel, by decide +kernel, awake_mk rfl, by decide +kernel⟩
def wWait : World := { at_ .imageWait with garnet := { nonce := List.replicate 32 7 } }
theorem w_Advert : awake (mk wWait) ∧ advertGap (mk wWait).live = some 100000000 ∧ (hostPort (mk wWait).live 1).up = true ∧
    (∀ at_, (if (1 : Fin 2) = 0 then (mk wWait).live.garnet.advert0 else (mk wWait).live.garnet.advert1) = some at_ →
      at_ + 100000000 ≤ nowNs (mk wWait).live) := ⟨awake_mk rfl, by decide +kernel, by decide +kernel, by simp [mk, settle, wWait, at_]⟩
/-- A frame's bytes, padded to the least length. -/
def pad60 (b : Bytes) : Bytes := padTo (max 60 b.length) b
/-- A boot frame of a type with a body, from one sender (14 Table 14.5a). -/
def bootFrame (type : Nat) (body : Bytes) : Frame :=
  ⟨pad60 (beBytes 6 0x020000000002 ++ beBytes 6 0x0A0000000001 ++ beBytes 2 0x88B6 ++ beBytes 1 type ++ beBytes 1 0x10 ++
    beBytes 4 0 ++ body), true, false⟩
def startFrame (len : Nat) (nonce : Bytes) : Frame :=
  bootFrame 2 (beBytes 4 len ++ List.replicate 32 1 ++ List.replicate 64 0 ++ nonce)
theorem bootFrameFor_of {w : World} {p : Fin 2} {f : Frame} {type : Nat}
    (h : ((hostPort (mk w).live p).up && f.fcsOk && !f.tagged && decide (60 ≤ f.bytes.length) && bfOk f.bytes &&
      decide (bfType f.bytes = type) && decide ((mk w).live.dev.state = .imageWait)) = true) : bootFrameFor (mk w) p f type := by
  simp only [Bool.and_eq_true, decide_eq_true_eq, Bool.not_eq_true'] at h
  obtain ⟨⟨⟨⟨⟨⟨h1, h2⟩, h3⟩, h4⟩, h5⟩, h6⟩, h7⟩ := h
  exact ⟨h1, h2, h3, h4, h5, h6, h7⟩
theorem w_Start : awake (mk wWait) ∧ bootFrameFor (mk wWait) 0 (startFrame 1048576 (List.replicate 32 7)) 2 ∧
    (mk wWait).live.garnet.xfer = none ∧ beAt (startFrame 1048576 (List.replicate 32 7)).bytes 20 4 % 64 = 0 ∧
    beAt (startFrame 1048576 (List.replicate 32 7)).bytes 20 4 ≤ 1048576 ∧
    slice (startFrame 1048576 (List.replicate 32 7)).bytes 120 32 = (mk wWait).live.garnet.nonce :=
  ⟨awake_mk rfl, bootFrameFor_of (by decide +kernel), rfl, by decide +kernel, by decide +kernel, by decide +kernel⟩
theorem w_Start_bad : bootFrameFor (mk wWait) 0 (startFrame 1048640 (List.replicate 32 7)) 2 ∧
    1048576 < beAt (startFrame 1048640 (List.replicate 32 7)).bytes 20 4 ∧ bootFrameFor (mk wWait) 0 (startFrame 64 (List.replicate 32 8)) 2 ∧
    slice (startFrame 64 (List.replicate 32 8)).bytes 120 32 ≠ (mk wWait).live.garnet.nonce :=
  ⟨bootFrameFor_of (by decide +kernel), by decide +kernel, bootFrameFor_of (by decide +kernel), by decide +kernel⟩
def xf : BootXfer := { port := 0, mac := 0x0A0000000001, total := 1088 }
def wXfer (x : BootXfer) : World := { wWait with garnet := { wWait.garnet with xfer := some x } }
def dataFrame (off len : Nat) : Frame := bootFrame 3 (beBytes 4 off ++ beBytes 2 len ++ beBytes 2 0 ++ List.replicate len 5)
theorem w_Data : awake (mk (wXfer xf)) ∧ bootFrameFor (mk (wXfer xf)) 0 (dataFrame 0 1024) 3 ∧
    ownTransfer (mk (wXfer xf)) xf 0 (dataFrame 0 1024) ∧
    blockOk xf (beAt (dataFrame 0 1024).bytes 20 4) (beAt (dataFrame 0 1024).bytes 24 2) = true ∧
    (sFind xf.blocks (beAt (dataFrame 0 1024).bytes 20 4)).isNone = true :=
  ⟨awake_mk rfl, bootFrameFor_of (by decide +kernel), ⟨rfl, rfl, by decide +kernel⟩, by decide +kernel, by decide +kernel⟩
def xfLast : BootXfer := { xf with blocks := [(0, List.replicate 1024 5)] }
theorem w_Data_last : awake (mk (wXfer xfLast)) ∧ bootFrameFor (mk (wXfer xfLast)) 0 (dataFrame 1024 64) 3 ∧
    ownTransfer (mk (wXfer xfLast)) xfLast 0 (dataFrame 1024 64) ∧
    blockOk xfLast (beAt (dataFrame 1024 64).bytes 20 4) (beAt (dataFrame 1024 64).bytes 24 2) = true ∧
    (sFind xfLast.blocks (beAt (dataFrame 1024 64).bytes 20 4)).isNone = true ∧
    (after (.data 0 (dataFrame 1024 64)) (mk (wXfer xfLast))).live.dev.state = .verify :=
  ⟨awake_mk rfl, bootFrameFor_of (by decide +kernel), ⟨rfl, rfl, by decide +kernel⟩, by decide +kernel, by decide +kernel, by decide +kernel⟩
theorem w_Enrol : awake (mk wWait) ∧ bootFrameFor (mk wWait) 0 (bootFrame 5 (List.replicate 192 3)) 5 ∧
    (mk wWait).live.garnet.xfer = none ∧ (mk wWait).live.garnet.queue.length < 8 :=
  ⟨awake_mk rfl, bootFrameFor_of (by decide +kernel), rfl, by decide +kernel⟩
theorem w_Abort : awake (mk (wXfer xf)) ∧ bootFrameFor (mk (wXfer xf)) 0 (bootFrame 7 []) 7 ∧ ownTransfer (mk (wXfer xf)) xf 0 (bootFrame 7 []) :=
  ⟨awake_mk rfl, bootFrameFor_of (by decide +kernel), ⟨rfl, rfl, by decide +kernel⟩⟩
theorem w_BootTimeout : awake (mk (atTime 1000000000 (wXfer xf))) ∧ (mk (atTime 1000000000 (wXfer xf))).live.dev.state = .imageWait ∧
    (mk (atTime 1000000000 (wXfer xf))).live.garnet.xfer = some xf ∧ xf.at_ + 1000000000 ≤ nowNs (mk (atTime 1000000000 (wXfer xf))).live :=
  ⟨awake_mk rfl, rfl, rfl, by decide +kernel⟩
def wVerify : State := mk { at_ .verify with garnet := { xfer := some xf, bundle := List.replicate 1088 5 } }
theorem w_BootVerification : awake wVerify ∧ wVerify.live.dev.state = .verify ∧ wVerify.live.garnet.xfer = some xf ∧
    bootResult wVerify.live xf ≠ 0 := ⟨awake_mk rfl, rfl, rfl, by decide +kernel⟩
theorem w_StartUp : awake (mk (at_ .dieLoad)) ∧ (mk (at_ .dieLoad)).live.dev.state = .dieLoad ∧
    (mk (at_ .dieLoad)).live.garnet.trimValid = true ∧ 5 ≤ (mk (at_ .dieLoad)).live.dev.dies.length := ⟨awake_mk rfl, rfl, rfl, by decide⟩
theorem w_StartUp_selftest : awake (mk (at_ .selftest)) ∧ (mk (at_ .selftest)).live.dev.state = .selftest ∧
    (mk (at_ .selftest)).live.dev.faultHeld = false ∧ 5 ≤ (mk (at_ .selftest)).live.dev.dies.length ∧
    bedrockUnfit (nth 0 ([0, 0, 1, 2, 0] : List (BitVec 11)) 4).toNat 0x10000 = false ∧
    (after (.selftestComplete [0, 0, 1, 0, 0] 0x10000) (mk (at_ .selftest))).live.dev.state = .timeAcquire ∧
    (after (.selftestComplete [0, 0, 1, 2, 0] 0x10000) (mk (at_ .selftest))).live.dev.state = .selftest :=
  ⟨awake_mk rfl, rfl, rfl, by decide, by decide +kernel, by decide +kernel, by decide +kernel⟩
theorem w_StartUp_time : awake (mk (atTime 400000000 (at_ .timeAcquire))) ∧
    (mk (atTime 400000000 (at_ .timeAcquire))).live.dev.state = .timeAcquire ∧
    sGet 0 (mk (atTime 400000000 (at_ .timeAcquire))).live.dev.startupTimes 7 + 400000000 ≤
      nowNs (mk (atTime 400000000 (at_ .timeAcquire))).live := ⟨awake_mk rfl, rfl, by decide +kernel⟩

/-! ## Witnesses: counters and clocks -/

theorem w_Counters : awake wReady ∧ (3 : Fin 4) ≠ 0 ∧ (3 : Fin 4).val < wReady.live.mer.frcStatus.length ∧
    (nth {} wReady.live.mer.frcStatus 3).holdover = false := ⟨awake_mk rfl, by decide +kernel⟩
theorem test_holdover : (nth {} (after (.frcRelock 3) (after (.frcHoldover 3) wReady)).live.mer.frcStatus 3).relocked = true := by decide +kernel
def wRamp (t : Nat) : State := mk (atTime t (withLc 3 { rate := 0, rateTarget := 5000000, lastChange := 7 } (withSet [])))
theorem w_Rates : awake (wRamp 10000007) ∧ (lcAt (wRamp 10000007).live.mer 3).lastChange + 10000000 ≤ nowNs (wRamp 10000007).live ∧
    3 < (wRamp 10000007).live.mer.clocks.length ∧ (lcAt (wRamp 10000007).live.mer 3).rate ≠ (lcAt (wRamp 10000007).live.mer 3).rateTarget ∧
    (lcAt (wRamp 10000007).live.mer 3).slew = 0 ∧ (lcAt (wRamp 10000007).live.mer 3).remainder = 0 ∧
    ((lcAt (wRamp 10000007).live.mer 3).rateTarget.natAbs : Int) ≤ rateLimit ∧
    nowNs (wRamp 10000006).live < (lcAt (wRamp 10000006).live.mer 3).lastChange + 10000000 := ⟨awake_mk rfl, by decide +kernel⟩
theorem test_ramp : (lcAt (after .lc3RampStep (wRamp 10000007)).live.mer 3).rate = 2814749 ∧
    (lcAt (after .lc3RampStep (wRamp 10000006)).live.mer 3).rate = 0 := by decide +kernel
def wSlew : State := mk (atTime 1000000000 (withLc 5 { remainder := 65536, slew := 281474976711, slewing := true } (withSet [])))
theorem w_Rates_slew : awake wSlew ∧ (5 : Fin 16) ≠ 0 ∧ (lcAt wSlew.live.mer 5).remainder ≠ 0 ∧ 0 < (lcAt wSlew.live.mer 5).remainder ∧
    lcRemainder wSlew.live.mer (lcAt wSlew.live.mer 5) < 0 := ⟨awake_mk rfl, by decide +kernel⟩
/-- LC3's correction consumed by the last step of its slew term. -/
def wSlew3 : State := mk (atTime 1000000000 (withLc 3 { remainder := 65536, slew := 2814749, slewing := true } (withSet [])))
theorem w_Rates_slew3 : awake wSlew3 ∧ (lcAt wSlew3.live.mer 3).slew.natAbs ≤ 2814749 ∧
    (lcAt wSlew3.live.mer 3).lastChange + 10000000 ≤ nowNs wSlew3.live ∧
    0 < (lcAt wSlew3.live.mer 3).remainder ∧ lcRemainder wSlew3.live.mer (lcAt wSlew3.live.mer 3) < 0 := ⟨awake_mk rfl, by decide +kernel⟩
def wTrack (off : Int) (hold : Bool := false) : State := mk (atTime 125000000 (withLc 7 { offset := off, hold := hold }
  (withMer (fun m => { m with trackAt := some (0, 7, 0) }) (withSet (setOf [(0x2010, 0, 3, fieldsOf 32 [(192, 1000)]), (0x2015, 1, 3, [7])])))))
theorem wTrack_at (off : Int) (hold : Bool) : (wTrack off hold).live.mer.trackAt = some (0, 7, 0) := rfl
theorem w_Lc3 : awake (wTrack 65536) ∧ leNat (actObj (wTrack 65536).live 0x2015 1 3) = 7 ∧ 3 < (wTrack 65536).live.mer.clocks.length ∧
    (∀ a p, (wTrack 65536).live.mer.trackAt = some (a, p) → a + 125000000 ≤ nowNs (wTrack 65536).live) ∧
    (lcAt (wTrack 65536).live.mer 7).hold = false ∧ lcRemainder (wTrack 65536).live.mer (lcAt (wTrack 65536).live.mer 3) = 0 :=
  ⟨awake_mk rfl, by decide +kernel, by decide +kernel, fun a p h => by
    rw [wTrack_at] at h; cases h; decide +kernel, by decide +kernel⟩
theorem w_Lc3_hold : awake (wTrack 65536 true) ∧ leNat (actObj (wTrack 65536 true).live 0x2015 1 3) = 7 ∧
    (lcAt (wTrack 65536 true).live.mer 7).hold = true := ⟨awake_mk rfl, by decide +kernel⟩
theorem test_track : (lcAt (after .lc3TrackCompare (wTrack 65536)).live.mer 3).remainder = 65536 ∧
    (lcAt (after .lc3TrackCompare (wTrack (1000 * 65536))).live.mer 3).trackFar = false ∧
    (lcAt (after .lc3TrackCompare (wTrack (1000 * 65536 + 1))).live.mer 3).trackFar = true := by decide +kernel
theorem w_Lc3_none : awake (mk (withSet (setOf [(0x2015, 1, 3, [0xFF])]))) ∧
    leNat (actObj (mk (withSet (setOf [(0x2015, 1, 3, [0xFF])]))).live 0x2015 1 3) = 0xFF := ⟨awake_mk rfl, by decide +kernel⟩
def wPtp (d : DevState) (q : Ptp) : State := mk (withPtp 1 q (at_ d))
/-- A header that Table 2.7 supports in the 802.1AS profile, and one of another domain. -/
def hdr : PtpHeader := ⟨true, 1, 0, 0, false, 0⟩
def hdrBad : PtpHeader := ⟨true, 1, 5, 0, false, 0⟩
theorem w_Ptp : awake (wPtp .live {}) ∧ 7 ≤ devCode (wPtp .live {}).live.dev.state ∧ (1 : Fin 2).val < (wPtp .live {}).live.mer.ptp.length ∧
    syncOk (wPtp .live {}) 1 hdr = true ∧ syncOk (wPtp .live {}) 1 hdrBad = false ∧ ptpHeaderOk (1 : Fin 2) hdr (wPtp .live {}).live = true ∧
    ptpOtherOk (1 : Fin 2) (.pdelayResp 0 0 0) (wPtp .live {}).live = true ∧
    ptpOtherOk (1 : Fin 2) (.intervalRequest 0 0 0) (wPtp .live {}).live = true ∧
    ¬((wPtp .live {}).live.dev.state = .timeAcquire ∧ (nth {} (wPtp .live {}).live.mer.ptp 1).acquired = false) :=
  ⟨awake_mk rfl, by decide +kernel⟩
/-- A port in the 1588 profile takes Delay_Resp. -/
theorem w_Ptp_delay : ptpHeaderOk (1 : Fin 2) { hdr with sdo := 0 } (mk (withSet (setOf [(0x2200, 0, 1, [1, 0, 0, 0, 0, 0])]))).live = true ∧
    ptpOtherOk (1 : Fin 2) (.delayResp 0 0) (mk (withSet (setOf [(0x2200, 0, 1, [1, 0, 0, 0, 0, 0])]))).live = true ∧
    awake (mk (withSet (setOf [(0x2200, 0, 1, [1, 0, 0, 0, 0, 0])]))) := ⟨by decide +kernel, by decide +kernel, awake_mk rfl⟩
theorem w_Ptp_acquire : awake (wPtp .timeAcquire {}) ∧ (wPtp .timeAcquire {}).live.dev.state = .timeAcquire ∧
    (1 : Fin 2).val + 1 < (wPtp .timeAcquire {}).live.mer.clocks.length ∧ (nth {} (wPtp .timeAcquire {}).live.mer.ptp 1).acquired = false ∧
    (nth {} (wPtp .timeAcquire {}).live.mer.ptp 1).acqSteps = 0 ∧ syncOk (wPtp .timeAcquire {}) 1 hdr = true := ⟨awake_mk rfl, by decide +kernel⟩
def gmOf (p : Nat) (id : Nat) : AnnounceData := ⟨BitVec.ofNat 8 p, 6, 0x21, 0, 128, BitVec.ofNat 64 id⟩
theorem w_Ptp_announce : awake (wPtp .live { gm := some (gmOf 2 1) }) ∧ ptpHeaderOk (1 : Fin 2) hdr (wPtp .live { gm := some (gmOf 2 1) }).live = true ∧
    (nth {} (wPtp .live { gm := some (gmOf 2 1) }).live.mer.ptp 1).gm = some (gmOf 2 1) ∧
    announceKey (gmOf 1 2) < announceKey (gmOf 2 1) ∧ (gmOf 2 1).identity ≠ (gmOf 2 9).identity ∧
    announceKey (gmOf 2 1) ≤ announceKey (gmOf 2 9) := ⟨awake_mk rfl, by decide +kernel⟩
def wServo (hold : Bool) : State := mk (withLc 2 { hold := hold } (withSet (setOf [(0x2010, 0, 2, fieldsOf 32 [(186, 2)])])))
theorem w_Ptp_hold : lcWriter 2 (lcRec (wServo true).live 2) = (1 : Fin 2).val + 1 ∧ (lcAt (wServo true).live.mer 2).hold = true ∧
    (lcAt (wServo false).live.mer 2).hold = false ∧
    (∀ k, k < 16 → k ≠ 2 → lcWriter k (lcRec (wServo false).live k) ≠ (1 : Fin 2).val + 1) := by decide +kernel
/-- As long after the last message as the receipt timeout is. -/
def wSilent : State := mk (withMer (fun m => { m with frc0 := Config.announceTimeout 1 }) (at_ .live))
theorem w_Ptp_silent : awake wSilent ∧ 7 ≤ devCode wSilent.live.dev.state ∧ (1 : Fin 2).val < wSilent.live.mer.ptp.length ∧
    (nth {} wSilent.live.mer.ptp 1).lastHeard + (Config.announceTimeout 1).toNat ≤ nowNs wSilent.live :=
  ⟨awake_mk rfl, by decide +kernel, by decide +kernel, (Nat.zero_add _).le⟩
def wMaster : State := mk (withSet (setOf [(0x2200, 0, 1, [0, 0, 1, 0, 0, 0])]))
theorem w_Syncs : awake wMaster ∧ 7 ≤ devCode wMaster.live.dev.state ∧ (1 : Fin 2).val < wMaster.live.mer.ptp.length ∧
    ptpMaster (1 : Fin 2) wMaster.live = true := ⟨awake_mk rfl, by decide +kernel⟩
def wPps (t : Nat) : State := mk (atTime t (withMer (fun m => { m with ppsLast := some 0 }) (withSet [])))
theorem w_Syncs_pps : awake (wPps 1001000001) ∧
    1000000 * 65536 < ((now16 (wPps 1001000001).live 0 : Int) - 0 - 1000000000 * 65536).natAbs ∧
    ((now16 (wPps 1001000000).live 0 : Int) - 0 - 1000000000 * 65536).natAbs ≤ 1000000 * 65536 := ⟨awake_mk rfl, by decide +kernel⟩
theorem test_pps : (after (.ppsInEdge 0) (wPps 1001000001)).live.mer.ppsRejected = 1 ∧
    (after (.ppsInEdge 0) (wPps 1001000000)).live.mer.ppsRejected = 0 := by decide +kernel
def wPpsOut (t : Nat) : State := mk (atTime t { withSet (setOf [(0x2021, 0, 0, [5] ++ beBytes 4 100000000 ++ [0])]) with
  mer := { (withSet []).mer with pulseEnd := [(4, 7)] } })
theorem w_Syncs_out : awake (wPpsOut 1000000004) ∧ running (wPpsOut 1000000004).live.dev.state = true ∧
    (wPpsOut 1000000004).live.cfg.present = true ∧ hasObj (wPpsOut 1000000004).live.cfg.active 0x2021 0 0 = true ∧
    (((lcNow (wPpsOut 1000000004).live (beAt (actObj (wPpsOut 1000000004).live 0x2021 0 0) 0 1 % 16) -
      roundDiv (lcNow (wPpsOut 1000000004).live (beAt (actObj (wPpsOut 1000000004).live 0x2021 0 0) 0 1 % 16)) 65536000000000 *
        65536000000000).natAbs : Int) ≤ 4 * 65536) ∧
    sFind (wPpsOut 1000000004).live.mer.pulseEnd 4 = some 7 ∧ 7 ≤ now16 (wPpsOut 1000000004).live := ⟨awake_mk rfl, by decide +kernel⟩

/-! ## Witnesses: trackers and ticks -/

/-- A tracker record: MODE, N_LOG2, ω_max 1000, ω_min 1, fallback rate 2, and further fields. -/
def trackerRec (mode nlog : Nat) (more : List (Nat × Nat)) : Bytes :=
  fieldsOf 48 ([(0, mode), (3, nlog), (32, 0x447A0000), (64, 0x3F800000), (96, 0x40000000)] ++ more)
/-- ENCODER on input 2, one turn per turn, 1,024 lines, with Z, four ticks a turn, back after 3 ticks. -/
def encRec : Bytes := trackerRec 1 2 [(8, 1), (14, 2), (17, 1), (192, 1024), (344, 3)]
def wEnc (t : Tracker) : World := withTracker 6 t (withSet (setOf [(0x2100, 0, 6, encRec), (0x2103, 1, 0, [6])]))
theorem w_Encoder : awake (mk (wEnc { mode := .acquiring })) ∧ (mk (wEnc { mode := .acquiring })).live.mer.trackers.length = 8 ∧
    (mk (wEnc { mode := .acquiring })).live.dev.encPins.getLsbD (2 * (2 : Fin 4).val + b2n false) ≠ true ∧
    6 ∈ encTrackers (mk (wEnc { mode := .acquiring })).live (2 : Fin 4) ∧ atZEn (atRec (mk (wEnc { mode := .acquiring })).live 6) = true :=
  ⟨awake_mk rfl, by decide +kernel⟩
/-- A leads B: A rises, B rises, A falls, B falls are four counts up (02 R417). -/
theorem test_quadrature : (tracker (after (.encoderEdge 2 ⟨true, false⟩ 0) (after (.encoderEdge 2 ⟨false, false⟩ 0) (after (.encoderEdge 2 ⟨true, true⟩ 0)
    (after (.encoderEdge 2 ⟨false, true⟩ 0) (mk (wEnc { mode := .acquiring })))))).live 6).count = 4 ∧
    (tracker (after (.encoderEdge 2 ⟨true, true⟩ 0) (mk (wEnc { mode := .acquiring }))).live 6).count = -1 := by decide +kernel
theorem w_Encoder_z : awake (mk (wEnc { mode := .valid, zAligned := true, count := 3 })) ∧
    (tracker (mk (wEnc { mode := .valid, zAligned := true, count := 3 })).live 6).mode = .valid ∧
    (tracker (after (.encoderZPulse 2) (mk (wEnc { mode := .valid, zAligned := true, count := 3 }))).live 6).zMismatches = 1 ∧
    (tracker (after (.encoderZPulse 2) (mk (wEnc { mode := .valid, zAligned := true, count := 2 }))).live 6).zMismatches = 0 :=
  ⟨awake_mk rfl, by decide +kernel⟩
theorem w_Trackers : awake (mk (wEnc { mode := .valid })) ∧ (6 : Fin 8).val < (mk (wEnc { mode := .valid })).live.mer.trackers.length ∧
    (tracker (mk (wEnc { mode := .valid })).live 6).mode = .valid ∧ atMode (atRec (mk (wEnc { mode := .valid })).live 6) ≠ 4 ∧
    sourceGood (mk (wEnc { mode := .valid })).live 6 (now16 (mk (wEnc { mode := .valid })).live) = false ∧
    atMode (atRec (mk (wEnc { mode := .valid })).live 6) = 1 := ⟨awake_mk rfl, by decide +kernel⟩
theorem w_Trackers_back : awake (mk (wEnc { mode := .fallback, goodTicks := 3 })) ∧
    (tracker (mk (wEnc { mode := .fallback, goodTicks := 3 })).live 6).mode = .fallback ∧
    (tracker (mk (wEnc { mode := .acquiring, goodTicks := 3 })).live 6).mode = .acquiring ∧
    atMode (atRec (mk (wEnc { mode := .fallback, goodTicks := 3 })).live 6) ≠ 4 ∧
    atResume (atRec (mk (wEnc { mode := .fallback, goodTicks := 3 })).live 6) ≤
      (tracker (mk (wEnc { mode := .fallback, goodTicks := 3 })).live 6).goodTicks := ⟨awake_mk rfl, by decide +kernel⟩
def wTick (t : Nat) (d : Option (Nat × Bool)) (back : Bool := false) : State :=
  mk (atTime t (wEnc { mode := .valid, count := if d.isSome then 2048 else 1024, delayed := d, crossU := 0x40000000, zAligned := true, sinceBack := back }))
/-- The tick of boundary 1, a quarter turn on. -/
def tickReached (s : State) (stamp : Nat) : Prop :=
  (tracker s.live 6).mode = .valid ∧ hasReached s.live 6 (now16 s.live 0) true = true ∧
  nextU (atRec s.live 6) (tracker s.live 6).tickU true = 0x40000000 ∧ reachInstant s.live 6 (now16 s.live 0) 0x40000000 = stamp * 65536
theorem w_Ticks : awake (wTick 250000 none) ∧ tickReached (wTick 250000 none) 250000 ∧ tickReached (wTick 249999 none) 249999 ∧
    tickReached (wTick 249999 none true) 249999 ∧ tickReached (wTick 249999 (some (1, true))) 249999 ∧
    spanReaches (atRec (wTick 250000 none).live 6) (atOmegaMax (atRec (wTick 250000 none).live 6)) (250000 * 65536) = true ∧
    spanReaches (atRec (wTick 249999 none).live 6) (atOmegaMax (atRec (wTick 249999 none).live 6)) (249999 * 65536) = false ∧
    (tracker (wTick 249999 none true).live 6).sinceBack = true ∧
    (tracker (wTick 250000 none).live 6).delayed = none ∧ (tracker (wTick 249999 (some (1, true))).live 6).delayed.isSome = true ∧
    (6 = epochTracker (wTick 250000 none).live ∧ (wTick 250000 none).live.cfg.present = true) :=
  ⟨awake_mk rfl, by unfold tickReached; decide +kernel⟩
theorem w_Ticks_delayed : awake (wTick 250000 (some (1, true))) ∧ (tracker (wTick 250000 (some (1, true))).live 6).delayed = some (1, true) ∧
    (tracker (wTick 250000 (some (1, true))).live 6).mode ≠ .off ∧
    (tracker (wTick 250000 (some (1, true))).live 6).lastTickAt + interval16 (atRec (wTick 250000 (some (1, true))).live 6)
      (atOmegaMax (atRec (wTick 250000 (some (1, true))).live 6)) ≤ now16 (wTick 250000 (some (1, true))).live 0 :=
  ⟨awake_mk rfl, by decide +kernel⟩
theorem test_tick : (tracker (after (.trackerTick 6 1 true 0) (wTick 250000 none)).live 6).tickCount = 1 ∧
    (tracker (after (.trackerTick 6 1 true 0) (wTick 249999 none)).live 6).delayed = some (1, true) ∧
    (tracker (after (.delayedTick 6 1 0) (wTick 250000 (some (1, true)))).live 6).lastTickAt = 250000 * 65536 := by decide +kernel
theorem w_Ticks_named :
    crossedB (atRec (wTick 250000 none).live 6) (tracker (wTick 250000 none).live 6) true = (1 : Fin 32768).val ∧
    crossedB (atRec (wTick 249999 none true).live 6) (tracker (wTick 249999 none true).live 6) true = (1 : Fin 32768).val ∧
    crossedB (atRec (wTick 249999 (some (1, true))).live 6) (tracker (wTick 249999 (some (1, true))).live 6) true = (2 : Fin 32768).val := by decide +kernel
/-- A command that names another boundary than the one the tracker has come to is no tick of it (log 26). -/
theorem w_Ticks_other : awake (wTick 250000 none) ∧
    (0 : Fin 32768).val ≠ crossedB (atRec (wTick 250000 none).live 6) (tracker (wTick 250000 none).live 6) true ∧
    ((tracker (wTick 250000 (some (1, true))).live 6).delayed.map (·.1)) ≠ some (2 : Fin 32768).val ∧
    (tracker (after (.trackerTick 6 0 true 0) (wTick 250000 none)).live 6).tickCount = 0 := ⟨awake_mk rfl, by decide +kernel⟩
/-- Two turns a second and four ticks a turn: a fallback tick each 125 ms. -/
def wFall (t : Nat) : State := mk (atTime t (wEnc { mode := .fallback }))
theorem w_Ticks_fallback : awake (wFall 125000000) ∧ (tracker (wFall 125000000).live 6).mode = .fallback ∧
    (tracker (wFall 125000000).live 6).delayed = none ∧
    fallbackStamp (atRec (wFall 125000000).live 6) (tracker (wFall 125000000).live 6) ≤ now16 (wFall 125000000).live 0 ∧
    ¬ fallbackStamp (atRec (wFall 124999999).live 6) (tracker (wFall 124999999).live 6) ≤ now16 (wFall 124999999).live 0 :=
  ⟨awake_mk rfl, by decide +kernel⟩
/-- TICK_OUT of pin 3: enabled, active low, width 1,000 ns. -/
def wPin : State := mk (atTime 10 { withSet (setOf [(0x2110, 1, 3, fieldsOf 8 [(3, 1), (4, 1), (36, 1000)])]) with
  mer := { (withSet []).mer with edges := [(3, [655360, 900000])], pulseEnd := [(2, 655360)] } })
theorem w_Ticks_pins : awake wPin ∧ ordered wPin.live ∧ running wPin.live.dev.state = true ∧ wPin.live.cfg.present = true ∧
    sGet [] wPin.live.mer.edges (3 : Fin 4) = 655360 :: [900000] ∧ 655360 ≤ now16 wPin.live ∧ bit (tickOut wPin.live (3 : Fin 4)) 3 = true ∧
    sFind wPin.live.mer.pulseEnd (2 : Fin 4) = some 655360 := ⟨awake_mk rfl, ordered_of (by decide +kernel), by decide +kernel⟩
theorem test_pin : (after (.tickPulseStart 3) wPin).live.dev.tick3 = .low := by decide +kernel
/-- Event 63 of tracker 6: forward, at angle 0, ACTION 4 on object 5. -/
def wEvent (act target : Nat) (t : Tracker) : World := withTracker 6 t (withSet (setOf [(0x2100, 0, 6, encRec),
  (0x2102, 0, 6, List.replicate 504 0 ++ fieldsOf 8 [(56, 1), (36, target), (32, act)]), (0x4100, 0, 1, fieldsOf 256 []),
  (0x5030, 0, 1, fieldsOf 64 [(0, 1)]), (0x5040, 0, 1, fieldsOf 64 [])]))
theorem w_Events (act : Fin 6) : awake (mk (wEvent act.val 1 { mode := .fallback, fromU := -1 })) ∧
    ordered (mk (wEvent act.val 1 { mode := .fallback, fromU := -1 })).live ∧
    (63 : Fin 64).val ∉ (tracker (mk (wEvent act.val 1 { mode := .fallback, fromU := -1 })).live 6).disarmed ∧
    (tracker (mk (wEvent act.val 1 { mode := .fallback, fromU := -1 })).live 6).mode ≠ .off ∧
    eventDir (eventEntry (mk (wEvent act.val 1 { mode := .fallback, fromU := -1 })).live.cfg.active 6 63) true = true ∧
    passed (mk (wEvent act.val 1 { mode := .fallback, fromU := -1 })).live 6 63 true
      (now16 (mk (wEvent act.val 1 { mode := .fallback, fromU := -1 })).live 0) = true :=
  ⟨awake_mk rfl, ordered_of (by revert act; decide +kernel), by revert act; decide +kernel⟩
theorem test_event : syncCount (after (.angleEventFire 6 63 true 0) (mk (wEvent 4 5 { mode := .fallback, fromU := -1 }))).live 5 = 1 ∧
    syncCount (after (.angleEventFire 6 63 true 0) (mk (wEvent 4 5 { mode := .fallback }))).live 5 = 0 := by decide +kernel
theorem w_Events_rearm : awake (mk (wEvent 4 5 { mode := .fallback, disarmed := [63], theta := 0x40000000 })) ∧
    (tracker (mk (wEvent 4 5 { mode := .fallback, disarmed := [63], theta := 0x40000000 })).live 6).mode ≠ .off ∧
    2 ^ 30 ≤ (angleDiff (BitVec.ofInt 32 (judgedU (mk (wEvent 4 5 { mode := .fallback, disarmed := [63], theta := 0x40000000 })).live 6
      (now16 (mk (wEvent 4 5 { mode := .fallback, disarmed := [63], theta := 0x40000000 })).live 0)))
      (BitVec.ofNat 32 (bits (eventEntry (mk (wEvent 4 5 { mode := .fallback })).live.cfg.active 6 63) 31 0))).natAbs ∧
    (tracker (after (.angleEventRearm 6 63 0) (mk (wEvent 4 5 { mode := .fallback, disarmed := [63], theta := 0x40000000 }))).live 6).disarmed = [] :=
  ⟨awake_mk rfl, by decide +kernel⟩
theorem w_TickBoundary : awake wDue ∧ wDue.live.dev.boundaryDue = some (65536, 0) := ⟨awake_mk rfl, rfl⟩

/-! ## Witnesses: writes of one object -/

def acceptedB (s : State) (index sub type : Nat) (x : ObjWrite) : Bool :=
  decide (sub < 256) && decide (x.inst < 2 ^ 24) && hostsServed s.live && (session s.live x.session).live &&
  decide ((session s.live x.session).cache.find? (fun e => e.1 = x.reqId) = none) &&
  !(session s.live x.session).open_.any (fun r => r.reqId = x.reqId) && decide ((session s.live x.session).open_.length < 16) &&
  hasRole (asked s x.session x.reqId) x.session 1 &&
  match findObj (okey index sub x.inst) with
  | .error _ => false
  | .ok o => decide (o.access ≠ .ro ∧ o.access ≠ .co ∧ o.type = type ∧ index ≠ 0x9002 ∧ x.value.length ≤ 1386 ∧ sizeOk o x.value.length = true ∧
      permission (asked s x.session x.reqId) (writeOf index sub type x) o = none ∧
      writeBad (asked s x.session x.reqId) (writeOf index sub type x) o = none)

theorem accepted_of {s : State} {index sub type : Nat} {x : ObjWrite} (h : acceptedB s index sub type x = true) :
    accepted s index sub type x := by
  unfold acceptedB at h
  split at h
  · simp at h
  · next o e =>
    simp only [Bool.and_eq_true, decide_eq_true_eq, Bool.not_eq_true'] at h
    obtain ⟨⟨⟨⟨⟨⟨⟨⟨h1, h2⟩, h3⟩, h4⟩, h5⟩, h6⟩, h7⟩, h8⟩, h9⟩ := h
    exact ⟨h1, h2, h3, h4, h5, h6, h7, h8, o, e, h9⟩

def one32 : Nat := 0x3F800000
def genRecT : Bytes := fieldsOf 48 [(146, one32), (114, one32), (82, one32), (2, 10), (0, 1)]
def loopRecT : Bytes := fieldsOf 112 [(434, one32), (370, one32), (338, one32), (306, one32), (274, one32), (178, one32), (170, 1), (118, one32), (102, 6461), (82, 1000000), (52, 1)]
/-- Objects that the rows below write: tracker 6 SYNTHETIC, loop, generator, injector, capture channel, a RESERVED partition, and a template
with one host parameter from −1,000 to 1,000, each as instance 1. -/
def writeSet : Store Bytes := setOf [
  (0x2010, 0, 7, fieldsOf 32 [(189, 1), (192, 1000)]),
  (0x2100, 0, 6, trackerRec 4 2 [(128, 0x40400000)]), (0x2103, 1, 0, [6]), (0x5010, 0, 1, loopRecT), (0x5020, 0, 1, genRecT),
  (0x5030, 0, 1, fieldsOf 64 [(0, 1)]), (0x5040, 0, 1, fieldsOf 64 []), (0x3000, 0, 1, fieldsOf 64 [(508, 2)]),
  (0x6000, 0, 0, fieldsOf 32 [(97, 1)]), (0x4100, 0, 1, fieldsOf 64 [(405, 1), (421, 1)]), (0x4101, 0, 1, fieldsOf 24 [(189, 2), (32, 1000), (0, 2 ^ 32 - 1000)])]
def wWrites (f : World → World) : State := mk (f (withSession (withTracker 6 { mode := .valid } (withSet writeSet))))
def withDie (d : Nat) (x : Die) (w : World) : World := { w with dev := { w.dev with dies := updNth w.dev.dies d (fun _ => x) } }
def withStaged (b : Bytes) (w : World) : World := { w with garnet := { w.garnet with staged := some b } }
def halted (w : World) : World := { w with serving := { w.serving with parts := [(1, { mode := .halted })] } }
def wrAt (inst : Nat) (v : Bytes) : ObjWrite := ⟨0, 7, inst, v⟩
/-- Every row that waits for its boundary, with a value that nothing refuses, and a state in which it stands. -/
def waitRows : List (Instr × (Nat × Nat × Nat × ObjWrite) × State) :=
  [(.lcRate (wrAt 5 (beBytes 8 0)), (0x2010, 1, 5, wrAt 5 (beBytes 8 0)), wWrites id),
   (.lcOffsetAdj (wrAt 5 (beBytes 8 1)), (0x2012, 1, 5, wrAt 5 (beBytes 8 1)), wWrites id),
   (.lcForceStep (wrAt 15 (beBytes 8 1)), (0x2013, 1, 5, wrAt 15 (beBytes 8 1)), wWrites id),
   (.lcRelease (wrAt 1 [1]), (0x2014, 1, tU8, wrAt 1 [1]), wWrites id),
   (.atOmegaSyn (wrAt 6 (beBytes 4 0x40000000)), (0x2100, 1, tReal, wrAt 6 (beBytes 4 0x40000000)), wWrites id),
   (.arithSticky (wrAt 159 [0x1F]), (0x7000, 1, tU8, wrAt 159 [0x1F]), wWrites id),
   (.loopOpen (wrAt 1 [0]), (0x5012, 1, tU8, wrAt 1 [0]), wWrites id), (.loopClose (wrAt 1 [1]), (0x5012, 1, tU8, wrAt 1 [1]), wWrites id),
   (.loopCoeffWrite 1 (wrAt 1 (beBytes 4 0x3F000000)), (0x5011, 1, tReal, wrAt 1 (beBytes 4 0x3F000000)), wWrites id),
   (.injStart (wrAt 1 [1]), (0x5031, 1, tU8, wrAt 1 [1]), wWrites id), (.injStop (wrAt 1 [1]), (0x5031, 2, tU8, wrAt 1 [1]), wWrites id),
   (.capArm (wrAt 1 [1]), (0x5041, 1, tU8, wrAt 1 [1]), wWrites id), (.capTrigger (wrAt 1 [2]), (0x5041, 1, tU8, wrAt 1 [2]), wWrites id),
   (.partCtrlStart (wrAt 1 [1]), (0x3001, 1, tU8, wrAt 1 [1]), wWrites id), (.partCtrlStop (wrAt 1 [0]), (0x3001, 1, tU8, wrAt 1 [0]), wWrites id),
   (.partCtrlRestart (wrAt 1 [2]), (0x3001, 1, tU8, wrAt 1 [2]), wWrites halted),
   (.registerWrite 0x5020 1 10 (wrAt 1 (beBytes 4 0x40000000)), (0x5020, 1, 10, wrAt 1 (beBytes 4 0x40000000)), wWrites id),
   (.paramWrite none (wrAt 4096 (beBytes 4 0x3F800000)), (0x4110, 0, tReal, wrAt 4096 (beBytes 4 0x3F800000)), wWrites id),
   (.paramWrite (some 0) (wrAt 4096 (beBytes 4 0x3F800000)), (0x4111, 0, tReal, wrAt 4096 (beBytes 4 0x3F800000)), wWrites id),
   (.drain (wrAt 3 (beBytes 2 1)), (0x8020, 1, tU16, wrAt 3 (beBytes 2 1)), wWrites id),
   (.load (wrAt 2 (beBytes 2 2)), (0x8020, 1, tU16, wrAt 2 (beBytes 2 2)), wWrites (fun w => withStaged [] (withDie 2 { state := .drained } w))),
   (.rejoin (wrAt 2 (beBytes 2 3)), (0x8020, 1, tU16, wrAt 2 (beBytes 2 3)), wWrites (withDie 2 { state := .ready })),
   (.bedrockSwitch (wrAt 4 (beBytes 2 4)), (0x8020, 1, tU16, wrAt 4 (beBytes 2 4)), wWrites (withStaged []))]
theorem waitRows_ok : waitRows.all (fun r => rowWrites r.1 == some r.2.1 && decide (r.2.1.1 ≠ 0x1202) && decide (r.2.1.1 < 0x9000) &&
    acceptedB r.2.2 r.2.1.1 r.2.1.2.1 r.2.1.2.2.1 r.2.1.2.2.2 && alive r.2.2.live && decide (r.2.2.live.dev = (settle r.2.2.live).dev)) = true := by
  decide +kernel
/-- Each row stands in a state that meets every hypothesis. -/
theorem w_AcceptedWrites : ∀ r ∈ waitRows, awake r.2.2 ∧ rowWrites r.1 = some r.2.1 ∧ r.2.1.1 ≠ 0x1202 ∧ r.2.1.1 < 0x9000 ∧
    accepted r.2.2 r.2.1.1 r.2.1.2.1 r.2.1.2.2.1 r.2.1.2.2.2 := by
  intro r hr
  have h := List.all_eq_true.mp waitRows_ok r hr
  simp only [Bool.and_eq_true, decide_eq_true_eq, beq_iff_eq] at h
  obtain ⟨⟨⟨⟨⟨h1, h2⟩, h3⟩, h4⟩, h5⟩, h6⟩ := h
  refine ⟨⟨h5, ?_⟩, h1, h2, h3, accepted_of h4⟩
  show settle r.2.2.live = r.2.2.live
  have e : settle r.2.2.live = { r.2.2.live with dev := (settle r.2.2.live).dev } := rfl
  rw [e, ← h6]
theorem test_waits : (after (.lcRate (wrAt 5 (beBytes 8 3))) (wWrites id)).live.cfg.rw.length = 1 ∧
    (after (.lcRate (wrAt 5 (beBytes 8 3))) (wWrites id)).live.link.sessions.map (·.open_.length) = [1, 0, 0, 0, 0, 0, 0, 0] := by decide +kernel
theorem w_Shadow : awake (wWrites id) ∧ accepted (wWrites id) 0x1202 1 tU8 (wrAt 0 [1]) ∧ accepted (wWrites id) 0x1202 1 tU8 (wrAt 0 [2]) ∧
    accepted (wWrites id) 0x9003 2 tU64 (wrAt 0 (beBytes 8 0x10000)) :=
  ⟨awake_mk rfl, accepted_of (by decide +kernel), accepted_of (by decide +kernel), accepted_of (by decide +kernel)⟩
theorem test_floor : (floorNow (after (.floorRaise (wrAt 0 (beBytes 8 0x10000))) (wWrites id)).live.garnet).floor = 0 ∧
    (floorNow (after (.floorRaise (wrAt 0 (beBytes 8 0x10000))) (wWrites id)).live.garnet).rootMask = 2 := by decide +kernel
/-- Enrolment records that are of a KIND; the records are refused, since nothing signs them. -/
def enRec (kind : Nat) : Bytes := ascii "GXEN" ++ leBytes 1 kind ++ List.replicate 187 0
def enRows : List (Instr × Nat × ObjWrite) :=
  [(.enrolClaim (wrAt 0 (enRec 1)), 1, wrAt 0 (enRec 1)), (.enrolSetSlot (wrAt 0 (enRec 2)), 2, wrAt 0 (enRec 2)),
   (.enrolClearSlot (wrAt 0 (enRec 3)), 3, wrAt 0 (enRec 3)), (.enrolTransfer (wrAt 0 (enRec 4)), 4, wrAt 0 (enRec 4)),
   (.enrolRelease (wrAt 0 (enRec 5)), 5, wrAt 0 (enRec 5)), (.enrolSetPolicy (wrAt 0 (enRec 6)), 6, wrAt 0 (enRec 6))]
theorem enRows_ok : enRows.all (fun r => rowEnrols r.1 == some r.2 && decide (enKind r.2.2.value = r.2.1) &&
    acceptedB (wWrites id) 0x9011 0 tDomain r.2.2) = true := by decide +kernel
theorem w_Enrolment : awake (wWrites id) ∧ (wWrites id).live.garnet.slots.length = 8 ∧ ∀ r ∈ enRows, rowEnrols r.1 = some r.2 ∧
    enKind r.2.2.value = r.2.1 ∧ accepted (wWrites id) 0x9011 0 tDomain r.2.2 := by
  refine ⟨awake_mk rfl, rfl, fun r hr => ?_⟩
  have h := List.all_eq_true.mp enRows_ok r hr
  simp only [Bool.and_eq_true, decide_eq_true_eq, beq_iff_eq] at h
  exact ⟨h.1.1, h.1.2, accepted_of h.2⟩
/-- What the clauses of WaitingWritesTakeEffect ask of a world and a write. -/
def rw_ (index sub inst : Nat) (v : Bytes) : RwWrite :=
  { session := 0, reqId := 7, service := 0x11, index := index, sub := sub, inst := inst, value := v }
def wRw (closed : BitVec 16) : World := (wWrites (fun w => { w with
  halo := { w.halo with loops := [(1, { flags := closed })] }, serving := { w.serving with parts := [(1, { mode := .halted })] } })).live
theorem w_WaitingWrites : (wRw 0).cfg.present = true ∧ ordered (wRw 0) ∧ 0 < 15 ∧ 15 < (wRw 0).mer.clocks.length ∧
    holderAbsent (wRw 0).cfg.active 0x5011 2 = true ∧ holderAbsent (wRw 0).cfg.active 0x5011 1 = false ∧
    jumpTooFar 5 (signed 64 (2 ^ 40)) (wRw 0) = true ∧ jumpTooFar 5 0 (wRw 0) = false ∧ lcStepMode 5 (lcRec (wRw 0) 5) = false ∧
    lcStepMode 7 (lcRec (wRw 0) 7) = true ∧ jumpTooFar 7 1 (wRw 0) = false ∧
    atMode (atRec (wRw 0) 6) = 4 ∧ (tracker (wRw 0) 6).mode = .valid ∧ 6 < (wRw 0).mer.trackers.length ∧
    (part (wRw 0) 1).mode = .halted ∧
    deltaOk (keepWrite (rw_ 0x4111 0 4096 [0, 0, 0x80, 0x3F]) (wRw 0)) (4096 / 4096) (4096 % 4096) 0 0 = true ∧
    holderAbsent (wRw 0).cfg.active 0x4111 4096 = false ∧ hasFlag lfClosed (loop (wRw 1) 1).flags = true ∧
    hasFlag lfClosed (loop (wRw 0) 1).flags = false ∧ hasObj (wRw 0).cfg.active 0x5030 0 1 = true ∧ ijKind (injRec (wRw 0) 1) ≠ 0 ∧
    hasObj (wRw 0).cfg.active 0x5040 0 1 = true ∧ upgradeBad (wRw 0) 3 1 = none ∧ upOp 1 = 1 ∧ upOp 2 = 2 ∧ upOp 3 = 3 ∧ upOp 4 = 4 :=
  ⟨rfl, ordered_of (by decide +kernel), by decide +kernel⟩
theorem test_effects : (applyRw 0 0 (rw_ 0x5011 1 1 [0, 0, 0, 0x3F]) (wRw 1)).2 = some aCoeffClosed ∧
    (applyRw 0 0 (rw_ 0x5011 1 2 [0, 0, 0, 0x3F]) (wRw 1)).2 = some aNoInstance ∧
    (inj (applyRw 0 (5 * 65536) (rw_ 0x5031 1 1 [1]) (wRw 0)).1 1).armed = some 5 ∧
    (applyRw 0 0 (rw_ 0x2012 1 5 (leBytes 8 (2 ^ 40))) (wRw 0)).2 = some aJumpRefused := by decide +kernel
/-! ## Witnesses: the scalar sequencer -/

/-- Context 1 of tile 5 of partition 2: share of words 0 to 999, four of them code, STALL_BOUND 1,024, all pages of die 0. -/
def tc : TileCtx := ⟨5, 1⟩
def tileSet : Store Bytes := setOf [(0x3000, 0, 2, fieldsOf 64 [(5, 1), (128 + 5, 1), (270, 1000), (284, 4), (319, 1024)])]
def wTile (x : Ctx) (f : Tiles → Tiles := id) (t : Nat := 0) : State :=
  mk (atTime t { withSet tileSet with tiles := f { ctxs := [(11, { x with part := some 2, running := true })] }
                                      cfg := { (withSet tileSet).cfg with mapping := { pages := [(8, 65536)] } } })
/-- A scalar instruction word from its fields: OP, RD, RA, RB, MASK, FARP, IMM (04 Table 4.2). -/
def scalW (op rd ra rb mask farp imm : Nat) : Nat :=
  op * 2 ^ 56 + rd * 2 ^ 52 + ra * 2 ^ 48 + rb * 2 ^ 44 + mask * 2 ^ 38 + farp * 2 ^ 37 + imm
/-- Code of the partition: a scalar word at code word 0. -/
def withScal (v : Nat) (t : Tiles) : Tiles := { t with scratch := Mem.write t.scratch (padAddr 5 (996 * 32)) (leBytes 8 v) }
/-- Every scalar instruction with the word that Tables 4.2 and 4.3 give it. -/
def scalRows : List (Instr × Nat) :=
  [(.li tc 1 9, scalW 0x01 1 0 0 0 0 9), (.add tc 1 1 2, scalW 0x02 1 1 2 0 0 0), (.addi tc 1 1 3, scalW 0x03 1 1 0 0 0 3),
   (.sub tc 1 1 2, scalW 0x04 1 1 2 0 0 0), (.and tc 0 1 2, scalW 0x05 0 1 2 0 0 0), (.or tc 0 1 2, scalW 0x06 0 1 2 0 0 0),
   (.xor tc 0 1 2, scalW 0x07 0 1 2 0 0 0), (.shli tc 1 1 33, scalW 0x08 1 1 0 0 0 33), (.shri tc 15 1 33, scalW 0x09 15 1 0 0 0 33),
   (.jmp tc 3, scalW 0x10 0 0 0 0 0 3), (.bz tc 3 9, scalW 0x11 0 3 0 0 0 9), (.bnz tc 1 3, scalW 0x12 0 1 0 0 0 3),
   (.dbnz tc 1 9, scalW 0x13 0 1 0 0 0 9), (.waittag tc 4 7, scalW 0x21 4 0 0 0 0 7), (.fence tc, scalW 0x22 0 0 0 0 0 0),
   (.spost tc 32777, scalW 0x30 0 0 0 0 0 32777), (.swait tc 9, scalW 0x31 0 0 0 0 0 9), (.stepEnd tc, scalW 0x3F 0 0 0 0 0 0),
   (.issue tc 0 0 0 false 4, scalW 0x20 0 0 0 0 0 4)]
def wScal (r : Instr × Nat) (x : Ctx := { s := [(1, 5), (2, 7)] }) (f : Tiles → Tiles := id) : State := wTile x (fun t => f (withScal r.2 t))
theorem scalRows_ok : scalRows.all (fun r => orderedB (wScal r).live && fetches (wScal r).live tc r.1 && decide (scalarRow r.1 = some tc)) = true ∧
    (scalRows.take 9).all (fun r => (scalarValue r.1).isSome) = true ∧ ((scalRows.drop 9).take 3).all (fun r => (scalarJump r.1).isSome) = true := by
  decide +kernel
theorem w_Scalar : ∀ r ∈ scalRows, awake (wScal r) ∧ ordered (wScal r).live ∧ fetches (wScal r).live tc r.1 = true := by
  intro r hr
  have h := List.all_eq_true.mp scalRows_ok.1 r hr
  simp only [Bool.and_eq_true] at h
  exact ⟨awake_mk rfl, ordered_of h.1.1, h.1.2⟩
/-- 5 − 7 modulo 2^32; a shift count of 33 is 1 (04 Table 4.3); a register that is also a source. -/
theorem test_scalar : sReg (ctxAt (after (.sub tc 1 1 2) (wScal (nth (.fence tc, 0) scalRows 3))).live 11) 1 = 0xFFFFFFFE ∧
    sReg (ctxAt (after (.shli tc 1 1 33) (wScal (nth (.fence tc, 0) scalRows 7))).live 11) 1 = 10 := by decide +kernel
theorem w_Jumps : (ctxAt (after (.bz tc 3 9) (wScal (nth (.fence tc, 0) scalRows 10) {})).live 11).pc = 9 ∧
    (ctxAt (after (.dbnz tc 1 9) (wScal (nth (.fence tc, 0) scalRows 12) { s := [(1, 1)] })).live 11).pc = 1 ∧
    (ctxAt (after (.dbnz tc 1 9) (wScal (nth (.fence tc, 0) scalRows 12) { s := [(1, 2)] })).live 11).pc = 9 := by decide +kernel
/-- OP 0x0A is reserved, and bits 36:32 are zero; another command than the word's does nothing. -/
theorem w_Scalar_none : nextInstr (wScal (.fence tc, scalW 0x0A 0 0 0 0 0 0)).live tc = none ∧
    nextInstr (wScal (.fence tc, scalW 0x22 0 0 0 0 0 (2 ^ 32))).live tc = none ∧
    mayRun (wScal (.fence tc, scalW 0x0A 0 0 0 0 0 0)).live (TileCtx.key tc) = true ∧
    (nextInstr (wScal (.fence tc, scalW 0x22 0 0 0 0 0 0)).live tc = some (.fence tc)) ∧ (Instr.fence tc ≠ .stepEnd tc) ∧
    (ctxAt (after (.fence tc) (wScal (.fence tc, scalW 0x0A 0 0 0 0 0 0))).live 11).faultReason = 3 := by decide +kernel
def wWaiting (r : Instr × Nat) : State := wScal r { sb := [{ serial := 4 }], tagSerial := [(7, 4), (8, 3)] }
theorem w_Waits : retired (ctxAt (wWaiting (.waittag tc 4 7, scalW 0x21 4 0 0 0 0 7)).live 11) 4 = false ∧
    retired (ctxAt (wWaiting (.waittag tc 4 8, scalW 0x21 4 0 0 0 0 8)).live 11) 3 = true ∧
    fetches (wWaiting (.waittag tc 4 8, scalW 0x21 4 0 0 0 0 8)).live tc (.waittag tc 4 8) = true ∧
    (∀ e ∈ (wWaiting (.waittag tc 4 8, 0)).live.tiles.ctxs, e.2.wait ≠ .sync (9 % 32768)) ∧
    0 < syncCount (wTile {} (fun t => { t with sync := [(9, 1)] })).live (9 % 32768) ∧ syncCount (wTile {}).live (9 % 32768) = 0 := by
  decide +kernel
theorem test_tokens : syncCount (after (.spost tc 32777) (wScal (nth (.fence tc, 0) scalRows 15))).live 9 = 1 ∧
    (ctxAt (after (.swait tc 9) (wScal (nth (.fence tc, 0) scalRows 16))).live 11).wait = .sync 9 := by decide +kernel
/-- A command word: opcode, NR, NW, PASS, TAG, ranges as first word and length, fields of OPFIELD (04 Table 4.5). -/
def cmdW (op nr nw pass tag : Nat) (ranges : List (Nat × Nat)) (fs : List (Nat × Nat)) : BitVec 256 :=
  BitVec.ofNat 256 (op * 2 ^ 248 + nr * 2 ^ 245 + nw * 2 ^ 243 + pass * 2 ^ 240 + tag * 2 ^ 232 + leNat (fieldsOf 32 fs) +
    (ranges.mapIdx (fun i r => r.1 * 2 ^ (210 - 28 * i) + r.2 * 2 ^ (196 - 28 * i))).foldl (· + ·) 0)
/-- Code of the partition: ISSUE of code word 4 at code word 0, and the command there. -/
def withCode (c : BitVec 256) (t : Tiles) : Tiles :=
  { t with scratch := Mem.write (withScal (scalW 0x20 0 0 0 0 0 4) t).scratch (padAddr 5 (997 * 32)) (leBytes 32 c.toNat) }
/-- The ISSUE there. -/
def issue4 : Instr := .issue tc 0 0 0 false 4
/-- VLD of one group of FP32 from words 3 to 10 into v2: 256 bytes. -/
def vldW (base : Nat) : BitVec 256 := cmdW 0x10 1 0 1 7 [(base, 8)] [(52, 3), (29, 2)]
theorem codeAt_vld : codeAt (wTile {} (withCode (vldW 3))).live 5 (actPart (wTile {} (withCode (vldW 3))).live 2) 4 = some (vldW 3) ∧
    patchCmd 0 0 (vldW 3) = (vldW 3, true) := by decide +kernel
theorem w_Issue : awake (wTile {} (withCode (vldW 3))) ∧ ordered (wTile {} (withCode (vldW 3))).live ∧
    fetches (wTile {} (withCode (vldW 3))).live tc issue4 = true ∧ (ctxAt (wTile {} (withCode (vldW 3))).live (TileCtx.key tc)).part = some 2 ∧
    codeAt (wTile {} (withCode (vldW 3))).live tc.tile (actPart (wTile {} (withCode (vldW 3))).live 2) (4 : W32).toNat = some (vldW 3) ∧
    patchCmd 0 (sReg (ctxAt (wTile {} (withCode (vldW 3))).live (TileCtx.key tc)) 0).toNat (vldW 3) = (vldW 3, true) ∧
    (if isDma (cOp (vldW 3)) then codeAt (wTile {} (withCode (vldW 3))).live tc.tile (actPart (wTile {} (withCode (vldW 3))).live 2) (cField (vldW 3) 31 0)
      else some 0) = some 0 ∧
    (formOk (tileShared (wTile {} (withCode (vldW 3))).live tc.tile) (tc.tile / 32) tc.ctx (vldW 3) 0 &&
      !(isDma (cOp (vldW 3)) && cField (vldW 3) 55 32 != 0)) = true ∧
    (true && rangesOk (actPart (wTile {} (withCode (vldW 3))).live 2) (vldW 3) 0) = true ∧ cycleOk (vldW 3) = true ∧
    sbFree [] (vldW 3) 0 = true := ⟨awake_mk rfl, ordered_of (by decide +kernel), by decide +kernel⟩
/-- An ISSUE of code word 13, whose 32 bytes pass the end of the code region. -/
theorem w_Issue_out : fetches (wScal (.issue tc 0 0 0 false 13, scalW 0x20 0 0 0 0 0 13)).live tc (.issue tc 0 0 0 false 13) = true ∧
    patched (wScal (.issue tc 0 0 0 false 13, scalW 0x20 0 0 0 0 0 13)).live tc 0 0 0 false 13 = none := by decide +kernel
/-- The share ends at word 1,000: a range to word 1,000 passes, one word further faults with BAD_RANGE; a reserved opcode with BAD_CMD;
a range that a waiting command writes stalls; MATMUL beyond 4,096 cycles faults with CYCLE_BOUND (04 Table 4.11). -/
theorem test_issue : (ctxAt (after issue4 (wTile {} (withCode (vldW 992)))).live 11).sb.length = 1 ∧
    (ctxAt (after issue4 (wTile {} (withCode (vldW 993)))).live 11).faultReason = 2 ∧
    (ctxAt (after issue4 (wTile {} (withCode (cmdW 0x04 0 0 1 0 [] [])))).live 11).faultReason = 3 ∧
    (ctxAt (after issue4 (wTile { sb := [{ cmd := cmdW 0x11 0 1 1 0 [(5, 8)] [(52, 3)] }] } (withCode (vldW 3)))).live 11).stallSince = some 0 ∧
    cycleOk (cmdW 0x01 2 0 1 0 [(0, 1), (0, 1)] [(54, 3), (42, 256), (3, 4)]) = false ∧
    cycleOk (cmdW 0x01 2 0 1 0 [(0, 1), (0, 1)] [(54, 3), (42, 8), (3, 15)]) = true := by decide +kernel
/-- Stalled since 0; 1,465 ns are 1,025 cycles of 700 MHz. -/
def wStall (t : Nat) : State := wTile { stallSince := some 0, sb := [{ cmd := cmdW 0x11 0 1 1 0 [(5, 8)] [(52, 3)] }] } (withCode (vldW 3)) t
theorem w_Stall : awake (wStall 1465) ∧ ordered (wStall 1465).live ∧ ctxLive (ctxAt (wStall 1465).live (TileCtx.key tc)) = true ∧
    (ctxAt (wStall 1465).live (TileCtx.key tc)).part = some 2 ∧ nextIssue (wStall 1465).live tc = some (vldW 3, 0) ∧
    sbFree (ctxAt (wStall 1465).live (TileCtx.key tc)).sb (vldW 3) 0 = false ∧
    pStallBound (actPart (wStall 1465).live 2) < stallCount (wStall 1465).live (ctxAt (wStall 1465).live (TileCtx.key tc)) ∧
    stallOver (wStall 1464).live tc = false := ⟨awake_mk rfl, ordered_of (by decide +kernel), by decide +kernel⟩

/-! ## Witnesses: tile commands -/

/-- A descriptor: KIND, SRC, DST, far address, one row of 8 elements, local stride 1, further fields (04 Table 4.13). -/
def descW (kind src dst far : Nat) (fs : List (Nat × Nat)) : BitVec 256 :=
  BitVec.ofNat 256 (kind * 2 ^ 248 + src * 2 ^ 244 + dst * 2 ^ 240 + far * 2 ^ 192 + 2 ^ 155 + 8 * 2 ^ 141 + 2 ^ 127 + leNat (fieldsOf 32 fs))
/-- One well formed command of each row that a unit runs by itself, with its descriptor. -/
def unitCmds : List (Instr × BitVec 256 × BitVec 256) :=
  [(.nop tc, cmdW 0x00 0 0 1 0 [] [], 0),
   (.matmul tc, cmdW 0x01 2 0 1 0 [(0, 32), (32, 4)] [(54, 3), (52, 1), (42, 8), (35, 1), (21, 8), (3, 1)], 0),
   (.tacc tc, cmdW 0x02 0 1 1 0 [(40, 8)] [(52, 3), (51, 1), (41, 8), (34, 8)], 0),
   (.taccLoad tc, cmdW 0x03 1 0 1 0 [(40, 8)] [(52, 3), (51, 1), (41, 8), (34, 8)], 0),
   (.vld tc, vldW 3, 0), (.vst tc, cmdW 0x11 0 1 1 0 [(3, 8)] [(52, 3)], 0),
   (.vop tc, cmdW 0x12 0 0 1 0 [] [(46, 3), (41, 1), (36, 2)], 0), (.vsf tc, cmdW 0x13 0 0 1 0 [] [(46, 3), (41, 1)], 0),
   (.vred tc, cmdW 0x14 0 0 1 0 [] [(46, 3), (41, 1)], 0),
   (.dmaLd ⟨tc, 9⟩, cmdW 0x20 0 1 1 0 [(30, 1)] [], descW 1 3 3 (2 ^ 32 - 32) []), (.dmaSt ⟨tc, 9⟩, cmdW 0x21 1 0 1 0 [(30, 1)] [], descW 2 3 3 (2 ^ 32 - 32) []),
   (.dmaLc ⟨tc, 9⟩, cmdW 0x22 1 1 1 0 [(30, 1), (31, 1)] [], descW 3 3 3 0 [])]
def entryOf (r : Instr × BitVec 256 × BitVec 256) : SbEntry := { cmd := r.2.1, desc := r.2.2, serial := 1 }
def wUnit (r : Instr × BitVec 256 × BitVec 256) : State := wTile { sb := [entryOf r], nextSerial := 2 }
theorem unitCmds_ok : unitCmds.all (fun r =>
    orderedB (wUnit r).live && formOk false 0 1 r.2.1 r.2.2 && rangesOk (actPart (wUnit r).live 2) r.2.1 r.2.2 &&
    (match unitRow r.1 with
    | some (c, op, _) => decide (c = tc) && nextFor (ctxAt (wUnit r).live (TileCtx.key c)) (unitOf op) == some (entryOf r) && cOp r.2.1 == op
    | none => match dmaRow r.1 with
      | some (c, op, n, _) => decide (c = tc ∧ n = 9) && farHead (wUnit r).live c op == some (entryOf r) &&
        (op != 0x20 || farOk (wUnit r).live c (dSrc r.2.2) r.2.2) && (op != 0x21 || farOk (wUnit r).live c (dDst r.2.2) r.2.2)
      | none => false)) = true := by decide +kernel
theorem w_Units : ∀ r ∈ unitCmds, awake (wUnit r) ∧ memoriesOk (wUnit r).live := fun _ _ => ⟨awake_mk rfl, by unfold memoriesOk; exact ⟨Memory.wf_nil, Memory.wf_nil, Memory.wf_nil⟩⟩
/-- A far address one byte too high faults with FAR_BOUNDS. -/
theorem w_Units_far : farOk (wTile {}).live tc 3 (descW 1 3 3 (2 ^ 32 - 31) []) = false ∧
    (ctxAt (after (.dmaLd ⟨tc, 9⟩) (wUnit (.dmaLd ⟨tc, 9⟩, cmdW 0x20 0 1 1 0 [(30, 1)] [], descW 1 3 3 (2 ^ 32 - 31) []))).live 11).faultReason = 5 ∧
    (ctxAt (after (.dmaSt ⟨tc, 9⟩) (wUnit (.dmaSt ⟨tc, 9⟩, cmdW 0x21 1 0 1 0 [(30, 1)] [], descW 2 3 3 (2 ^ 32 - 31) []))).live 11).faultReason = 5 := by
  decide +kernel
theorem w_Vector : 63 < 64 * vCount (cmdW 0x12 0 0 1 0 [] [(46, 3)]) ∧ vSub (cmdW 0x14 0 0 1 0 [] []) = 0 ∧ tFmt (vldW 3) = 3 ∧
    63 < 64 * tCount (vldW 3) ∧ (194 : Nat) ≠ vD (cmdW 0x14 0 0 1 0 [] [(46, 3)]) * 64 ∧
    (191 < vD (cmdW 0x12 0 0 1 0 [] [(46, 3)]) * 64 ∨ vD (cmdW 0x12 0 0 1 0 [] [(46, 3)]) * 64 + 64 * vCount (cmdW 0x12 0 0 1 0 [] [(46, 3)]) ≤ 191) := by
  decide +kernel
/-- VOP SUBOP 0 adds lane by lane: 1 + 2 = 3 in lane 63 of v3 from v1 and v2 (04 Table 4.10). -/
theorem test_vop : lane (ctxAt (after (.vop tc) (wTile { v := [(127, 0x3F800000), (191, 0x40000000)], sb := [{
       cmd := cmdW 0x12 0 0 1 0 [] [(46, 3), (41, 1), (36, 2)], serial := 1 }] })).live 11) 3 63 = 0x40400000 := by decide +kernel
theorem w_Tensor : mmN (cmdW 0x01 2 0 1 0 [] [(42, 8), (35, 64)]) ≤ 64 ∧ 7 < mmM (cmdW 0x01 2 0 1 0 [] [(42, 8), (35, 64)]) ∧
    63 < mmN (cmdW 0x01 2 0 1 0 [] [(42, 8), (35, 64)]) ∧ tN (cmdW 0x03 1 0 1 0 [] [(41, 256), (34, 64)]) ≤ 64 ∧
    255 < tM (cmdW 0x03 1 0 1 0 [] [(41, 256), (34, 64)]) ∧ mmAcc (cmdW 0x01 2 0 1 0 [] [(51, 1)]) = true ∧
    tClear (cmdW 0x02 0 1 1 0 [] [(50, 1)]) = true := by decide +kernel
/-- FP32 MATMUL, K = 8: row 0 of A, four ones and four twos, times a column of ones is 12 (04 R96). -/
def mmMem : List Host.Cell := Mem.write (Mem.write [] (padAddr 5 0) ((List.replicate 4 [0, 0, 0x80, 0x3F] ++ List.replicate 4 [0, 0, 0, 0x40]).flatten))
  (padAddr 5 1024) ((List.replicate 8 [0, 0, 0x80, 0x3F]).flatten)
theorem test_matmul : (pack32 false (bankGet (after (.matmul tc) (wTile { sb := [{ cmd := (nth (.nop tc, 0, 0) unitCmds 1).2.1, serial := 1 }] }
    (fun t => { t with scratch := mmMem }))).live (bankKey 5 1 0 0))).1 = 0x41400000 := by decide +kernel
/-- A window command: RIGHTS 3, DIR 1, words 40 to 49, slot 7; the partition owns slot 7. -/
def wopenW : BitVec 256 := cmdW 0x30 0 1 1 0 [(40, 10)] [(53, 7), (51, 1), (49, 3)]
def winSet : Store Bytes := setOf [(0x3000, 0, 2, fieldsOf 64 [(5, 1), (128 + 5, 1), (270, 1000), (284, 4), (302, 1), (319, 1024)])]
def wWin (cmd : BitVec 256) (begun : Bool) (wins : Store Window) (mem : List Host.Cell := []) : State :=
  mk { withSet winSet with tiles := { scratch := mem, windows := wins
                                      ctxs := [(11, { part := some 2, running := true, sb := [{ cmd := cmd, serial := 1, begun := begun }] })] } }
theorem w_Windows : awake (wWin wopenW false []) ∧ ordered (wWin wopenW false []).live ∧
    nextOp (wWin wopenW false []).live (TileCtx.key tc) 0x30 = some { cmd := wopenW, serial := 1 } ∧
    wopenBad (wWin wopenW false []).live tc.tile (TileCtx.key tc) wopenW = false ∧
    wopenBad (wWin wopenW false [(40, { isOpen := true, base := 49, len := 1 })]).live tc.tile (TileCtx.key tc) wopenW = true ∧
    wopenBad (wWin wopenW false [(40, { isOpen := true, base := 50, len := 1 })]).live tc.tile (TileCtx.key tc) wopenW = false :=
  ⟨awake_mk rfl, ordered_of (by decide +kernel), by decide +kernel⟩
def wcloseW : BitVec 256 := cmdW 0x31 0 0 1 0 [] [(53, 7)]
theorem w_Windows_close : awake (wWin wcloseW false [(47, { isOpen := true, ctx := 11 })]) ∧
    ordered (wWin wcloseW false [(47, { isOpen := true, ctx := 11 })]).live ∧
    nextOp (wWin wcloseW false [(47, { isOpen := true, ctx := 11 })]).live (TileCtx.key tc) 0x31 = some { cmd := wcloseW, serial := 1 } ∧
    winAt (wWin wcloseW false [(47, { isOpen := true, ctx := 11 })]).live (winKey 5 (wSlot wcloseW)) = { isOpen := true, ctx := 11 } :=
  ⟨awake_mk rfl, ordered_of (by decide +kernel), by decide +kernel⟩
/-- RPUT and RGET of three words, from word 20, east, at OFFSET 7 of slot 7. -/
def rputW (op : Nat) : BitVec 256 := if op = 0x32 then cmdW 0x32 1 0 1 0 [(20, 3)] [(53, 7), (51, 1), (35, 7)] else cmdW 0x33 0 1 1 0 [(20, 3)] [(53, 7), (51, 1), (35, 7)]
theorem w_Windows_leave : awake (wWin (rputW 0x32) false []) ∧ ordered (wWin (rputW 0x32) false []).live ∧
    nextOp (wWin (rputW 0x32) false []).live (TileCtx.key tc) 0x32 = some { cmd := rputW 0x32, serial := 1 } ∧
    nextOp (wWin (rputW 0x33) false []).live (TileCtx.key tc) 0x33 = some { cmd := rputW 0x33, serial := 1 } ∧
    (neighbour tc.tile (wDir (rputW 0x32))).isSome = true := ⟨awake_mk rfl, ordered_of (by decide +kernel), by decide +kernel⟩
/-- The owner is tile 6; its window of ten words faces west. -/
def ownerWin (len rights : Nat) (closing : Bool) : Window := { isOpen := true, closing := closing, ctx := 12, base := 40, len := len, rights := rights, dir := 3 }
theorem w_Windows_arrive : awake (wWin (rputW 0x32) true [(55, ownerWin 10 2 false)] mmMem) ∧
    ordered (wWin (rputW 0x32) true [(55, ownerWin 10 2 false)] mmMem).live ∧
    (ctxAt (wWin (rputW 0x32) true [(55, ownerWin 10 2 false)] mmMem).live (TileCtx.key tc)).sb.find?
      (fun e => unitOf (cOp e.cmd) == 4 && e.begun && !e.done) = some { cmd := rputW 0x32, serial := 1, begun := true } ∧
    neighbour tc.tile (wDir (rputW 0x32)) = some 6 ∧
    winAt (wWin (rputW 0x32) true [(55, ownerWin 10 2 false)] mmMem).live (winKey 6 (wSlot (rputW 0x32))) = ownerWin 10 2 false ∧
    judgeTransfer (ownerWin 10 2 false) { cmd := rputW 0x32 } = 0 ∧ judgeTransfer (ownerWin 10 1 false) { cmd := rputW 0x33 } = 0 ∧
    judgeTransfer (ownerWin 9 2 false) { cmd := rputW 0x32 } = 3 ∧ judgeTransfer (ownerWin 10 1 false) { cmd := rputW 0x32 } = 2 ∧
    judgeTransfer (ownerWin 10 3 true) { cmd := rputW 0x32 } = 1 := ⟨awake_mk rfl, ordered_of (by decide +kernel), by decide +kernel⟩
theorem w_Windows_memory : memoriesOk (wWin (rputW 0x32) true [(55, ownerWin 10 2 false)] mmMem).live := by unfold memoriesOk; decide +kernel
theorem w_Windows_retire : awake (wWin wopenW true [(47, { isOpen := true, closing := true, ctx := 11, serial := 1 })]) ∧
    ordered (wWin wopenW true [(47, { isOpen := true, closing := true, ctx := 11, serial := 1 })]).live ∧
    winAt (wWin wopenW true [(47, { isOpen := true, closing := true, ctx := 11, serial := 1 })]).live (winKey (5 : Fin 128) (7 : Fin 8)) =
      { isOpen := true, closing := true, ctx := 11, serial := 1 } := ⟨awake_mk rfl, ordered_of (by decide +kernel), by decide +kernel⟩
def doneE : SbEntry := { cmd := cmdW 0x00 0 0 1 9 [] [], begun := true, done := true, flags := 0x12, serial := 4 }
theorem w_Retire : awake (wTile { sb := [{ serial := 3 }, doneE], tagSerial := [(9, 4)] }) ∧
    ordered (wTile { sb := [{ serial := 3 }, doneE], tagSerial := [(9, 4)] }).live ∧
    (ctxAt (wTile { sb := [{ serial := 3 }, doneE], tagSerial := [(9, 4)] }).live (TileCtx.key tc)).sb.find? (fun e => e.done) = some doneE ∧
    sGet 0 (ctxAt (wTile { sb := [{ serial := 3 }, doneE], tagSerial := [(9, 5)] }).live (TileCtx.key tc)).tagSerial (cTag doneE.cmd) ≠ doneE.serial :=
  ⟨awake_mk rfl, ordered_of (by decide +kernel), by decide +kernel⟩
theorem test_retire : sGet 0 (ctxAt (after (.tileCommandRetire tc) (wTile { sb := [doneE], tagSerial := [(9, 4)] })).live 11).status 9 = 0x09000012 := by
  decide +kernel
/-- Partition 1 beside partition 2 on tile 5, with a slice of 256 cycles. -/
def sliceSet : Store Bytes := setOf [(0x3000, 0, 1, fieldsOf 64 [(5, 1), (303, 1)]), (0x3000, 0, 2, fieldsOf 64 [(5, 1), (128 + 5, 1), (303, 1)])]
def wShared (slice : Nat) (st : PartMode := .idle) (t : Nat := 0) : State :=
  mk (atTime t { withSet sliceSet with tiles := { ctxs := [(10, { part := some 1, sb := (if slice < 2 then [{ serial := 1 }] else []) ++ [{ serial := 2, begun := true, done := true }] }), (11, { part := some 2 })]
                                                  slice := [(5, slice)] }
                                       serving := { (withSet []).serving with parts := [(1, { mode := st })] } })
theorem w_Slices : awake (wShared 0) ∧ ordered (wShared 0).live ∧ tileShared (wShared 0).live (5 : Fin 128) = true ∧
    sGet 0 (wShared 0).live.tiles.slice (5 : Fin 128) = 0 ∧ inRun (wShared 0).live (ctxKey 5 0) = false ∧
    sliceOver (wShared 0 .stepping 365).live (5 : Fin 128) (sGet 0 (wShared 0 .stepping 365).live.tiles.slice (5 : Fin 128)) = false ∧
    pSlice (ctxRec (wShared 0 .stepping 366).live (ctxKey 5 0)) - (ctxAt (wShared 0 .stepping 366).live (ctxKey 5 0)).overrun ≤
      cyclesOfNs (nowNs (wShared 0 .stepping 366).live - sGet 0 (wShared 0 .stepping 366).live.tiles.sliceAt (5 : Fin 128)) ∧
    sGet 0 (wShared 2).live.tiles.slice (5 : Fin 128) = 2 + 0 ∧ sGet 0 (wShared 3).live.tiles.slice (5 : Fin 128) = 2 + 1 ∧
    unitsDone (ctxAt (wShared 2).live (ctxKey 5 0)) = true ∧ storeSorted (wShared 0).live.tiles.sliceAt ∧
    (ctxAt (after (.sliceEnd 5) (wShared 0)).live 10).parked.length = 1 ∧
    (after (.sliceStart 5 1) (wShared 2)).live.tiles.slice = [(5, 1)] := ⟨awake_mk rfl, ordered_of (by decide +kernel), by decide +kernel⟩

/-! ## Witnesses: Basalt and templates -/

/-- A descriptor of one instance of template 9: opcode, N, M, K, CAP, q's and mode as fields, then the offsets of its items; a place
from 8,192 stands in the result block (05 Table 5.2). Instances from word 0, results from word 512, TAU 1. -/
def dscW (op n m k cap : Nat) (fs offs : List (Nat × Nat)) : BitVec 512 :=
  BitVec.ofNat 512 (op * 2 ^ 504 + 7 * 2 ^ 496 + 9 * 2 ^ 480 + 2 ^ 471 + n * 2 ^ 464 + m * 2 ^ 456 + k * 2 ^ 449 + cap * 2 ^ 441 +
    512 * 2 ^ 364 + (if op = 6 then 0 else 2 ^ 160) + leNat (fieldsOf 64 fs) +
    (offs.map (fun o => o.2 * 2 ^ (337 - 14 * o.1))).foldl (· + ·) 0)
/-- CHOL of one element, q 16 throughout. -/
def cholW : BitVec 512 := dscW 1 1 0 0 0 [(436, 16), (426, 16), (416, 16)] [(1, 8192), (7, 8193)]
/-- The nine opcodes, each on one unknown (05 Tables 5.3 and 5.4). -/
def basaltCmds : List (Instr × BitVec 512) :=
  [(.chol 5, cholW), (.ldl 5, dscW 2 1 0 0 0 [] [(1, 8192), (7, 8193)]), (.qr 5, dscW 3 1 1 0 0 [] [(1, 8192), (7, 8193)]),
   (.lu 5, dscW 4 1 0 0 0 [] [(1, 8192), (2, 8193), (7, 8194)]), (.tri 5, dscW 5 1 0 1 0 [] [(2, 1), (3, 8192), (7, 8193)]),
   (.mul 5, dscW 6 1 1 1 0 [] [(1, 1), (2, 8192), (7, 8193)]),
   (.refine 5, dscW 7 1 0 1 1 [] [(1, 1), (3, 2), (4, 8192), (7, 8193)]),
   (.kfup 5, dscW 8 1 0 0 0 [(412, 1)] [(1, 8192), (7, 8194)]),
   (.qpbox 5, dscW 9 1 0 0 1 [] [(1, 1), (2, 2), (3, 3), (4, 8192), (6, 8193), (7, 8196)])]
/-- Template 9 on engine 5 of die 0: one instance, a chain of one CHOL, DEADLINE and ASM_LATEST 0, one copied word, two buffers. -/
def tmplRec : Bytes := fieldsOf 64 [(430, 5), (421, 1), (417, 1), (300, 600), (274, 0), (261, 1), (260, 1), (247, 1024), (234, 1536)]
def chainSet : Store Bytes := setOf [(0x2300, 0, 0, fieldsOf 32 [(0, 1)]), (0x4100, 0, 9, tmplRec), (0x4102, 0, 9, leBytes 64 cholW.toNat)]
def wBe (b : Be) (rels : List Release) (mem : List Host.Cell) : State :=
  mk (atTime 1000 { withSet chainSet with solver := { mem := mem, engines := [(5, b)], tmpls := [(9, { releases := rels })] } })
def headDesc (d : BitVec 512) : BeDesc := { desc := d, template := 9, release := 3, inst := region d false, res := region d true }
/-- The matrix [4.0] in Q16 at word 0 of engine 5. -/
def fourMem : List Host.Cell := Mem.writeNat [] (elAddr 5 0) 4 0x40000
def wHead (d : BitVec 512) : State := wBe { queue := [headDesc d] } [{ num := 3, started := true, pre := [(0, 2 ^ 37)] }] fourMem
theorem basaltCmds_ok : basaltCmds.all (fun r => match basaltRow r.1 with
    | some (e, op, _) => orderedB (wHead r.2).live && headReady (wHead r.2).live e == some (headDesc r.2) && bOp r.2 == op
    | none => false) = true := by decide +kernel
theorem w_Basalt : ∀ r ∈ basaltCmds, awake (wHead r.2) := fun _ _ => awake_mk rfl
theorem w_Basalt_memory : memoriesOk (wHead cholW).live ∧ bBatch cholW = 0 + 1 := by unfold memoriesOk; decide +kernel
/-- The square root of 4.0 is 2.0; the status word stands in the next word, with the assembler's CLAMPED (05 R122, R139). -/
theorem test_chol : elGet (after (.chol 5) (wHead cholW)).live 5 4096 = 0x20000 ∧
    Mem.readNat (after (.chol 5) (wHead cholW)).live.solver.mem (elAddr 5 4104) 32 = 2 ^ 37 := by decide +kernel
/-- 40 + 18 + 1 cycles at most (05 Table 5.11): at the bound and one beyond. -/
def wRetire (at_ : Nat) : State := wBe { queue := [headDesc cholW], run := some {} } [{ num := 3, started := true, at_ := at_ * 65536 }] []
theorem w_Retires : awake (wRetire 1001) ∧ ordered (wRetire 1001).live ∧ (be (wRetire 1001).live (5 : Fin 32)).queue = [headDesc cholW] ∧
    (releaseOf (wRetire 1001).live 9 3).map (deadlineMet (wRetire 1001).live 9) = some false ∧
    (releaseOf (wRetire 1000).live 9 3).map (deadlineMet (wRetire 1000).live 9) = some true ∧
    (releaseOf (wRetire 1000).live 9 3).map inFlight = some true ∧ (be (wRetire 1001).live (5 : Fin 32)).waiting = [] ∧
    (∀ x ∈ (wRetire 1001).live.solver.tmpls, x.2.imageDue = []) ∧
    59 ≤ cycBound cholW (slowest []) ∧ cycBound cholW (slowest []) < 60 := ⟨awake_mk rfl, ordered_of (by decide +kernel), by decide +kernel⟩
/-- N = 97 is out of range, and an item beyond word 8,192 (05 R121). -/
theorem w_Retires_bad : awake (wBe { queue := [headDesc (dscW 1 97 0 0 0 [] [])] } [{ num := 3, started := true }] []) ∧
    ordered (wBe { queue := [headDesc (dscW 1 97 0 0 0 [] [])] } [{ num := 3, started := true }] []).live ∧
    (be (wBe { queue := [headDesc (dscW 1 97 0 0 0 [] [])] } [{ num := 3, started := true }] []).live (5 : Fin 32)).run = none ∧
    bDescOk (dscW 1 97 0 0 0 [] []) = false ∧ bDescOk cholW = true ∧
    bDescOk (dscW 1 1 0 0 0 [(436, 16), (426, 16), (416, 16), (390, 8191)] [(1, 8192), (7, 8193)]) = true ∧
    bDescOk (dscW 1 1 0 0 0 [(436, 16), (426, 16), (416, 16), (364, 7679)] [(1, 8192), (7, 8193)]) = false :=
  ⟨awake_mk rfl, ordered_of (by decide +kernel), by decide +kernel⟩
theorem w_Deadline : awake (wBe {} [{ num := 3, dead := true }, { num := 4 }] []) ∧ ordered (wBe {} [{ num := 3, dead := true }, { num := 4 }] []).live ∧
    (tmpl (wBe {} [{ num := 3, dead := true }, { num := 4 }] []).live (9 : Fin 4096)).releases.find? (fun r => !r.dead) = some { num := 4 } ∧
    figureInstant (wBe {} [] []).live (9 : Fin 4096) { num := 4, at_ := 1000 * 65536 } (tDeadline (tRec (wBe {} [] []).live.cfg.active (9 : Fin 4096))) ≤ 1000 ∧
    0 + (tDeadline (tRec (wBe {} [] []).live.cfg.active (9 : Fin 4096)) : Int) ≤
      travelAt (wBe {} [] []).live (tTracker (tRec (wBe {} [] []).live.cfg.active (9 : Fin 4096))) (now16 (wBe {} [] []).live 65535) ∧
    travelAt (wBe {} [] []).live (tTracker (tRec (wBe {} [] []).live.cfg.active (9 : Fin 4096))) (now16 (wBe {} [] []).live 65535) < 1 ∧
    nowNs (wBe {} [] []).live = 1000 ∧ figureInstant (wBe {} [] []).live (9 : Fin 4096) { num := 4, at_ := 1001 * 65536 } 0 = 1001 :=
  ⟨awake_mk rfl, ordered_of (by decide +kernel), by decide +kernel⟩
/-- Done before its deadline instant: published later; done at it: missed (05 R142). -/
theorem test_deadline :
    (tmpl (after (.deadlineReached 9) (wBe {} [{ num := 4, doneAt := some 999 }] [])).live 9).releases = [{ num := 4, doneAt := some 999, dead := true }] ∧
    (tmpl (after (.basaltRetire 5 59) (wRetire 1001)).live 9).releases.map (fun r => (r.doneAt, r.fail)) = [(some 1000, none)] ∧
    (tmpl (after (.basaltRetire 5 59) (wRetire 1000)).live 9).releases.map (fun r => (r.doneAt, r.fail)) = [(some 1000, some 1)] := by decide +kernel
theorem w_AsmLatest : awake (wBe {} [{ num := 4 }] []) ∧ ordered (wBe {} [{ num := 4 }] []).live ∧
    nextAssembly (wBe {} [{ num := 4 }] []).live (9 : Fin 4096) = some { num := 4 } ∧
    figureInstant (wBe {} [{ num := 4 }] []).live (9 : Fin 4096) { num := 4 } (tAsmLatest (tRec (wBe {} [] []).live.cfg.active (9 : Fin 4096))) ≤
      nowNs (wBe {} [{ num := 4 }] []).live := ⟨awake_mk rfl, ordered_of (by decide +kernel), by decide +kernel⟩
theorem w_Struck : awake (wBe { queue := [headDesc cholW], run := some {} } [{ num := 3 }] []) ∧
    ordered (wBe { queue := [headDesc cholW], run := some {} } [{ num := 3 }] []).live ∧
    (be (wBe { queue := [headDesc cholW], run := some {} } [{ num := 3 }] []).live (5 : Fin 32)).run.isSome = true :=
  ⟨awake_mk rfl, ordered_of (by decide +kernel), by decide +kernel⟩
theorem w_Assembly : awake (wBe {} [{ num := 4 }] fourMem) ∧ ordered (wBe {} [{ num := 4 }] fourMem).live ∧
    nextAssembly (wBe {} [{ num := 4 }] fourMem).live (9 : Fin 4096) = some { num := 4 } ∧
    tmplEngine (wBe {} [{ num := 4 }] fourMem).live (9 : Fin 4096) = some 5 ∧ asmReady (wBe {} [{ num := 4 }] fourMem).live (9 : Fin 4096) = true ∧
    asmFirst (wBe {} [{ num := 4 }] fourMem).live (9 : Fin 4096) 5 = true := ⟨awake_mk rfl, ordered_of (by decide +kernel), by decide +kernel⟩

/-! ## Witnesses: Halo -/

/-- Loop 1 on trunk 0, cell 4, output 2: levels 0 and 1, ALPHA 1, reference 0, open level 0; further fields as given. -/
def loopRecH (more : List (Nat × Nat)) : Bytes :=
  fieldsOf 112 ([(434, one32), (370, one32), (338, one32), (306, one32), (274, one32), (178, one32), (170, 1), (118, one32), (102, 6461),
    (82, 1000), (52, 1), (48, 2), (40, 4)] ++ more)
def haloSet (more : List (Nat × Nat)) (objs : List (Nat × Nat × Nat × Bytes)) : Store Bytes :=
  setOf ([(0x5010, 0, 1, loopRecH more), (0x6000, 0, 0, fieldsOf 32 []), (0x6010, 0, 4, fieldsOf 64 [(458, 1), (457, 1)])] ++ objs)
/-- Halo engine 3 with one sample of loop 1, its cell CONFIGURED with one slot, outputs enabled. -/
def wHalo (more : List (Nat × Nat)) (objs : List (Nat × Nat × Nat × Bytes)) (q : QSample) (x : LoopRt) (f : World → World := id) : State :=
  mk (f { withSet (haloSet more objs) with
    dev := { (withSet []).dev with outLive := true }
    cfg := { (withSet (haloSet more objs)).cfg with mapping := { loops := [(1, 3)], injs := [(2, 3)], caps := [(5, 3)] } }
    halo := { engines := [(3, { queue := [q] })], loops := [(1, { x with engine := 3, h := 0x3F800000 })] }
    trunks := { (withSet []).trunks with cells := [(4, { mode := .configured })] } })
def qAt (y : W32) (t1 : Nat) : QSample := { loop := 1, y := y, t1 := t1, ta := t1 + 10 }
def closedLoop : LoopRt := { flags := 1, lastExec := 500, t0 := 400 }
/-- −2.0, −1.0 and the like as G32. -/
def mTwo : W32 := 0xC0000000
def takesB (s : State) (e : Fin 16) (q : QSample) : Bool :=
  (he s.live e).queue == [q] && loopRuns s.live q.loop e && (injsOf s.live q.loop 0 ++ injsOf s.live q.loop 1).all (fun i => decide ((inj s.live i).armed = none))
theorem takes_of {s : State} {e : Fin 16} {q : QSample} (h : takesB s e q = true) : loopTakes s e q [] := by
  simp only [takesB, Bool.and_eq_true, beq_iff_eq, List.all_eq_true, decide_eq_true_eq] at h
  exact ⟨h.1.1, h.1.2, h.2⟩

theorem w_Loops_dropped : awake (wHalo [] [] { qAt 0 9 with loop := 2 } {}) ∧ ordered (wHalo [] [] { qAt 0 9 with loop := 2 } {}).live ∧
    (he (wHalo [] [] { qAt 0 9 with loop := 2 } {}).live (3 : Fin 16)).queue = [{ qAt 0 9 with loop := 2 }] ∧
    loopRuns (wHalo [] [] { qAt 0 9 with loop := 2 } {}).live 2 (3 : Fin 16) = false := ⟨awake_mk rfl, ordered_of (by decide +kernel), by decide +kernel⟩
/-- A finite sample, and one that is no number. -/
theorem w_Loops_take : awake (wHalo [] [] (qAt mTwo 600) closedLoop) ∧ ordered (wHalo [] [] (qAt mTwo 600) closedLoop).live ∧
    loopTakes (wHalo [] [] (qAt mTwo 600) closedLoop) 3 (qAt mTwo 600) [] ∧ loopTakes (wHalo [] [] (qAt 0x7FC00000 600) closedLoop) 3 (qAt 0x7FC00000 600) [] ∧
    isFin32 (loopErr (wHalo [] [] (qAt mTwo 600) closedLoop).live (qAt mTwo 600)) = true ∧
    isFin32 (loopErr (wHalo [] [] (qAt 0x7FC00000 600) closedLoop).live (qAt 0x7FC00000 600)) = false :=
  ⟨awake_mk rfl, ordered_of (by decide +kernel), takes_of (by decide +kernel), takes_of (by decide +kernel), by decide +kernel⟩
/-- The error 2.0 stands above the band's edge 1.0, −2.0 below −1.0; the last command has executed at the sample instant itself; level 0
of 0 to 1 has a level above and none below; the one credit is free, or taken by an outstanding command. -/
theorem w_Loops_step : hasFlag lfClosed closedLoop.flags = true ∧ hasFlag lfPending closedLoop.flags = false ∧
    (loopNow (wHalo [] [] (qAt mTwo 500) closedLoop).live 1).lastExec ≤ (qAt mTwo 500).t1 ∧
    lt32 (hAdd (bandCentre (wHalo [] [] (qAt mTwo 500) closedLoop).live (qAt mTwo 500)) (loop (wHalo [] [] (qAt mTwo 500) closedLoop).live 1).h)
      (loopErr (wHalo [] [] (qAt mTwo 500) closedLoop).live (qAt mTwo 500)) = true ∧
    lt32 (loopErr (wHalo [] [] (qAt 0x40000000 500) closedLoop).live (qAt 0x40000000 500))
      (hSub (bandCentre (wHalo [] [] (qAt 0x40000000 500) closedLoop).live (qAt 0x40000000 500)) (loop (wHalo [] [] (qAt 0x40000000 500) closedLoop).live 1).h) = true ∧
    lpLevels (loopRecH []) = 1 ∧ lpPol (loopRecH []) = false ∧ lpPol (loopRecH [(59, 1)]) = true ∧
    mayHand (wHalo [] [] (qAt mTwo 500) closedLoop).live 0 4 (3 : Fin 16) = true ∧
    mayHand (wHalo [] [] (qAt mTwo 500) closedLoop (fun w => { w with trunks := { w.trunks with
      cells := [(4, { mode := .configured, outstanding := [{ engine := 3, loop := 1 }] })] } })).live 0 4 (3 : Fin 16) = false := by decide +kernel
/-- One level up, at the arrival plus the lead (07 R178, R182); at level 1 AT_END_LEVEL; without a credit CREDIT_WAIT. -/
theorem test_step : (loop (after (.haloLoopUpdate 3) (wHalo [] [] (qAt mTwo 500) closedLoop)).live 1).level = 1 ∧
    (loop (after (.haloLoopUpdate 3) (wHalo [] [] (qAt mTwo 500) closedLoop)).live 1).lastExec = 500 + 10 + 6461 ∧
    (loop (after (.haloLoopUpdate 3) (wHalo [] [] (qAt mTwo 500) { closedLoop with level := 1 })).live 1).nEndLevel = 1 ∧
    (loop (after (.haloLoopUpdate 3) (wHalo [(59, 1)] [] (qAt mTwo 500) closedLoop)).live 1).nEndLevel = 1 := by decide +kernel
/-- Before LAST_EXEC; and an error of exactly the band's edge without a usable slope: t0 + 4·T_S is the last instant of use. -/
theorem w_Loops_still : (qAt mTwo 499).t1 < (loopNow (wHalo [] [] (qAt mTwo 499) closedLoop).live 1).lastExec ∧
    lt32 (hAdd (bandCentre (wHalo [] [] (qAt 0xBF800000 4401) closedLoop).live (qAt 0xBF800000 4401)) 0x3F800000)
      (loopErr (wHalo [] [] (qAt 0xBF800000 4401) closedLoop).live (qAt 0xBF800000 4401)) = false ∧
    lt32 (loopErr (wHalo [] [] (qAt 0xBF800000 4401) closedLoop).live (qAt 0xBF800000 4401))
      (hSub (bandCentre (wHalo [] [] (qAt 0xBF800000 4401) closedLoop).live (qAt 0xBF800000 4401)) 0x3F800000) = false ∧
    slopeUsable (wHalo [] [] (qAt 0xBF800000 4401) closedLoop).live (qAt 0xBF800000 4401) = false ∧
    slopeUsable (wHalo [] [] (qAt 0xBF800000 4400) closedLoop).live (qAt 0xBF800000 4400) = true := by decide +kernel
theorem w_Loops_close : loopTakes (wHalo [(60, 1), (242, one32)] [] (qAt mTwo 500) { closedLoop with flags := 3 }) 3 (qAt mTwo 500) [] ∧
    hasFlag lfClosed (3 : BitVec 16) = true ∧ hasFlag lfPending (3 : BitVec 16) = true ∧
    (loop (after (.haloLoopUpdate 3) (wHalo [(60, 1), (242, one32)] [] (qAt mTwo 500) { closedLoop with flags := 3 })).live 1).integ = 0xBF800000 :=
  ⟨takes_of (by decide +kernel), by decide +kernel⟩
theorem w_Loops_open : loopTakes (wHalo [(55, 15)] [] (qAt mTwo 500) {}) 3 (qAt mTwo 500) [] ∧ hasFlag lfClosed (0 : BitVec 16) = false ∧
    lpOpenLevel (loopRecH [(55, 15)]) = 15 ∧ hasObj (haloSet [] []) 0x5010 0 (1 : Fin 16384) = true ∧
    (loop (after (.haloLoopUpdate 3) (wHalo [(55, 1)] [] (qAt mTwo 500) { first := true })).live 1).level = 1 :=
  ⟨takes_of (by decide +kernel), by decide +kernel⟩

/-- Generator 6: TRACK, PERIOD 10 µs, J_MAX, A_MAX and V_MAX 1.0; a target within what one period reaches, and one far off. -/
def wGen (target : Nat) (x : GenRt) : State :=
  mk (atTime 10000 { withSet (setOf [(0x5020, 0, 6, fieldsOf 48 [(146, one32), (114, one32), (82, one32), (50, target), (2, 10), (0, 1)])]) with
    halo := { gens := [(6, x)] } })
theorem w_Generator : awake (wGen one32 {}) ∧ ordered (wGen one32 {}).live ∧ (wGen one32 {}).live.cfg.present = true ∧
    hasObj (wGen one32 {}).live.cfg.active 0x5020 0 (6 : Fin 4096) = true ∧ gnMode (genRec (wGen one32 {}).live (6 : Fin 4096)) = 1 ∧
    dieGood (die (wGen one32 {}).live (0 / 4)) = true ∧ (0 + gnPeriod (genRec (wGen one32 {}).live (6 : Fin 4096)) * 1000 : Int) = lc3Ns (wGen one32 {}).live ∧
    genThere (genRec (wGen one32 {}).live (6 : Fin 4096)) {} = false ∧ genThere (genRec (wGen one32 {}).live (6 : Fin 4096)) { p := 0x3F800000 } = true :=
  ⟨awake_mk rfl, ordered_of (by decide +kernel), by decide +kernel⟩
def injRecH : Bytes := fieldsOf 64 [(128, 7), (96, one32), (4, 1), (0, 1)]
def wInj (x : InjRt) (n t1 : Nat) : State :=
  wHalo [] [(0x5030, 0, 2, injRecH)] (qAt 0 t1) {} (fun w => atTime n { w with halo := { w.halo with injs := [(2, x)] } })
theorem w_Injector : awake (wInj { ts := some 1000 } 8000 9) ∧ ordered (wInj { ts := some 1000 } 8000 9).live ∧
    (inj (wInj { ts := some 1000 } 8000 9).live (2 : Fin 64)).ts = some 1000 ∧ ijDuration (injRec (wInj { ts := some 1000 } 8000 9).live (2 : Fin 64)) = 7 ∧
    (1000 + 7 * 1000 : Int) = lc3Ns (wInj { ts := some 1000 } 8000 9).live ∧
    (inj (after (.injectorEnd 2) (wInj { ts := some 1000 } 7999 9)).live 2).ts = some 1000 := ⟨awake_mk rfl, ordered_of (by decide +kernel), by decide +kernel⟩
/-- A start at the update's own instant, and one a nanosecond later. -/
theorem w_Injector_start : awake (wInj { armed := some 600 } 0 600) ∧ ordered (wInj { armed := some 600 } 0 600).live ∧
    (he (wInj { armed := some 600 } 0 600).live (3 : Fin 16)).queue = [qAt 0 600] ∧ loopRuns (wInj { armed := some 600 } 0 600).live 1 (3 : Fin 16) = true ∧
    2 ∈ injsOf (wInj { armed := some 600 } 0 600).live 1 0 ++ injsOf (wInj { armed := some 600 } 0 600).live 1 1 ∧
    (inj (wInj { armed := some 601 } 0 600).live 2).armed = some 601 := ⟨awake_mk rfl, ordered_of (by decide +kernel), by decide +kernel⟩
def wCap (idx : Nat) : State := wHalo [(55, 15)] [(0x5040, 0, 5, fieldsOf 64 [(65, 16), (25, 4), (3, 1)])] (qAt 0 600) {}
  (fun w => { w with halo := { w.halo with caps := [(5, { state := .armed, idx := idx })] } })
/-- Sixteen entries: from entry 14 to 15, and from 15 to 0. -/
theorem w_Capture : awake (wCap 15) ∧ ordered (wCap 15).live ∧ loopTakes (wCap 15) 3 (qAt 0 600) [] ∧ storeSorted (wCap 15).live.cfg.active ∧
    hasObj (wCap 15).live.cfg.active 0x5040 0 5 = true ∧ cpLoop (capRec (wCap 15).live 5) = (qAt 0 600).loop ∧ (cap (wCap 15).live 5).state = .armed ∧
    (cap (wCap 15).live 5).pending = none ∧ (cap (wCap 15).live 5).decim = 0 ∧ cpEntries (capRec (wCap 15).live 5) = 16 ∧
    (cap (after (.haloLoopUpdate 3) (wCap 15)).live 5).idx = 0 ∧ (cap (after (.haloLoopUpdate 3) (wCap 14)).live 5).idx = 15 ∧
    (cap (after (.haloLoopUpdate 3) (wCap 14)).live 5).decim = 3 := ⟨awake_mk rfl, ordered_of (by decide +kernel), takes_of (by decide +kernel), by decide +kernel⟩

/-! ## Witnesses: partitions, tokens, pages -/

/-- Partition 2, best effort or RESERVED, on tile 5: share of words 0 to 999, four of code, batch 4, STEP_LIMIT 700 cycles, FAULT_LIMIT 2,
model 4; sequence 9 of model 4 with features MIN of streams 20 and 21, GRACE 10 µs; its pool: spill, floor 2, two frames of T1, one of T2. -/
def servSet (mode : Nat) : Store Bytes := setOf [
  (0x3000, 0, 2, fieldsOf 72 [(508, mode), (492, 2), (483, 4), (412, 4), (408, 1), (340, 700), (5, 1), (128 + 5, 1), (270, 1000), (284, 4), (319, 1024), (545, 8), (561, 64)]),
  (0x3100, 0, 4, fieldsOf 32 [(66, 1), (71, 1), (54, 1)]), (0x3800, 0, 9, fieldsOf 16 [(120, 4), (115, 2), (105, 3), (34, 0x3FF), (44, 10)]),
  (0x3810, 0, 3, fieldsOf 16 [(96, one32), (46, 20), (43, 4)] ++ fieldsOf 16 [(96, one32), (46, 21), (43, 4)]),
  (0x3820, 0, 2, fieldsOf 32 [(107, 1), (144, 2), (168, 1), (216, 2)])]
def wServ (mode : Nat) (q : Part) (x : Seq) (n : Nat) (ctx : Ctx := {}) : State :=
  mk (atTime n { withSet (servSet mode) with
    serving := { parts := [(2, { q with model := 4 })], seqs := [(9, x)] }, tiles := { ctxs := [(11, { ctx with part := some 2 })] } })
theorem w_StepForm : awake (wServ 1 { mode := .idle } { mode := .due } 1000) ∧ ordered (wServ 1 { mode := .idle } { mode := .due } 1000).live ∧
    pInSet (wServ 1 { mode := .idle } { mode := .due } 1000).live.cfg.active (2 : Fin 32) = true ∧
    (part (wServ 1 { mode := .idle } { mode := .due } 1000).live (2 : Fin 32)).mode = .idle ∧
    (part (wServ 1 { mode := .idle } { mode := .due } 1000).live (2 : Fin 32)).switchTo = none ∧
    (part (wServ 1 { mode := .idle } { mode := .due } 1000).live (2 : Fin 32)).stoppedBy = false ∧
    nextMembers (wServ 1 { mode := .idle } { mode := .due } 1000).live (2 : Fin 32) = [9] ∧
    pCtxs (actPart (wServ 1 { mode := .idle } { mode := .due } 1000).live (2 : Fin 32)) = [11] ∧
    areaBase (wServ 1 { mode := .idle } { mode := .due } 1000).live.cfg.active (2 : Fin 32) + 12 * [9].length ≤ 2 ^ 32 :=
  ⟨awake_mk rfl, ordered_of (by decide +kernel), by decide +kernel⟩
theorem w_StepForm_memory : memoriesOk (wServ 1 { mode := .idle } { mode := .due } 1000).live := by unfold memoriesOk; decide +kernel
def ringPart : Part := { mode := .stepping, walk := [(5, [(9, 0, 0)])] }
def pagedSeq (g : Page) : Seq := { mode := .running, lists := [(0, { pages := [g] })] }
theorem w_Ring : awake (wServ 1 ringPart (pagedSeq {}) 1000) ∧ ordered (wServ 1 ringPart (pagedSeq {}) 1000).live ∧
    memoriesOk (wServ 1 ringPart (pagedSeq {}) 1000).live ∧ storeSorted (part (wServ 1 ringPart (pagedSeq {}) 1000).live (2 : Fin 32)).walk ∧
    storeSorted (part (wServ 1 ringPart (pagedSeq {}) 1000).live (2 : Fin 32)).ring ∧ sGet [] ringPart.walk (5 : Fin 128) = (9, 0, 0) :: [] ∧
    7 < ringSize (2 : Fin 32) (5 : Fin 128) ∧ sFind ringPart.ring ((5 : Fin 128).val * 64 + 7) = none ∧
    (∀ e ∈ (wServ 1 ringPart (pagedSeq {}) 1000).live.tiles.ctxs, ∀ o, e.2.wait ≠ .sync o) :=
  ⟨awake_mk rfl, ordered_of (by decide +kernel), by unfold memoriesOk; decide +kernel, by decide +kernel, by decide +kernel, by decide +kernel,
   by unfold ringSize; omega, by decide +kernel, fun e he o => by
    have : e = (11, { part := some 2 }) := by simpa using (show e ∈ [((11, { part := some 2 }) : Nat × Ctx)] from he)
    rw [this]; exact fun h => by cases h⟩
theorem w_StepEnd : awake (wServ 1 { mode := .stepping, members := [9], stepAt := 302 } { mode := .running } 1300 { atEnd := true }) ∧
    ordered (wServ 1 { mode := .stepping, members := [9], stepAt := 302 } { mode := .running } 1300 { atEnd := true }).live ∧
    (∀ k ∈ pCtxs (actPart (wServ 1 { mode := .stepping, members := [9], stepAt := 302 } { mode := .running } 1300 { atEnd := true }).live (2 : Fin 32)),
      (ctxAt (wServ 1 { mode := .stepping, members := [9], stepAt := 302 } { mode := .running } 1300 { atEnd := true }).live k).atEnd = true) ∧
    stepCycles (wServ 1 { mode := .stepping, members := [9], stepAt := 302 } { mode := .running } 1300 { atEnd := true }).live (2 : Fin 32) <
      pStepLimit (actPart (wServ 1 { mode := .stepping, members := [9], stepAt := 302 } { mode := .running } 1300 { atEnd := true }).live (2 : Fin 32)) ∧
    pMode (partRec (servSet 2) (2 : Fin 32)) = 2 := ⟨awake_mk rfl, ordered_of (by decide +kernel), by decide +kernel⟩
/-- 700 cycles of 0.7 GHz are 1,000 ns: at the limit, and one cycle short of it. -/
theorem w_Overrun : awake (wServ 1 { mode := .stepping, stepAt := 300 } {} 1300) ∧ ordered (wServ 1 { mode := .stepping, stepAt := 300 } {} 1300).live ∧
    pStepLimit (actPart (wServ 1 { mode := .stepping, stepAt := 300 } {} 1300).live (2 : Fin 32)) ≤
      stepCycles (wServ 1 { mode := .stepping, stepAt := 300 } {} 1300).live (2 : Fin 32) ∧
    (part (after (.stepOverrun 2) (wServ 1 { mode := .stepping, stepAt := 302 } {} 1300)).live 2).mode = .stepping :=
  ⟨awake_mk rfl, ordered_of (by decide +kernel), by decide +kernel⟩
theorem w_Teardown : awake (wServ 1 { mode := .teardown, cause := 2, sinceStep := 1 } {} 1300) ∧ ordered (wServ 1 { mode := .teardown, cause := 2 } {} 1300).live ∧
    memoriesOk (wServ 1 { mode := .teardown, cause := 2 } {} 1300).live ∧ shareFits (wServ 1 { mode := .teardown, cause := 2 } {} 1300).live (2 : Fin 32) ∧
    pFaultLimit (actPart (wServ 1 { mode := .teardown, cause := 2 } {} 1300).live (2 : Fin 32)) ≤ 1 + 1 ∧
    ¬ pFaultLimit (actPart (wServ 1 { mode := .teardown, cause := 2 } {} 1300).live (2 : Fin 32)) ≤ 0 + 1 :=
  ⟨awake_mk rfl, ordered_of (by decide +kernel), by unfold memoriesOk; decide +kernel, by unfold shareFits; decide +kernel, by decide +kernel⟩
theorem w_Switch : awake (wServ 2 { mode := .reservedIdle, switchTo := some 0 } {} 1) ∧ ordered (wServ 2 { mode := .reservedIdle, switchTo := some 0 } {} 1).live ∧
    (part (wServ 2 { mode := .reservedIdle, switchTo := some 0 } {} 1).live (2 : Fin 32)).stoppedBy = false ∧
    awake (wServ 2 { mode := .loading, switchTo := some 0 } {} 1) ∧ ordered (wServ 2 { mode := .loading, switchTo := some 0 } {} 1).live ∧
    memoriesOk (wServ 2 { mode := .loading, switchTo := some 0 } {} 1).live ∧ shareFits (wServ 2 { mode := .loading, switchTo := some 0 } {} 1).live (2 : Fin 32) :=
  ⟨awake_mk rfl, ordered_of (by decide +kernel), by decide +kernel, awake_mk rfl, ordered_of (by decide +kernel), by unfold memoriesOk; decide +kernel,
   by unfold shareFits; decide +kernel⟩
/-- A boundary at 300 ns whose grace of 10 µs ends at 10,300 ns: at that instant, one before it, and with the slot occupied. -/
def wToken (n : Nat) (x : Seq := {}) : State := wServ 1 {} { x with closings := [300, 900] } n
theorem w_Token : awake (wToken 10300) ∧ ordered (wToken 10300).live ∧
    hasObj (wToken 10300).live.cfg.active 0x3800 0 (9 : Fin 16384) = true ∧
    (seq (wToken 10300).live (9 : Fin 16384)).closings = 300 :: [900] ∧
    (300 + sqGrace (sqRec (wToken 10300).live (9 : Fin 16384)) * 1000 : Int) ≤ lc3Ns (wToken 10300).live ∧
    lc3Ns (wToken 10299).live < (300 + 10 * 1000 : Int) ∧
    featCount (wToken 10300).live (sqMap (sqRec (wToken 10300).live (9 : Fin 16384))) = 2 ∧
    (seq (wToken 10300 { token := some [] }).live (9 : Fin 16384)).token.isSome = true ∧
    (seq (wToken 10300).live (9 : Fin 16384)).token = none ∧
    (seq (after (.tokenClose 9) (wToken 10300 { mode := .idle, spans := [[[(1, { n := 2, min := 0x40000000 })], []], [[]]] })).live 9).token =
      some [0, 0x40000000] := ⟨awake_mk rfl, ordered_of (by decide +kernel), by decide +kernel⟩
theorem w_Token_spans : 2 ≤ (seq (wToken 10300 { spans := [[[], []], [[]]] }).live (9 : Fin 16384)).spans.length ∧
    (∀ row ∈ (seq (wToken 10300 { spans := [[[], []], [[]]] }).live (9 : Fin 16384)).spans, row ≠ [] ∧ ∀ st ∈ row, storeSorted st) := by decide +kernel
/-- One of two frames of T1 is free, the floor is two; the T2 frame is free. -/
theorem w_Spill : awake (wServ 1 {} (pagedSeq {}) 1) ∧ ordered (wServ 1 {} (pagedSeq {}) 1).live ∧ pInSet (wServ 1 {} (pagedSeq {}) 1).live.cfg.active (2 : Fin 32) = true ∧
    kvSpill (kvRec (wServ 1 {} (pagedSeq {}) 1).live (2 : Fin 32)) = true ∧ 0 ∈ pDies (actPart (wServ 1 {} (pagedSeq {}) 1).live (2 : Fin 32)) ∧
    freeT1 (wServ 1 {} (pagedSeq {}) 1).live (2 : Fin 32) 0 < kvSpillFloor (kvRec (wServ 1 {} (pagedSeq {}) 1).live (2 : Fin 32)) ∧
    lowestSeq (wServ 1 {} (pagedSeq {}) 1).live (2 : Fin 32) (fun k => (oldestPage (wServ 1 {} (pagedSeq {}) 1).live (2 : Fin 32) k 1).isSome) = some 9 ∧
    oldestPage (wServ 1 {} (pagedSeq {}) 1).live (2 : Fin 32) 9 1 = some (0, 0) ∧ storeSorted (seq (wServ 1 {} (pagedSeq {}) 1).live 9).lists ∧
    lowerFrame (wServ 1 {} (pagedSeq {}) 1).live (2 : Fin 32) 1 0 = some (2, 0) := ⟨awake_mk rfl, ordered_of (by decide +kernel), by decide +kernel⟩
theorem w_Move : awake (wServ 1 {} (pagedSeq { moving := true, dest := some (3, 7) }) 1) ∧ ordered (wServ 1 {} (pagedSeq { moving := true, dest := some (3, 7) }) 1).live ∧
    memoriesOk (wServ 1 {} (pagedSeq { moving := true, dest := some (3, 7) }) 1).live ∧
    hasObj (wServ 1 {} (pagedSeq { moving := true, dest := some (3, 7) }) 1).live.cfg.active 0x3800 0 (9 : Fin 16384) = true ∧
    entryAt (wServ 1 {} (pagedSeq { moving := true, dest := some (3, 7) }) 1).live 9 0 0 0 ∧
    (pageAt (wServ 1 {} (pagedSeq { moving := true, dest := some (3, 7) }) 1).live 9 0 0).dest = some (3, 7) ∧
    (pageAt (wServ 1 {} (pagedSeq { moving := true, dest := some (3, 7) }) 1).live 9 0 0).pinned = false ∧
    (seq (wServ 1 {} (pagedSeq { moving := true, dest := some (3, 7) }) 1).live 9).mode ≠ .preempted ∧
    swapDone (wServ 1 {} (pagedSeq { moving := true, dest := some (3, 7) }) 1).live 2 true 7 = true ∧
    swapDone (wServ 1 {} (pagedSeq { tier := 3, frame := 7, dest := some (2, 0) }) 1).live 2 false 7 = true ∧
    seqPart (wServ 1 {} (pagedSeq {}) 1).live 9 = 2 :=
  ⟨awake_mk rfl, ordered_of (by decide +kernel), by unfold memoriesOk; decide +kernel, by decide +kernel, by unfold entryAt; decide +kernel, by decide +kernel⟩
def fetchingPage : Page := { tier := 3, frame := 7, fetching := true, copy := some (0, 1) }
theorem w_Prefetch : entryAt (wServ 1 {} (pagedSeq fetchingPage) 1).live 9 0 0 0 ∧ ordered (wServ 1 {} (pagedSeq fetchingPage) 1).live ∧
    memoriesOk (wServ 1 {} (pagedSeq fetchingPage) 1).live ∧
    (pageAt (wServ 1 {} (pagedSeq fetchingPage) 1).live 9 0 0).fetching = true ∧
    (pageAt (wServ 1 {} (pagedSeq fetchingPage) 1).live 9 0 0).copy = some (0, 1) ∧
    swapDone (wServ 1 {} (pagedSeq fetchingPage) 1).live 2 false 7 = true :=
  ⟨by unfold entryAt; decide +kernel, ordered_of (by decide +kernel), by unfold memoriesOk; decide +kernel, by decide +kernel⟩
/-- A pre-empted sequence: everything there again; nothing asked back yet, with room and without; a page still on its way. -/
def gone9 (g : Page) (back : Bool) : State := wServ 1 {} { pagedSeq g with mode := .preempted, returning := back } 1
theorem w_Preempt : awake (gone9 {} true) ∧ ordered (gone9 {} true).live ∧ hasObj (gone9 {} true).live.cfg.active 0x3800 0 (9 : Fin 16384) = true ∧
    (seq (gone9 {} true).live (9 : Fin 16384)).mode = .preempted ∧ (seq (gone9 {} true).live (9 : Fin 16384)).returning = true ∧
    settledT3 (gone9 {} true).live 2 9 = true ∧ seqPart (gone9 {} true).live (9 : Fin 16384) = 2 ∧
    settledT3 (gone9 { tier := 2 } false).live 2 9 = true ∧ (seq (gone9 { tier := 2 } false).live (9 : Fin 16384)).returning = false ∧
    returnsFirst (gone9 { tier := 2 } false).live 2 9 = true ∧ storeSorted (seq (gone9 { tier := 2 } false).live 9).lists ∧
    settledT3 (gone9 { moving := true } false).live 2 9 = false := ⟨awake_mk rfl, ordered_of (by decide +kernel), by decide +kernel⟩
theorem w_Preempt_room : pDies (actPart (gone9 {} false).live 2) = [0] ∧ openT1 (gone9 {} false).live 2 0 < returnNeeds (gone9 {} false).live 2 9 0 ∧
    returnNeeds (gone9 { tier := 2 } false).live 2 9 0 ≤ openT1 (gone9 { tier := 2 } false).live 2 0 := by decide +kernel
/-- Exactly 64 staged rows, a stalled flush of list 1, and a free frame of T1. -/
def stalledSeq : Seq := { lists := [(1, { stalled := true, staged := List.replicate 64 (List.replicate 64 0) })] }
theorem w_Flush : awake (wServ 1 {} stalledSeq 1) ∧ ordered (wServ 1 {} stalledSeq 1).live ∧ pInSet (wServ 1 {} stalledSeq 1).live.cfg.active (2 : Fin 32) = true ∧
    9 ∈ seqsIn (wServ 1 {} stalledSeq 1).live (2 : Fin 32) ∧ storeSorted (seq (wServ 1 {} stalledSeq 1).live 9).lists ∧
    (pageList (wServ 1 {} stalledSeq 1).live (2 : Fin 32) 9 1).stalled = true ∧ 64 ≤ (pageList (wServ 1 {} stalledSeq 1).live (2 : Fin 32) 9 1).staged.length ∧
    (∀ m ∈ holders (wServ 1 {} stalledSeq 1).live (2 : Fin 32), ∀ l ∈ listsOf (wServ 1 {} stalledSeq 1).live (2 : Fin 32) m, l.2.stalled = true → m = 9 ∧ l.1 = 1) ∧
    flushFrame (wServ 1 {} stalledSeq 1).live (2 : Fin 32) 9 1 = some (1, 0, 0, false) := ⟨awake_mk rfl, ordered_of (by decide +kernel), by decide +kernel⟩

/-! ## Witnesses: trunks and cells -/

/-- Trunk 0: MAC, ETYPE 88B5, PTP 88F7, LAT_BOUND 2,000 ns, ACK_TIMEOUT 50 µs, 16 SYNCs a second, RATE_MIN 5G, enabled. Cell 4: two slots, enabled,
CFG_ID 77, set 0 of two channels, the first binary16, the second int16. Streams 256 and 257: every sample, scale 2.0, offset 1.0. -/
def trRecT : Bytes := fieldsOf 32 [(208, 0x020000000001), (192, 0x88B5), (176, 0x88F7), (144, 2000), (112, 50), (105, 4), (103, 1), (101, 2), (98, 1), (97, 1)]
def clRecT : Bytes := fieldsOf 64 [(464, 0x020000000004), (458, 2), (457, 1), (385, 77), (64, 10), (16, 2), (0, 2)]
def streamRecT (decim : Nat) : Bytes := fieldsOf 16 [(64, 0x40000000), (32, one32), (24, decim)]
def trunkSet (decim : Nat := 1) : Store Bytes := setOf [(0x6000, 0, 0, trRecT), (0x6010, 0, 4, clRecT), (0x6020, 0, 256, streamRecT decim), (0x6020, 0, 257, streamRecT 1)]
def wTrunk (x : Trunk) (c : CellRt) (n : Nat := 0) (f : World → World := id) (decim : Nat := 1) : State :=
  mk (atTime n (f { withSet (trunkSet decim) with trunks := { trunks := [(0, x)], cells := [(4, c)] } }))
/-- A frame of cell 4 with a TYPE and a body. -/
def cellFrame (type : Nat) (body : Bytes) : Frame :=
  ⟨pad60 (beBytes 6 0x020000000001 ++ beBytes 6 0x020000000004 ++ beBytes 2 0x88B5 ++ beBytes 1 type ++ [0x10, 0, 7, 4, 0] ++ body), true, false⟩
/-- The first rate that RATE_MIN allows, and the last that it does not. -/
theorem w_Link : awake (wTrunk {} {}) ∧ ordered (wTrunk {} {}).live ∧ trEnable (trunkRec (wTrunk {} {}).live (0 : Fin 16)) = true ∧
    (1 : Fin 3).val ≤ trRateMax (trunkRec (wTrunk {} {}).live (0 : Fin 16)) ∧ trAnEn (trunkRec (wTrunk {} {}).live (0 : Fin 16)) = true ∧
    trRateMin (trunkRec (wTrunk {} {}).live (0 : Fin 16)) ≤ (1 : Fin 3).val ∧ (0 : Fin 3).val < trRateMin (trunkRec (wTrunk {} {}).live (0 : Fin 16)) ∧
    (trunk (wTrunk { up := true } {}).live (0 : Fin 16)).up = true ∧ ordered (wTrunk { up := true } {}).live :=
  ⟨awake_mk rfl, ordered_of (by decide +kernel), by decide +kernel, by decide +kernel, by decide +kernel, by decide +kernel, by decide +kernel,
   by decide +kernel, ordered_of (by decide +kernel)⟩
/-- Each refusal: FCS, 59 bytes, a tag, another ETYPE, a PTP frame, VERSION 2, another source, a COMMAND. -/
theorem w_Refused : storeSorted (trunk (wTrunk { up := true } {}).live (0 : Fin 16)).counters ∧
    [refusal (wTrunk { up := true } {}).live 0 { cellFrame 5 [] with fcsOk := false }, refusal (wTrunk { up := true } {}).live 0 ⟨(cellFrame 5 []).bytes.take 59, true, false⟩,
     refusal (wTrunk { up := true } {}).live 0 { cellFrame 5 [] with tagged := true }, refusal (wTrunk { up := true } {}).live 0 ⟨overwrite (cellFrame 5 []).bytes 12 [0x88, 0xB6], true, false⟩,
     refusal (wTrunk { up := true } {}).live 0 ⟨overwrite (cellFrame 5 []).bytes 12 [0x88, 0xF7], true, false⟩, refusal (wTrunk { up := true } {}).live 0 ⟨overwrite (cellFrame 5 []).bytes 15 [0x20], true, false⟩,
     refusal (wTrunk { up := true } {}).live 0 ⟨overwrite (cellFrame 3 []).bytes 11 [5], true, false⟩, refusal (wTrunk { up := true } {}).live 0 (cellFrame 2 [])] =
    [some 3, some 4, some 5, some 6, some 9, some 7, some 8, some 9] := by decide +kernel
def announceF : Frame := cellFrame 4 ([1, 2, 1, 1] ++ beBytes 4 0xABCD ++ beBytes 4 0 ++ beBytes 4 3)
theorem w_Announce : awake (wTrunk { up := true } { mode := .configured, outstanding := [{}] }) ∧ ordered (wTrunk { up := true } { mode := .configured, outstanding := [{}] }).live ∧
    frameAccepted (wTrunk { up := true } { mode := .configured, outstanding := [{}] }) 0 announceF 4 ∧ beAt announceF.bytes 20 1 = 1 ∧ cellOf 0 announceF = 4 :=
  ⟨awake_mk rfl, ordered_of (by decide +kernel), by unfold frameAccepted; decide +kernel, by decide +kernel⟩
def ackF (slots mask cfg : Nat) : Frame := cellFrame 4 ([3] ++ beBytes 1 slots ++ [1] ++ beBytes 1 mask ++ beBytes 4 0xABCD ++ beBytes 4 cfg ++ beBytes 4 3)
/-- The cell's own CFG_ID with exactly the slots asked for, one slot fewer, and without set 0; another CFG_ID. -/
theorem w_Ack : beAt (ackF 2 1 76).bytes 28 4 ≠ clCfgId (cellRec (wTrunk { up := true } {}).live 4) ∧ frameAccepted (wTrunk { up := true } { mode := .announced }) 0 (ackF 2 1 77) 4 ∧ beAt (ackF 2 1 77).bytes 20 1 = 3 ∧
    ordered (wTrunk { up := true } { mode := .announced }).live ∧
    ([(2, 1, 77), (1, 1, 77), (2, 2, 77), (2, 1, 76)].map (fun a =>
      (cell (after (.cellcfgAck 0 (ackF a.1 a.2.1 a.2.2)) (wTrunk { up := true } { mode := .announced })).live 4).mode)) = [.configured, .mismatch, .mismatch, .announced] :=
  ⟨by decide +kernel, by unfold frameAccepted; decide +kernel, by decide +kernel, ordered_of (by decide +kernel), by decide +kernel⟩
def alarmF (code : Nat) : Frame := cellFrame 5 (beBytes 8 900 ++ beBytes 2 code ++ [1, 2] ++ List.replicate 16 0)
/-- Codes 7 and 0x8000 are ALARMs, 0, 8 and 0x7FFF are reserved (10 Table 10.9). -/
theorem w_Alarm : frameAccepted (wTrunk { up := true } {}) 0 (alarmF 7) 5 ∧ refusal (wTrunk { up := true } {}).live 0 (alarmF 0x8000) = none ∧
    refusal (wTrunk { up := true } {}).live 0 (alarmF 0) = some 7 ∧ refusal (wTrunk { up := true } {}).live 0 (alarmF 8) = some 7 ∧
    (wTrunk { up := true } {}).live.cont.obs.queue.length + (wTrunk { up := true } {}).live.cont.obs.pinned.length < 256 :=
  ⟨by unfold frameAccepted; decide +kernel, by decide +kernel⟩
/-- Four intervals of 62.5 ms: lost at 250 ms, not one nanosecond before. -/
theorem w_Lost : awake (wTrunk {} { mode := .configured } 250000000) ∧ ordered (wTrunk {} { mode := .configured } 250000000).live ∧
    (cell (wTrunk {} { mode := .configured } 250000000).live (cellKey (0 : Fin 16) (4 : Fin 256))).mode = .configured ∧
    0 + 4 * syncInterval (wTrunk {} { mode := .configured } 250000000).live (0 : Fin 16) ≤ nowNs (wTrunk {} { mode := .configured } 250000000).live ∧
    (cell (after (.cellLostTimeout 0 4) (wTrunk {} { mode := .configured } 249999999)).live 4).mode = .configured := ⟨awake_mk rfl, ordered_of (by decide +kernel), by decide +kernel⟩

/-- A SAMPLE of set 0 at a sample instant: the channels 1.0 (binary16) and −3 (int16). -/
def sampleF (t1 n fmt : Nat) : Frame := cellFrame 1 (beBytes 8 t1 ++ [0] ++ beBytes 1 n ++ beBytes 2 fmt ++ [0, 9, 0, 0] ++ ([0x3C, 0, 0xFF, 0xFD] : Bytes).take (2 * n))
def readyCell : CellRt := { mode := .configured, lastT := [500, 0, 0, 0] }
theorem w_Sample : awake (wTrunk { up := true } readyCell) ∧ ordered (wTrunk { up := true } readyCell).live ∧
    frameAccepted (wTrunk { up := true } readyCell) 0 (sampleF 501 2 2) 1 ∧ storeSorted (trunk (wTrunk { up := true } readyCell).live (0 : Fin 16)).dropped ∧
    cellOf 0 (sampleF 501 2 2) = 4 ∧ beAt (sampleF 501 2 2).bytes 29 1 = clChans (cellRec (wTrunk { up := true } readyCell).live 4) 0 ∧
    beAt (sampleF 501 2 2).bytes 30 2 = clFmt (cellRec (wTrunk { up := true } readyCell).live 4) 0 ∧ nth 0 readyCell.lastT 0 < beAt (sampleF 501 2 2).bytes 20 8 ∧
    readyCell.lastT.length = 4 ∧ 1 < beAt (sampleF 501 2 2).bytes 29 1 ∧ (stream (wTrunk { up := true } readyCell).live 257).struck = false :=
  ⟨awake_mk rfl, ordered_of (by decide +kernel), by unfold frameAccepted; decide +kernel, by decide +kernel⟩
/-- 1.0 · 2 + 1 = 3, −3 · 2 + 1 = −5; an unmapped channel is dropped under reason 1. -/
theorem test_sample : ((stream (after (.sample 0 (sampleF 501 2 2)) (wTrunk { up := true } readyCell)).live 256).value,
      (stream (after (.sample 0 (sampleF 501 2 2)) (wTrunk { up := true } readyCell)).live 257).value) = (0x40400000, 0xC0A00000) ∧
    (trunk (after (.sample 0 (sampleF 501 2 2)) (wTrunk { up := true } readyCell 0 id 0)).live 0).dropped = [(1, 1)] := by decide +kernel
/-- Not CONFIGURED; one channel too few; another format; the last sample instant again. -/
theorem w_Sample_dropped : frameAccepted (wTrunk { up := true } {}) 0 (sampleF 501 2 2) 1 ∧ frameAccepted (wTrunk { up := true } readyCell) 0 (sampleF 501 1 2) 1 ∧
    frameAccepted (wTrunk { up := true } readyCell) 0 (sampleF 501 2 3) 1 ∧ frameAccepted (wTrunk { up := true } readyCell) 0 (sampleF 500 2 2) 1 ∧
    beAt (sampleF 500 2 2).bytes 20 8 ≤ nth 0 readyCell.lastT 0 ∧ readyCell.mode = .configured :=
  ⟨by unfold frameAccepted; decide +kernel, by unfold frameAccepted; decide +kernel, by unfold frameAccepted; decide +kernel, by unfold frameAccepted; decide +kernel, by decide +kernel⟩
/-- A trunk with a ledger that balances, and a step that takes a sample there. -/
def wLedger : State := { wTrunk { up := true, received := 5, consumed := 3, dropped := [(5, 2)] } readyCell with pending := [.sample 0 (sampleF 501 2 2)] }
theorem w_Ledger : ordered wLedger.live ∧ (∀ n, sampleBalance (trunk wLedger.live n) = 0 ∧ storeSorted (trunk wLedger.live n).dropped) ∧
    (match step wLedger with | .next t => (trunk t.live 0).received == 7 | _ => false) = true := by
  refine ⟨ordered_of (by decide +kernel), fun n => ?_, by decide +kernel⟩
  rcases sGet_mem {} wLedger.live.trunks.trunks n with e | ⟨e, he, h⟩
  · have : trunk wLedger.live n = {} := e
    rw [this]; exact ⟨by decide, .nil⟩
  · have : trunk wLedger.live n = e.2 := h.symm
    have h0 : e = (0, { up := true, received := 5, consumed := 3, dropped := [(5, 2)] }) := by
      simpa using (show e ∈ [((0, { up := true, received := 5, consumed := 3, dropped := [(5, 2)] }) : Nat × Trunk)] from he)
    rw [this, h0]; exact by decide +kernel

def cmdT : TxCmd := { cell := 4, output := 1, level := 1, loop := 1, engine := 3, exec := 9000, number := 65535 }
theorem w_Depart : awake (wTrunk { up := true, queue := [cmdT] } {}) ∧ ordered (wTrunk { up := true, queue := [cmdT] } {}).live ∧
    (trunk (wTrunk { up := true, queue := [cmdT] } {}).live (0 : Fin 16)).queue = cmdT :: [] ∧ cmdT.angle = none ∧
    storeSorted (wTrunk { up := true, queue := [cmdT] } {}).live.halo.shadows ∧
    (trunk (wTrunk { up := true, queue := [cmdT] } {}).live (0 : Fin 16)).up = true ∧
    (cell (after (.commandDeparture 0 0) (wTrunk { up := true, queue := [cmdT] } {})).live 4).outstanding.map (·.number) = [65535] :=
  ⟨awake_mk rfl, ordered_of (by decide +kernel), by decide +kernel⟩
def outC (n : Nat) : OutCmd := { number := n, loop := 1, engine := 3, exec := 9000 }
/-- EXEC_T 9,000 ns and 50 µs: expired at 59,000 ns, outstanding at 58,999 ns. -/
theorem w_Expire : awake (wTrunk {} { outstanding := [outC 8] } 59000) ∧ ordered (wTrunk {} { outstanding := [outC 8] } 59000).live ∧
    (cell (after (.commandExpire 0 4 8) (wTrunk {} { outstanding := [outC 8] } 59000)).live 4).outstanding = [] ∧
    (cell (after (.commandExpire 0 4 8) (wTrunk {} { outstanding := [outC 8] } 58999)).live 4).outstanding = [outC 8] ∧
    (trunk (after (.commandExpire 0 4 65535) (wTrunk { queue := [cmdT] } {} 59000)).live 0).queue = [{ cmdT with expired := true }] :=
  ⟨awake_mk rfl, ordered_of (by decide +kernel), by decide +kernel⟩
/-- A CREDIT whose window begins at 65,534: bits 0 and 3 name 65,534 and 1. -/
def creditF : Frame := cellFrame 3 (List.replicate 22 0 ++ [0xFF, 0xFE] ++ [0, 0, 0, 9] ++ List.replicate 9 0)
theorem w_Credit : frameAccepted (wTrunk { up := true } { outstanding := [outC 1, outC 2] }) 0 creditF 3 ∧ acknowledges creditF.bytes 1 ∧ acknowledges creditF.bytes 65534 ∧
    ordered (wTrunk { up := true } { outstanding := [outC 1, outC 2] }).live ∧
    (cell (after (.credit 0 creditF 0) (wTrunk { up := true } { outstanding := [outC 1, outC 2] })).live 4).outstanding = [outC 2] :=
  ⟨by unfold frameAccepted; decide +kernel, ⟨3, by decide +kernel⟩, ⟨0, by decide +kernel⟩, ordered_of (by decide +kernel), by decide +kernel⟩
def wDueSet (q : List TxCmd) (m : CellMode) (n : Nat) : State := wTrunk { up := true, queue := q } { mode := m, setDue := some 5 } n
/-- Due, no command waiting; a command waiting, 49,999 ns and 50 µs after it fell due; not due. -/
theorem w_Set : awake (wDueSet [] .announced 5) ∧ ordered (wDueSet [] .announced 5).live ∧
    (trunk (wDueSet [] .announced 5).live (0 : Fin 16)).up = true ∧ (wDueSet [] .announced 5).live.cfg.present = true ∧
    (cell (wDueSet [] .announced 5).live (cellKey (0 : Fin 16) (4 : Fin 256))).setDue = some 5 ∧ nowNs (wDueSet [] .announced 5).live = 5 ∧
    mayStart (wDueSet [] .announced 5).live (0 : Fin 16) 5 = true ∧ mayStart (wDueSet [cmdT] .announced 50004).live (0 : Fin 16) 5 = false ∧
    mayStart (wDueSet [cmdT] .announced 50005).live (0 : Fin 16) 5 = true ∧
    (cell (wDueSet [] .lost 5).live (cellKey (0 : Fin 16) (4 : Fin 256))).mode = .lost ∧
    (after (.cellcfgSetSend 0 4) (wDueSet [] .lost 4)).live.out = [] := ⟨awake_mk rfl, ordered_of (by decide +kernel), by decide +kernel⟩
def wSyncDue (q : List TxCmd) : State := wTrunk { up := true, queue := q } { syncAt := some 5, extraSync := some 62500000 } 62500005
theorem w_Sync : awake (wSyncDue []) ∧ ordered (wSyncDue []).live ∧ (wSyncDue []).live.cfg.present = true ∧
    clEnable (cellRec (wSyncDue []).live (cellKey (0 : Fin 16) (4 : Fin 256))) = true ∧
    syncSlot (wSyncDue []).live (0 : Fin 16) (cellKey (0 : Fin 16) (4 : Fin 256)) = some 62500000 ∧
    (cell (wSyncDue []).live (cellKey (0 : Fin 16) (4 : Fin 256))).syncAt = some 5 ∧ mayStart (wSyncDue []).live (0 : Fin 16) 62500000 = true ∧
    (cell (wSyncDue []).live (cellKey (0 : Fin 16) (4 : Fin 256))).extraSync = some 62500000 ∧ (trunk (wSyncDue []).live (0 : Fin 16)).up = true ∧
    (after (.trunkSyncSend 0 4 0) (wSyncDue [])).live.out.length = 1 ∧ (after (.trunkSyncSend 0 4 0) (wSyncDue [cmdT])).live.out = [] :=
  ⟨awake_mk rfl, ordered_of (by decide +kernel), by decide +kernel⟩
theorem w_QuietSync : awake (wTrunk { up := true, quietAt := some 5 } {} 62500005 (fun w => { w with cfg := { w.cfg with present := false } })) ∧
    hostsServed (wTrunk { up := true, quietAt := some 5 } {} 62500005 (fun w => { w with cfg := { w.cfg with present := false } })).live = true ∧
    ordered (wTrunk { up := true, quietAt := some 5 } {} 62500005 (fun w => { w with cfg := { w.cfg with present := false } })).live ∧
    trEnable (trunkRec (wTrunk { up := true, quietAt := some 5 } {} 62500005 (fun w => { w with cfg := { w.cfg with present := false } })).live (0 : Fin 16)) = true :=
  ⟨awake_mk rfl, by decide +kernel, ordered_of (by decide +kernel), by decide +kernel⟩

/-! ## Witnesses: hosts -/

/-- A message of session 0, its tag under K_hd, counter 1, REQ_ID 7. -/
def signedK (type flags : Nat) (body : Bytes) : Bytes := pdsHeader type 0 flags body.length 1 7 0 ++ body
def msgK (type flags : Nat) (body : Bytes) : HostMsg := msgOf (signedK type flags body ++ hmac (List.replicate 32 1) (signedK type flags body))
/-- What a datagram holds. -/
def pOf (m : HostMsg) : PdsMsg := (parsePds m.bytes).getD ⟨0, 0, 0, 0, 0, [], [], []⟩
theorem parse_of {m : HostMsg} (h : (parsePds m.bytes).isSome = true) : parsePds m.bytes = some (pOf m) := by
  unfold pOf; cases e : parsePds m.bytes with
  | none => simp [e] at h
  | some p => rfl
/-- A datagram goes to the configured address of its port, which none else uses, and to PDS_PORT. -/
def toConfigured (s : State) (m : HostMsg) : Bool :=
  decide (configuredAddr s.live m.port = m.dst) && decide (m.dst ≠ 0) && decide ((hostPort s.live m.port).duplicate = []) &&
  m.dstPort.toNat == pdsPort s.live m.port
theorem dst_of {s : State} {m : HostMsg} (h : toConfigured s m = true) :
    m.dst ∈ portAddrs s.live m.port ∧ m.dstPort.toNat = pdsPort s.live m.port := by
  simp only [toConfigured, Bool.and_eq_true, beq_iff_eq, decide_eq_true_eq] at h
  obtain ⟨⟨⟨h1, h2⟩, h3⟩, h4⟩ := h
  refine ⟨?_, h4⟩
  simp only [portAddrs, h1, if_neg h2, h3]; simp
theorem reaches_of {s : State} {m : HostMsg} (h : (hostsServed s.live && portCarries s.live m.port && (parsePds m.bytes).isSome && toConfigured s m) = true) :
    reaches s m (pOf m) := by
  simp only [Bool.and_eq_true] at h
  obtain ⟨⟨⟨h1, h2⟩, h3⟩, h4⟩ := h
  exact ⟨h1, h2, (dst_of h4).1, (dst_of h4).2, parse_of h3⟩
def newRequestB (s : State) (m : HostMsg) (type role : Nat) : Bool :=
  hostsServed s.live && portCarries s.live m.port && toConfigured s m && (parsePds m.bytes).isSome && (pOf m).type == type &&
  (session s.live (pOf m).sess).live && hmac (session s.live (pOf m).sess).khd (pOf m).signed == (pOf m).tag && decide ((pOf m).counter ≤ 2 ^ 63) &&
  counterOk (session s.live (pOf m).sess) (pOf m).counter && ((session s.live (pOf m).sess).cache.find? (fun e => e.1 = (pOf m).reqId)).isNone &&
  !(session s.live (pOf m).sess).open_.any (fun r => r.reqId = (pOf m).reqId) && decide ((session s.live (pOf m).sess).open_.length < 16) && hasRole s.live (pOf m).sess role
theorem newRequest_of {s : State} {m : HostMsg} {type role : Nat} (h : newRequestB s m type role = true) : newRequest s m (pOf m) type role := by
  simp only [newRequestB, Bool.and_eq_true, beq_iff_eq, decide_eq_true_eq, Bool.not_eq_true', Option.isNone_iff_eq_none] at h
  obtain ⟨⟨⟨⟨⟨⟨⟨⟨⟨⟨⟨⟨h1, h2⟩, h3⟩, h4⟩, h5⟩, h6⟩, h7⟩, h8⟩, h9⟩, h10⟩, h11⟩, h12⟩, h13⟩ := h
  exact ⟨⟨⟨h1, h2, (dst_of h3).1, (dst_of h3).2, parse_of h4⟩, h5, h6, h7, h8, h9⟩, h10, h11, h12, h13⟩
/-- A session on a device in LIVE with this active set. -/
def hostSet : Store Bytes := setOf [(0x1110, 0, 0, fieldsOf 64 [(0, 1), (96, 17556), (112, 64), (128, 0xFD00)]), (0x1101, 1, 0, leBytes 2 5000)]
def wHost (f : World → World := id) : State := mk (f (withSession (withSet hostSet)))
theorem w_Keepalive : awake (wHost) ∧ newRequest (wHost) (msgK 0x06 0 []) (pOf (msgK 0x06 0 [])) 0x06 0 ∧ (pOf (msgK 0x06 0 [])).body = [] :=
  ⟨awake_mk rfl, newRequest_of (by decide +kernel), by decide +kernel⟩
/-- The public key of scalar 1, the curve's base point. -/
def pub1 : Bytes := beBytes 65 59240149723730851812311272008153533141816437726696305166080887910572446982458012615605924465554721774228350039774385670824392793454808075284049927019123189
theorem test_public : ecPublic 1 = pub1 := by decide +kernel
def hs0 : Handshake := { slot := 0, eph := 1, hello := List.replicate 36 0 ++ pub1, challenge := [1] }
/-- HELLO on slot 0: the slot holds the key of scalar 1, or none. -/
def helloM : HostMsg := msgOf ([0x50, 0x44, 1, 1, 0xFF, 0, 0, 101] ++ beBytes 8 0 ++ beBytes 4 7 ++ [0, 0, 0, 0] ++ [0, 1, 0, 0] ++ List.replicate 32 5 ++ pub1)
def withSlot (k : Bytes) (w : World) : World :=
  { w with garnet := { w.garnet with slots := updNth w.garnet.slots 0 (fun _ => { key := k, roles := 0xFF }), rng := { w.garnet.rng with running := true, fail := false } } }
def wSetup (k : Bytes) (hs : List Handshake) (n : Nat) : State := mk (atTime n (withSlot k { withSet hostSet with link := { (withSet hostSet).link with handshakes := hs } }))
theorem w_Hello : awake (wSetup (pub1) [{}, {}, {}] 9) ∧ reaches (wSetup (pub1) [{}, {}, {}] 9) helloM (pOf helloM) ∧ (pOf helloM).type = 1 ∧
    (pOf helloM).body.length = 101 ∧ slotClosed (wSetup (pub1) [{}, {}, {}] 9).live (beAt (pOf helloM).body 0 1) = false ∧
    (wSetup (pub1) [{}, {}, {}] 9).live.link.handshakes.length < 4 ∧ (wSetup (pub1) [] 9).live.garnet.rng.running = true ∧
    (wSetup (pub1) [] 9).live.garnet.rng.fail = false ∧ slotClosed (wSetup [] [] 9).live (beAt (pOf helloM).body 0 1) = true ∧
    4 ≤ (wSetup (pub1) [{}, {}, {}, {}] 9).live.link.handshakes.length :=
  ⟨awake_mk rfl, reaches_of (by decide +kernel), by decide +kernel⟩
/-- The keys of the set-up, and a signature of scalar 1 over TH2. -/
def hsKeys : Bytes × Bytes × Bytes :=
  (beBytes 32 29607771366423449224608636675767532330819507305944395725537819995816856306254,
   beBytes 32 78847651112735287069531237391494359509546693197145008250131252289015142005896,
   beBytes 32 103083439385480509857957326190380641088731730404486819652439359191512402952873)
def proofM (sig : Bytes) : HostMsg := msgOf (pdsHeader 3 0 0 64 1 7 0 ++ sig ++ hmac hsKeys.2.1 (pdsHeader 3 0 0 64 1 7 0 ++ sig))
def goodSig : Bytes := beBytes 64 3534586382183772879714658796054760158610007309382798020176445635193643571079186563762618899519485588524104290977827282997964042143516815197589472715962373
theorem w_Proof_keys : setupKeys hs0 = some (hsKeys.1, hsKeys.2.1, hsKeys.2.2) := by decide +kernel
/-- A signature of the slot's key, and one of none. -/
theorem w_Proof_sigs : (pOf (proofM goodSig)).body = goodSig ∧ ecdsaVerify (pub1) (ascii "PDS-HOST" ++ hsKeys.1) goodSig = true ∧
    ecdsaVerify (pub1) (ascii "PDS-HOST" ++ hsKeys.1) (List.replicate 64 0) = false := by decide +kernel
theorem w_Proof (sig : Bytes) (h : sig = goodSig ∨ sig = List.replicate 64 0) : awake (wSetup (pub1) [hs0] 1000000000) ∧
    reaches (wSetup (pub1) [hs0] 1000000000) (proofM sig) (pOf (proofM sig)) ∧ (pOf (proofM sig)).type = 3 ∧ (pOf (proofM sig)).body.length = 64 ∧
    (pOf (proofM sig)).sess < (wSetup (pub1) [hs0] 1000000000).live.link.sessions.length ∧
    (wSetup (pub1) [hs0] 1000000000).live.link.handshakes.filter (fun x => x.slot = (pOf (proofM sig)).sess) = [hs0] ∧
    hmac hsKeys.2.1 (pOf (proofM sig)).signed = (pOf (proofM sig)).tag ∧ slotClosed (wSetup (pub1) [hs0] 1000000000).live (pOf (proofM sig)).sess = false ∧
    nowNs (wSetup (pub1) [hs0] 1000000000).live ≤ hs0.at_ + 1000000000 := by
  rcases h with rfl | rfl <;>
    exact ⟨awake_mk rfl, reaches_of (by decide +kernel), by decide +kernel⟩
/-- The answer to the second draft of RFC 6979, A.2.5 (P-256, SHA-256, "sample"). -/
theorem test_ecdsa : ecdsaSign 0xC9AFA9D845BA75166B5C215767B1D6934E50C3DB36E89B127B8A622B120F6721 (ascii "sample") =
    beBytes 32 0xEFD48B2AACB6A8FD1140DD9CD45E81D69D2C877B56AAF991C34D0EA84EAF3716 ++
    beBytes 32 0xF7CB1C942D657C41D436C7A1B6E29F65F3E900DBB9AFF4064DC4AB2F843ACDA8 := by decide +kernel
theorem test_sha : beNat (sha256 (ascii "abc")) = 0xBA7816BF8F01CFEA414140DE5DAE2223B00361A396177A9CB410FF61F20015AD := by decide +kernel

theorem w_Master : newRequest (wHost (fun w => { w with link := { w.link with master := none } })) (msgK 0x07 0 [1]) (pOf (msgK 0x07 0 [1])) 0x07 8 ∧
    (pOf (msgK 0x07 0 [1])).body = [1] ∧ hasRole wHost.live (pOf (msgK 0x07 0 [1])).sess 2 = true ∧
    (wHost (fun w => { w with link := { w.link with master := none } })).live.link.master = none ∧
    newRequest (wHost (fun w => { w with link := { w.link with master := some 1 } })) (msgK 0x07 0 [1]) (pOf (msgK 0x07 0 [1])) 0x07 8 ∧
    (wHost (fun w => { w with link := { w.link with master := some 1 } })).live.link.master.isSome = true ∧
    newRequest wHost (msgK 0x07 0 [2]) (pOf (msgK 0x07 0 [2])) 0x07 8 ∧ (pOf (msgK 0x07 0 [2])).body = [2] ∧
    wHost.live.link.master = some (pOf (msgK 0x07 0 [2])).sess :=
  ⟨newRequest_of (by decide +kernel), by decide +kernel, by decide +kernel, by decide +kernel, newRequest_of (by decide +kernel), by decide +kernel,
   newRequest_of (by decide +kernel), by decide +kernel, by decide +kernel⟩
theorem w_Close : newRequest wHost (msgK 0x05 0 []) (pOf (msgK 0x05 0 [])) 0x05 8 ∧ (pOf (msgK 0x05 0 [])).body = [] :=
  ⟨newRequest_of (by decide +kernel), by decide +kernel⟩
/-- SESSION_TIMEOUT 5,000 ms: closed at 5 s, live one nanosecond before. -/
theorem w_Silence : awake (wHost (atTime 5000000000)) ∧ (session (wHost (atTime 5000000000)).live (0 : Fin 8)).live = true ∧
    (session (wHost (atTime 5000000000)).live (0 : Fin 8)).heard + sessionTimeoutNs (wHost (atTime 5000000000)).live = nowNs (wHost (atTime 5000000000)).live ∧
    (session (after (.sessionTimeout 0) (wHost (atTime 4999999999))).live 0).live = true := ⟨awake_mk rfl, by decide +kernel⟩
theorem w_Respond : (0 : Nat) < wHost.live.link.sessions.length ∧ (session wHost.live 0).live = true ∧ (session wHost.live 0).txNext ≤ 2 ^ 63 := by decide +kernel

/-- READ of SESSION_TIMEOUT, and of an index that is no object. -/
theorem w_Read : newRequest wHost (msgK 0x10 0 [0x11, 0x01, 1, 0, 0, 0]) (pOf (msgK 0x10 0 [0x11, 0x01, 1, 0, 0, 0])) 0x10 0 ∧
    (pOf (msgK 0x10 0 [0x11, 0x01, 1, 0, 0, 0])).body.length = 6 ∧
    (match fetch (inHand wHost (msgK 0x10 0 [0x11, 0x01, 1, 0, 0, 0]) (pOf (msgK 0x10 0 [0x11, 0x01, 1, 0, 0, 0]))) (servedView wHost) false
        (keyOfBytes [0x11, 0x01, 1, 0, 0, 0]) with | .ok x => decide (x.2.1.length = 2) && x.2.2.isNone | .error _ => false) = true ∧
    (match fetch (inHand wHost (msgK 0x10 0 [0x7F, 0xFF, 1, 0, 0, 0]) (pOf (msgK 0x10 0 [0x7F, 0xFF, 1, 0, 0, 0]))) (servedView wHost) false
        (keyOfBytes [0x7F, 0xFF, 1, 0, 0, 0]) with | .ok _ => false | .error _ => true) = true :=
  ⟨newRequest_of (by decide +kernel), by decide +kernel⟩
def snapM : HostMsg := msgK 0x12 0 [0, 1, 0x11, 0x01, 1, 0, 0, 0]
theorem w_Snapshot : newRequest wHost snapM (pOf snapM) 0x12 0 ∧ beAt (pOf snapM).body 0 2 = 1 ∧ (pOf snapM).body.length = 2 + 6 * 1 ∧
    (match snapAll (inHand wHost snapM (pOf snapM)) (servedView wHost) (wantsShadow (pOf snapM)) (addrList (pOf snapM).body 2 1) 0 with
      | .ok x => decide (8 + x.1.length ≤ 65536) | .error _ => false) = true := ⟨newRequest_of (by decide +kernel), by decide +kernel⟩
theorem w_Ledger_ : newRequest wHost (msgK 0x1A 0 []) (pOf (msgK 0x1A 0 [])) 0x1A 0 ∧ (pOf (msgK 0x1A 0 [])).body = [] :=
  ⟨newRequest_of (by decide +kernel), by decide +kernel⟩
theorem w_Attest : newRequest wHost (msgK 0x1B 0 (List.replicate 32 3)) (pOf (msgK 0x1B 0 (List.replicate 32 3))) 0x1B 0 ∧
    (pOf (msgK 0x1B 0 (List.replicate 32 3))).body.length = 32 := ⟨newRequest_of (by decide +kernel), by decide +kernel⟩
/-- WRITE of SESSION_TIMEOUT to the shadow, and of LC RATE to the active set. -/
def writeM (flags : Nat) (addr : Bytes) (type : BitVec 8) (v : Bytes) : HostMsg := msgK 0x11 flags (addr ++ [type, 0] ++ beBytes 2 v.length ++ v)
def writeReqOf (m : HostMsg) (o : ObjDef) : WriteReq :=
  { sess := (pOf m).sess, reqId := (pOf m).reqId, service := 0x11, key := keyOfBytes (pOf m).body, value := wireToStored o.type ((pOf m).body.drop 10), shadow := wantsShadow (pOf m) }
def writeB (s : State) (m : HostMsg) (toShadow : Bool) : Bool :=
  newRequestB s m 0x11 1 && decide (10 ≤ (pOf m).body.length) && decide ((pOf m).body.length = 10 + beAt (pOf m).body 8 2) &&
  match findObj (keyOfBytes (pOf m).body) with
  | .error _ => false
  | .ok o => decide (o.access ≠ .ro) && decide (o.access ≠ .co) && o.type == beAt (pOf m).body 6 1 && decide (keyIndex (keyOfBytes (pOf m).body) < 0x9000) &&
      keyIndex (keyOfBytes (pOf m).body) != 0x1202 && sizeOk o ((pOf m).body.drop 10).length && decide (permission (inHand s m (pOf m)) (writeReqOf m o) o = none) &&
      decide (writeBad (inHand s m (pOf m)) (writeReqOf m o) o = none) && (writeReqOf m o).toShadow o == toShadow
def shadowM : HostMsg := writeM 4 [0x11, 0x01, 1, 0, 0, 0] 7 (beBytes 2 5000)
def activeM : HostMsg := writeM 0 [0x20, 0x10, 1, 0, 0, 5] 5 (beBytes 8 0)
theorem w_Write : newRequest wHost shadowM (pOf shadowM) 0x11 1 ∧ writeB wHost shadowM true = true ∧ newRequest wHost activeM (pOf activeM) 0x11 1 ∧
    writeB wHost activeM false = true := ⟨newRequest_of (by decide +kernel), by decide +kernel, newRequest_of (by decide +kernel), by decide +kernel⟩
/-- BLOCK_INIT: an upload of HOST_PORT 0, a download of 192 bytes to ENROL. -/
def upM : HostMsg := msgK 0x13 0 ([0x11, 0x10, 0, 0, 0, 0] ++ [1, 0] ++ List.replicate 36 0)
def downM (n : Nat) : HostMsg := msgK 0x13 0 ([0x90, 0x11, 0, 0, 0, 0] ++ [0, 0] ++ beBytes 4 n ++ List.replicate 32 9)
theorem w_BlockInit : newRequest wHost upM (pOf upM) 0x13 8 ∧ (pOf upM).body.length = 44 ∧
    (match findObj (keyOfBytes (pOf upM).body) with | .ok o => o.type == tDomain | .error _ => false) = true ∧ (session wHost.live 0).xfers.length < 2 ∧
    beAt (pOf upM).body 6 1 = 1 ∧ hasRole wHost.live 0 0 = true ∧ beAt (pOf upM).body 8 4 = 0 ∧ allZero (slice (pOf upM).body 12 32) = true ∧
    (match fetch (inHand wHost upM (pOf upM)) (servedView wHost) (wantsShadow (pOf upM)) (keyOfBytes (pOf upM).body) with | .ok _ => true | .error _ => false) = true :=
  ⟨newRequest_of (by decide +kernel), by decide +kernel⟩
theorem w_BlockInit_down : newRequest wHost (downM 192) (pOf (downM 192)) 0x13 8 ∧ beAt (pOf (downM 192)).body 6 1 = 0 ∧ hasRole wHost.live 0 1 = true ∧
    wantsShadow (pOf (downM 192)) = false ∧ (match findObj (keyOfBytes (pOf (downM 192)).body) with
      | .ok o => decide (downloadBad (inHand wHost (downM 192) (pOf (downM 192))) (xferWrite (pOf (downM 192)) (keyOfBytes (pOf (downM 192)).body) false []) o = none) &&
          sizeOk o 192 && !sizeOk o 193 && o.type == tDomain
      | .error _ => false) = true := ⟨newRequest_of (by decide +kernel), by decide +kernel⟩
/-- Transfers of session 0: an upload and a download, each of 1,030 bytes. -/
def withXfer (x : Xfer) (w : World) : World :=
  { w with link := { w.link with sessions := updNth w.link.sessions 0 (fun s => { s with xfers := [x], heard := nowNs w }) } }
def upX : Xfer := { upload := true, total := 1030, latched := List.replicate 1030 4, at_ := 7 }
def downX (next : Nat) (segs : Store Bytes) (digest : Bytes) : Xfer := { total := 1030, next := next, segs := segs, digest := digest, addr := keyOfBytes [0x90, 0x11, 0, 0, 0, 0] }
def segM (off len : Nat) (data : Bytes) : HostMsg := msgK 0x14 0 ([0, 0, 0, 0] ++ beBytes 4 off ++ beBytes 2 len ++ data)
/-- The last 6 bytes of an upload, to its very end; a first and a last segment of a download. -/
theorem w_BlockSeg : newRequest (wHost (withXfer upX)) (segM 1024 6 []) (pOf (segM 1024 6 [])) 0x14 8 ∧
    xferOf (inHand (wHost (withXfer upX)) (segM 1024 6 []) (pOf (segM 1024 6 []))) 0 0 = some upX ∧
    beAt (pOf (segM 1024 6 [])).body 4 4 + beAt (pOf (segM 1024 6 [])).body 8 2 = upX.total ∧ (pOf (segM 1024 6 [])).body.length = 10 ∧
    newRequest (wHost (withXfer (downX 1024 [(0, List.replicate 1024 1)] []))) (segM 1024 0 (List.replicate 6 1)) (pOf (segM 1024 0 (List.replicate 6 1))) 0x14 8 ∧
    xferOf (inHand (wHost (withXfer (downX 1024 [] []))) (segM 1024 0 (List.replicate 6 1)) (pOf (segM 1024 0 (List.replicate 6 1)))) 0 0 = some (downX 1024 [] []) ∧
    (pOf (segM 1024 0 (List.replicate 6 1))).body.length = 10 + min 1024 (1030 - 1024) :=
  ⟨newRequest_of (by decide +kernel), by decide +kernel, by decide +kernel, by decide +kernel, newRequest_of (by decide +kernel), by decide +kernel, by decide +kernel⟩
def endM : HostMsg := msgK 0x15 0 [0]
/-- An upload; a download with a gap; a complete one whose digest is right, and one whose digest is not. -/
def shortX (digest : Bytes) : Xfer := { total := 3, next := 3, segs := [(0, ascii "abc")], digest := digest, addr := keyOfBytes [0x90, 0x11, 0, 0, 0, 0] }
theorem w_BlockEnd : newRequest (wHost (withXfer upX)) endM (pOf endM) 0x15 8 ∧ newRequest (wHost (withXfer (shortX []))) endM (pOf endM) 0x15 8 ∧
    newRequest (wHost (withXfer (shortX (sha256 (ascii "abc"))))) endM (pOf endM) 0x15 8 ∧ (pOf endM).body.length = 1 ∧
    xferOf (inHand (wHost (withXfer (shortX []))) endM (pOf endM)) 0 (beAt (pOf endM).body 0 1) = some (shortX []) ∧
    (shortX (sha256 (ascii "abc"))).next = 3 ∧ sha256 ((shortX []).segs.flatMap (·.2)) ≠ (shortX []).digest ∧ (downX 1024 [] []).next ≠ (downX 1024 [] []).total :=
  ⟨newRequest_of (by decide +kernel), newRequest_of (by decide +kernel), newRequest_of (by decide +kernel), by decide +kernel, by decide +kernel, by decide +kernel⟩
theorem w_XferTimeout : awake (wHost (fun w => atTime 5000000007 (withXfer upX w))) ∧ (0 : Fin 8).val < (wHost (withXfer upX)).live.link.sessions.length ∧
    xferOf (wHost (fun w => atTime 5000000007 (withXfer upX w))).live (0 : Fin 8) (0 : BitVec 8).toNat = some upX ∧
    upX.at_ + sessionTimeoutNs (wHost (fun w => atTime 5000000007 (withXfer upX w))).live = nowNs (wHost (fun w => atTime 5000000007 (withXfer upX w))).live :=
  ⟨awake_mk rfl, by decide +kernel⟩
/-- Subscription 63 dropped; 0 made anew with period 2^16 on one object. -/
def subM (id period n : Nat) (addrs : Bytes) : HostMsg := msgK 0x16 0 (beBytes 1 id ++ beBytes 1 period ++ [0, 0] ++ beBytes 2 n ++ addrs)
theorem w_Subscribe : newRequest wHost (subM 63 0 0 []) (pOf (subM 63 0 0 [])) 0x16 0 ∧ (pOf (subM 63 0 0 [])).body.length = 6 ∧
    newRequest wHost (subM 0 16 1 [0x11, 0x01, 1, 0, 0, 0]) (pOf (subM 0 16 1 [0x11, 0x01, 1, 0, 0, 0])) 0x16 0 ∧ wHost.live.cfg.present = true ∧
    (match snapAll (inHand wHost (subM 0 16 1 [0x11, 0x01, 1, 0, 0, 0]) (pOf (subM 0 16 1 [0x11, 0x01, 1, 0, 0, 0]))) (servedView wHost) false
      (addrList [0, 16, 0, 0, 0, 1, 0x11, 0x01, 1, 0, 0, 0] 6 1) 0 with | .ok x => decide (12 + x.1.length ≤ 65536) | .error _ => false) = true ∧
    ratesOk (inHand wHost (subM 0 16 1 [0x11, 0x01, 1, 0, 0, 0]) (pOf (subM 0 16 1 [0x11, 0x01, 1, 0, 0, 0]))) (servedView wHost) 0
      [{ id := 0, periodLog2 := 16, phase := 0, addrs := addrList [0, 16, 0, 0, 0, 1, 0x11, 0x01, 1, 0, 0, 0] 6 1 }] = true :=
  ⟨newRequest_of (by decide +kernel), by decide +kernel, newRequest_of (by decide +kernel), by decide +kernel⟩
/-- Page requests that wait for the host, and its answers. -/
def withPages (l : List PageReq) (w : World) : World :=
  { w with link := { w.link with sessions := updNth w.link.sessions 0 (fun s => { s with pages := l }) } }
def pageReqT (write : Bool) (n : Nat) : PageReq := { reqId := 7, write := write, body := beBytes 8 3 ++ beBytes 2 0 ++ beBytes 2 2, resends := n }
theorem w_Pages : newRequest (wHost (withPages [pageReqT true 0])) (msgK 0x20 128 []) (pOf (msgK 0x20 128 [])) 0x20 8 ∧
    newRequest (wHost (withPages [pageReqT false 0])) (msgK 0x21 128 [5, 6]) (pOf (msgK 0x21 128 [5, 6])) 0x21 8 ∧
    (session (wHost (withPages [pageReqT true 0])).live 0).pages.find? (fun r => r.reqId = (pOf (msgK 0x20 128 [])).reqId ∧ r.write = true) = some (pageReqT true 0) ∧
    (session (wHost (withPages [pageReqT false 0])).live 0).pages.find? (fun r => r.reqId = (pOf (msgK 0x21 128 [5, 6])).reqId ∧ r.write = false) = some (pageReqT false 0) ∧
    bit (pOf (msgK 0x20 128 [])).flags 6 = false ∧ bit (pOf (msgK 0x21 128 [5, 6])).flags 6 = false ∧
    (pOf (msgK 0x21 128 [5, 6])).body.length = beAt (pageReqT false 0).body 10 2 ∧
    (session (wHost (withPages [pageReqT true 2])).live (0 : Fin 8)).pages.find? (fun r => r.reqId = 7) = some (pageReqT true 2) ∧
    portCarries (wHost (withPages [pageReqT true 2])).live (session (wHost (withPages [pageReqT true 2])).live (0 : Fin 8)).peer.port = true ∧
    (session (after (.pageRequestResend 0 7) (wHost (withPages [pageReqT true 2]))).live 0).live = true ∧
    (session (after (.pageRequestResend 0 7) (wHost (withPages [pageReqT true 3]))).live 0).live = false :=
  ⟨newRequest_of (by decide +kernel), newRequest_of (by decide +kernel), by decide +kernel⟩

/-! ## Witnesses: sets -/

/-- The least set that is admitted: an epoch tracker. -/
def leastSet : Store Bytes := setOf [(0x2100, 0, 6, trackerRec 4 2 [(128, 0x40400000), (344, 3), (312, 10)]), (0x2103, 1, 0, [6])]
def withCfg (f : Config → Config) (w : World) : World := { w with cfg := f w.cfg }
def wSet (f : Config → Config) (st : DevState := .live) : State := mk (withCfg f { withSession (withSet hostSet) with dev := { (withSet hostSet).dev with state := st } })
def admitM : HostMsg := msgK 0x18 0 []
theorem w_Admit : newRequest (wSet (fun c => { c with state := .editing, shadow := leastSet })) admitM (pOf admitM) 0x18 8 ∧ (pOf admitM).body = [] ∧
    setService (wSet (fun c => { c with state := .editing, shadow := leastSet })).live = true ∧
    (wSet (fun c => { c with state := .editing, shadow := leastSet })).live.link.master = some (pOf admitM).sess ∧
    shadowBusy (wSet (fun c => { c with state := .editing, shadow := leastSet })).live = false ∧
    (mk (withCfg (fun c => c) { (wSet id).live with link := { (wSet id).live.link with master := none } })).live.link.master ≠ some (pOf admitM).sess :=
  ⟨newRequest_of (by decide +kernel), by decide +kernel⟩
/-- Without an epoch tracker a set fails; with one it passes every check that no free figure enters (whether it is admitted hangs on
Config.objectService, a figure the manual does not give: log 39). -/
theorem w_Verdict : awake (wSet (fun c => { c with state := .admitting, shadow := [], admitting := some {} })) ∧
    (wSet (fun c => { c with state := .admitting, shadow := [], admitting := some {} })).live.cfg.admitting = some {} ∧
    fixedFails (fun _ => false) [] 0 ≠ [] ∧ fixedFails (fun _ => false) leastSet 0 = [] ∧ homelessFails leastSet [0, 1, 2, 3] = [] ∧
    (casesOf leastSet [0, 1, 2, 3] (placeSet leastSet [0, 1, 2, 3] [])).length = 5 ∧ goodDies (wSet id).live = [0, 1, 2, 3] :=
  ⟨awake_mk rfl, by decide +kernel⟩
/-- SWAP of ADMIT_ID 5 at the next boundary, and two epochs on; of ADMIT_ID 6; its cancelling. -/
def swapM (op id target : Nat) : HostMsg := msgK 0x19 0 (beBytes 1 op ++ List.replicate 7 0 ++ beBytes 8 id ++ beBytes 8 target)
def admittedC (c : Config) : Config := { c with state := .admitted, admitId := 5, lastAdmitId := 5, shadow := leastSet }
theorem w_Swap : newRequest (wSet admittedC) (swapM 1 5 0) (pOf (swapM 1 5 0)) 0x19 8 ∧ newRequest (wSet admittedC) (swapM 1 5 2) (pOf (swapM 1 5 2)) 0x19 8 ∧
    newRequest (wSet admittedC) (swapM 1 6 0) (pOf (swapM 1 6 0)) 0x19 8 ∧ (pOf (swapM 1 5 0)).body.length = 24 ∧ beAt (pOf (swapM 1 5 0)).body 0 1 = 1 ∧
    beAt (pOf (swapM 1 5 0)).body 8 8 = (wSet admittedC).live.cfg.admitId ∧ beAt (pOf (swapM 1 5 2)).body 16 8 = (wSet admittedC).live.dev.epoch + 2 ∧
    setService (wSet admittedC).live = true ∧ (wSet admittedC).live.link.master = some (pOf (swapM 1 5 0)).sess :=
  ⟨newRequest_of (by decide +kernel), newRequest_of (by decide +kernel), newRequest_of (by decide +kernel), by decide +kernel⟩
def pendingC (c : Config) : Config := { admittedC c with state := .swapPending, swap := some { admitId := 5 } }
theorem w_Swap_cancel : newRequest (wSet pendingC) (swapM 2 0 0) (pOf (swapM 2 0 0)) 0x19 8 ∧ beAt (pOf (swapM 2 0 0)).body 0 1 = 2 ∧
    (wSet pendingC).live.cfg.swap.isSome = true ∧ awake (wSet pendingC) := ⟨newRequest_of (by decide +kernel), by decide +kernel, by decide +kernel, awake_mk rfl⟩
theorem w_FirstSwap : awake (wSet (fun c => { pendingC c with present := false, swap := some { admitId := 5, prepared := true } }) .readyQuiet) ∧
    (wSet (fun c => { pendingC c with present := false, swap := some { admitId := 5, prepared := true } }) .readyQuiet).live.cfg.present = false ∧
    (wSet (fun c => { pendingC c with present := false, swap := some { admitId := 5, prepared := true } }) .readyQuiet).live.dev.state = .readyQuiet ∧
    (wSet (fun c => { pendingC c with present := false, swap := some { admitId := 5, prepared := true } }) .readyQuiet).live.cfg.swap = some { admitId := 5, prepared := true } :=
  ⟨awake_mk rfl, by decide +kernel⟩

/-! ## Witnesses: errors, losses, upgrades -/

def wErr (f : World → World := id) : State := mk (f (withSet []))
/-- Bedrock stores, a Seam endpoint, a die's scratchpad at its last word. -/
theorem w_Errors : awake wErr ∧ ordered wErr.live ∧ memoriesOk wErr.live ∧ storeSorted wErr.live.cont.uncorrectable ∧ inStore wErr 4 7 8191 ∧ inStore wErr 4 9 262143 ∧
    inStore wErr 4 10 (131071 * 64) ∧ inStore wErr 2 6 0 ∧ inStore wErr 3 0 (32 * 327680 - 32) ∧ storeSorted wErr.live.cont.obs.slots ∧
    (∀ p, p < 32 → pInSet wErr.live.cfg.active p = false) :=
  ⟨awake_mk rfl, ordered_of (by decide +kernel), by unfold memoriesOk; decide +kernel, by decide +kernel, by unfold inStore; decide +kernel, by unfold inStore; decide +kernel,
   by unfold inStore; decide +kernel, by unfold inStore; decide +kernel, by unfold inStore; decide +kernel, by decide +kernel, by decide +kernel⟩
/-- A codeword whose data are 31 zeros and a one, with none, two and three bytes wrong (12 R317). -/
def codeW (errs : List Nat) : Bytes := errs.foldl (fun c i => updNth c i (· ^^^ 0x5A)) (List.replicate 31 0 ++ [1] ++ checkBytes (List.replicate 31 0 ++ [1]))
theorem test_ssc : checkBytes (List.replicate 31 0 ++ [1]) = [0x0F, 0x36, 0x78, 0x40] ∧ sscDecode (codeW []) = some (codeW []) ∧
    sscDecode (codeW [35]) = some (codeW []) ∧ sscDecode (codeW [0, 34]) = some (codeW []) ∧ sscDecode (codeW [0, 7, 21]) = none := by decide +kernel
/-- The last word of Stratum, which ends a round, and the first of a scratchpad, which does not. -/
theorem w_Patrol : inStore wErr 1 4 (2 ^ 32 - 32) ∧ 2 ^ 32 - 32 + 32 = storeSize 4 ∧ (2 ^ 32 - 32) % 32 = 0 ∧ inStore wErr 0 0 0 ∧ 0 + 32 ≠ storeSize 0 ∧
    (codeW [0, 34]).length = 36 ∧ storeSorted wErr.live.cont.corrected ∧ storeSorted wErr.live.cont.scrubs ∧ codeW [] ≠ codeW [0, 34] :=
  ⟨by unfold inStore; decide +kernel, by decide +kernel, by decide +kernel, by unfold inStore; decide +kernel, by decide +kernel⟩
def wSeam (x : Seam) : State := wErr (fun w => { w with cont := { w.cont with seams := updNth w.cont.seams 2 (fun _ => x) } })
/-- The third failed replay in a row is no retraining, the fourth is. -/
theorem w_Seam : awake (wSeam { fails1 := 3 }) ∧ (5 : Fin 16).val / 2 < (wSeam {}).live.cont.seams.length ∧ (seam (wSeam { fails1 := 3 }).live (5 / 2)).retraining = false ∧
    (seam (wSeam { fails1 := 3 }).live (5 / 2)).failed = false ∧ storeSorted (wSeam {}).live.cont.replays ∧ (seam (wSeam { retraining := true }).live (2 : Fin 8)).retraining = true ∧
    (seam (after (.seamReplay 5 true) (wSeam { fails1 := 2 })).live 2).retraining = false ∧ (seam (after (.seamReplay 5 true) (wSeam { fails1 := 3 })).live 2).retraining = true :=
  ⟨awake_mk rfl, by decide +kernel⟩
def wObs (pinned queue : List ObsRec) (next : Nat) : State := wErr (fun w => { w with cont := { w.cont with obs := { w.cont.obs with pinned := pinned, queue := queue, next := next } } })
/-- A pinned record before a circular one; slot 131,071 before slot 4,096. -/
theorem w_Commit : awake (wObs [{}] [{}] 131071) ∧ (wObs [{}] [{}] 131071).live.cont.obs.pinned = {} :: [] ∧ (wObs [] [{}] 131071).live.cont.obs.pinned = [] ∧
    (wObs [] [{}] 131071).live.cont.obs.queue = {} :: [] ∧ (after .obsidianCommit (wObs [] [{}] 131071)).live.cont.obs.next = 4096 ∧
    (after .obsidianCommit (wObs [{}] [{ type := 1 }] 5000)).live.cont.obs.queue = [{ type := 1 }] := ⟨awake_mk rfl, by decide +kernel⟩

/-- Cause 6: two heartbeats missed hold it, one does not; PLL lock is the command's word. -/
theorem w_Loss : awake (wErr (withDie 1 { missedBeats := 2 })) ∧ (1 : Fin 4).val < wErr.live.dev.dies.length ∧ lossCounts wErr.live = true ∧
    dieGood (die (wErr (withDie 1 { missedBeats := 2 })).live (1 : Fin 4)) = true ∧ lossHolds (wErr (withDie 1 { missedBeats := 2 })).live (1 : Fin 4) (6 : BitVec 4).toNat = true ∧
    lossHolds (wErr (withDie 1 { missedBeats := 1 })).live (1 : Fin 4) (6 : BitVec 4).toNat = false ∧ wErr.live.cfg.present = true ∧
    ordered (wErr (withDie 1 { missedBeats := 2 })).live ∧
    lossHolds (wErr (fun w => { w with cfg := { w.cfg with present := false } })).live (1 : Fin 4) (5 : BitVec 4).toNat = true :=
  ⟨awake_mk rfl, by decide +kernel, by decide +kernel, by decide +kernel, by decide +kernel, by decide +kernel, by decide +kernel, ordered_of (by decide +kernel), by decide +kernel⟩
def wQuiet (x : Die) : State := mk (withDie 1 x (at_ .readyQuiet))
theorem w_Beats : awake (wQuiet { missedBeats := 1 }) ∧ (wQuiet {}).live.cfg.present = false ∧ lossCounts (wQuiet {}).live = true ∧ (wQuiet {}).live.dev.dies.length = 5 ∧
    dieGood (die (wQuiet {}).live (1 : Fin 4)) = true ∧ beats (wQuiet {}).live 0x08 1 = true ∧ beats (wQuiet {}).live 0xF3 1 = false ∧
    (die (after (.quietHeartbeatCheck 0xF3) (wQuiet {})).live 1).state = .serving ∧ (die (after (.quietHeartbeatCheck 0xF3) (wQuiet { missedBeats := 1 })).live 1).state = .lost :=
  ⟨awake_mk rfl, by decide +kernel⟩
/-- Die 1 lost, a boundary due 20,000 ns after the declaration; a critical loop there without a replica, or no critical work. -/
def lossSet (critical : Nat) : Store Bytes :=
  setOf [(0x5010, 0, 1, fieldsOf 112 [(80, critical), (52, 1)]), (0x2100, 0, 6, trackerRec 4 2 [(128, 0x40400000)]), (0x2103, 1, 0, [6])]
def wTake (critical : Nat) (taken : Bool) (st : DevState) : State :=
  mk (withDie 1 { state := .lost } { withSet (lossSet critical) with
    dev := { (withSet []).dev with state := st, boundaryDue := some (20500 * 65536, 0) }
    halo := { loops := [(1, { engine := 5 })] }
    cfg := { (withSet (lossSet critical)).cfg with derived := [(1, { dies := 0xD })] }
    cont := { (withSet []).cont with losses := [{ die := 1, at_ := 500, taken := taken }] } })
theorem w_Takeover : awake (wTake 1 false .recovery) ∧ ordered (wTake 1 false .recovery).live ∧ (wTake 1 false .recovery).live.cont.losses = [{ die := 1, at_ := 500 }] ∧
    (500 + 20000) * 65536 = 20500 * 65536 ∧ canCarry (wTake 1 false .recovery).live { die := 1, at_ := 500 } = false ∧
    ordered (wTake 0 false .recovery).live ∧ canCarry (wTake 0 false .recovery).live { die := 1, at_ := 500 } = true :=
  ⟨awake_mk rfl, ordered_of (by decide +kernel), by decide +kernel, by decide +kernel, by decide +kernel, ordered_of (by decide +kernel), by decide +kernel⟩
theorem w_Derived : awake (wTake 0 true .recovery) ∧ (wTake 0 true .recovery).live.dev.boundaryDue = some (20500 * 65536, 0) ∧
    (wTake 0 true .recovery).live.cont.losses.getLast? = some { die := 1, at_ := 500, taken := true } ∧ (∀ y ∈ (wTake 0 true .recovery).live.cont.losses, y.taken = true) ∧
    (wTake 0 true .recovery).live.dev.state = .recovery ∧ derivedFor (wTake 0 true .recovery).live 1 = some { dies := 0xD } := ⟨awake_mk rfl, by decide +kernel⟩
theorem w_DerivedComputed : awake (wErr (fun w => { w with cfg := { w.cfg with derivedDie := some 1 } })) ∧ (wErr (fun w => { w with cfg := { w.cfg with derivedDie := some 1 } })).live.cont.losses = [] ∧
    (wErr (fun w => { w with cfg := { w.cfg with derivedDie := some 1 } })).live.cfg.derivedDie.isSome = true := ⟨awake_mk rfl, by decide +kernel⟩
def wUp (op : Nat) (st : DieState) : State := wErr (fun w => withDie 1 { state := st } { w with
  dev := { w.dev with boundaryDue := some (1, 0) }, cont := { w.cont with upgrade := some ⟨op, 1⟩ }, cfg := { w.cfg with derived := [(1, {})] }
  garnet := { w.garnet with staged := some [] } })
theorem w_Upgrade : awake (wUp 1 .draining) ∧ (wUp 1 .draining).live.dev.boundaryDue = some (1, 0) ∧ (wUp 1 .draining).live.cont.upgrade = some ⟨1, 1⟩ ∧
    (1 : Nat) < (wUp 1 .draining).live.dev.dies.length ∧ (die (wUp 1 .draining).live 1).state = .draining ∧ (wUp 1 .draining).live.dev.state ≠ .recovery ∧
    sFind (wUp 1 .draining).live.cfg.derived 1 = some {} ∧ (die (wUp 2 .loading).live (1 : Fin 4)).state = .loading ∧ (wUp 2 .loading).live.garnet.staged = some [] ∧
    (wUp 3 .rejoining).live.cont.upgrade = some ⟨3, 1⟩ ∧ (die (wUp 3 .rejoining).live 1).state = .rejoining := ⟨awake_mk rfl, by decide +kernel⟩

/-! ## Witnesses: the package and the ports -/

/-- Temperatures at the edge of a band: 105 °C in the first, the next G32 value above it in the second. -/
theorem w_Thermal : awake wErr ∧ (2 : Fin 5).val < wErr.live.dev.dies.length ∧ dieGood (die wErr.live (2 : Fin 5)) = true ∧
    ([0x42D20000, 0, 0, 0, 0] : List W32).length = 5 ∧ lifeBand (hottestOf [0x42D20000, 0, 0, 0, 0]) = some 0 ∧ lifeBand (hottestOf [0, 0x42D20001, 0, 0, 0]) = some 1 ∧
    lifeBand (hottestOf [0x42FA0000, 0]) = some 4 ∧ lifeBand (hottestOf [0x42FA0001, 0]) = none ∧ (die wErr.live (2 : Fin 5)).bands.length = 5 := ⟨awake_mk rfl, by decide +kernel⟩
theorem w_Jtag : pinsAgree wErr.live ∧ 3 ≤ (3 : BitVec 4).toNat ∧ 3 ≤ (15 : BitVec 4).toNat := ⟨pins_mk _, by decide⟩
theorem w_Staging : awake (wErr (fun w => { w with garnet := { w.garnet with staging := some (8, 0, []) } })) ∧
    (wErr (fun w => { w with garnet := { w.garnet with staging := some (8, 0, []) } })).live.garnet.staging = some (8, 0, []) := ⟨awake_mk rfl, by decide +kernel⟩
/-- Port 0 with the address FD00::5, so many echoes answered in second 7. -/
def wPort (n : Nat) : State := mk (atTime 7999999999 { withSet (setOf [(0x1110, 0, 0, fieldsOf 64 [(0, 1), (128, 0xFD00 * 2 ^ 112 + 5)])]) with
  link := { (withSet []).link with ports := updNth (withSet []).link.ports 0 (fun x => { x with echoSecond := 7, echoCount := n }) } })
theorem w_Ports_field : actField (wPort 100).live 0x1110 (0 : Fin 2).val 255 128 = 0xFD000000000000000000000000000005 := by decide +kernel
theorem w_Ports_address : (portAddrs (wPort 100).live (0 : Fin 2)).contains 0xFD000000000000000000000000000005 = true := by
  have hc : configuredAddr (wPort 100).live (0 : Fin 2).val = 0xFD000000000000000000000000000005 := by
    simp only [configuredAddr, w_Ports_field]; rfl
  have hd : (hostPort (wPort 100).live (0 : Fin 2).val).duplicate = [] := by decide +kernel
  simp only [portAddrs, hc, hd, if_neg (by decide : ¬ (0xFD000000000000000000000000000005 : BitVec 128) = 0)]
  simp
/-- A port that detects a duplicate of its address since this very instant, and one that detects none. -/
def wDetect : State := mk { withSet (setOf [(0x1110, 0, 0, fieldsOf 64 [(0, 1), (128, 0xFD00 * 2 ^ 112 + 5)])]) with
  link := { (withSet []).link with ports := updNth (withSet []).link.ports 0 (fun x => { x with detecting := [(0xFD000000000000000000000000000005, 0)] }) } }
theorem w_Ports_detect : awake wDetect ∧ portServes wDetect.live (0 : Fin 2) = true ∧ (0 : Fin 2).val < wDetect.live.link.ports.length ∧
    (hostPort wDetect.live (0 : Fin 2)).detecting.any (fun e => e.1 = (0xFD000000000000000000000000000005 : BitVec 128) &&
      decide (nowNs wDetect.live ≤ e.2 + Config.detectTime.toNat)) = true ∧
    (hostPort wDetect.live (0 : Fin 2)).detecting.any (fun e => e.1 = (0xFD000000000000000000000000000006 : BitVec 128) &&
      decide (nowNs wDetect.live ≤ e.2 + Config.detectTime.toNat)) = false := by
  have hd : (hostPort wDetect.live (0 : Fin 2).val).detecting = [(0xFD000000000000000000000000000005, 0)] := by decide +kernel
  have hn : nowNs wDetect.live = 0 := by decide +kernel
  refine ⟨awake_mk rfl, by decide +kernel, by decide +kernel, ?_, ?_⟩
  · rw [hd, hn]; simp
  · rw [hd, hn]; simp
theorem w_Ports : awake (wPort 100) ∧ portServes (wPort 100).live (0 : Fin 2) = true ∧
    (0 : Fin 2).val < (wPort 100).live.link.ports.length ∧ (hostPort (wPort 100).live (0 : Fin 2)).echoSecond = nowNs (wPort 100).live / 1000000000 ∧
    100 ≤ (hostPort (wPort 100).live (0 : Fin 2)).echoCount ∧ (hostPort (wPort 99).live (0 : Fin 2)).echoCount < 100 :=
  ⟨awake_mk rfl, by decide +kernel⟩


end Sys2Proof.Tests
end

section
/-! PROOFS. Hardware contexts: what a context reads as after an update, what a context fault does to its own context and to the rest of
the world, and the commands whose effect leaves the device block alone. -/

namespace Sys2Proof.Machine

/-! ## Contexts after an update -/

theorem sPut_sorted {α : Type} [DecidableEq α] {d : α} {s : Store α} (i : Nat) (v : α) (h : storeSorted s) : storeSorted (sPut d s i v) := by
  unfold sPut
  split
  · exact sErase_sorted i h
  · exact sInsert_sorted i v h

@[simp] theorem ctxAt_record (ty so ix i : Nat) (w : World) (k : Nat) : ctxAt (record ty so ix i w) k = ctxAt w k := rfl

theorem onCtx_sorted (k : Nat) (f : Ctx → Ctx) {w : World} (h : storeSorted w.tiles.ctxs) : storeSorted (onCtx k f w).tiles.ctxs :=
  sPut_sorted _ _ h

theorem ctxAt_onCtx_same (k : Nat) (f : Ctx → Ctx) {w : World} (h : storeSorted w.tiles.ctxs) : ctxAt (onCtx k f w) k = f (ctxAt w k) :=
  sGet_put_same _ _ h

theorem ctxAt_onCtx_other {k j : Nat} (f : Ctx → Ctx) {w : World} (h : storeSorted w.tiles.ctxs) (hj : j ≠ k) :
    ctxAt (onCtx k f w) j = ctxAt w j := sGet_put_other _ h hj

theorem ctxRec_of_part {w : World} {k p : Nat} (h : (ctxAt w k).part = some p) : ctxRec w k = actPart w p := by simp only [ctxRec, h]

/-! ## The scope of a fault -/

/-- `w'` differs from `w` at most in what a context fault writes: contexts, partitions, Obsidian's queues, the count of draws. -/
def faultScope (w w' : World) : Prop :=
  ∃ cs sv ct n, w' = { w with tiles := { w.tiles with ctxs := cs }, serving := sv, cont := ct, free := n }

theorem faultScope.refl (w : World) : faultScope w w := ⟨_, _, _, _, rfl⟩

theorem faultScope.trans {a b c : World} (hab : faultScope a b) (hbc : faultScope b c) : faultScope a c := by
  obtain ⟨_, _, _, _, rfl⟩ := hab
  obtain ⟨cs, sv, ct, n, rfl⟩ := hbc
  exact ⟨cs, sv, ct, n, rfl⟩

theorem faultScope.dev_eq {w w' : World} (h : faultScope w w') : w'.dev = w.dev := by
  obtain ⟨_, _, _, _, rfl⟩ := h; rfl

theorem faultScope.eq_with {w w' : World} (h : faultScope w w') : w' = { w with
    tiles := { w.tiles with ctxs := w'.tiles.ctxs }, serving := w'.serving, cont := w'.cont, free := w'.free } := by
  obtain ⟨_, _, _, _, rfl⟩ := h; rfl

theorem faultScope_onCtx (k : Nat) (f : Ctx → Ctx) (w : World) : faultScope w (onCtx k f w) := ⟨_, _, _, _, rfl⟩

theorem faultScope_record (ty so ix i : Nat) (w : World) : faultScope w (record ty so ix i w) := ⟨_, _, _, _, rfl⟩

theorem faultScope_onServing (f : Serving → Serving) (w : World) : faultScope w (onServing f w) := ⟨_, _, _, _, rfl⟩

/-! ## Teardown -/

/-- A context in which a teardown has stopped issue. -/
def stopCtx (x : Ctx) : Ctx := { x with stopped := true, running := false }

theorem beginTeardown_cases (p cause reason : Nat) (w : World) : beginTeardown p cause reason w = w ∨
    ∃ f ks, beginTeardown p cause reason w = eachW ks (fun k => onCtx k stopCtx) (onServing f w) := by
  unfold beginTeardown
  split
  · exact .inl rfl
  · exact .inl rfl
  · exact .inl rfl
  · exact .inr ⟨_, _, rfl⟩

theorem beginTeardown_scope (p cause reason : Nat) (w : World) : faultScope w (beginTeardown p cause reason w) := by
  obtain h | ⟨f, ks, h⟩ := beginTeardown_cases p cause reason w
  · rw [h]; exact faultScope.refl w
  · rw [h]
    exact eachW_keeps (P := faultScope w) (fun k w' hw => hw.trans (faultScope_onCtx k stopCtx w')) ks (faultScope_onServing f w)

/-- Stopping a list of contexts leaves each one as it was or stopped; a second stop of one adds nothing to the first. -/
theorem ctxAt_stopEach (ks : List Nat) (k : Nat) {w : World} (h : storeSorted w.tiles.ctxs) :
    ctxAt (eachW ks (fun k => onCtx k stopCtx) w) k = ctxAt w k ∨
    ctxAt (eachW ks (fun k => onCtx k stopCtx) w) k = stopCtx (ctxAt w k) := by
  induction ks generalizing w with
  | nil => exact .inl rfl
  | cons j ks ih =>
    have hrest := ih (onCtx_sorted j stopCtx h)
    rw [eachW_cons]
    by_cases hk : k = j
    · subst hk
      rw [ctxAt_onCtx_same k stopCtx h] at hrest
      exact .inr (hrest.elim id id)
    · rwa [ctxAt_onCtx_other stopCtx h hk] at hrest

theorem ctxAt_beginTeardown (p cause reason k : Nat) {w : World} (h : storeSorted w.tiles.ctxs) :
    ctxAt (beginTeardown p cause reason w) k = ctxAt w k ∨ ctxAt (beginTeardown p cause reason w) k = stopCtx (ctxAt w k) := by
  obtain ht | ⟨f, ks, ht⟩ := beginTeardown_cases p cause reason w
  · exact .inl (by rw [ht])
  · rw [ht]; exact ctxAt_stopEach ks k (w := onServing f w) h

/-! ## Context faults (04 R102) -/

/-- A context after a fault in an epoch: issue stopped, the fault counted, LAST_FAULT kept. -/
def faultCtx (reason epoch : Nat) (x : Ctx) : Ctx :=
  { x with stopped := true, running := false, faults := x.faults + 1, faultReason := reason, faultPc := x.pc, faultEpoch := epoch }

/-- A context fault in its three steps: the context, the record, and the teardown of the partition that owns it. -/
theorem contextFault_eq (k reason : Nat) (w : World) : contextFault k reason w =
    match (ctxAt w k).part with
    | some p => beginTeardown p 1 reason (record 0x30 (k / 64) 0x7103 k (onCtx k (faultCtx reason w.dev.epoch) w))
    | none => record 0x30 (k / 64) 0x7103 k (onCtx k (faultCtx reason w.dev.epoch) w) := rfl

theorem contextFault_scope (k reason : Nat) (w : World) : faultScope w (contextFault k reason w) := by
  have hrec : faultScope w (record 0x30 (k / 64) 0x7103 k (onCtx k (faultCtx reason w.dev.epoch) w)) :=
    (faultScope_onCtx _ _ _).trans (faultScope_record _ _ _ _ _)
  rw [contextFault_eq]
  split
  · exact hrec.trans (beginTeardown_scope _ _ _ _)
  · exact hrec

/-- The teardown that follows a fault adds nothing to the faulting context, which the fault itself has stopped. -/
theorem ctxAt_contextFault (k reason : Nat) {w : World} (h : storeSorted w.tiles.ctxs) :
    ctxAt (contextFault k reason w) k = faultCtx reason w.dev.epoch (ctxAt w k) := by
  have hrec : ctxAt (record 0x30 (k / 64) 0x7103 k (onCtx k (faultCtx reason w.dev.epoch) w)) k = faultCtx reason w.dev.epoch (ctxAt w k) := by
    rw [ctxAt_record, ctxAt_onCtx_same k _ h]
  rw [contextFault_eq]
  split
  · rename_i p _
    obtain ht | ht := ctxAt_beginTeardown p 1 reason k
      (w := record 0x30 (k / 64) 0x7103 k (onCtx k (faultCtx reason w.dev.epoch) w)) (onCtx_sorted k _ h)
    · rw [ht, hrec]
    · rw [ht, hrec]; rfl
  · exact hrec

/-- What a context fault leaves in LAST_FAULT and the stop of its context. -/
theorem contextFault_stops (k reason : Nat) {w : World} (h : storeSorted w.tiles.ctxs) :
    (ctxAt (contextFault k reason w) k).stopped = true ∧ (ctxAt (contextFault k reason w) k).faultReason = reason ∧
    (ctxAt (contextFault k reason w) k).faultPc = (ctxAt w k).pc := by
  rw [ctxAt_contextFault k reason h]; exact ⟨rfl, rfl, rfl⟩

end Sys2Proof.Machine

namespace Sys2Proof.Claims

open Sys2Proof.Machine

/-! ## Commands that leave the device block alone -/

/-- An awake device whose device block a command leaves as it is ends in the command's effect: its pins agree already. -/
theorem runsTo_of_liveEffect {i : Instr} {s : State} {f : World → World} {P : State → Prop} (hi : exec i s = liveEffect f s) (ha : awake s)
    (hd : (f s.live).dev = s.live.dev) (hP : P { s with live := f s.live }) : runsTo i s P := by
  obtain ⟨halive, hpins⟩ := ha
  have hdev : (settle (f s.live)).dev = (f s.live).dev := calc
    (settle (f s.live)).dev = (settle s.live).dev := by simp only [settle, hd]
    _ = (f s.live).dev := by rw [show settle s.live = s.live from hpins, hd]
  have hset : settle (f s.live) = f s.live := by
    calc settle (f s.live) = { f s.live with dev := (settle (f s.live)).dev } := rfl
      _ = f s.live := by rw [hdev]
  exact ⟨{ s with live := f s.live }, by rw [hi, liveEffect_alive halive, hset], rfl, hP⟩

/-- A command whose effect on the world as it stands is none leaves the state as it is. -/
theorem runsTo_self {i : Instr} {s : State} {f : World → World} (hi : exec i s = liveEffect f s) (ha : awake s) (hf : f s.live = s.live) :
    runsTo i s (fun t => t = s) :=
  runsTo_of_liveEffect hi ha (by rw [hf]) (by rw [hf])

theorem ordered.ctxs {w : World} (h : ordered w) : storeSorted w.tiles.ctxs := by
  obtain ⟨-, -, -, hc, -⟩ := h; exact hc

theorem ordered.ctx {w : World} (h : ordered w) (k : Nat) : ctxOrdered (ctxAt w k) := by
  obtain ⟨-, -, -, -, hc, -⟩ := h; exact hc k

end Sys2Proof.Claims
end

section
/-! PROOFS. ISSUE and the stall timeout (04 R90, R91, R94, R95, R99, R101, R102). -/

namespace Sys2Proof.Machine

/-! ## A scalar command against the word at the program counter (log 12) -/

theorem runScalar_of_fetches {w : World} {c : TileCtx} {i : Instr} (f : World → World) (h : fetches w c i = true) :
    runScalar c i f w = f w := by
  obtain ⟨hrun, hnext⟩ : mayRun w (TileCtx.key c) = true ∧ nextInstr w c = some i := by simpa [fetches] using h
  simp [runScalar, hrun, hnext]

theorem runScalar_no_word {w : World} {c : TileCtx} (i : Instr) (f : World → World) (hrun : mayRun w (TileCtx.key c) = true)
    (h : nextInstr w c = none) : runScalar c i f w = contextFault (TileCtx.key c) 3 w := by simp [runScalar, hrun, h]

theorem runScalar_other_word {w : World} {c : TileCtx} {i j : Instr} (f : World → World) (h : nextInstr w c = some j) (hj : j ≠ i) :
    runScalar c i f w = w := by simp [runScalar, h, hj]

/-! ## The checks of ISSUE, in their order (log 20) -/

/-- The form of a patched command: the first check of ISSUE (04 R94). -/
def issueForm (w : World) (c : TileCtx) (cmd d : BitVec 256) : Bool :=
  formOk (tileShared w c.tile) (c.tile / 32) c.ctx cmd d && !(isDma (cOp cmd) && cField cmd 55 32 != 0)

variable {w : World} {c : TileCtx} {ra rb : Fin 16} {mask : BitVec 6} {farp fits : Bool} {imm : W32} {cmd d : BitVec 256}

theorem patched_eq {raw : BitVec 256} {p : Nat} (hp : (ctxAt w (TileCtx.key c)).part = some p)
    (hraw : codeAt w c.tile (actPart w p) imm.toNat = some raw)
    (hcmd : patchCmd mask (sReg (ctxAt w (TileCtx.key c)) ra).toNat raw = (cmd, fits))
    (hd : (if isDma (cOp cmd) then codeAt w c.tile (actPart w p) (cField cmd 31 0) else some 0) = some d) :
    patched w c ra rb mask farp imm = some (cmd,
      patchDesc (farp && (cOp cmd == 0x20 || cOp cmd == 0x21)) (sReg (ctxAt w (TileCtx.key c)) rb).toNat d, fits) := by
  simp only [patched, ctxRec_of_part hp, hraw, Option.bind_some, hcmd, hd, Option.map_some]

theorem issueOne_of_unpatched (h : patched w c ra rb mask farp imm = none) :
    issueOne c ra rb mask farp imm w = contextFault (TileCtx.key c) 3 w := by simp only [issueOne, h]

/-- ISSUE of a patched command: what the first check that fails gives, else the scoreboard's answer. -/
theorem issueOne_of_patched {p : Nat} (hp : (ctxAt w (TileCtx.key c)).part = some p)
    (h : patched w c ra rb mask farp imm = some (cmd, d, fits)) : issueOne c ra rb mask farp imm w =
      if issueForm w c cmd d = false then contextFault (TileCtx.key c) 3 w
      else if (fits && rangesOk (actPart w p) cmd d) = false then contextFault (TileCtx.key c) 2 w
      else if cycleOk cmd = false then contextFault (TileCtx.key c) 4 w
      else issueChecked (TileCtx.key c) cmd d w := by
  simp only [issueOne, h, issueForm, ctxRec_of_part hp, Bool.and_eq_false_iff, Bool.or_eq_true, Bool.not_eq_true', Bool.not_eq_false']

theorem issueOne_scope (c : TileCtx) (ra rb : Fin 16) (mask : BitVec 6) (farp : Bool) (imm : W32) (w : World) :
    faultScope w (issueOne c ra rb mask farp imm w) := by
  simp only [issueOne]
  split
  · exact contextFault_scope _ _ _
  · split_ifs
    · exact contextFault_scope _ _ _
    · exact contextFault_scope _ _ _
    · exact contextFault_scope _ _ _
    · exact faultScope_onCtx _ _ _

/-! ## The scoreboard's answer (04 R99, R101) -/

/-- A context in which a command has entered the scoreboard: under its serial, its tag's latest, the stall over. -/
def issuedCtx (w : World) (cmd d : BitVec 256) (x : Ctx) : Ctx :=
  { unstalled w x with
    sb := x.sb ++ [{ cmd := cmd, desc := d, serial := x.nextSerial }]
    tagSerial := sPut 0 x.tagSerial (cTag cmd) x.nextSerial
    nextSerial := x.nextSerial + 1
    pc := x.pc + 1 }

theorem issueChecked_eq (k : Nat) (cmd d : BitVec 256) (w : World) : issueChecked k cmd d w =
    onCtx k (fun x => if sbFree x.sb cmd d then issuedCtx w cmd d x else stalled w x) w := rfl

theorem ctxAt_issueChecked (k : Nat) (cmd d : BitVec 256) (h : storeSorted w.tiles.ctxs) : ctxAt (issueChecked k cmd d w) k =
    if sbFree (ctxAt w k).sb cmd d then issuedCtx w cmd d (ctxAt w k) else stalled w (ctxAt w k) := by
  rw [issueChecked_eq, ctxAt_onCtx_same k _ h]

theorem ctxAt_issueChecked_other {k j : Nat} (cmd d : BitVec 256) (h : storeSorted w.tiles.ctxs) (hj : j ≠ k) :
    ctxAt (issueChecked k cmd d w) j = ctxAt w j := by rw [issueChecked_eq, ctxAt_onCtx_other _ h hj]

/-! ## The stall timeout (04 R101) -/

/-- The effect of STALL_TIMEOUT: the stall counted, then a context fault with reason 1. -/
def timeOut (c : TileCtx) (w : World) : World :=
  contextFault (TileCtx.key c) 1 (onCtx (TileCtx.key c) (unstalled w) w)

theorem timeOut_scope (c : TileCtx) (w : World) : faultScope w (timeOut c w) :=
  (faultScope_onCtx _ _ _).trans (contextFault_scope _ _ _)

theorem ctxAt_timeOut (c : TileCtx) (h : storeSorted w.tiles.ctxs) :
    ctxAt (timeOut c w) (TileCtx.key c) = faultCtx 1 w.dev.epoch (unstalled w (ctxAt w (TileCtx.key c))) := by
  rw [timeOut, ctxAt_contextFault _ _ (onCtx_sorted _ _ h), ctxAt_onCtx_same _ _ h]
  rfl

theorem stallOver_of_stalled {p : Nat} (hlive : ctxLive (ctxAt w (TileCtx.key c)) = true)
    (hp : (ctxAt w (TileCtx.key c)).part = some p) (hn : nextIssue w c = some (cmd, d))
    (hfree : sbFree (ctxAt w (TileCtx.key c)).sb cmd d = false)
    (hb : pStallBound (actPart w p) < stallCount w (ctxAt w (TileCtx.key c))) : stallOver w c = true := by
  simp [stallOver, hlive, ctxRec_of_part hp, hn, hfree, hb]

end Sys2Proof.Machine

namespace Sys2Proof.Claims

open Sys2Proof.Machine

/-! ## The rows -/

theorem exec_issue (c : TileCtx) (ra rb : Fin 16) (mask : BitVec 6) (farp : Bool) (imm : W32) (s : State) :
    exec (.issue c ra rb mask farp imm) s =
      liveEffect (runScalar c (.issue c ra rb mask farp imm) (issueOne c ra rb mask farp imm)) s := rfl

theorem exec_stallTimeout (c : TileCtx) (s : State) :
    exec (.stallTimeout c.tile c.ctx) s = liveEffect (fun w => whenW (stallOver w c) (timeOut c) w) s := rfl

/-- Every scalar row is held against the word at its context's program counter. -/
theorem exec_of_scalarRow {i : Instr} {c : TileCtx} (h : scalarRow i = some c) (s : State) :
    ∃ f, exec i s = liveEffect (runScalar c i f) s := by
  unfold scalarRow at h
  split at h <;> cases h <;> exact ⟨_, rfl⟩

theorem runsTo_issue {c : TileCtx} {ra rb : Fin 16} {mask : BitVec 6} {farp : Bool} {imm : W32} {s : State} {P : State → Prop}
    (ha : awake s) (hf : fetches s.live c (.issue c ra rb mask farp imm) = true)
    (hP : P { s with live := issueOne c ra rb mask farp imm s.live }) : runsTo (.issue c ra rb mask farp imm) s P := by
  have heff := runScalar_of_fetches (issueOne c ra rb mask farp imm) hf
  exact runsTo_of_liveEffect (exec_issue c ra rb mask farp imm s) ha (by rw [heff]; exact (issueOne_scope ..).dev_eq) (by rwa [heff])

/-! ## The clauses of IssueChecksAndEntersTheScoreboard -/

theorem runsTo_scalar_no_word {s : State} {i : Instr} {c : TileCtx} (ha : awake s) (ho : ordered s.live) (hr : scalarRow i = some c)
    (hrun : mayRun s.live (TileCtx.key c) = true) (hn : nextInstr s.live c = none) : runsTo i s (fun t =>
      (ctxAt t.live (TileCtx.key c)).stopped = true ∧ (ctxAt t.live (TileCtx.key c)).faultReason = 3 ∧
      (ctxAt t.live (TileCtx.key c)).faultPc = (ctxAt s.live (TileCtx.key c)).pc) := by
  obtain ⟨f, hf⟩ := exec_of_scalarRow hr s
  have heff := runScalar_no_word i f hrun hn
  refine runsTo_of_liveEffect hf ha ?_ ?_
  · rw [heff]; exact (contextFault_scope _ _ _).dev_eq
  · rw [heff]; exact contextFault_stops _ _ ho.ctxs

theorem runsTo_scalar_other_word {s : State} {i j : Instr} {c : TileCtx} (ha : awake s) (hr : scalarRow i = some c)
    (hn : nextInstr s.live c = some j) (hj : j ≠ i) : runsTo i s (fun t => t = s) := by
  obtain ⟨f, hf⟩ := exec_of_scalarRow hr s
  exact runsTo_self hf ha (runScalar_other_word f hn hj)

/-- Settles O36: each clause is the effect of the row on the world as it stands, read through the equations of ISSUE's checks, of the
scoreboard's answer and of a context fault. -/
theorem issueChecksAndEntersTheScoreboard : Obligations.IssueChecksAndEntersTheScoreboard := by
  unfold Obligations.IssueChecksAndEntersTheScoreboard
  refine ⟨?issue, ?unpatched, ?words, ?timeout, ?noTimeout⟩
  case issue =>
    intro s c ra rb mask farp imm p raw cmd d fits ha ho hf hp hraw hcmd hd
    refine runsTo_issue ha hf ?_
    rintro d' rfl form hform
    have hone := issueOne_of_patched hp (patched_eq (rb := rb) (farp := farp) hp hraw hcmd hd)
    change form = issueForm s.live c cmd _ at hform
    rw [← hform] at hone
    have hctxs := ho.ctxs
    refine ⟨?badForm, ?badRange, ?badCycles, ?enters, ?stalls⟩
    case badForm =>
      intro h1
      obtain ⟨hs, hr, -⟩ := contextFault_stops (TileCtx.key c) 3 hctxs
      rw [hone, if_pos h1]; exact ⟨hs, hr⟩
    case badRange =>
      intro h1 h2
      obtain ⟨hs, hr, -⟩ := contextFault_stops (TileCtx.key c) 2 hctxs
      rw [hone, if_neg (by simp [h1]), if_pos h2]; exact ⟨hs, hr⟩
    case badCycles =>
      intro h1 h2 h3
      obtain ⟨hs, hr, -⟩ := contextFault_stops (TileCtx.key c) 4 hctxs
      rw [hone, if_neg (by simp [h1]), if_neg (by simp [h2]), if_pos h3]; exact ⟨hs, hr⟩
    case enters =>
      intro h1 h2 h3 hfree
      obtain ⟨-, -, -, htags⟩ := ho.ctx (TileCtx.key c)
      rw [hone, if_neg (by simp [h1]), if_neg (by simp [h2]), if_neg (by simp [h3])]
      rw [ctxAt_issueChecked _ _ _ hctxs, if_pos hfree]
      exact ⟨rfl, rfl, rfl, rfl, sGet_put_same _ _ htags, fun _ => rfl, fun k hk => ctxAt_issueChecked_other _ _ hctxs hk, rfl⟩
    case stalls =>
      intro h1 h2 h3 hfree
      rw [hone, if_neg (by simp [h1]), if_neg (by simp [h2]), if_neg (by simp [h3])]
      rw [ctxAt_issueChecked _ _ _ hctxs, if_neg (by simp [hfree])]
      exact ⟨rfl, rfl⟩
  case unpatched =>
    intro s c ra rb mask farp imm ha ho hf hnone
    obtain ⟨hs, hr, -⟩ := contextFault_stops (TileCtx.key c) 3 ho.ctxs
    exact runsTo_issue ha hf (by rw [issueOne_of_unpatched hnone]; exact ⟨hs, hr⟩)
  case words =>
    exact fun s i c ha ho hr hrun =>
      ⟨fun hn => runsTo_scalar_no_word ha ho hr hrun hn, fun j hn hj => runsTo_scalar_other_word ha hr hn hj⟩
  case timeout =>
    intro s c p cmd d ha ho hlive hp hn hfree hb
    have hover := stallOver_of_stalled hlive hp hn hfree hb
    refine runsTo_of_liveEffect (exec_stallTimeout c s) ha ?_ ?_
    · rw [hover]; exact (timeOut_scope c s.live).dev_eq
    · rw [hover, whenW_true, ctxAt_timeOut c ho.ctxs]
      exact ⟨rfl, rfl, rfl, rfl, le_max_right _ _, by rw [← (timeOut_scope c s.live).eq_with]⟩
  case noTimeout =>
    intro s c ha hover
    exact runsTo_self (exec_stallTimeout c s) ha (by rw [hover, whenW_false])

end Sys2Proof.Claims
end

section
/-! PROOFS. The epoch counter and the tick boundary (01 R20 to R22, R26, R27), the output pins (14 Table 14.3, R370), and what a failure of
Bedrock leaves running (01 R15; log 89): a frame lemma for every function of the model, and one table of what the commands keep. -/

namespace Sys2Proof.Machine

/-! ## The pulse of a world: what only time, ticks, boundaries, exchanges of sets and resets change -/

/-- What of a world only time, ticks, boundaries, exchanges of sets, resets and the test access port change. -/
structure Beat where
  epoch : Nat
  due : Option (Nat × Int)
  lc0 : Nat
  lc3 : Int
  present : Bool
  frc0 : W64
  frc1 : W64
  frc2 : W64
  frc3 : W64
  jtag : Jtag

/-- The same with the writes that wait for a boundary. -/
structure Pulse extends Beat where
  rw : List RwWrite

/-- The pulse of a world. A function of the model that says nothing of it keeps it: one lemma each, below. -/
def pulse (w : World) : Pulse where
  epoch := w.dev.epoch
  due := w.dev.boundaryDue
  lc0 := w.dev.boundaryLc0
  lc3 := w.dev.boundaryLc3
  present := w.cfg.present
  rw := w.cfg.rw
  frc0 := w.mer.frc0
  frc1 := w.mer.frc1
  frc2 := w.mer.frc2
  frc3 := w.mer.frc3
  jtag := w.jtag

/-! ### State operations and loops -/

@[simp] theorem pulse_onTiles (f : Tiles → Tiles) (w : World) : pulse (onTiles f w) = pulse w := by simp [pulse]
@[simp] theorem pulse_onSolver (f : Solver → Solver) (w : World) : pulse (onSolver f w) = pulse w := by simp [pulse]
@[simp] theorem pulse_onHalo (f : Halo → Halo) (w : World) : pulse (onHalo f w) = pulse w := by simp [pulse]
@[simp] theorem pulse_onServing (f : Serving → Serving) (w : World) : pulse (onServing f w) = pulse w := by simp [pulse]
@[simp] theorem pulse_onTrunks (f : TrunkPath → TrunkPath) (w : World) : pulse (onTrunks f w) = pulse w := by simp [pulse]
@[simp] theorem pulse_onLink (f : HostLink → HostLink) (w : World) : pulse (onLink f w) = pulse w := by simp [pulse]
@[simp] theorem pulse_onGarnet (f : Garnet → Garnet) (w : World) : pulse (onGarnet f w) = pulse w := by simp [pulse]
@[simp] theorem pulse_onCont (f : Cont → Cont) (w : World) : pulse (onCont f w) = pulse w := by simp [pulse]
@[simp] theorem pulse_onObs (f : Obsidian → Obsidian) (w : World) : pulse (onObs f w) = pulse w := by simp [onObs]
@[simp] theorem pulse_emit (o : Out) (w : World) : pulse (emit o w) = pulse w := by simp [pulse]
@[simp] theorem pulse_draw (n : Nat) (w : World) : pulse (draw n w).2 = pulse w := by simp [pulse]
@[simp] theorem pulse_settle (w : World) : pulse (settle w) = pulse w := by simp [pulse, settle]
@[simp] theorem pulse_onDie (d : Nat) (f : Die → Die) (w : World) : pulse (onDie d f w) = pulse w := by simp [pulse, onDie]
@[simp] theorem pulse_enterState (d : DevState) (w : World) : pulse (enterState d w) = pulse w := by simp [pulse, enterState]
@[simp] theorem pulse_record (ty so ix i : Nat) (w : World) : pulse (record ty so ix i w) = pulse w := by simp [pulse]
@[simp] theorem pulse_recordWith (b : Bytes) (ty so ix i : Nat) (w : World) : pulse (recordWith b ty so ix i w) = pulse w := by simp [recordWith]

@[simp] theorem pulse_onMer {f : Meridian → Meridian}
    (h : ∀ m, (f m).frc0 = m.frc0 ∧ (f m).frc1 = m.frc1 ∧ (f m).frc2 = m.frc2 ∧ (f m).frc3 = m.frc3) (w : World) :
    pulse (onMer f w) = pulse w := by
  simp [pulse, h w.mer]

@[simp] theorem pulse_onDev {f : Dev → Dev} (h : ∀ d, (f d).epoch = d.epoch ∧ (f d).boundaryDue = d.boundaryDue ∧
    (f d).boundaryLc0 = d.boundaryLc0 ∧ (f d).boundaryLc3 = d.boundaryLc3) (w : World) : pulse (onDev f w) = pulse w := by
  simp [pulse, h w.dev]

@[simp] theorem pulse_onCfg {f : Config → Config} (h : ∀ c, (f c).present = c.present ∧ (f c).rw = c.rw) (w : World) :
    pulse (onCfg f w) = pulse w := by
  simp [pulse, h w.cfg]

@[simp] theorem pulse_ite (c : Prop) [Decidable c] (a b : World) : pulse (if c then a else b) = if c then pulse a else pulse b := apply_ite _ _ _ _

@[simp] theorem pulse_eachW {α : Type} {f : α → World → World} (hf : ∀ a w, pulse (f a w) = pulse w) (l : List α) (w : World) :
    pulse (eachW l f w) = pulse w :=
  eachW_keeps (P := fun x => pulse x = pulse w) (fun a x hx => (hf a x).trans hx) l rfl

@[simp] theorem pulse_whenW {c : Bool} {f : World → World} (hf : ∀ w, pulse (f w) = pulse w) (w : World) : pulse (whenW c f w) = pulse w :=
  whenW_keeps (P := fun x => pulse x = pulse w) (fun x hx => (hf x).trans hx) rfl

@[simp] theorem pulse_free (w : World) (n : Nat) : pulse { w with free := n } = pulse w := by simp [pulse]

@[simp] theorem pulse_foldl {α : Type} {f : World → α → World} (hf : ∀ w a, pulse (f w a) = pulse w) (l : List α) (w : World) :
    pulse (l.foldl f w) = pulse w := by
  induction l generalizing w with
  | nil => rfl
  | cons a l ih => rw [List.foldl_cons, ih, hf]

@[simp] theorem pulse_foldr {α : Type} {f : α → World → World} (hf : ∀ a w, pulse (f a w) = pulse w) (l : List α) (w : World) :
    pulse (l.foldr f w) = pulse w := by
  induction l with
  | nil => rfl
  | cons a l ih => rw [List.foldr_cons, hf, ih]

@[simp] theorem pulse_foldl_fst {α β : Type} {f : World × β → α → World × β} (hf : ∀ x a, pulse (f x a).1 = pulse x.1) (l : List α)
    (x : World × β) : pulse (l.foldl f x).1 = pulse x.1 := by
  induction l generalizing x with
  | nil => rfl
  | cons a l ih => rw [List.foldl_cons, ih, hf]

@[simp] theorem pulse_foldl_snd {α β : Type} {f : β × World → α → β × World} (hf : ∀ x a, pulse (f x a).2 = pulse x.2) (l : List α)
    (x : β × World) : pulse (l.foldl f x).2 = pulse x.2 := by
  induction l generalizing x with
  | nil => rfl
  | cons a l ih => rw [List.foldl_cons, ih, hf]

@[simp] theorem pulse_ite_fst {β : Type} (c : Prop) [Decidable c] (a b : World × β) :
    pulse (if c then a else b).1 = if c then pulse a.1 else pulse b.1 := by split <;> rfl

@[simp] theorem pulse_ite_snd {β : Type} (c : Prop) [Decidable c] (a b : β × World) :
    pulse (if c then a else b).2 = if c then pulse a.2 else pulse b.2 := by split <;> rfl

/-! ### Ops -/

@[simp] theorem pulse_reportUnc (d store address w) : pulse (reportUnc d store address w) = pulse w := by simp [reportUnc]

@[simp] theorem pulse_bedrockFail (w) : pulse (bedrockFail w) = pulse w := by simp [bedrockFail]

/-! ### Clocks -/

@[simp] theorem pulse_onLc (n f w) : pulse (onLc n f w) = pulse w := by simp [onLc]

@[simp] theorem pulse_setRate (n rate w) : pulse (setRate n rate w) = pulse w := by simp [setRate]

@[simp] theorem pulse_storeRate (n w) : pulse (storeRate n w) = pulse w := by simp [storeRate]

@[simp] theorem pulse_judge (n req w) : pulse (judge n req w) = pulse w := by simp [judge]

@[simp] theorem pulse_forceStep (n step w) : pulse (forceStep n step w) = pulse w := by simp [forceStep]

@[simp] theorem pulse_releaseHold (n w) : pulse (releaseHold n w) = pulse w := by simp [releaseHold]

@[simp] theorem pulse_servoAdjust (n req rate w) : pulse (servoAdjust n req rate w) = pulse w := by simp [servoAdjust]

@[simp] theorem pulse_swapClock (n rec w) : pulse (swapClock n rec w) = pulse w := by simp [swapClock]

@[simp] theorem pulse_swapClocks (incoming w) : pulse (swapClocks incoming w) = pulse w := by simp [swapClocks]

@[simp] theorem pulse_onFrc (n f w) : pulse (onFrc n f w) = pulse w := by simp [onFrc]

@[simp] theorem pulse_frcLock (n w) : pulse (frcLock n w) = pulse w := by simp [frcLock]

@[simp] theorem pulse_doFrcHoldover (n w) : pulse (doFrcHoldover n w) = pulse w := by simp [doFrcHoldover]

@[simp] theorem pulse_doFrcRelock (n w) : pulse (doFrcRelock n w) = pulse w := by simp [doFrcRelock]

@[simp] theorem pulse_doSlewComplete (n w) : pulse (doSlewComplete n w) = pulse w := by simp [doSlewComplete]

@[simp] theorem pulse_doRampStep (w) : pulse (doRampStep w) = pulse w := by simp [doRampStep]

@[simp] theorem pulse_doTrackCompare (w) : pulse (doTrackCompare w) = pulse w := by simp [doTrackCompare]

@[simp] theorem pulse_onPtp (p f w) : pulse (onPtp p f w) = pulse w := by simp [onPtp]

@[simp] theorem pulse_acquireStep (p off w) : pulse (acquireStep p off w) = pulse w := by simp [acquireStep]

@[simp] theorem pulse_servoRun (p off w) : pulse (servoRun p off w) = pulse w := by simp [servoRun]

@[simp] theorem pulse_ptpIn {f : World → World} (hf : ∀ w, pulse (f w) = pulse w) (p ok w) : pulse (ptpIn p ok f w) = pulse w := by
  simp [ptpIn, hf]

@[simp] theorem pulse_syncIn (p origin frac w) : pulse (syncIn p origin frac w) = pulse w := by simp [syncIn]

@[simp] theorem pulse_doPtpSync (p h origin frac w) : pulse (doPtpSync p h origin frac w) = pulse w := by simp [doPtpSync]

@[simp] theorem pulse_doPtpAnnounce (p h a w) : pulse (doPtpAnnounce p h a w) = pulse w := by simp [doPtpAnnounce]

@[simp] theorem pulse_doPtpDelay (p h m frac w) : pulse (doPtpDelay p h m frac w) = pulse w := by simp [doPtpDelay]

@[simp] theorem pulse_doGmLost (p w) : pulse (doGmLost p w) = pulse w := by simp [doGmLost]

@[simp] theorem pulse_doPtpSend (p egress w) : pulse (doPtpSend p egress w) = pulse w := by simp [doPtpSend]

@[simp] theorem pulse_doPpsIn (frac w) : pulse (doPpsIn frac w) = pulse w := by simp [doPpsIn]

@[simp] theorem pulse_doPpsOut (w) : pulse (doPpsOut w) = pulse w := by simp [doPpsOut]

@[simp] theorem pulse_doPpsOutEnd (w) : pulse (doPpsOutEnd w) = pulse w := by unfold doPpsOutEnd; split <;> simp

/-! ### Trackers -/

@[simp] theorem pulse_onTracker (k f w) : pulse (onTracker k f w) = pulse w := by simp [onTracker]

@[simp] theorem pulse_keepTravel {f : World → World} (hf : ∀ w, pulse (f w) = pulse w) (k now w) :
    pulse (keepTravel k now f w) = pulse w := by simp [keepTravel, hf]

@[simp] theorem pulse_anchorTheta (k now w) : pulse (anchorTheta k now w) = pulse w := by simp [anchorTheta]

@[simp] theorem pulse_dueEdges (sel stamp w) : pulse (dueEdges sel stamp w) = pulse w := by simp [dueEdges]

@[simp] theorem pulse_setTick (p l w) : pulse (setTick p l w) = pulse w := by unfold setTick; split <;> simp

@[simp] theorem pulse_idlePin (p w) : pulse (idlePin p w) = pulse w := by simp [idlePin]

@[simp] theorem pulse_takeMeasured (k w) : pulse (takeMeasured k w) = pulse w := by simp [takeMeasured]

@[simp] theorem pulse_trackerSample (k s v w) : pulse (trackerSample k s v w) = pulse w := by simp [trackerSample]

@[simp] theorem pulse_resample (k w) : pulse (resample k w) = pulse w := by unfold resample; split <;> simp

@[simp] theorem pulse_synValid (k stamp w) : pulse (synValid k stamp w) = pulse w := by simp [synValid]

@[simp] theorem pulse_leaveFallback (k was w) : pulse (leaveFallback k was w) = pulse w := by simp [leaveFallback]

@[simp] theorem pulse_enterFallback (k lost w) : pulse (enterFallback k lost w) = pulse w := by simp [enterFallback]

@[simp] theorem pulse_enterValid (k frac w) : pulse (enterValid k frac w) = pulse w := by simp [enterValid]

@[simp] theorem pulse_swapTracker (old hadSet now k w) : pulse (swapTracker old hadSet now k w) = pulse w := by simp [swapTracker]

@[simp] theorem pulse_swapTrackers (old hadSet now w) : pulse (swapTrackers old hadSet now w) = pulse w := by simp [swapTrackers]

/-! ### Sync -/

@[simp] theorem pulse_onPart (p f w) : pulse (onPart p f w) = pulse w := by simp [onPart]

@[simp] theorem pulse_onCtx (key f w) : pulse (onCtx key f w) = pulse w := by simp [onCtx]

@[simp] theorem pulse_onSyncLedger (l f w) : pulse (onSyncLedger l f w) = pulse w := by simp [onSyncLedger]

@[simp] theorem pulse_takeSync (obj w) : pulse (takeSync obj w) = pulse w := by simp [takeSync]

@[simp] theorem pulse_wakeSync (obj w) : pulse (wakeSync obj w) = pulse w := by
  unfold wakeSync
  split
  · rfl
  · split <;> simp

@[simp] theorem pulse_postSync (obj w) : pulse (postSync obj w) = pulse w := by simp [postSync]

@[simp] theorem pulse_emptySync (lost obj w) : pulse (emptySync lost obj w) = pulse w := by simp [emptySync]

@[simp] theorem pulse_beginTeardown (p cause reason w) : pulse (beginTeardown p cause reason w) = pulse w := by
  unfold beginTeardown
  split <;> simp

@[simp] theorem pulse_contextFault (key reason w) : pulse (contextFault key reason w) = pulse w := by
  rw [contextFault_eq]
  split <;> simp

/-! ### Basalt -/

@[simp] theorem pulse_onBe (e f w) : pulse (onBe e f w) = pulse w := by simp [onBe]

@[simp] theorem pulse_onTmpl (t f w) : pulse (onTmpl t f w) = pulse w := by simp [onTmpl]

@[simp] theorem pulse_onRelease (t num f w) : pulse (onRelease t num f w) = pulse w := by simp [onRelease]

@[simp] theorem pulse_runBasalt (op f e w) : pulse (runBasalt op f e w) = pulse w := by
  simp only [runBasalt]
  split
  · rfl
  · simp only [pulse_ite, pulse_onBe, pulse_onSolver, ite_self]

/-! ### Templates -/

@[simp] theorem pulse_releaseTmpl (stamp t w) : pulse (releaseTmpl stamp t w) = pulse w := by simp [releaseTmpl]

@[simp] theorem pulse_tickReleases (k c stamp w) : pulse (tickReleases k c stamp w) = pulse w := by simp [tickReleases]

@[simp] theorem pulse_enterDelta (t slot inst fmt value src prod w) : pulse (enterDelta t slot inst fmt value src prod w) = pulse w := by
  simp [enterDelta]

@[simp] theorem pulse_enqueueChain (e c w) : pulse (enqueueChain e c w) = pulse w := by simp [enqueueChain]

@[simp] theorem pulse_assemble (t w) : pulse (assemble t w) = pulse w := by unfold assemble; split <;> simp

@[simp] theorem pulse_drainImages (w) : pulse (drainImages w) = pulse w := by simp [drainImages]

@[simp] theorem pulse_complete (e q result flags status cycles w) : pulse (complete e q result flags status cycles w) = pulse w := by
  simp [complete]

@[simp] theorem pulse_dropChain (t num result w) : pulse (dropChain t num result w) = pulse w := by
  refine (pulse_drainImages _).trans (pulse_eachW (fun e w => ?_) _ w)
  simp only [pulse_ite, pulse_onBe]
  split
  · rfl
  · split
    · rfl
    · simp only [pulse_foldl, pulse_complete, implies_true]

@[simp] theorem pulse_earlyRoutes (t e chain w) : pulse (earlyRoutes t e chain w) = pulse w := by simp [earlyRoutes]

@[simp] theorem pulse_missRelease (t r w) : pulse (missRelease t r w) = pulse w := by
  simp only [missRelease, pulse_dropChain]
  split <;> simp

@[simp] theorem pulse_retireBasalt (e cycles w) : pulse (retireBasalt e cycles w) = pulse w := by
  simp only [retireBasalt]
  split
  · rfl
  · split
    · simp
    · split
      · rfl
      · split <;>
        · split
          · simp
          · split <;> simp

@[simp] theorem pulse_deadlineReached (t w) : pulse (deadlineReached t w) = pulse w := by unfold deadlineReached; split <;> simp

@[simp] theorem pulse_basaltStruck (e w) : pulse (basaltStruck e w) = pulse w := by unfold basaltStruck; split <;> simp

/-! ### Publish -/

@[simp] theorem pulse_writeActive32 (index inst lo v w) : pulse (writeActive32 index inst lo v w) = pulse w := by simp [writeActive32]

@[simp] theorem pulse_deliverG32 (r i v w) : pulse (deliverG32 r i v w) = pulse w := by unfold deliverG32; split <;> split <;> simp

@[simp] theorem pulse_deliverDelta (r i v prod w) : pulse (deliverDelta r i v prod w) = pulse w := by simp [deliverDelta]

@[simp] theorem pulse_staleDest (r i prod w) : pulse (staleDest r i prod w).1 = pulse w := by
  simp only [staleDest, pulse_ite_fst, pulse_deliverDelta, pulse_deliverG32, pulse_onSolver, ite_self]

@[simp] theorem pulse_staleAll (seen prod l w) : pulse (staleAll seen prod l w).1 = pulse w := by
  induction l generalizing seen w with
  | nil => rfl
  | cons x l ih => simp only [staleAll, pulse_ite_fst, ih, pulse_staleDest, ite_self]

@[simp] theorem pulse_releaseHolds (t num w) : pulse (releaseHolds t num w) = pulse w := by simp [releaseHolds]

@[simp] theorem pulse_publishRelease (t prod r a) : pulse (publishRelease t prod r a).1 = pulse a.1 := by
  simp [publishRelease]

@[simp] theorem pulse_unpublishRelease (t c r a) : pulse (unpublishRelease t c r a).1 = pulse a.1 := by
  simp [unpublishRelease]

@[simp] theorem pulse_strikeResults (prod w) : pulse (strikeResults prod w).1 = pulse w := by
  refine pulse_foldl_fst (fun a t => ?_) _ _
  dsimp only
  split <;> simp

@[simp] theorem pulse_withholdConsumers (t at_ w) : pulse (withholdConsumers t at_ w) = pulse w := by
  simp only [withholdConsumers, pulse_eachW, pulse_ite, pulse_foldl, pulse_onRelease, ite_self, implies_true]

@[simp] theorem pulse_publishAll (stamp w) : pulse (publishAll stamp w) = pulse w := by
  refine (pulse_onSolver _ _).trans ((pulse_foldl_fst (fun a t => ?stale) _ _).trans
    ((pulse_foldl_fst (fun a t => pulse_foldl_fst (fun a r => ?judge) _ a) _ _).trans
      ((pulse_eachW (by simp) _ _).trans (pulse_strikeResults _ w))))
  case stale => simp
  case judge =>
    split
    · simp
    · split <;> simp

@[simp] theorem pulse_loadImage (t w) : pulse (loadImage t w) = pulse w := by simp [loadImage]

@[simp] theorem pulse_moveBlocks (old from_ to_ t w) : pulse (moveBlocks old from_ to_ t w) = pulse w := by simp [moveBlocks]

@[simp] theorem pulse_swapTemplate (old mem oldEngine t w) : pulse (swapTemplate old mem oldEngine t w) = pulse w := by
  simp only [swapTemplate, pulse_ite, pulse_loadImage, pulse_moveBlocks, pulse_onTmpl, pulse_foldl, pulse_releaseHolds, pulse_dropChain,
    implies_true, ite_self]

@[simp] theorem pulse_swapTemplates (old engines w) : pulse (swapTemplates old engines w) = pulse w := by simp [swapTemplates]

/-! ### Cells -/

@[simp] theorem pulse_onTrunk (t f w) : pulse (onTrunk t f w) = pulse w := by simp [onTrunk]

@[simp] theorem pulse_onCell (k f w) : pulse (onCell k f w) = pulse w := by simp [onCell]

@[simp] theorem pulse_onStream (n f w) : pulse (onStream n f w) = pulse w := by simp [onStream]

@[simp] theorem pulse_countTrunk (t c w) : pulse (countTrunk t c w) = pulse w := by simp [countTrunk]

@[simp] theorem pulse_sendTrunk (t b w) : pulse (sendTrunk t b w) = pulse w := by simp [sendTrunk]

@[simp] theorem pulse_onLoop (l f w) : pulse (onLoop l f w) = pulse w := by simp [onLoop]

@[simp] theorem pulse_onShadow (l f w) : pulse (onShadow l f w) = pulse w := by simp [onShadow]

@[simp] theorem pulse_handCommand (t c w) : pulse (handCommand t c w) = pulse w := by simp [handCommand]

@[simp] theorem pulse_expireCmds (k gone w) : pulse (expireCmds k gone w) = pulse w := by simp [expireCmds]

@[simp] theorem pulse_dropQueued (t gone w) : pulse (dropQueued t gone w) = pulse w := by simp [dropQueued]

/-! ### Scalar -/

@[simp] theorem pulse_padWrite (tile b v w) : pulse (padWrite tile b v w) = pulse w := by simp [padWrite]

@[simp] theorem pulse_runScalar {f : World → World} (hf : ∀ w, pulse (f w) = pulse w) (c i w) :
    pulse (runScalar c i f w) = pulse w := by
  unfold runScalar
  split
  · split
    · simp
    · simp [hf]
  · rfl

@[simp] theorem pulse_scalar (c i f w) : pulse (scalar c i f w) = pulse w := by simp [scalar]

/-! ### TileCmd -/

@[simp] theorem pulse_issueChecked (key c d w) : pulse (issueChecked key c d w) = pulse w := by simp [issueChecked]

@[simp] theorem pulse_issueOne (c ra rb mask farp imm w) : pulse (issueOne c ra rb mask farp imm w) = pulse w := by
  unfold issueOne
  split <;> simp

@[simp] theorem pulse_onEntry (key serial f w) : pulse (onEntry key serial f w) = pulse w := by simp [onEntry]

@[simp] theorem pulse_runUnit {f : SbEntry → World → BitVec 8 × World} (hf : ∀ e w, pulse (f e w).2 = pulse w) (c op w) :
    pulse (runUnit c op f w) = pulse w := by
  simp only [runUnit]
  split <;> simp [hf]

@[simp] theorem pulse_retireEntry (key e w) : pulse (retireEntry key e w) = pulse w := by simp [retireEntry]

@[simp] theorem pulse_onWin (k f w) : pulse (onWin k f w) = pulse w := by simp [onWin]

@[simp] theorem pulse_transferDone (tile e w) : pulse (transferDone tile e w) = pulse w := by
  unfold transferDone
  cases neighbour tile (wDir e.cmd) <;> simp

@[simp] theorem pulse_beginSlice (tile ctx w) : pulse (beginSlice tile ctx w) = pulse w := by simp [beginSlice]

@[simp] theorem pulse_yieldSlice (tile w) : pulse (yieldSlice tile w) = pulse w := by simp [yieldSlice]

/-! ### TileUnits -/

@[simp] theorem pulse_runMatmul (tile e w) : pulse (runMatmul tile e w).2 = pulse w := by
  simp only [runMatmul, pulse_onTiles, pulse_free]

@[simp] theorem pulse_rowsOut (tile c i stride fmt sat rows w) : pulse (rowsOut tile c i stride fmt sat rows w).2 = pulse w :=
  pulse_foldl_snd (fun a r => by simp) _ _

@[simp] theorem pulse_runTacc (tile e w) : pulse (runTacc tile e w).2 = pulse w := by simp [runTacc]

@[simp] theorem pulse_runTaccLoad (tile e w) : pulse (runTaccLoad tile e w).2 = pulse w :=
  pulse_foldl_snd (fun a i => by simp) _ _

@[simp] theorem pulse_runVld (tile key e w) : pulse (runVld tile key e w).2 = pulse w := by simp [runVld]

@[simp] theorem pulse_runVst (tile key e w) : pulse (runVst tile key e w).2 = pulse w := by simp [runVst]

@[simp] theorem pulse_runVop (key e w) : pulse (runVop key e w).2 = pulse w := by simp [runVop]

@[simp] theorem pulse_runVsf (key e w) : pulse (runVsf key e w).2 = pulse w := by simp [runVsf]

@[simp] theorem pulse_runVred (key e w) : pulse (runVred key e w).2 = pulse w := by
  simp only [runVred, pulse_onCtx, pulse_free]

/-! ### Dma -/

@[simp] theorem pulse_partIn (tile e i r first fmt data scales w) : pulse (partIn tile e i r first fmt data scales w) = pulse w := by
  simp [partIn]

@[simp] theorem pulse_clearStratum (d w) : pulse (clearStratum d w) = pulse w := by simp [clearStratum]

@[simp] theorem pulse_farRead (w c d a n) : pulse (farRead w c d a n).2 = pulse w := by unfold farRead; split <;> simp

@[simp] theorem pulse_farWrite (c d a v w) : pulse (farWrite c d a v w) = pulse w := by simp [farWrite]

@[simp] theorem pulse_loadBurst (c e i w) : pulse (loadBurst c e i w).2 = pulse w := by simp [loadBurst]

@[simp] theorem pulse_storeBurst (c e i w) : pulse (storeBurst c e i w).2 = pulse w := by simp [storeBurst]

@[simp] theorem pulse_copyBurst (c e i w) : pulse (copyBurst c e i w).2 = pulse w := by simp [copyBurst]

@[simp] theorem pulse_moveBursts {f : SbEntry → Nat → World → BitVec 8 × World} (hf : ∀ e n w, pulse (f e n w).2 = pulse w) (c e n w) :
    pulse (moveBursts c e n f w) = pulse w := by simp [moveBursts, hf]

@[simp] theorem pulse_runFar {f : SbEntry → Nat → World → BitVec 8 × World} (hf : ∀ e n w, pulse (f e n w).2 = pulse w) (c op n fmt w) :
    pulse (runFar c op n fmt f w) = pulse w := by
  unfold runFar
  split <;> simp [hf]

@[simp] theorem pulse_windowFault (key e w) : pulse (windowFault key e w) = pulse w := by simp [windowFault]

@[simp] theorem pulse_meshBegin (c op w) : pulse (meshBegin c op w) = pulse w := by
  simp only [meshBegin]
  split <;> simp

/-! ### HaloMath -/

@[simp] theorem pulse_onGen (g f w) : pulse (onGen g f w) = pulse w := by simp [onGen]

/-! ### Halo -/

@[simp] theorem pulse_onHe (e f w) : pulse (onHe e f w) = pulse w := by simp [onHe]

@[simp] theorem pulse_onInj (i f w) : pulse (onInj i f w) = pulse w := by simp [onInj]

@[simp] theorem pulse_onCap (c f w) : pulse (onCap c f w) = pulse w := by simp [onCap]

@[simp] theorem pulse_startInjs (l t1 w) : pulse (startInjs l t1 w) = pulse w := by
  refine pulse_eachW (fun i w => ?_) _ w
  split <;> simp

@[simp] theorem pulse_issueCmd (new tx law u w) : pulse (issueCmd new tx law u w).1 = pulse w := by
  simp only [issueCmd, pulse_ite_fst, pulse_onHe, pulse_onLoop, pulse_handCommand, ite_self]

@[simp] theorem pulse_decideCmd (e c slopeOk u w) : pulse (decideCmd e c slopeOk u w).1 = pulse w := by
  simp only [decideCmd]
  split
  · rfl
  · simp only [pulse_ite_fst, pulse_onLoop, pulse_issueCmd, ite_self]

@[simp] theorem pulse_openUpdate (u w) : pulse (openUpdate u w).1 = pulse w := by simp [openUpdate]

@[simp] theorem pulse_updateWith (e slopeOk u w) : pulse (updateWith e slopeOk u w).1 = pulse w := by
  simp only [updateWith, pulse_ite_fst, pulse_ite, pulse_onLoop, pulse_openUpdate, pulse_decideCmd, ite_self]

@[simp] theorem pulse_captureUpdate (u signals sent c w) : pulse (captureUpdate u signals sent c w) = pulse w := by simp [captureUpdate]

@[simp] theorem pulse_loopUpdate (s w) : pulse (loopUpdate s w) = pulse w := by
  simp only [loopUpdate, pulse_eachW, pulse_captureUpdate, pulse_ite_fst, pulse_ite, pulse_onLoop, pulse_onHe, pulse_updateWith,
    pulse_startInjs, ite_self, implies_true]

@[simp] theorem pulse_haloUpdate (e w) : pulse (haloUpdate e w) = pulse w := by unfold haloUpdate; split <;> simp

@[simp] theorem pulse_loopCtrl (l v w) : pulse (loopCtrl l v w) = pulse w := by simp [loopCtrl]

@[simp] theorem pulse_autoClose (lc3 w) : pulse (autoClose lc3 w) = pulse w := by
  refine pulse_eachW (fun l w => ?_) _ w
  split <;> simp

@[simp] theorem pulse_profileStep (g w) : pulse (profileStep g w) = pulse w := by simp [profileStep]

@[simp] theorem pulse_injSettle (l w) : pulse (injSettle l w) = pulse w := by simp [injSettle]

@[simp] theorem pulse_injArm (i at_ w) : pulse (injArm i at_ w) = pulse w := by simp [injArm]

@[simp] theorem pulse_injHalt (i w) : pulse (injHalt i w) = pulse w := by simp [injHalt]

@[simp] theorem pulse_capArm (c v at_ w) : pulse (capArm c v at_ w) = pulse w := by simp [capArm]

@[simp] theorem pulse_capEvent (c at_ w) : pulse (capEvent c at_ w) = pulse w := by simp [capEvent]

@[simp] theorem pulse_swapLoop (old l w) : pulse (swapLoop old l w) = pulse w := by simp [swapLoop]

@[simp] theorem pulse_swapGen (old g w) : pulse (swapGen old g w) = pulse w := by simp [swapGen]

@[simp] theorem pulse_swapHalo (old w) : pulse (swapHalo old w) = pulse w := by simp [swapHalo]

/-! ### Pds -/

@[simp] theorem pulse_onRng (f w) : pulse (onRng f w) = pulse w := by simp [onRng]

@[simp] theorem pulse_entropy (w) : pulse (entropy w).2 = pulse w := by simp [entropy]

@[simp] theorem pulse_rngSeed (w) : pulse (rngSeed w) = pulse w := by simp [rngSeed]

@[simp] theorem pulse_rngReseedNow (w) : pulse (rngReseedNow w) = pulse w := by simp [rngReseedNow]

theorem pulse_rngDraw {n : Nat} {w w' : World} {b : Bytes} (h : rngDraw n w = some (b, w')) : pulse w' = pulse w := by
  unfold rngDraw at h
  split at h
  · cases h
  · cases h; simp

theorem pulse_rngScalar {n : Nat} {w w' : World} (h : rngScalar w = some (n, w')) : pulse w' = pulse w := by
  obtain ⟨r, hr, he⟩ := Option.map_eq_some_iff.1 h
  cases he; exact pulse_rngDraw hr

@[simp] theorem pulse_onPort (p f w) : pulse (onPort p f w) = pulse w := by simp [onPort]

@[simp] theorem pulse_onSession (n f w) : pulse (onSession n f w) = pulse w := by simp [onSession]

@[simp] theorem pulse_detect (p a w) : pulse (detect p a w) = pulse w := by simp [detect]

@[simp] theorem pulse_sendOn (p o w) : pulse (sendOn p o w) = pulse w := by simp [sendOn]

@[simp] theorem pulse_sendPds (x n type flags reqId frag body w) : pulse (sendPds x n type flags reqId frag body w) = pulse w := by
  simp [sendPds]

@[simp] theorem pulse_sendBare (x type reqId body w) : pulse (sendBare x type reqId body w) = pulse w := by simp [sendBare]

@[simp] theorem pulse_sendBody (x n type flags reqId body w) : pulse (sendBody x n type flags reqId body w) = pulse w := by simp [sendBody]

@[simp] theorem pulse_respond (n type flags reqId body w) : pulse (respond n type flags reqId body w) = pulse w := by simp [respond]

@[simp] theorem pulse_abortReq (n type reqId code w detail) : pulse (abortReq n type reqId code w detail) = pulse w := by simp [abortReq]

@[simp] theorem pulse_sendPage (n write body w) : pulse (sendPage n write body w) = pulse w := by simp [sendPage]

@[simp] theorem pulse_sendPages (n write frame page w) : pulse (sendPages n write frame page w) = pulse w := by simp [sendPages]

/-! ### Kv -/

@[simp] theorem pulse_onSeq (s f w) : pulse (onSeq s f w) = pulse w := by simp [onSeq]

@[simp] theorem pulse_onPool (p f w) : pulse (onPool p f w) = pulse w := by simp [onPool]

@[simp] theorem pulse_onPfx (k f w) : pulse (onPfx k f w) = pulse w := by simp [onPfx]

@[simp] theorem pulse_onLists (p m f w) : pulse (onLists p m f w) = pulse w := by simp [onLists]

@[simp] theorem pulse_onList (p m n f w) : pulse (onList p m n f w) = pulse w := by simp [onList]

@[simp] theorem pulse_putFrame (p tier d f bytes w) : pulse (putFrame p tier d f bytes w) = pulse w := by unfold putFrame; split <;> simp

@[simp] theorem pulse_swapOut (p f bytes w) : pulse (swapOut p f bytes w) = pulse w := by simp [swapOut]

@[simp] theorem pulse_swapIn (p f bytes w) : pulse (swapIn p f bytes w) = pulse w := by simp [swapIn]

@[simp] theorem pulse_refillReserves (p w) : pulse (refillReserves p w) = pulse w := by simp [refillReserves]

@[simp] theorem pulse_dropPages (p m w) : pulse (dropPages p m w) = pulse w := by simp [dropPages]

@[simp] theorem pulse_attach (s w) : pulse (attach s w) = pulse w := by simp [attach]

@[simp] theorem pulse_startPrefetch (s w) : pulse (startPrefetch s w) = pulse w := by
  refine pulse_eachW (fun l w => pulse_eachW (fun i w => ?_) _ w) _ w
  split <;> simp

@[simp] theorem pulse_becomeDue (s w) : pulse (becomeDue s w) = pulse w := by simp [becomeDue]

@[simp] theorem pulse_builderSample (stream v t1 ta w) : pulse (builderSample stream v t1 ta w) = pulse w := by
  refine pulse_eachW (fun s w => ?_) _ w
  dsimp only
  split
  · rfl
  · exact pulse_onSeq ..

@[simp] theorem pulse_tokenTicks (k c lc w) : pulse (tokenTicks k c lc w) = pulse w := by simp [tokenTicks]

@[simp] theorem pulse_tokenClose (s w) : pulse (tokenClose s w) = pulse w := by
  simp only [tokenClose]
  split
  · rfl
  · simp only [pulse_ite, pulse_onSeq, pulse_becomeDue, ite_self]

@[simp] theorem pulse_onPage (p m n i f w) : pulse (onPage p m n i f w) = pulse w := by simp [onPage]

@[simp] theorem pulse_startMove (p s n i dest w) : pulse (startMove p s n i dest w) = pulse w := by simp [startMove]

@[simp] theorem pulse_spillFrom (p tier w) : pulse (spillFrom p tier w).1 = pulse w := by
  unfold spillFrom
  split
  · rfl
  · split
    · rfl
    · split <;> simp

@[simp] theorem pulse_spillOne (p tiers w) : pulse (spillOne p tiers w).1 = pulse w := by
  induction tiers generalizing w with
  | nil => rfl
  | cons t ts ih => simp [spillOne, ih]

@[simp] theorem pulse_backgroundSpill (p w) : pulse (backgroundSpill p w) = pulse w := by simp [backgroundSpill]

@[simp] theorem pulse_sendAway (p s n i w) : pulse (sendAway p s n i w) = pulse w := by unfold sendAway; split <;> simp

@[simp] theorem pulse_stageAway (p s n w) : pulse (stageAway p s n w) = pulse w := by
  refine (pulse_eachW (by simp) _ _).trans ((pulse_eachW (fun _ w => ?_) _ _).trans (by simp))
  split <;> simp

@[simp] theorem pulse_preempt (p s w) : pulse (preempt p s w) = pulse w := by simp [preempt]

@[simp] theorem pulse_makeRoom (p w) : pulse (makeRoom p w) = pulse w := by
  have hspill : pulse (if kvSpill (kvRec w p) then spillOne p [1, 2, 0] w else (w, false)).1 = pulse w := by simp
  unfold makeRoom
  split
  split_ifs
  all_goals simp_all

@[simp] theorem pulse_preemptEnded (p members w) : pulse (preemptEnded p members w) = pulse w := by
  refine pulse_eachW (fun s w => ?_) _ w
  split <;> simp

@[simp] theorem pulse_flushList (p m n w) : pulse (flushList p m n w).1 = pulse w := by
  simp only [flushList, pulse_ite_fst]
  split
  · rfl
  · split <;> simp

@[simp] theorem pulse_flushAll (p m w) : pulse (flushAll p m w) = pulse w := by simp [flushAll]

@[simp] theorem pulse_judgeStall (p s w) : pulse (judgeStall p s w) = pulse w := by unfold judgeStall; split <;> simp

@[simp] theorem pulse_judgePrefix (p m w) : pulse (judgePrefix p m w) = pulse w := by simp [judgePrefix]

@[simp] theorem pulse_retryFlushes (p w) : pulse (retryFlushes p w) = pulse w := by simp [retryFlushes]

@[simp] theorem pulse_pageMoved (s e w) : pulse (pageMoved s e w) = pulse w := by
  simp only [pageMoved]
  split
  · rfl
  · split <;> simp

@[simp] theorem pulse_prefetchDone (s e w) : pulse (prefetchDone s e w) = pulse w := by
  simp only [prefetchDone]
  split
  · rfl
  · split <;> simp

@[simp] theorem pulse_startReturn (p s w) : pulse (startReturn p s w) = pulse w := by
  refine (pulse_eachW (fun n w => (pulse_eachW (fun i w => ?_) _ _).trans (by simp)) _ _).trans (by simp)
  split <;> simp

@[simp] theorem pulse_endReturn (p s w) : pulse (endReturn p s w) = pulse w := by simp [endReturn]

@[simp] theorem pulse_preemptReturn (s w) : pulse (preemptReturn s w) = pulse w := by simp [preemptReturn]

@[simp] theorem pulse_restartSeq (s w) : pulse (restartSeq s w) = pulse w := by simp [restartSeq]

@[simp] theorem pulse_contextEnd (s w) : pulse (contextEnd s w) = pulse w := by simp [contextEnd]

@[simp] theorem pulse_loseContext (s w) : pulse (loseContext s w) = pulse w := by simp [loseContext]

@[simp] theorem pulse_losePages (lost p w) : pulse (losePages lost p w) = pulse w := by simp [losePages]

@[simp] theorem pulse_loseSwapPages (sess w) : pulse (loseSwapPages sess w) = pulse w := by simp [loseSwapPages]

/-! ### Partitions -/

@[simp] theorem pulse_loadCode (p e w) : pulse (loadCode p e w) = pulse w := by simp [loadCode]

@[simp] theorem pulse_scrubWords (r words w) : pulse (scrubWords r words w) = pulse w := by simp [scrubWords]

@[simp] theorem pulse_scrubShares (p w) : pulse (scrubShares p w) = pulse w := by simp [scrubShares]

@[simp] theorem pulse_loadWeights (p m w) : pulse (loadWeights p m w) = pulse w := by simp [loadWeights]

@[simp] theorem pulse_readRegime (w) : pulse (readRegime w) = pulse w := by
  refine pulse_eachW (fun p w => ?_) _ w
  dsimp only
  split
  · rfl
  · split <;> simp

@[simp] theorem pulse_patchCounts (p tile members w) : pulse (patchCounts p tile members w) = pulse w := by
  refine pulse_eachW (fun i w => pulse_eachW (fun n w => ?_) _ w) _ w
  split <;> simp

@[simp] theorem pulse_writeMembers (p members w) : pulse (writeMembers p members w) = pulse w := by simp [writeMembers]

@[simp] theorem pulse_postStarts (p w) : pulse (postStarts p w) = pulse w := by simp [postStarts]

@[simp] theorem pulse_settleSlices (p starts w) : pulse (settleSlices p starts w) = pulse w := by simp [settleSlices]

@[simp] theorem pulse_stepForm (p w) : pulse (stepForm p w) = pulse w := by
  have hmember (m : Nat) (w : World) : pulse ((if isPfx m then onPfx (pfxKey m p) (fun x => { x with running := true })
      else onSeq m (fun x => { x with mode := .running, prefetchLate := false })) w) = pulse w := by split <;> simp
  simp [stepForm, hmember]

@[simp] theorem pulse_ringRefill (p tile slot w) : pulse (ringRefill p tile slot w) = pulse w := by
  simp only [ringRefill]
  split <;> simp

@[simp] theorem pulse_applyOutputs (set s ys w) : pulse (applyOutputs set s ys w) = pulse w := by simp [applyOutputs]

@[simp] theorem pulse_appendRows (p m rows w) : pulse (appendRows p m rows w) = pulse w := by simp [appendRows]

@[simp] theorem pulse_unpin (p m w) : pulse (unpin p m w) = pulse w := by simp [unpin]

@[simp] theorem pulse_prefixDone (p m w) : pulse (prefixDone p m w) = pulse w := by simp [prefixDone]

@[simp] theorem pulse_endPrefix (p m rows w) : pulse (endPrefix p m rows w) = pulse w := by simp [endPrefix]

@[simp] theorem pulse_endSeq (p s set out w) : pulse (endSeq p s set out w) = pulse w := by simp [endSeq]

@[simp] theorem pulse_endMember (p m w) : pulse (endMember p m w) = pulse w := by
  simp only [endMember, pulse_ite, pulse_endPrefix, pulse_endSeq, pulse_unpin, pulse_free, pulse_eachW, pulse_onTiles, ite_self,
    implies_true]

@[simp] theorem pulse_stepPerf (p w) : pulse (stepPerf p w) = pulse w := by simp [stepPerf]

@[simp] theorem pulse_stepOverrun (p w) : pulse (stepOverrun p w) = pulse w := by simp [stepOverrun]

@[simp] theorem pulse_stepEndPhase (p w) : pulse (stepEndPhase p w) = pulse w := by simp [stepEndPhase]

@[simp] theorem pulse_settleCtx (key w) : pulse (settleCtx key w) = pulse w := by simp [settleCtx]

@[simp] theorem pulse_clearServing (r w) : pulse (clearServing r w) = pulse w := by simp [clearServing]

@[simp] theorem pulse_rollBack (p w) : pulse (rollBack p w) = pulse w := by simp [rollBack]

@[simp] theorem pulse_teardownComplete (p w) : pulse (teardownComplete p w) = pulse w := by simp [teardownComplete]

@[simp] theorem pulse_switchStart (p w) : pulse (switchStart p w) = pulse w := by simp [switchStart]

@[simp] theorem pulse_switchComplete (p w) : pulse (switchComplete p w) = pulse w := by simp [switchComplete]

@[simp] theorem pulse_partCtrl (p v w) : pulse (partCtrl p v w) = pulse w := by unfold partCtrl; split <;> simp

@[simp] theorem pulse_keepSet (old p w) : pulse (keepSet old p w) = pulse w := by simp [keepSet]

@[simp] theorem pulse_swapPart (old p w) : pulse (swapPart old p w) = pulse w := by simp [swapPart]

@[simp] theorem pulse_swapServing (old oldMap w) : pulse (swapServing old oldMap w) = pulse w := by simp [swapServing]

@[simp] theorem pulse_publishOutputs (w) : pulse (publishOutputs w) = pulse w := by simp [publishOutputs]

/-! ### Sessions -/

@[simp] theorem pulse_dropMalformed (p w) : pulse (dropMalformed p w) = pulse w := by simp [dropMalformed]

@[simp] theorem pulse_setupFails (port w) : pulse (setupFails port w) = pulse w := by simp [setupFails]

@[simp] theorem pulse_openSession (m p khd kdh w) : pulse (openSession m p khd kdh w) = pulse w := by simp [openSession]

@[simp] theorem pulse_proofTimeout (slot w) : pulse (proofTimeout slot w) = pulse w := by simp [proofTimeout]

/-! ### Admission -/

@[simp] theorem pulse_admitVerdict (durationMs w) : pulse (admitVerdict durationMs w) = pulse w := by unfold admitVerdict; split <;> simp

/-! ### Trunks -/

@[simp] theorem pulse_trunkLoss (t w) : pulse (trunkLoss t w) = pulse w := by simp [trunkLoss]

@[simp] theorem pulse_linkUp (t rate master w) : pulse (linkUp t rate master w) = pulse w := by simp [linkUp]

@[simp] theorem pulse_frameIn {run : Nat → Bytes → World → World} (hr : ∀ k b w, pulse (run k b w) = pulse w) (t f mine w) :
    pulse (frameIn t f mine run w) = pulse w := by
  unfold frameIn
  split
  · rfl
  · split <;> simp [hr]

@[simp] theorem pulse_dropSamples (t n reason w) : pulse (dropSamples t n reason w) = pulse w := by simp [dropSamples]

@[simp] theorem pulse_deliverLoops (s v t ta w) : pulse (deliverLoops s v t ta w) = pulse w := by simp [deliverLoops]

@[simp] theorem pulse_deliverTrackers (s v w) : pulse (deliverTrackers s v w) = pulse w := by simp [deliverTrackers]

@[simp] theorem pulse_channelIn (t0 s1 raw2 t13 w4) : pulse (channelIn t0 s1 raw2 t13 w4) = pulse w4 := by simp [channelIn]

@[simp] theorem pulse_sampleIn (t k b w) : pulse (sampleIn t k b w) = pulse w := by simp [sampleIn]

@[simp] theorem pulse_ackCommand (t k c rej late w) : pulse (ackCommand t k c rej late w) = pulse w := by simp [ackCommand]

@[simp] theorem pulse_pathDelay (t0 k1 b2 t43 w4) : pulse (pathDelay t0 k1 b2 t43 w4) = pulse w4 := by unfold pathDelay; split <;> simp

@[simp] theorem pulse_creditIn (t frac k b w) : pulse (creditIn t frac k b w) = pulse w := by simp [creditIn]

@[simp] theorem pulse_announceIn (k b w) : pulse (announceIn k b w) = pulse w := by
  simp only [announceIn]
  split <;> simp

@[simp] theorem pulse_ackIn (k b w) : pulse (ackIn k b w) = pulse w := by unfold ackIn; split <;> simp

@[simp] theorem pulse_alarmIn (k b w) : pulse (alarmIn k b w) = pulse w := by simp [alarmIn]

@[simp] theorem pulse_starts (t w) : pulse (starts t w) = pulse w := by simp [starts]

@[simp] theorem pulse_cellSync (t k egress w) : pulse (cellSync t k egress w) = pulse w := by simp [cellSync]

@[simp] theorem pulse_oweSyncs (w) : pulse (oweSyncs w) = pulse w := by simp [oweSyncs]

@[simp] theorem pulse_dropAllQueued (w) : pulse (dropAllQueued w) = pulse w := by simp [dropAllQueued]

@[simp] theorem pulse_departure (t frac w) : pulse (departure t frac w) = pulse w := by
  simp only [departure]
  split
  · rfl
  · rw [pulse_ite]
    split
    · rfl
    · rw [pulse_sendTrunk]
      split <;> simp

@[simp] theorem pulse_swapCells (old hadSet w) : pulse (swapCells old hadSet w) = pulse w := by simp [swapCells]

/-! ### TrackerCmds -/

@[simp] theorem pulse_encoderEdge (enc pinB rising frac w) : pulse (encoderEdge enc pinB rising frac w) = pulse w := by simp [encoderEdge]

@[simp] theorem pulse_eventAction (action target at_ w) : pulse (eventAction action target at_ w) = pulse w := by
  unfold eventAction
  split <;> simp

@[simp] theorem pulse_eventFire (k e fwd frac w) : pulse (eventFire k e fwd frac w) = pulse w := by simp [eventFire]

@[simp] theorem pulse_tickStart (p w) : pulse (tickStart p w) = pulse w := by unfold tickStart; split <;> simp

@[simp] theorem pulse_setOmegaSyn (k v w) : pulse (setOmegaSyn k v w) = pulse w := by simp [setOmegaSyn]

/-! ### Security -/

@[simp] theorem pulse_verified (code w) : pulse (verified code w) = pulse w := by simp [verified]

@[simp] theorem pulse_stageVerified (w) : pulse (stageVerified w) = pulse w := by unfold stageVerified; split <;> simp

@[simp] theorem pulse_floorRaise (v w) : pulse (floorRaise v w) = pulse w := by simp [floorRaise]

@[simp] theorem pulse_enrol (r w) : pulse (enrol r w).1 = pulse w := by unfold enrol; split <;> simp

/-! ### Services -/

@[simp] theorem pulse_publishDue (v w) : pulse (publishDue v w) = pulse w := by simp [publishDue]

@[simp] theorem pulse_cancelSubs (v w) : pulse (cancelSubs v w) = pulse w := by simp [cancelSubs]

@[simp] theorem pulse_pageData (n frame off data w) : pulse (pageData n frame off data w) = pulse w := by
  refine pulse_eachW (fun p w => pulse_eachW (fun m w => pulse_eachW (fun l w => ?_) _ w) _ w) _ w
  refine (pulse_eachW (by simp) _ _).trans ?_
  split <;> simp

@[simp] theorem pulse_neighbor (p src mac target w) : pulse (neighbor p src mac target w) = pulse w := by simp [neighbor]

@[simp] theorem pulse_echo (p src dst mac payload w) : pulse (echo p src dst mac payload w) = pulse w := by simp [echo]

/-! ### Writes -/

@[simp] theorem pulse_editShadow (f w) : pulse (editShadow f w) = pulse w := by simp [editShadow]

@[simp] theorem pulse_shadowCtrl (v code w) : pulse (shadowCtrl v code w) = pulse w := by simp [shadowCtrl]

@[simp] theorem pulse_actNow (v x w) : pulse (actNow v x w) = pulse w := by unfold actNow; split <;> split <;> simp

@[simp] theorem pulse_onXfer (n id f w) : pulse (onXfer n id f w) = pulse w := by simp [onXfer]

@[simp] theorem pulse_endXfer (n id w) : pulse (endXfer n id w) = pulse w := by simp [endXfer]

@[simp] theorem pulse_openXfer (p flags epoch x w) : pulse (openXfer p flags epoch x w) = pulse w := by simp [openXfer]

/-! ### Exchange -/

@[simp] theorem pulse_keepWrite (r w) : pulse (keepWrite r w) = pulse w := by simp [keepWrite]

@[simp] theorem pulse_beginUpgrade (d v w) : pulse (beginUpgrade d v w) = pulse w := by
  unfold beginUpgrade
  dsimp only
  split <;> simp

@[simp] theorem pulse_applyRw (lc0 lc3 r w) : pulse (applyRw lc0 lc3 r w).1 = pulse w := by
  simp only [applyRw]
  split
  · rfl
  · split
    · rfl
    · split
      case h_14 => split <;> simp
      all_goals simp

@[simp] theorem pulse_answerWrites (swapped l w) : pulse (answerWrites swapped l w) = pulse w := by
  refine pulse_eachW (fun x w => ?_) l w
  split
  · exact pulse_abortReq ..
  · exact pulse_respond ..

@[simp] theorem pulse_swapParams (prod w) : pulse (swapParams prod w) = pulse w := by simp [swapParams]

@[simp] theorem pulse_holdPages (w) : pulse (holdPages w) = pulse w := by simp [holdPages]

@[simp] theorem pulse_stopPart (p w) : pulse (stopPart p w) = pulse w := by simp [stopPart]

@[simp] theorem pulse_stopShed (w) : pulse (stopShed w) = pulse w := by simp [stopShed]

@[simp] theorem pulse_deriveExchange (d w) : pulse (deriveExchange d w) = pulse w := by simp [deriveExchange]

@[simp] theorem pulse_placePage (p s n g w) : pulse (placePage p s n g w) = pulse w := by
  simp only [placePage]
  split
  · simp
  · split <;> simp

@[simp] theorem pulse_rehome (s x w) : pulse (rehome s x w) = pulse w := by simp [rehome]

@[simp] theorem pulse_handTemplates (engines w) : pulse (handTemplates engines w) = pulse w := by
  refine pulse_eachW (fun te w => ?_) engines w
  dsimp only
  split <;> simp

@[simp] theorem pulse_moveQueued (w) : pulse (moveQueued w) = pulse w := by simp [moveQueued]

@[simp] theorem pulse_handOver (map derived d w) : pulse (handOver map derived d w) = pulse w := by simp [handOver]

@[simp] theorem pulse_swapResult (result id epoch code w) : pulse (swapResult result id epoch code w) = pulse w := by simp [swapResult]

@[simp] theorem pulse_failSwap (code detail then_ w) : pulse (failSwap code detail then_ w) = pulse w := by unfold failSwap; split <;> simp

@[simp] theorem pulse_swapPrepared (w) : pulse (swapPrepared w) = pulse w := by simp [swapPrepared]

/-! ### Errors -/

@[simp] theorem pulse_strikePages (hit w) : pulse (strikePages hit w) = pulse w := by simp [strikePages]

@[simp] theorem pulse_strikeTile (tile byte w) : pulse (strikeTile tile byte w) = pulse w := by simp [strikeTile]

@[simp] theorem pulse_loseRelease (t num w) : pulse (loseRelease t num w) = pulse w := by simp [loseRelease]

@[simp] theorem pulse_strikeBasalt (e word w) : pulse (strikeBasalt e word w) = pulse w := by
  simp only [strikeBasalt]
  split
  · simp
  · split
    · simp
    · split <;> simp

@[simp] theorem pulse_strikeReaders (w) : pulse (strikeReaders w) = pulse w := by
  refine pulse_eachW (fun e w => pulse_eachW (fun s w => ?_) _ w) _ w
  dsimp only
  split
  · rfl
  · split <;> simp

@[simp] theorem pulse_mendBasalt (w) : pulse (mendBasalt w) = pulse w := by simp [mendBasalt]

@[simp] theorem pulse_strikeHalo (e word w) : pulse (strikeHalo e word w) = pulse w := by
  simp only [strikeHalo]
  split <;> simp

@[simp] theorem pulse_resumeLoop (l e x w) : pulse (resumeLoop l e x w) = pulse w := by simp [resumeLoop]

@[simp] theorem pulse_restartGen (g w) : pulse (restartGen g w) = pulse w := by simp [restartGen]

@[simp] theorem pulse_mendHalo (w) : pulse (mendHalo w) = pulse w := by
  refine (pulse_eachW (fun l w => ?loops) _ _).trans (pulse_eachW (fun g w => ?gens) _ w)
  case gens => dsimp only; split <;> simp
  case loops =>
    dsimp only
    split
    · rw [pulse_resumeLoop]
      split
      · split <;> simp
      · rfl
    · simp

@[simp] theorem pulse_strikeNimbus (d word w) : pulse (strikeNimbus d word w) = pulse w := by
  simp only [strikeNimbus]
  split <;> simp

@[simp] theorem pulse_mendTables (w) : pulse (mendTables w) = pulse w := by simp [mendTables]

@[simp] theorem pulse_strikeLibrary (d m w) : pulse (strikeLibrary d m w) = pulse w := by simp [strikeLibrary]

@[simp] theorem pulse_strikeFar (d p far w) : pulse (strikeFar d p far w) = pulse w := by simp [strikeFar]

@[simp] theorem pulse_strikeStratum (d a w) : pulse (strikeStratum d a w) = pulse w := by
  simp only [strikeStratum]
  split
  · simp
  · split <;> simp

@[simp] theorem pulse_strikeBuffer (word w) : pulse (strikeBuffer word w) = pulse w := by
  simp only [strikeBuffer]
  split
  · split <;> simp
  · simp
  · rfl

@[simp] theorem pulse_strikeObsidian (slot w) : pulse (strikeObsidian slot w) = pulse w := by simp [strikeObsidian]

@[simp] theorem pulse_strike (d store a w) : pulse (strike d store a w) = pulse w := by unfold strike; split <;> simp

@[simp] theorem pulse_uncorrectable (d store a w) : pulse (uncorrectable d store a w) = pulse w := by simp [uncorrectable]

@[simp] theorem pulse_writeBack (d store a data w) : pulse (writeBack d store a data w) = pulse w := by unfold writeBack; split <;> simp

@[simp] theorem pulse_scrub (d store a word w) : pulse (scrub d store a word w) = pulse w := by
  simp only [scrub]
  split
  · rfl
  · simp only [pulse_ite, pulse_onCont, ite_self]
    split <;> simp

@[simp] theorem pulse_onSeam (n f w) : pulse (onSeam n f w) = pulse w := by simp [onSeam]

@[simp] theorem pulse_seamReplay (e failed w) : pulse (seamReplay e failed w) = pulse w := by simp [seamReplay]

@[simp] theorem pulse_obsCommit (w) : pulse (obsCommit w) = pulse w := by simp [obsCommit]

@[simp] theorem pulse_obsLast (w) : pulse (obsLast w) = pulse w := by simp [obsLast]

/-! ### Boot -/

@[simp] theorem pulse_findIdentity (w) : pulse (findIdentity w) = pulse w := by unfold findIdentity; split <;> simp

@[simp] theorem pulse_boot (w) : pulse (boot w) = pulse w := by simp [boot]

@[simp] theorem pulse_freshNonce (w) : pulse (freshNonce w) = pulse w := by
  unfold freshNonce
  split
  next h => simp [pulse_rngDraw h]
  next => simp

@[simp] theorem pulse_waitImage (w) : pulse (waitImage w) = pulse w := by simp [waitImage]

@[simp] theorem pulse_bootDone (w) : pulse (bootDone w) = pulse w := by simp [bootDone]

@[simp] theorem pulse_rngFails (w) : pulse (rngFails w) = pulse w := by simp [rngFails]

@[simp] theorem pulse_rngTestAgain (pass w) : pulse (rngTestAgain pass w) = pulse w := by simp [rngTestAgain]

@[simp] theorem pulse_sendBoot (port type dst body w) : pulse (sendBoot port type dst body w) = pulse w := by simp [sendBoot]

@[simp] theorem pulse_advert (p w) : pulse (advert p w) = pulse w := by unfold advert; split <;> simp

@[simp] theorem pulse_ack (p dst result next w) : pulse (ack p dst result next w) = pulse w := by simp [ack]

@[simp] theorem pulse_bootFrame {run : Bytes → World → World} (hr : ∀ b w, pulse (run b w) = pulse w) (p f type w) :
    pulse (bootFrame p f type run w) = pulse w := by
  simp only [bootFrame]
  cases w.garnet.xfer <;> simp [hr]

@[simp] theorem pulse_startIn (p b w) : pulse (startIn p b w) = pulse w := by simp [startIn]

@[simp] theorem pulse_dataIn (p b w) : pulse (dataIn p b w) = pulse w := by unfold dataIn; split <;> simp

@[simp] theorem pulse_enrolIn (b w) : pulse (enrolIn b w) = pulse w := by simp [enrolIn]

@[simp] theorem pulse_status (x result applied refused w) : pulse (status x result applied refused w) = pulse w := by simp [status]

@[simp] theorem pulse_abandon (x w) : pulse (abandon x w) = pulse w := by simp [abandon]

@[simp] theorem pulse_abortIn (w) : pulse (abortIn w) = pulse w := by unfold abortIn; split <;> simp

@[simp] theorem pulse_applyQueue (w) : pulse (applyQueue w).2.2 = pulse w := by
  have hqueue (l : List Bytes) (x : Nat × Nat × World) : pulse (l.foldl (fun (r : Nat × Nat × World) e =>
      (r.1 + b2n (enrol e r.2.2).2, r.2.1 + b2n (!(enrol e r.2.2).2), (enrol e r.2.2).1)) x).2.2 = pulse x.2.2 := by
    induction l generalizing x with
    | nil => rfl
    | cons e l ih => rw [List.foldl_cons, ih]; simp
  exact hqueue w.garnet.queue (0, 0, w)

@[simp] theorem pulse_bootPasses (x w) : pulse (bootPasses x w) = pulse w := by simp [bootPasses]

@[simp] theorem pulse_bootRefused (x code w) : pulse (bootRefused x code w) = pulse w := by simp [bootRefused]

@[simp] theorem pulse_bootVerified (w) : pulse (bootVerified w) = pulse w := by unfold bootVerified; split <;> simp

@[simp] theorem pulse_exclude (d w) : pulse (exclude d w) = pulse w := by simp [exclude]

@[simp] theorem pulse_dieLoaded (failed w) : pulse (dieLoaded failed w) = pulse w := by simp [dieLoaded]

@[simp] theorem pulse_dieTested (d mask w) : pulse (dieTested d mask w) = pulse w := by simp [dieTested]

@[simp] theorem pulse_bedrockTested (mask portFailed w) : pulse (bedrockTested mask portFailed w) = pulse w := by simp [bedrockTested]

@[simp] theorem pulse_selftested (failed portFailed w) : pulse (selftested failed portFailed w) = pulse w := by simp [selftested]

@[simp] theorem pulse_timeAcquired (w) : pulse (timeAcquired w) = pulse w := by simp [timeAcquired]

/-! ### Loss -/

@[simp] theorem pulse_copyReplicas (w) : pulse (copyReplicas w) = pulse w := by simp [copyReplicas]

@[simp] theorem pulse_loseReplicas (d w) : pulse (loseReplicas d w) = pulse w := by simp [loseReplicas]

@[simp] theorem pulse_stopTmpls (d w) : pulse (stopTmpls d w) = pulse w := by simp [stopTmpls]

@[simp] theorem pulse_stopHalo (d w) : pulse (stopHalo d w) = pulse w := by simp [stopHalo]

@[simp] theorem pulse_stopServing (d w) : pulse (stopServing d w) = pulse w := by simp [stopServing]

@[simp] theorem pulse_discardFrom (d w) : pulse (discardFrom d w) = pulse w := by simp [discardFrom]

@[simp] theorem pulse_loseDie (d cause w) : pulse (loseDie d cause w) = pulse w := by simp [loseDie]

@[simp] theorem pulse_heartbeats (posted w) : pulse (heartbeats posted w).1 = pulse w := by simp [heartbeats]

@[simp] theorem pulse_resumeTmpl (t e x cells w) : pulse (resumeTmpl t e x cells w) = pulse w := by simp [resumeTmpl]

@[simp] theorem pulse_takeLoss (x w) : pulse (takeLoss x w) = pulse w := by
  refine (pulse_onDev (by simp) _).trans ((pulse_onCont _ _).trans ?_)
  split
  · rfl
  · refine (pulse_eachW ?_ _ _).trans ((pulse_eachW ?_ _ _).trans (pulse_eachW ?_ _ _)) <;>
      (intro a w; split <;> simp)

@[simp] theorem pulse_deriveInForce (w) : pulse (deriveInForce w) = pulse w := by
  simp only [deriveInForce]
  split
  · split
    · rfl
    · split <;> simp
  · rfl

@[simp] theorem pulse_derivedComputed (w) : pulse (derivedComputed w) = pulse w := by
  unfold derivedComputed
  split
  · rfl
  · split <;> simp

@[simp] theorem pulse_endUpgrade (d result w) : pulse (endUpgrade d result w) = pulse w := by simp [endUpgrade]

@[simp] theorem pulse_drainHandover (w) : pulse (drainHandover w) = pulse w := by unfold drainHandover; split <;> simp

@[simp] theorem pulse_dieLoadReady (d passed w) : pulse (dieLoadReady d passed w) = pulse w := by
  unfold dieLoadReady
  split
  · rfl
  · split <;> simp

@[simp] theorem pulse_rejoinHandover (w) : pulse (rejoinHandover w) = pulse w := by unfold rejoinHandover; split <;> simp

/-! ### Boundary -/

@[simp] theorem pulse_newEpoch (w) : pulse (newEpoch w) = pulse w := by simp [newEpoch]

@[simp] theorem pulse_bankBusy (lc w) : pulse (bankBusy lc w) = pulse w := by simp [bankBusy]

@[simp] theorem pulse_checkLedgers (w0 w1) : pulse (checkLedgers w0 w1) = pulse w1 := by simp [checkLedgers]

@[simp] theorem pulse_summary (type source index object total w) : pulse (summary type source index object total w) = pulse w := by
  simp [summary]

@[simp] theorem pulse_summaries (w) : pulse (summaries w) = pulse w := by simp [summaries]

@[simp] theorem pulse_boundaryPublish (lc00 lc31 w2) : pulse (boundaryPublish lc00 lc31 w2) = pulse w2 := by simp [boundaryPublish]

@[simp] theorem pulse_riseLive (w) : pulse (riseLive w) = pulse w := by unfold riseLive; split <;> simp

@[simp] theorem pulse_boundaryAnswers (answers swapped first v w) : pulse (boundaryAnswers answers swapped first v w) = pulse w := by
  unfold boundaryAnswers
  split <;> simp

@[simp] theorem pulse_boundaryReleases (lc w) : pulse (boundaryReleases lc w) = pulse w := by simp [boundaryReleases]

/-! ## Host messages: they keep the beat, and may change which writes wait -/

/-- A pulse without its writes. -/
def Pulse.beat (p : Pulse) : Beat := p.toBeat

@[simp] theorem Pulse.beat_ite (c : Prop) [Decidable c] (a b : Pulse) : (if c then a else b).beat = if c then a.beat else b.beat :=
  apply_ite _ _ _ _

@[simp] theorem beat_eachW {α : Type} {f : α → World → World} (hf : ∀ a w, (pulse (f a w)).beat = (pulse w).beat) (l : List α) (w : World) :
    (pulse (eachW l f w)).beat = (pulse w).beat :=
  eachW_keeps (P := fun x => (pulse x).beat = (pulse w).beat) (fun a x hx => (hf a x).trans hx) l rfl

@[simp] theorem beat_onCfg {f : Config → Config} (h : ∀ c, (f c).present = c.present) (w : World) :
    (pulse (onCfg f w)).beat = (pulse w).beat := by
  simp [pulse, Pulse.beat, h w.cfg]

@[simp] theorem beat_orphan (n : Nat) (w : World) : (pulse (orphan n w)).beat = (pulse w).beat := by simp [orphan]

@[simp] theorem beat_closeSession (n : Nat) (w : World) : (pulse (closeSession n w)).beat = (pulse w).beat := by
  unfold closeSession
  split <;> simp

@[simp] theorem beat_closeSpent (w : World) : (pulse (closeSpent w)).beat = (pulse w).beat := by simp [closeSpent]

@[simp] theorem beat_sessionExpires (n : Nat) (w : World) : (pulse (sessionExpires n w)).beat = (pulse w).beat := by simp [sessionExpires]

@[simp] theorem beat_acceptMsg {f : PdsMsg → World → World} (hf : ∀ p w, (pulse (f p w)).beat = (pulse w).beat) (m : HostMsg) (p : PdsMsg)
    (w : World) : (pulse (acceptMsg m p f w)).beat = (pulse w).beat := by simp [acceptMsg, hf]

@[simp] theorem beat_receive {f : PdsMsg → World → World} (hf : ∀ p w, (pulse (f p w)).beat = (pulse w).beat) (types : List Nat)
    (m : HostMsg) (w : World) : (pulse (receive types m f w)).beat = (pulse w).beat := by
  simp only [receive]
  split_ifs
  · rfl
  · simp
  · split <;> simp [hf]

@[simp] theorem beat_oneRequest {f : World → World} (hf : ∀ w, (pulse (f w)).beat = (pulse w).beat) (n type : Nat) (reqId : BitVec 32)
    (shadow : Bool) (w : World) : (pulse (oneRequest n type reqId shadow f w)).beat = (pulse w).beat := by
  simp only [oneRequest]
  split <;> simp [hf]

@[simp] theorem beat_request {f : PdsMsg → World → World} (hf : ∀ p w, (pulse (f p w)).beat = (pulse w).beat) (type role : Nat)
    (m : HostMsg) (w : World) : (pulse (request type role m f w)).beat = (pulse w).beat := by simp [request, hf]

@[simp] theorem beat_emptyBody {f : World → World} (hf : ∀ w, (pulse (f w)).beat = (pulse w).beat) (type : Nat) (p : PdsMsg) (w : World) :
    (pulse (emptyBody type p f w)).beat = (pulse w).beat := by simp [emptyBody, hf]

@[simp] theorem beat_hello (m : HostMsg) (w : World) : (pulse (hello m w)).beat = (pulse w).beat := by
  refine beat_receive (fun p w => ?_) _ _ _
  simp only [pulse_ite, Pulse.beat_ite]
  split_ifs
  · simp
  · simp
  · split
    · simp
    next n w' hd =>
      have h1 := pulse_rngDraw hd
      split
      · simp [h1]
      next eph w'' hs =>
        have h2 := pulse_rngScalar hs
        simp [h1, h2]

@[simp] theorem beat_proof (m : HostMsg) (w : World) : (pulse (proof m w)).beat = (pulse w).beat := by
  unfold proof
  refine beat_receive (fun p w => ?_) _ _ _
  dsimp only
  split
  · simp
  · split
    · exact congrArg Pulse.beat ((pulse_dropMalformed _ _).trans (pulse_onLink _ _))
    · split
      · exact congrArg Pulse.beat ((pulse_setupFails _ _).trans (pulse_onLink _ _))
      · exact congrArg Pulse.beat ((pulse_openSession _ _ _ _ _).trans (pulse_onLink _ _))

@[simp] theorem beat_closeReq (m : HostMsg) (w : World) : (pulse (closeReq m w)).beat = (pulse w).beat := by simp [closeReq]

@[simp] theorem beat_keepalive (m : HostMsg) (w : World) : (pulse (keepalive m w)).beat = (pulse w).beat := by simp [keepalive]

@[simp] theorem beat_masterToken (m : HostMsg) (w : World) : (pulse (masterToken m w)).beat = (pulse w).beat := by simp [masterToken]

@[simp] theorem beat_readReq (m : HostMsg) (v : View) (w : World) : (pulse (readReq m v w)).beat = (pulse w).beat := by
  unfold readReq
  refine beat_request (fun p w => ?_) _ _ _ _
  generalize fetch w v (wantsShadow p) (keyOfBytes p.body) = r
  cases r <;> simp

@[simp] theorem beat_snapshotReq (m : HostMsg) (v : View) (w : World) : (pulse (snapshotReq m v w)).beat = (pulse w).beat := by
  unfold snapshotReq
  refine beat_request (fun p w => ?_) _ _ _ _
  simp only [pulse_ite, Pulse.beat_ite]
  split
  · simp
  · split <;> simp

theorem beat_ite_of {c : Prop} [Decidable c] {a b w : World} (ha : (pulse a).beat = (pulse w).beat) (hb : (pulse b).beat = (pulse w).beat) :
    (pulse (if c then a else b)).beat = (pulse w).beat := by simp [ha, hb]

@[simp] theorem beat_blockInit (m : HostMsg) (v : View) (w : World) : (pulse (blockInit m v w)).beat = (pulse w).beat := by
  unfold blockInit
  refine beat_request (fun p w => ?_) _ _ _ _
  have hno (c : Nat) : (pulse (abortReq p.sess 0x13 p.reqId c w)).beat = (pulse w).beat := by simp
  refine beat_ite_of (hno _) (beat_ite_of (hno _) ?_)
  cases findObj (keyOfBytes p.body) with
  | error c => exact hno _
  | ok o =>
    refine beat_ite_of (hno _) (beat_ite_of (hno _) (beat_ite_of (beat_ite_of (hno _) ?_) ?_))
    · cases fetch w v (wantsShadow p) (keyOfBytes p.body) with
      | error c => exact hno _
      | ok r => simp
    · extract_lets x
      cases downloadBad w x o with
      | some c => exact hno _
      | none => refine beat_ite_of (hno _) ?_; simp

@[simp] theorem beat_blockSeg (m : HostMsg) (w : World) : (pulse (blockSeg m w)).beat = (pulse w).beat := by
  unfold blockSeg
  refine beat_request (fun p w => ?_) _ _ _ _
  dsimp only
  split
  · simp
  · split <;> simp

@[simp] theorem beat_subscribeReq (m : HostMsg) (v : View) (w : World) : (pulse (subscribeReq m v w)).beat = (pulse w).beat := by
  unfold subscribeReq
  refine beat_request (fun p w => ?_) _ _ _ _
  dsimp only
  cases snapAll w v false (addrList p.body 6 (beAt p.body 4 2)) 0 <;> simp

@[simp] theorem beat_admitReq (m : HostMsg) (w : World) : (pulse (admitReq m w)).beat = (pulse w).beat := by simp [admitReq]

@[simp] theorem beat_swapReq (m : HostMsg) (w : World) : (pulse (swapReq m w)).beat = (pulse w).beat := by simp [swapReq]

@[simp] theorem beat_ledgerReq (m : HostMsg) (v : View) (w : World) : (pulse (ledgerReq m v w)).beat = (pulse w).beat := by simp [ledgerReq]

@[simp] theorem beat_attestReq (m : HostMsg) (v : View) (w : World) : (pulse (attestReq m v w)).beat = (pulse w).beat := by simp [attestReq]

@[simp] theorem beat_pageAnswer (write : Bool) (m : HostMsg) (w : World) : (pulse (pageAnswer write m w)).beat = (pulse w).beat := by
  refine beat_receive (fun p w => ?_) _ _ _
  split <;> simp

@[simp] theorem beat_pageResend (n : Nat) (reqId : BitVec 32) (w : World) : (pulse (pageResend n reqId w)).beat = (pulse w).beat := by
  unfold pageResend
  split <;> simp

@[simp] theorem beat_acceptWrite (v : View) (x : WriteReq) (o : ObjDef) (w : World) : (pulse (acceptWrite v x o w)).beat = (pulse w).beat := by
  simp [acceptWrite]

@[simp] theorem beat_judgeWrite (v : View) (x : WriteReq) (o : ObjDef) (w : World) : (pulse (judgeWrite v x o w)).beat = (pulse w).beat := by
  unfold judgeWrite
  split
  · simp
  · split <;> simp

@[simp] theorem beat_serviceWrite (v : View) (n : Nat) (reqId : BitVec 32) (key type : Nat) (wire : Bytes) (shadow : Bool) (w : World) :
    (pulse (serviceWrite v n reqId key type wire shadow w)).beat = (pulse w).beat := by
  unfold serviceWrite
  dsimp only
  cases findObj key <;> simp

@[simp] theorem beat_objWrite (index sub type : Nat) (x : ObjWrite) (v : View) (w : World) :
    (pulse (objWrite index sub type x v w)).beat = (pulse w).beat := by simp [objWrite]

@[simp] theorem beat_objWriteOf (index sub code : Nat) (x : ObjWrite) (v : View) (w : World) :
    (pulse (objWriteOf index sub code x v w)).beat = (pulse w).beat := by simp [objWriteOf]

@[simp] theorem beat_upgradeWrite (op : Nat) (x : ObjWrite) (v : View) (w : World) :
    (pulse (upgradeWrite op x v w)).beat = (pulse w).beat := by simp [upgradeWrite]

@[simp] theorem beat_enrolWrite (kind : Nat) (x : ObjWrite) (v : View) (w : World) :
    (pulse (enrolWrite kind x v w)).beat = (pulse w).beat := by simp [enrolWrite]

@[simp] theorem beat_writeReq (m : HostMsg) (v : View) (w : World) : (pulse (writeReq m v w)).beat = (pulse w).beat := by simp [writeReq]

@[simp] theorem beat_blockEnd (m : HostMsg) (v : View) (w : World) : (pulse (blockEnd m v w)).beat = (pulse w).beat := by
  unfold blockEnd
  refine beat_request (fun p w => ?_) _ _ _ _
  dsimp only
  cases xferOf w p.sess (beAt p.body 0 1) with
  | none => simp
  | some x =>
    dsimp only
    cases findObj x.addr <;> simp

/-! ## What keeps the epoch -/

/-- From `w` to `w'` the epoch stays, and so does it that a boundary which has not run belongs to a set in force. -/
def keepsEpoch (w w' : World) : Prop :=
  w'.dev.epoch = w.dev.epoch ∧
  ((w.dev.boundaryDue.isSome = true → w.cfg.present = true) → w'.dev.boundaryDue.isSome = true → w'.cfg.present = true)

theorem keepsEpoch.refl (w : World) : keepsEpoch w w := ⟨rfl, id⟩

theorem keepsEpoch.trans {a b c : World} (hab : keepsEpoch a b) (hbc : keepsEpoch b c) : keepsEpoch a c :=
  ⟨hbc.1.trans hab.1, hbc.2 ∘ hab.2⟩

theorem keepsEpoch_of_beat {w w' : World} (h : (pulse w').beat = (pulse w).beat) : keepsEpoch w w' := by
  simp only [Pulse.beat, pulse, Beat.mk.injEq] at h
  obtain ⟨hepoch, hdue, -, -, hpresent, -⟩ := h
  exact ⟨hepoch, fun hw => by rw [hdue, hpresent]; exact hw⟩

theorem keepsEpoch_of_pulse {w w' : World} (h : pulse w' = pulse w) : keepsEpoch w w' := keepsEpoch_of_beat (by rw [h])

theorem keepsEpoch_whenW {c : Bool} {f : World → World} (hf : ∀ w, keepsEpoch w (f w)) (w : World) : keepsEpoch w (whenW c f w) :=
  whenW_keeps (P := keepsEpoch w) (fun x hx => hx.trans (hf x)) (keepsEpoch.refl w)

/-- A tick makes a boundary due only where a set is in force. -/
theorem keepsEpoch_produceTick (k b : Nat) (u : Int) (fwd : Bool) (stamp : Nat) (w : World) : keepsEpoch w (produceTick k b u fwd stamp w) := by
  have hstep (w w' : World) (h : pulse w' = pulse w) : keepsEpoch w (if (k == epochTracker w' && w'.cfg.present) = true then
      onMer (fun m => { m with atBoundary := some (timeSample stamp w') })
        (onDev (fun d => { d with boundaryDue := some (stamp, lcAtInstant w' 3 stamp) }) w')
      else w') := by
    split
    next hdue =>
      refine (keepsEpoch_of_pulse h).trans ⟨rfl, fun _ _ => ?_⟩
      exact (Bool.and_eq_true _ _ ▸ hdue).2
    next => exact keepsEpoch_of_pulse h
  unfold produceTick
  apply hstep
  simp

theorem keepsEpoch_crossing (k : Nat) (fwd : Bool) (frac : Nat) (w : World) : keepsEpoch w (crossing k fwd frac w).1 := by
  unfold crossing
  dsimp only
  split_ifs
  · exact keepsEpoch.refl w
  · exact keepsEpoch_of_pulse (by simp)
  · exact keepsEpoch_produceTick ..
  · exact keepsEpoch_of_pulse (by simp)
  · exact keepsEpoch_of_pulse (by simp)

theorem keepsEpoch_fallbackTick (k frac : Nat) (w : World) : keepsEpoch w (fallbackTick k frac w).1 := by
  unfold fallbackTick
  dsimp only
  split
  · exact keepsEpoch_produceTick ..
  · exact keepsEpoch.refl w

theorem keepsEpoch_delayedTick (k frac : Nat) (w : World) : keepsEpoch w (delayedTick k frac w).1 := by
  unfold delayedTick
  dsimp only
  split
  · split
    · exact keepsEpoch.refl w
    · exact keepsEpoch_produceTick ..
  · exact keepsEpoch.refl w

theorem pulse_afterTick (k : Nat) (r : World × Bool) : pulse (afterTick k r) = pulse r.1 := by simp [afterTick]

theorem keepsEpoch_of_no_due {w w' : World} (hepoch : (pulse w').epoch = (pulse w).epoch) (hdue : (pulse w').due = none) : keepsEpoch w w' :=
  ⟨hepoch, fun _ h => by rw [show w'.dev.boundaryDue = none from hdue] at h; cases h⟩

theorem pulse_onDev_no_due {f : Dev → Dev} (h : ∀ d, (f d).epoch = d.epoch ∧ (f d).boundaryDue = none ∧
    (f d).boundaryLc0 = d.boundaryLc0 ∧ (f d).boundaryLc3 = d.boundaryLc3) (w : World) : pulse (onDev f w) = { pulse w with due := none } := by
  simp [pulse, h w.dev]

theorem epoch_onCfg (f : Config → Config) (w : World) : (pulse (onCfg f w)).epoch = (pulse w).epoch := by simp [pulse]

theorem pulse_onCfg_present {f : Config → Config} (h : ∀ c, (f c).present = true ∧ (f c).rw = c.rw) (w : World) :
    pulse (onCfg f w) = { pulse w with present := true } := by
  simp [pulse, h w.cfg]

/-- An exchange of sets leaves one in force, and nothing else of the pulse changed. -/
theorem pulse_exchangeSets (stamp : Nat) (w : World) : pulse (exchangeSets stamp w) = { pulse w with present := true } := by
  have hset {x y : World} (hx : pulse x = pulse w) (hy : pulse y = { pulse x with present := true }) :
      pulse y = { pulse w with present := true } := by rw [hy, hx]
  simp only [exchangeSets, pulse_holdPages, pulse_onCont, pulse_eachW, pulse_detect, pulse_swapParams, pulse_swapCells, pulse_swapServing,
    pulse_swapHalo, pulse_swapTemplates, pulse_idlePin, pulse_swapTrackers, implies_true]
  exact hset (by simp) (pulse_onCfg_present (by simp) _)

theorem keepsEpoch_firstSwap (w : World) : keepsEpoch w (firstSwap w) := by
  unfold firstSwap
  split
  · exact keepsEpoch.refl w
  · split
    · exact keepsEpoch.refl w
    · apply keepsEpoch_of_no_due <;> simp [pulse_onDev_no_due, pulse_exchangeSets]

theorem keepsEpoch_withdraw (d : Nat) (w : World) : keepsEpoch w (withdraw d w) := by
  unfold withdraw
  dsimp only
  apply keepsEpoch_of_no_due
  · rw [pulse_oweSyncs, pulse_enterState, pulse_onDev_no_due (by simp), pulse_onCont, epoch_onCfg]
    rw [pulse_foldl (by simp)]
    split <;> simp
  · rw [pulse_oweSyncs, pulse_enterState, pulse_onDev_no_due (by simp)]
theorem keepsEpoch_takeover (w : World) : keepsEpoch w (takeover w) := by
  unfold takeover
  split
  · exact keepsEpoch.refl w
  · dsimp only
    split
    · exact keepsEpoch_withdraw ..
    · exact keepsEpoch_of_pulse (by simp)

theorem keepsEpoch_resetEnds (w : World) : keepsEpoch w (resetEnds w) := by
  unfold resetEnds
  split
  · exact keepsEpoch.refl w
  · exact ⟨rfl, id⟩

theorem keepsEpoch_scan (ir : BitVec 4) (drive : Bool) (v : BitVec 22) (w : World) : keepsEpoch w (scan ir drive v w) := ⟨rfl, id⟩

/-! ## The tick boundary (01 R20 to R22, R26, R27) -/

theorem pulse_applyWrites (lc0 : Nat) (lc3 : Int) (w : World) :
    pulse (applyWrites lc0 lc3 w).1 = { pulse w with rw := (pulse w).rw.filter (fun r => !r.before lc0) } := by
  refine (pulse_foldl_fst (fun a r => by simp) _ _).trans ?_
  simp [pulse]

theorem pulse_boundarySwap (lc0 : Nat) (w : World) : ∃ b, pulse (boundarySwap lc0 w).1 = { pulse w with present := b } := by
  unfold boundarySwap
  extract_lets +onlyGivenNames due
  clear_value due
  split
  · exact ⟨_, rfl⟩
  · split
    · exact ⟨_, rfl⟩
    · split
      · exact ⟨w.cfg.present, pulse_failSwap ..⟩
      · exact ⟨true, by simp [pulse_exchangeSets]⟩

theorem pulse_closeEpoch (lc0 : Nat) (lc3 : Int) (w : World) :
    pulse (closeEpoch lc0 lc3 w) = { pulse w with epoch := (pulse w).epoch + 1, due := none, lc0 := lc0, lc3 := lc3 } := by
  simp [closeEpoch, pulse]

/-- The writes that wait in `w` were all accepted in nanosecond `n` or later. -/
def waitsSince (n : Nat) (w : World) : Prop := ∀ r ∈ w.cfg.rw, n ≤ r.at_

theorem waitsSince_of_pulse {n : Nat} {w w' : World} (h : pulse w' = pulse w) (hw : waitsSince n w) : waitsSince n w' := by
  have hrw : w'.cfg.rw = w.cfg.rw := congrArg Pulse.rw h
  rw [waitsSince, hrw]; exact hw

theorem waitsSince_orphan {n : Nat} (k : Nat) {w : World} (h : waitsSince n w) : waitsSince n (orphan k w) := by
  simpa [waitsSince, orphan] using h

theorem waitsSince_closeSpent {n : Nat} {w : World} (h : waitsSince n w) : waitsSince n (closeSpent w) := by
  refine eachW_keeps (fun k w hw => ?_) _ h
  unfold closeSession
  split
  · exact hw
  · exact waitsSince_of_pulse (pulse_loseSwapPages ..) (waitsSince_orphan k (waitsSince_of_pulse (by simp) hw))

/-- The world at the close of an epoch: outputs published, waiting writes and a due SWAP taken, the counter raised, the closed epoch judged. -/
def closedAt (lc0 : Nat) (lc3 : Int) (served w : World) : World :=
  riseLive (summaries (copyReplicas (checkLedgers served (bankBusy lc0 (mendHalo (mendBasalt (publishOutputs (closeEpoch lc0 lc3
    (boundarySwap lc0 (applyWrites lc0 lc3 (boundaryPublish lc0 lc3 w)).1).1))))))))

theorem pulse_closedAt (lc0 : Nat) (lc3 : Int) (served w : World) : ∃ b, pulse (closedAt lc0 lc3 served w) = { pulse w with
    epoch := (pulse w).epoch + 1, due := none, lc0 := lc0, lc3 := lc3, present := b, rw := (pulse w).rw.filter (fun r => !r.before lc0) } := by
  obtain ⟨b, hswap⟩ := pulse_boundarySwap lc0 (applyWrites lc0 lc3 (boundaryPublish lc0 lc3 w)).1
  refine ⟨b, ?_⟩
  have hclose : pulse (closedAt lc0 lc3 served w) =
      pulse (closeEpoch lc0 lc3 (boundarySwap lc0 (applyWrites lc0 lc3 (boundaryPublish lc0 lc3 w)).1).1) := by simp [closedAt]
  rw [hclose, pulse_closeEpoch, hswap, pulse_applyWrites, pulse_boundaryPublish]

/-- The close of an epoch: what hosts are served from then, and what of it the rest of the boundary keeps. -/
theorem tickBoundary_due {posted : BitVec 8} {w served : World} {lost : Store World} {lc0 : Nat} {lc3 : Int}
    (h : w.dev.boundaryDue = some (lc0, lc3)) :
    (tickBoundary posted w served lost).2.1 = settle (closedAt lc0 lc3 served w) ∧
    (pulse (tickBoundary posted w served lost).1).beat = (pulse (closedAt lc0 lc3 served w)).beat ∧
    (waitsSince (lc0 / 65536) (closedAt lc0 lc3 served w) → waitsSince (lc0 / 65536) (tickBoundary posted w served lost).1) := by
  simp only [tickBoundary, h]
  refine ⟨rfl, ?_, fun hw => ?_⟩
  · simp [closedAt]
  · refine waitsSince_of_pulse ((pulse_eachW (by simp) _ _).trans (pulse_heartbeats ..)) (waitsSince_closeSpent (waitsSince_of_pulse ?_ hw))
    simp [closedAt]

/-! ## Commands and their lifts -/

/-- `w'` differs from `w` at most in Obsidian and its ledgers, in the test access port and in the count of draws. -/
def sideOnly (w w' : World) : Prop := ∃ ct jt n, w' = { w with cont := ct, jtag := jt, free := n }

theorem sideOnly.refl (w : World) : sideOnly w w := ⟨_, _, _, rfl⟩

theorem sideOnly_scan (ir : BitVec 4) (drive : Bool) (v : BitVec 22) (w : World) : sideOnly w (scan ir drive v w) := ⟨_, _, _, rfl⟩

theorem sideOnly_whenW {c : Bool} {f : World → World} {w : World} (h : sideOnly w (f w)) : sideOnly w (whenW c f w) := by
  cases c
  · exact sideOnly.refl w
  · exact h

theorem resetEnds_running {w : World} (h : w.dev.inReset = false) : resetEnds w = w := by simp [resetEnds, h]

theorem sideOnly_obsLast (w : World) : sideOnly w (obsLast w) := by
  unfold obsLast
  split
  · exact sideOnly.refl w
  · exact ⟨_, _, _, rfl⟩

/-- The outcomes of commands that keep the epoch: an effect on a running device, one that also moves what hosts are served from, and one that
acts in any condition, which where no reset is held reaches no further than Obsidian and the test access port. -/
inductive Kept (s : State) : Host.Outcome State Fault Refusal → Prop
  | live {f : World → World} (h : ∀ w, keepsEpoch w (f w)) : Kept s (liveEffect f s)
  | serve {f : World → World → Store World → World × World × Store World} (h : ∀ w v l, keepsEpoch w (f w v l).1) : Kept s (serveEffect f s)
  | any {f : World → World} (h : ∀ w, keepsEpoch w (f w)) (hside : ∀ w, w.dev.inReset = false → sideOnly w (f w)) : Kept s (anyEffect f s)

theorem Kept.pulse {s : State} {f : World → World} (h : ∀ w, Machine.pulse (f w) = Machine.pulse w) : Kept s (liveEffect f s) :=
  .live fun w => keepsEpoch_of_pulse (h w)

theorem Kept.beat {s : State} {f : World → World} (h : ∀ w, (Machine.pulse (f w)).beat = (Machine.pulse w).beat) : Kept s (liveEffect f s) :=
  .live fun w => keepsEpoch_of_beat (h w)

theorem Kept.view {s : State} {f : View → World → World} (h : ∀ v w, (Machine.pulse (f v w)).beat = (Machine.pulse w).beat) :
    Kept s (viewEffect f s) :=
  .live fun w => keepsEpoch_of_beat (h _ w)

theorem kept_resetEnd (s) : Kept s (execResetEnd s) := by
  unfold execResetEnd
  exact .any keepsEpoch_resetEnds fun w h => by rw [resetEnds_running h]; exact sideOnly.refl w

theorem kept_bootTransferTimeout (s) : Kept s (execBootTransferTimeout s) := by
  unfold execBootTransferTimeout
  refine .pulse fun w => ?_
  split <;> simp

theorem kept_trackerTick (at_ boundary forward frac s) : Kept s (execTrackerTick at_ boundary forward frac s) := by
  unfold execTrackerTick
  exact .live fun w => keepsEpoch_whenW (fun w => (keepsEpoch_crossing ..).trans (keepsEpoch_of_pulse (pulse_afterTick ..))) w

theorem kept_fallbackTick (at_ frac s) : Kept s (execFallbackTick at_ frac s) := by
  unfold execFallbackTick
  exact .live fun w => (keepsEpoch_fallbackTick ..).trans (keepsEpoch_of_pulse (pulse_afterTick ..))

theorem kept_delayedTick (at_ boundary frac s) : Kept s (execDelayedTick at_ boundary frac s) := by
  unfold execDelayedTick
  exact .live fun w => keepsEpoch_whenW (fun w => (keepsEpoch_delayedTick ..).trans (keepsEpoch_of_pulse (pulse_afterTick ..))) w

theorem kept_tickPulseEnd (pin s) : Kept s (execTickPulseEnd pin s) := by
  unfold execTickPulseEnd
  refine .pulse fun w => ?_
  split <;> simp

theorem kept_stallTimeout (tile ctx s) : Kept s (execStallTimeout tile ctx s) := by
  unfold execStallTimeout
  exact .beat (by simp)

theorem kept_dmaLc (r s) : Kept s (execDmaLc r s) := by
  unfold execDmaLc
  refine .pulse fun w => ?_
  split <;> simp

theorem kept_wopen (c s) : Kept s (execWopen c s) := by
  unfold execWopen
  refine .pulse fun w => ?_
  dsimp only
  split <;> simp

theorem kept_wclose (c s) : Kept s (execWclose c s) := by
  unfold execWclose
  refine .pulse fun w => ?_
  dsimp only
  split <;> simp

theorem kept_windowTransferArrive (c s) : Kept s (execWindowTransferArrive c s) := by
  unfold execWindowTransferArrive
  refine .pulse fun w => ?_
  dsimp only
  split
  · rfl
  · split <;> simp

theorem kept_windowRetire (tile slot s) : Kept s (execWindowRetire tile slot s) := by
  unfold execWindowRetire
  refine .pulse fun w => ?_
  dsimp only
  refine pulse_whenW (fun w => ?_) w
  split <;> simp

theorem kept_tileCommandRetire (c s) : Kept s (execTileCommandRetire c s) := by
  unfold execTileCommandRetire
  refine .pulse fun w => ?_
  dsimp only
  split <;> simp

theorem kept_asmLatestReached (template s) : Kept s (execAsmLatestReached template s) := by
  unfold execAsmLatestReached
  refine .pulse fun w => ?_
  split <;> simp

theorem kept_injectorEnd (inj s) : Kept s (execInjectorEnd inj s) := by
  unfold execInjectorEnd
  refine .pulse fun w => ?_
  split <;> simp

theorem kept_trunkLinkDown (trunk cameUpAt s) : Kept s (execTrunkLinkDown trunk cameUpAt s) := by
  unfold execTrunkLinkDown
  refine .pulse fun w => ?_
  split <;> simp

theorem kept_cellcfgSetSend (trunk cell s) : Kept s (execCellcfgSetSend trunk cell s) := by
  unfold execCellcfgSetSend
  refine .pulse fun w => ?_
  dsimp only
  split <;> simp

theorem kept_trunkSyncSend (trunk cell egressDelay s) : Kept s (execTrunkSyncSend trunk cell egressDelay s) := by
  unfold execTrunkSyncSend
  refine .pulse fun w => ?_
  dsimp only
  split <;> simp

theorem kept_outLiveChangeSync (trunk cell egressDelay s) : Kept s (execOutLiveChangeSync trunk cell egressDelay s) := by
  unfold execOutLiveChangeSync
  refine .pulse fun w => ?_
  dsimp only
  split <;> simp

theorem kept_paramWrite (sub w s) : Kept s (execParamWrite sub w s) := by
  unfold execParamWrite
  exact .view (by cases sub <;> simp)

theorem kept_blockTransferTimeout (session xfer s) : Kept s (execBlockTransferTimeout session xfer s) := by
  unfold execBlockTransferTimeout
  refine .pulse fun w => ?_
  split <;> simp

theorem kept_firstSwap (s) : Kept s (execFirstSwap s) := by
  unfold execFirstSwap
  exact .live keepsEpoch_firstSwap

theorem kept_dieDeclaredLost (die cause s) : Kept s (execDieDeclaredLost die cause s) := by
  unfold execDieDeclaredLost
  refine .serve fun w v l => ?_
  split
  · exact keepsEpoch_of_pulse (pulse_loseDie ..)
  · exact keepsEpoch.refl w

theorem kept_takeover (s) : Kept s (execTakeover s) := by
  unfold execTakeover
  exact .live keepsEpoch_takeover

theorem kept_obsidianCommit (s) : Kept s (execObsidianCommit s) := by
  unfold execObsidianCommit
  split
  · exact .any (fun w => keepsEpoch_of_pulse (pulse_obsLast w)) fun w _ => sideOnly_obsLast w
  · exact .pulse pulse_obsCommit

theorem kept_extest (shiftIn s) : Kept s (execExtest shiftIn s) := by
  unfold execExtest
  exact .any (keepsEpoch_scan _ _ _) fun w _ => sideOnly_scan _ _ _ w

theorem kept_samplePreload (shiftIn s) : Kept s (execSamplePreload shiftIn s) := by
  unfold execSamplePreload
  exact .any (keepsEpoch_scan _ _ _) fun w _ => sideOnly_scan _ _ _ w

theorem kept_idcode (s) : Kept s (execIdcode s) := by
  unfold execIdcode
  exact .any (fun _ => ⟨rfl, id⟩) fun _ _ => ⟨_, _, _, rfl⟩

theorem kept_bypass (code tdi s) : Kept s (execBypass code tdi s) := by
  unfold execBypass
  exact .any (keepsEpoch_whenW fun _ => ⟨rfl, id⟩) fun _ _ => sideOnly_whenW ⟨_, _, _, rfl⟩

/-- Every command but POWER_ON_RESET and TICK_BOUNDARY keeps the epoch: one arm for each row of the opcode table, in the table's order. -/
theorem exec_kept (s : State) (i : Instr) (hr : ∀ b, i ≠ .powerOnReset b) (hb : ∀ posted, i ≠ .tickBoundary posted) : Kept s (exec i s) := by
  cases i with
  | powerOnReset viaResetN => exact absurd rfl (hr _)
  | resetEnd => exact kept_resetEnd s
  | bootEntry => unfold exec execBootEntry; exact .pulse (by simp)
  | bootComplete => unfold exec execBootComplete; exact .pulse (by simp)
  | rngHealthFailure => unfold exec execRngHealthFailure; exact .pulse (by simp)
  | rngRetest pass => unfold exec execRngRetest; exact .pulse (by simp)
  | rngReseed => unfold exec execRngReseed; exact .pulse (by simp)
  | advertSend port => unfold exec execAdvertSend; exact .pulse (by simp)
  | start port f => unfold exec execStart; exact .pulse (by simp)
  | data port f => unfold exec execData; exact .pulse (by simp)
  | enrol port f => unfold exec execEnrol; exact .pulse (by simp)
  | abort port f => unfold exec execAbort; exact .pulse (by simp)
  | bootTransferTimeout => exact kept_bootTransferTimeout s
  | bootVerifyComplete => unfold exec execBootVerifyComplete; exact .pulse (by simp)
  | dieLoadDone failed => unfold exec execDieLoadDone; exact .pulse (by simp)
  | selftestComplete failed portFailed => unfold exec execSelftestComplete; exact .pulse (by simp)
  | timeAcquireEnd => unfold exec execTimeAcquireEnd; exact .pulse (by simp)
  | quietHeartbeatCheck posted => unfold exec execQuietHeartbeatCheck; exact .pulse (by simp)
  | frcHoldover frc => unfold exec execFrcHoldover; exact .pulse (by simp)
  | frcRelock frc => unfold exec execFrcRelock; exact .pulse (by simp)
  | bedrockFailure => unfold exec execBedrockFailure; exact .pulse (by simp)
  | lcRate w => unfold exec execLcRate; exact .view (by simp)
  | lcOffsetAdj w => unfold exec execLcOffsetAdj; exact .view (by simp)
  | slewComplete clock => unfold exec execSlewComplete; exact .pulse (by simp)
  | lc3RampStep => unfold exec execLc3RampStep; exact .pulse (by simp)
  | lc3TrackCompare => unfold exec execLc3TrackCompare; exact .pulse (by simp)
  | lcRelease w => unfold exec execLcRelease; exact .view (by simp)
  | lcForceStep w => unfold exec execLcForceStep; exact .view (by simp)
  | ptpSyncReceive port h origin => unfold exec execPtpSyncReceive; exact .pulse (by simp)
  | ptpAnnounceReceive port a => unfold exec execPtpAnnounceReceive; exact .pulse (by simp)
  | ptpDelayMessageReceive port h m => unfold exec execPtpDelayMessageReceive; exact .pulse (by simp)
  | announceReceiptTimeout port => unfold exec execAnnounceReceiptTimeout; exact .pulse (by simp)
  | ptpSyncTransmit port egressDelay => unfold exec execPtpSyncTransmit; exact .pulse (by simp)
  | ppsInEdge frac => unfold exec execPpsInEdge; exact .pulse (by simp)
  | ppsOutPulse => unfold exec execPpsOutPulse; exact .pulse (by simp)
  | ppsOutPulseEnd => unfold exec execPpsOutPulseEnd; exact .pulse (by simp)
  | encoderEdge enc e frac => unfold exec execEncoderEdge; exact .pulse (by simp)
  | encoderZPulse enc => unfold exec execEncoderZPulse; exact .pulse (by simp)
  | trackerFallback f => unfold exec execTrackerFallback; exact .pulse (by simp)
  | trackerResumeValid at_ fromFallback frac => unfold exec execTrackerResumeValid; exact .pulse (by simp)
  | trackerTick at_ boundary forward frac => exact kept_trackerTick _ _ _ _ s
  | fallbackTick at_ frac => exact kept_fallbackTick _ _ s
  | delayedTick at_ boundary frac => exact kept_delayedTick _ _ _ s
  | angleEventFire at_ event forward frac => unfold exec execAngleEventFire; exact .pulse (by simp)
  | tickPulseStart pin => unfold exec execTickPulseStart; exact .pulse (by simp)
  | tickPulseEnd pin => exact kept_tickPulseEnd _ s
  | atOmegaSyn w => unfold exec execAtOmegaSyn; exact .view (by simp)
  | tickBoundary posted => exact absurd rfl (hb _)
  | arithSticky w => unfold exec execArithSticky; exact .view (by simp)
  | li c rd imm => unfold exec execLi; exact .pulse (by simp)
  | add c rd ra rb => unfold exec execAdd; exact .pulse (by simp)
  | addi c rd ra imm => unfold exec execAddi; exact .pulse (by simp)
  | sub c rd ra rb => unfold exec execSub; exact .pulse (by simp)
  | and c rd ra rb => unfold exec execAnd; exact .pulse (by simp)
  | or c rd ra rb => unfold exec execOr; exact .pulse (by simp)
  | xor c rd ra rb => unfold exec execXor; exact .pulse (by simp)
  | shli c rd ra imm => unfold exec execShli; exact .pulse (by simp)
  | shri c rd ra imm => unfold exec execShri; exact .pulse (by simp)
  | jmp c imm => unfold exec execJmp; exact .pulse (by simp)
  | bz c ra imm => unfold exec execBz; exact .pulse (by simp)
  | bnz c ra imm => unfold exec execBnz; exact .pulse (by simp)
  | dbnz c ra imm => unfold exec execDbnz; exact .pulse (by simp)
  | issue c ra rb mask farp imm => unfold exec execIssue; exact .pulse (by simp)
  | waittag c rd imm => unfold exec execWaittag; exact .pulse (by simp)
  | fence c => unfold exec execFence; exact .pulse (by simp)
  | spost c imm => unfold exec execSpost; exact .pulse (by simp)
  | swait c imm => unfold exec execSwait; exact .pulse (by simp)
  | stepEnd c => unfold exec execStepEnd; exact .pulse (by simp)
  | stallTimeout tile ctx => exact kept_stallTimeout _ _ s
  | nop c => unfold exec execNop; exact .pulse (by simp)
  | matmul c => unfold exec execMatmul; exact .pulse (by simp)
  | tacc c => unfold exec execTacc; exact .pulse (by simp)
  | taccLoad c => unfold exec execTaccLoad; exact .pulse (by simp)
  | vld c => unfold exec execVld; exact .pulse (by simp)
  | vst c => unfold exec execVst; exact .pulse (by simp)
  | vop c => unfold exec execVop; exact .pulse (by simp)
  | vsf c => unfold exec execVsf; exact .pulse (by simp)
  | vred c => unfold exec execVred; exact .pulse (by simp)
  | dmaLd r => unfold exec execDmaLd; exact .pulse (by simp)
  | dmaSt r => unfold exec execDmaSt; exact .pulse (by simp)
  | dmaLc r => exact kept_dmaLc _ s
  | wopen c => exact kept_wopen _ s
  | wclose c => exact kept_wclose _ s
  | rput c => unfold exec execRput; exact .pulse (by simp)
  | rget c => unfold exec execRget; exact .pulse (by simp)
  | windowTransferArrive c => exact kept_windowTransferArrive _ s
  | windowRetire tile slot => exact kept_windowRetire _ _ s
  | tileCommandRetire c => exact kept_tileCommandRetire _ s
  | sliceEnd tile => unfold exec execSliceEnd; exact .pulse (by simp)
  | sliceStart tile ctx => unfold exec execSliceStart; exact .pulse (by simp)
  | chol be => unfold exec execChol; exact .pulse (by simp)
  | ldl be => unfold exec execLdl; exact .pulse (by simp)
  | qr be => unfold exec execQr; exact .pulse (by simp)
  | lu be => unfold exec execLu; exact .pulse (by simp)
  | tri be => unfold exec execTri; exact .pulse (by simp)
  | mul be => unfold exec execMul; exact .pulse (by simp)
  | refine be => unfold exec execRefine; exact .pulse (by simp)
  | kfup be => unfold exec execKfup; exact .pulse (by simp)
  | qpbox be => unfold exec execQpbox; exact .pulse (by simp)
  | basaltRetire be cycles => unfold exec execBasaltRetire; exact .pulse (by simp)
  | deadlineReached template => unfold exec execDeadlineReached; exact .pulse (by simp)
  | basaltUncorrectable be => unfold exec execBasaltUncorrectable; exact .pulse (by simp)
  | asmLatestReached template => exact kept_asmLatestReached _ s
  | assemblyStart template => unfold exec execAssemblyStart; exact .pulse (by simp)
  | sample trunk f => unfold exec execSample; exact .pulse (by simp)
  | haloLoopUpdate he => unfold exec execHaloLoopUpdate; exact .pulse (by simp)
  | commandDiscardNotice loop => unfold exec execCommandDiscardNotice; exact .pulse (by simp)
  | loopOpen w => unfold exec execLoopOpen; exact .view (by simp)
  | loopClose w => unfold exec execLoopClose; exact .view (by simp)
  | loopCoeffWrite sub w => unfold exec execLoopCoeffWrite; exact .view (by simp)
  | profileStep gen => unfold exec execProfileStep; exact .pulse (by simp)
  | injStart w => unfold exec execInjStart; exact .view (by simp)
  | injStop w => unfold exec execInjStop; exact .view (by simp)
  | injectorEnd inj => exact kept_injectorEnd _ s
  | capArm w => unfold exec execCapArm; exact .view (by simp)
  | capTrigger w => unfold exec execCapTrigger; exact .view (by simp)
  | tokenClose seq => unfold exec execTokenClose; exact .pulse (by simp)
  | stepForm part => unfold exec execStepForm; exact .pulse (by simp)
  | pageRingRefill part tile slot => unfold exec execPageRingRefill; exact .pulse (by simp)
  | stepEndPhase part => unfold exec execStepEndPhase; exact .pulse (by simp)
  | stepOverrun part => unfold exec execStepOverrun; exact .pulse (by simp)
  | teardownComplete part => unfold exec execTeardownComplete; exact .pulse (by simp)
  | backgroundSpill pool => unfold exec execBackgroundSpill; exact .pulse (by simp)
  | pageMoveComplete seq entry => unfold exec execPageMoveComplete; exact .pulse (by simp)
  | prefetchComplete seq entry => unfold exec execPrefetchComplete; exact .pulse (by simp)
  | preemptReturn seq => unfold exec execPreemptReturn; exact .pulse (by simp)
  | stalledFlushRetry part => unfold exec execStalledFlushRetry; exact .pulse (by simp)
  | modelSwitchStart part => unfold exec execModelSwitchStart; exact .pulse (by simp)
  | modelSwitchComplete part => unfold exec execModelSwitchComplete; exact .pulse (by simp)
  | partCtrlStart w => unfold exec execPartCtrlStart; exact .view (by simp)
  | partCtrlStop w => unfold exec execPartCtrlStop; exact .view (by simp)
  | partCtrlRestart w => unfold exec execPartCtrlRestart; exact .view (by simp)
  | trunkLinkUp trunk rate master => unfold exec execTrunkLinkUp; exact .pulse (by simp)
  | trunkLinkDown trunk cameUpAt => exact kept_trunkLinkDown _ _ s
  | credit trunk f frac => unfold exec execCredit; exact .pulse (by simp)
  | announce trunk f => unfold exec execAnnounce; exact .pulse (by simp)
  | cellcfgAck trunk f => unfold exec execCellcfgAck; exact .pulse (by simp)
  | alarm trunk f => unfold exec execAlarm; exact .pulse (by simp)
  | cellLostTimeout trunk cell => unfold exec execCellLostTimeout; exact .pulse (by simp)
  | cellcfgSetSend trunk cell => exact kept_cellcfgSetSend _ _ s
  | trunkSyncSend trunk cell egressDelay => exact kept_trunkSyncSend _ _ _ s
  | quietSyncSend trunk egressDelay => unfold exec execQuietSyncSend; exact .pulse (by simp)
  | outLiveChangeSync trunk cell egressDelay => exact kept_outLiveChangeSync _ _ _ s
  | commandDeparture trunk frac => unfold exec execCommandDeparture; exact .pulse (by simp)
  | commandExpire trunk cell number => unfold exec execCommandExpire; exact .pulse (by simp)
  | hello m => unfold exec execHello; exact .beat (by simp)
  | proof m => unfold exec execProof; exact .beat (by simp)
  | proofTimeout slot => unfold exec execProofTimeout; exact .pulse (by simp)
  | close m => unfold exec execClose; exact .beat (by simp)
  | sessionTimeout session => unfold exec execSessionTimeout; exact .beat (by simp)
  | keepalive m => unfold exec execKeepalive; exact .beat (by simp)
  | masterAcquire m => unfold exec execMasterAcquire; exact .beat (by simp)
  | masterRelease m => unfold exec execMasterRelease; exact .beat (by simp)
  | read m => unfold exec execRead; exact .view (by simp)
  | write m => unfold exec execWrite; exact .view (by simp)
  | registerWrite index sub type w => unfold exec execRegisterWrite; exact .view (by simp)
  | paramWrite sub w => exact kept_paramWrite _ _ s
  | snapshot m => unfold exec execSnapshot; exact .view (by simp)
  | blockInit m => unfold exec execBlockInit; exact .view (by simp)
  | blockSeg m => unfold exec execBlockSeg; exact .beat (by simp)
  | blockEnd m => unfold exec execBlockEnd; exact .view (by simp)
  | blockTransferTimeout session xfer => exact kept_blockTransferTimeout _ _ s
  | subscribe m => unfold exec execSubscribe; exact .view (by simp)
  | admitReq m => unfold exec execAdmitReq; exact .beat (by simp)
  | admitVerdict durationMs => unfold exec execAdmitVerdict; exact .pulse (by simp)
  | swap m => unfold exec execSwap; exact .beat (by simp)
  | swapCancel m => unfold exec execSwapCancel; exact .beat (by simp)
  | swapPrepared => unfold exec execSwapPrepared; exact .pulse (by simp)
  | firstSwap => exact kept_firstSwap s
  | ledger m => unfold exec execLedger; exact .view (by simp)
  | attest m => unfold exec execAttest; exact .view (by simp)
  | copyActive w => unfold exec execCopyActive; exact .view (by simp)
  | clear w => unfold exec execClear; exact .view (by simp)
  | pageWriteResponse m => unfold exec execPageWriteResponse; exact .beat (by simp)
  | pageReadResponse m => unfold exec execPageReadResponse; exact .beat (by simp)
  | pageRequestResend session reqId => unfold exec execPageRequestResend; exact .beat (by simp)
  | neighborSolicitation port src mac target => unfold exec execNeighborSolicitation; exact .pulse (by simp)
  | icmpv6EchoRequest port src dst mac payload => unfold exec execIcmpv6EchoRequest; exact .pulse (by simp)
  | uncorrectableError die store address => unfold exec execUncorrectableError; exact .pulse (by simp)
  | scrubPatrol die store address word => unfold exec execScrubPatrol; exact .pulse (by simp)
  | seamReplay endpoint failed => unfold exec execSeamReplay; exact .pulse (by simp)
  | seamRetrainTimeout seam => unfold exec execSeamRetrainTimeout; exact .pulse (by simp)
  | dieDeclaredLost die cause => exact kept_dieDeclaredLost _ _ s
  | takeover => exact kept_takeover s
  | derivedSetInForce => unfold exec execDerivedSetInForce; exact .pulse (by simp)
  | derivedSetsComputed => unfold exec execDerivedSetsComputed; exact .pulse (by simp)
  | obsidianCommit => exact kept_obsidianCommit s
  | drain w => unfold exec execDrain; exact .view (by simp)
  | drainHandover => unfold exec execDrainHandover; exact .pulse (by simp)
  | load w => unfold exec execLoad; exact .view (by simp)
  | dieLoadReady die passed => unfold exec execDieLoadReady; exact .pulse (by simp)
  | rejoin w => unfold exec execRejoin; exact .view (by simp)
  | rejoinHandover => unfold exec execRejoinHandover; exact .pulse (by simp)
  | bedrockSwitch w => unfold exec execBedrockSwitch; exact .view (by simp)
  | stageVerifyComplete => unfold exec execStageVerifyComplete; exact .pulse (by simp)
  | floorRaise w => unfold exec execFloorRaise; exact .view (by simp)
  | rootRetire w => unfold exec execRootRetire; exact .view (by simp)
  | enrolClaim w => unfold exec execEnrolClaim; exact .view (by simp)
  | enrolTransfer w => unfold exec execEnrolTransfer; exact .view (by simp)
  | enrolSetPolicy w => unfold exec execEnrolSetPolicy; exact .view (by simp)
  | enrolSetSlot w => unfold exec execEnrolSetSlot; exact .view (by simp)
  | enrolClearSlot w => unfold exec execEnrolClearSlot; exact .view (by simp)
  | enrolRelease w => unfold exec execEnrolRelease; exact .view (by simp)
  | thermalSample die samples => unfold exec execThermalSample; exact .pulse (by simp)
  | extest shiftIn => exact kept_extest _ s
  | samplePreload shiftIn => exact kept_samplePreload _ s
  | idcode => exact kept_idcode s
  | bypass code tdi => exact kept_bypass _ _ s
  | angleEventRearm at_ event frac => unfold exec execAngleEventRearm; exact .pulse (by simp)
  | seamRetrainComplete seam => unfold exec execSeamRetrainComplete; exact .pulse (by simp)
  | hostFrameDropped port malformed => unfold exec execHostFrameDropped; exact .pulse (by simp)
  | trunkFrameRefused trunk f => unfold exec execTrunkFrameRefused; exact .pulse (by simp)

theorem sideOnly_settled {w w' : World} (h : sideOnly w w') (hw : settle w = w) : settle w' = w' := by
  obtain ⟨ct, jt, n, rfl⟩ := h
  have hdev : (settle w).dev = w.dev := by rw [hw]
  calc settle { w with cont := ct, jtag := jt, free := n }
      = { w with dev := (settle w).dev, cont := ct, jtag := jt, free := n } := rfl
    _ = { w with cont := ct, jtag := jt, free := n } := by rw [hdev]

/-! ## What a step leaves -/

theorem exec_powerOnReset (b : Bool) (s : State) :
    exec (.powerOnReset b) s = .next { s with live := settle (cold b s.live), served := {}, dieServed := [] } := rfl

theorem exec_tickBoundary (posted : BitVec 8) (s : State) : exec (.tickBoundary posted) s = serveEffect (tickBoundary posted) s := rfl

/-- What a command that keeps the epoch leaves: a device that has settled, or the device as it stood. -/
theorem Kept.live_eq {s t : State} {o : Host.Outcome State Fault Refusal} (h : Kept s o) (ht : o = .next t) :
    t.live = s.live ∨ ∃ w, t.live = settle w ∧ keepsEpoch s.live w := by
  cases h with
  | live hf =>
    obtain ⟨-, hlive, -, -⟩ := liveEffect_spec ht
    exact hlive.symm.imp_right fun hl => ⟨_, hl, hf _⟩
  | serve hf =>
    obtain ⟨-, hlive⟩ := serveEffect_spec ht
    exact hlive.symm.imp_right fun hl => ⟨_, hl, hf _ _ _⟩
  | any hf _ =>
    obtain ⟨-, hlive, -, -⟩ := anyEffect_spec ht
    exact .inr ⟨_, hlive, hf _⟩

theorem exec_live {i : Instr} {s t : State} (h : exec i s = .next t) : t.live = s.live ∨ ∃ w, t.live = settle w := by
  by_cases hr : ∃ b, i = .powerOnReset b
  · obtain ⟨b, rfl⟩ := hr
    rw [exec_powerOnReset] at h
    cases h; exact .inr ⟨_, rfl⟩
  · by_cases hb : ∃ posted, i = .tickBoundary posted
    · obtain ⟨posted, rfl⟩ := hb
      obtain ⟨-, ht⟩ := serveEffect_spec (exec_tickBoundary posted s ▸ h)
      exact ht.symm.imp_right fun ht => ⟨_, ht⟩
    · push Not at hr hb
      exact ((exec_kept s i hr hb).live_eq h).imp_right fun ⟨w, hw, _⟩ => ⟨w, hw⟩

theorem settle_passTime {w : World} (h : settle w = w) : settle (passTime w) = passTime w := by
  have hdev : (settle w).dev = w.dev := by rw [h]
  unfold passTime
  split
  · exact h
  · calc settle (onMer tickNs w) = { onMer tickNs w with dev := (settle w).dev } := rfl
      _ = onMer tickNs w := by rw [hdev]; rfl

theorem step_nil {s : State} (h : s.pending = []) : step s = .next { s with live := passTime s.live } := by simp only [step, h]

theorem step_cons {s : State} {i : Instr} {rest : List Instr} (h : s.pending = i :: rest) : step s = exec i { s with pending := rest } := by
  simp only [step, h]

/-! ## A device that a failure of Bedrock has stopped -/

theorem alive_of_failed {w : World} (h : w.dev.bedrockFailed = true) : alive w = false := by simp [alive, h]

theorem passTime_other_blocks (w : World) : ∃ m, passTime w = { w with mer := m } := by
  unfold passTime
  split <;> exact ⟨_, rfl⟩

theorem serveEffect_dead {f : World → World → Store World → World × World × Store World} {s : State} (h : alive s.live = false) :
    serveEffect f s = .next s := by simp [serveEffect, h]

/-- A command other than a reset reaches no further than Obsidian and the test access port once Bedrock has failed. -/
theorem exec_failed {i : Instr} {s t : State} (hf : s.live.dev.bedrockFailed = true) (hr : s.live.dev.inReset = false)
    (hp : settle s.live = s.live) (hi : ∀ b, i ≠ .powerOnReset b) (h : exec i s = .next t) :
    t.pending = s.pending ∧ sideOnly s.live t.live := by
  have hdead := alive_of_failed hf
  by_cases hb : ∃ posted, i = .tickBoundary posted
  · obtain ⟨posted, rfl⟩ := hb
    rw [exec_tickBoundary, serveEffect_dead hdead] at h
    cases h; exact ⟨rfl, sideOnly.refl _⟩
  · push Not at hb
    have hk := exec_kept s i hi hb
    rw [h] at hk
    generalize ho : Host.Outcome.next t = o at hk
    cases hk with
    | live _ =>
      rw [liveEffect_dead hdead] at ho
      cases ho; exact ⟨rfl, sideOnly.refl _⟩
    | serve _ =>
      rw [serveEffect_dead hdead] at ho
      cases ho; exact ⟨rfl, sideOnly.refl _⟩
    | any _ hside =>
      obtain ⟨hq, ht, -, -⟩ := anyEffect_spec ho.symm
      have hs := hside s.live hr
      exact ⟨hq, by rw [ht, sideOnly_settled hs hp]; exact hs⟩

/-- `w'` differs from `w` at most in Meridian, Obsidian and its ledgers, the test access port and the count of draws: all that goes on after
a failure of Bedrock. -/
def stoppedOnly (w w' : World) : Prop := ∃ m ct jt n, w' = { w with mer := m, cont := ct, jtag := jt, free := n }

theorem stoppedOnly.refl (w : World) : stoppedOnly w w := ⟨_, _, _, _, rfl⟩

theorem stoppedOnly.trans {a b c : World} (hab : stoppedOnly a b) (hbc : stoppedOnly b c) : stoppedOnly a c := by
  obtain ⟨_, _, _, _, rfl⟩ := hab
  obtain ⟨m, ct, jt, n, rfl⟩ := hbc
  exact ⟨m, ct, jt, n, rfl⟩

theorem sideOnly.stopped {w w' : World} (h : sideOnly w w') : stoppedOnly w w' := by
  obtain ⟨ct, jt, n, rfl⟩ := h; exact ⟨_, ct, jt, n, rfl⟩

theorem stoppedOnly.dev_eq {w w' : World} (h : stoppedOnly w w') : w'.dev = w.dev := by
  obtain ⟨_, _, _, _, rfl⟩ := h; rfl

/-- Every step that is no reset keeps a failed device stopped, its pins settled, and takes no reset into the queue. -/
theorem step_failed {s t : State} (hf : s.live.dev.bedrockFailed = true) (hr : s.live.dev.inReset = false) (hp : settle s.live = s.live)
    (hq : ∀ b, Instr.powerOnReset b ∉ s.pending) (h : step s = .next t) :
    stoppedOnly s.live t.live ∧ settle t.live = t.live ∧ ∀ b, Instr.powerOnReset b ∉ t.pending := by
  cases hpend : s.pending with
  | nil =>
    rw [step_nil hpend] at h
    cases h
    obtain ⟨m, hm⟩ := passTime_other_blocks s.live
    exact ⟨⟨m, _, _, _, hm⟩, settle_passTime hp, hq⟩
  | cons i rest =>
    rw [step_cons hpend] at h
    rw [hpend] at hq
    obtain ⟨hrest, hside⟩ := exec_failed (s := { s with pending := rest }) (i := i) hf hr hp (fun b hi => hq b (by simp [← hi])) h
    exact ⟨hside.stopped, sideOnly_settled hside hp, fun b hb => hq b (List.mem_cons_of_mem i (by rwa [hrest] at hb))⟩

theorem run_succ (k : Nat) (s : State) (t : State) (h : Host.Core.run core (k + 1) s = .next t) :
    ∃ u, step s = .next u ∧ Host.Core.run core k u = .next t := by
  simp only [Host.Core.run, show core.step s = step s from rfl] at h
  cases hs : step s with
  | next u => rw [hs] at h; exact ⟨u, rfl, h⟩
  | fault r => rw [hs] at h; cases h
  | refused r => rw [hs] at h; cases h

theorem run_failed (k : Nat) {s t : State} (hf : s.live.dev.bedrockFailed = true) (hr : s.live.dev.inReset = false)
    (hp : settle s.live = s.live) (hq : ∀ b, Instr.powerOnReset b ∉ s.pending) (h : Host.Core.run core k s = .next t) :
    stoppedOnly s.live t.live := by
  induction k generalizing s with
  | zero => cases h; exact stoppedOnly.refl _
  | succ k ih =>
    obtain ⟨u, hu, hrun⟩ := run_succ k s t h
    obtain ⟨hstop, hpu, hqu⟩ := step_failed hf hr hp hq hu
    rw [← hstop.dev_eq] at hf hr
    exact hstop.trans (ih hf hr hpu hqu hrun)

theorem pins_low_of_failed {w : World} (hf : w.dev.bedrockFailed = true) : (settle w).dev.outLive = false ∧ (settle w).dev.faultN = false := by
  simp [settle, faultLevel, hf]

/-! ## The failure of Bedrock, and the last records (01 R15; log 89) -/

/-- A record of the pinned class enters its queue where that has room. -/
theorem obsQueue_pinned {r : ObsRec} {o : Obsidian} (hr : r.sections.isEmpty = false) (ho : o.pinned.length < 256) :
    (obsQueue r o).pinned = o.pinned ++ [r] := by simp [obsQueue, hr, ho]

theorem pinRecord_keeps (format seq sec : Nat) (r : ObsRec) (o : Obsidian) : (pinRecord format seq r o sec).pinned = o.pinned := by
  unfold pinRecord
  split <;> split <;> rfl

theorem pinRecords_keep (format seq : Nat) (r : ObsRec) (secs : List Nat) (o : Obsidian) :
    (secs.foldl (pinRecord format seq r) o).pinned = o.pinned := by
  induction secs generalizing o with
  | nil => rfl
  | cons sec secs ih => rw [List.foldl_cons, ih, pinRecord_keeps]

/-- A record committed: its queues as they were given, the next SEQ taken. -/
theorem commitRecord_keeps (format : Nat) (r : ObsRec) (o : Obsidian) :
    (commitRecord format r o).pinned = o.pinned ∧ (commitRecord format r o).seq = o.seq + 1 :=
  ⟨pinRecords_keep _ _ r _ o, rfl⟩

theorem obsLast_one {w : World} {r : ObsRec} (h : w.cont.obs.pinned = [r]) :
    (obsLast w).cont.obs.pinned = [] ∧ (obsLast w).cont.obs.seq = w.cont.obs.seq + 1 ∧ obsLast w = { w with cont := (obsLast w).cont } := by
  have hlast : obsLast w = onObs (fun o => commitRecord (commonFormat w) r { o with pinned := [] }) w := by
    simp [obsLast, obsCommit, onObs, onCont, h]
  rw [hlast]
  obtain ⟨hp, hs⟩ := commitRecord_keeps (commonFormat w) r { w.cont.obs with pinned := [] }
  exact ⟨hp, hs, rfl⟩

/-- The world after a Bedrock failure, block by block. -/
theorem bedrockFail_eq (w : World) : bedrockFail w = { w with
    dev := { w.dev with bedrockFailed := true, faultHeld := true, outLive := false }
    cont := (record 0x80 4 0 0 w).cont, free := w.free + 1 } := rfl

/-- The record of a Bedrock failure: pinned, in its queue where that has room, and no SEQ taken yet. -/
theorem bedrockFail_record (w : World) :
    (w.cont.obs.pinned.length < 256 → ∃ r, (bedrockFail w).cont.obs.pinned = w.cont.obs.pinned ++ [r] ∧ r.type = 0x80 ∧
      r.lc0 = nowNs w ∧ r.epoch = w.dev.epoch) ∧ (bedrockFail w).cont.obs.seq = w.cont.obs.seq :=
  ⟨fun h => ⟨_, obsQueue_pinned rfl h, rfl, rfl, rfl⟩, (obsQueue_keeps _ _).2.1⟩

/-! ## The epoch, step by step -/

theorem keepsEpoch_settle (w : World) : keepsEpoch w (settle w) := keepsEpoch_of_pulse (pulse_settle w)

theorem keepsEpoch_passTime (w : World) : keepsEpoch w (passTime w) := by
  obtain ⟨m, hm⟩ := passTime_other_blocks w
  rw [hm]; exact ⟨rfl, id⟩

theorem serveEffect_alive {f : World → World → Store World → World × World × Store World} {s : State} (h : alive s.live = true) :
    serveEffect f s = .next { s with live := settle (f s.live s.served s.dieServed).1, served := (f s.live s.served s.dieServed).2.1,
                                     dieServed := (f s.live s.served s.dieServed).2.2 } := by simp [serveEffect, h]

/-- A command other than POWER_ON_RESET and TICK_BOUNDARY keeps the epoch. -/
theorem keepsEpoch_exec {s t : State} {i : Instr} (hr : ∀ b, i ≠ .powerOnReset b) (hb : ∀ posted, i ≠ .tickBoundary posted)
    (h : exec i s = .next t) : keepsEpoch s.live t.live := by
  obtain ht | ⟨w, ht, hw⟩ := (exec_kept s i hr hb).live_eq h
  · rw [ht]; exact keepsEpoch.refl _
  · rw [ht]; exact hw.trans (keepsEpoch_settle w)

theorem keepsEpoch_step_nil {s t : State} (hq : s.pending = []) (h : step s = .next t) : keepsEpoch s.live t.live := by
  rw [step_nil hq] at h
  cases h; exact keepsEpoch_passTime _

/-- A reset leaves epoch 0 and no boundary due. -/
theorem powerOnReset_effect {s t : State} {b : Bool} (h : exec (.powerOnReset b) s = .next t) :
    t.live.dev.epoch = 0 ∧ t.live.dev.boundaryDue = none := by
  rw [exec_powerOnReset] at h
  cases h; exact ⟨rfl, rfl⟩

/-- The pulse of the live world at the end of a boundary. -/
theorem tickBoundary_beat {posted : BitVec 8} {w served : World} {lost : Store World} {lc0 : Nat} {lc3 : Int}
    (h : w.dev.boundaryDue = some (lc0, lc3)) : ∃ b, (pulse (tickBoundary posted w served lost).1).beat =
      { (pulse w).beat with epoch := w.dev.epoch + 1, due := none, lc0 := lc0, lc3 := lc3, present := b } := by
  obtain ⟨-, hbeat, -⟩ := tickBoundary_due (posted := posted) (served := served) (lost := lost) h
  obtain ⟨b, hclosed⟩ := pulse_closedAt lc0 lc3 served w
  exact ⟨b, by rw [hbeat, hclosed]; rfl⟩

theorem pulse_rw (w : World) : (pulse w).rw = w.cfg.rw := rfl

theorem tickBoundary_idle {posted : BitVec 8} {w served : World} {lost : Store World} (h : w.dev.boundaryDue = none) :
    tickBoundary posted w served lost = (w, served, lost) := by simp [tickBoundary, h]

/-- A TICK_BOUNDARY closes an epoch where a boundary is due on a device that runs, and else keeps it. -/
theorem tickBoundary_effect {s t : State} {posted : BitVec 8} (h : exec (.tickBoundary posted) s = .next t) :
    (s.live.dev.boundaryDue.isSome = true ∧ t.live.dev.epoch = s.live.dev.epoch + 1 ∧ t.live.dev.boundaryDue = none) ∨
    ((alive s.live = true → s.live.dev.boundaryDue = none) ∧ keepsEpoch s.live t.live) := by
  rw [exec_tickBoundary] at h
  cases ha : alive s.live with
  | false =>
    rw [serveEffect_dead ha] at h
    cases h; exact .inr ⟨nofun, keepsEpoch.refl _⟩
  | true =>
    rw [serveEffect_alive ha] at h
    cases h
    cases hdue : s.live.dev.boundaryDue with
    | none => exact .inr ⟨fun _ => rfl, by rw [tickBoundary_idle hdue]; exact keepsEpoch_settle _⟩
    | some d =>
      obtain ⟨b, hbeat⟩ := tickBoundary_beat (posted := posted) (served := s.served) (lost := s.dieServed) hdue
      exact .inl ⟨rfl, congrArg Beat.epoch hbeat, congrArg Beat.due hbeat⟩

end Sys2Proof.Machine

namespace Sys2Proof.Claims

open Sys2Proof.Machine

theorem step_keeps_pins {s t : State} (hp : pinsAgree s.live) (h : step s = .next t) : pinsAgree t.live := by
  cases hpend : s.pending with
  | nil =>
    rw [step_nil hpend] at h
    cases h; exact settle_passTime hp
  | cons i rest =>
    rw [step_cons hpend] at h
    obtain ht | ⟨w, ht⟩ := exec_live h
    · rw [ht]; exact hp
    · rw [ht]; exact settle_settle w

theorem tickIdle_ne_high (d : Dev) : tickIdle d ≠ .high := by
  unfold tickIdle
  split
  · simp
  · split <;> simp

/-- A TICK pin that settles high is a driven one. -/
theorem driven_of_high {on : Bool} {p : PinLevel} {d : Dev} (h : (if on then p else tickIdle d) = .high) : on = true := by
  cases on
  · exact absurd h (tickIdle_ne_high d)
  · rfl

/-- Settles O4: a step leaves a device that has settled or, on an empty queue, one whose device block it has not touched; what settled pins
are is read off `settle`. -/
theorem everyStepKeepsPinsAgreeing : Obligations.EveryStepKeepsPinsAgreeing := by
  unfold Obligations.EveryStepKeepsPinsAgreeing
  refine ⟨fun s t hp h => step_keeps_pins hp h, fun w hp => ?_⟩
  have hdev : (settle w).dev = w.dev := by rw [show settle w = w from hp]
  rw [← hdev]
  refine ⟨?outLive, ?ppsOut, ?ticks, ?faultN⟩
  case outLive => simp +contextual [settle, alive]
  case ppsOut => simp +contextual [settle, alive]
  case ticks => rintro (h | h | h | h) <;> simpa [settle, alive, and_assoc] using driven_of_high h
  case faultN => cases hs : w.dev.state <;> simp [settle, faultLevel, devCode, hs, and_assoc, and_left_comm]

/-- Settles O8, by induction on the number of steps: a stopped device keeps all but its clocks, Obsidian and its test access port. -/
theorem bedrockFailureLastsUntilReset : Obligations.BedrockFailureLastsUntilReset := by
  unfold Obligations.BedrockFailureLastsUntilReset
  intro k s t hf hr hp hq h
  obtain ⟨m, ct, jt, n, ht⟩ := run_failed k hf hr hp hq h
  obtain ⟨hout, hfault⟩ := pins_low_of_failed hf
  rw [show settle s.live = s.live from hp] at hout hfault
  simp [ht, hout, hfault]

/-- Settles O9: the failure's own effect; after it the device is stopped as in O8, and OBSIDIAN_COMMIT takes the one pinned record. -/
theorem bedrockFailureDrivesPinsLow : Obligations.BedrockFailureDrivesPinsLow := by
  unfold Obligations.BedrockFailureDrivesPinsLow
  intro s ⟨halive, hpins⟩
  obtain ⟨hrec, hseq⟩ := bedrockFail_record s.live
  have hreset : s.live.dev.inReset = false := by simp_all [alive]
  refine ⟨_, liveEffect_alive halive, rfl, rfl, (pins_low_of_failed rfl).1, (pins_low_of_failed rfl).2, hrec, ?frame, ?lasts, ?commit⟩
  case frame => rw [bedrockFail_eq]; rfl
  case lasts =>
    intro k u hq hrun
    obtain ⟨m, ct, jt, n, hu⟩ := run_failed k (s := { s with live := settle (bedrockFail s.live) }) rfl hreset (settle_settle _) hq hrun
    rw [hu]; exact ⟨rfl, rfl⟩
  case commit =>
    intro hnone
    obtain ⟨r, hr, -⟩ := hrec (by simp [hnone])
    rw [hnone] at hr
    obtain ⟨hp, hs, hl⟩ := obsLast_one (w := settle (bedrockFail s.live)) hr
    have hset := sideOnly_settled (sideOnly_obsLast (settle (bedrockFail s.live))) (settle_settle _)
    have hexec : exec .obsidianCommit { s with live := settle (bedrockFail s.live) } =
        .next { s with live := obsLast (settle (bedrockFail s.live)) } := by
      have h : exec .obsidianCommit { s with live := settle (bedrockFail s.live) } =
        anyEffect obsLast { s with live := settle (bedrockFail s.live) } := if_pos (by simp [bedrockFail_eq, hreset])
      rw [h, anyEffect, hset]
    refine ⟨_, hexec, rfl, hp, hs.trans (by rw [settle_cont, hseq]), ?_, ?_⟩
    · rw [hl]
    · rw [hl]

/-- Settles O3, command by command: POWER_ON_RESET zeroes the counter, TICK_BOUNDARY closes an epoch where a boundary is due, and every other
row of the opcode table keeps it (`exec_kept`). -/
theorem epochCountsTickBoundariesOnly : Obligations.EpochCountsTickBoundariesOnly := by
  unfold Obligations.EpochCountsTickBoundariesOnly
  intro s t h hdue
  cases hq : s.pending with
  | nil =>
    obtain ⟨hepoch, hkeep⟩ := keepsEpoch_step_nil hq h
    exact ⟨hkeep hdue, nofun, nofun, fun _ => .inl hepoch⟩
  | cons i rest =>
    rw [step_cons hq] at h
    by_cases hr : ∃ b, i = .powerOnReset b
    · obtain ⟨b, rfl⟩ := hr
      obtain ⟨hepoch, hnone⟩ := powerOnReset_effect h
      exact ⟨by simp [hnone], fun _ _ _ => hepoch, nofun, fun hn => absurd rfl (hn b rest)⟩
    · by_cases hb : ∃ posted, i = .tickBoundary posted
      · obtain ⟨posted, rfl⟩ := hb
        obtain ⟨hsome, hepoch, hnone⟩ | ⟨hidle, hepoch, hkeep⟩ := tickBoundary_effect h
        · exact ⟨by simp [hnone], nofun, fun _ _ _ _ _ => ⟨hdue hsome, hepoch⟩, fun _ => .inr ⟨posted, rest, rfl, hsome, hepoch⟩⟩
        · refine ⟨hkeep hdue, nofun, fun _ _ _ haw hsome => ?_, fun _ => .inl hepoch⟩
          rw [hidle haw.1] at hsome; cases hsome
      · push Not at hr hb
        obtain ⟨hepoch, hkeep⟩ := keepsEpoch_exec hr hb h
        refine ⟨hkeep hdue, fun b _ hi => ?_, fun posted _ hi => ?_, fun _ => .inl hepoch⟩
        · cases hi; exact absurd rfl (hr b)
        · cases hi; exact absurd rfl (hb posted)

/-- Settles O28: the closed epoch's stamps and the writes left waiting are read off the pulse of the world at the close, which hosts are then
served from; the rest of the boundary keeps the beat and takes in no write. -/
theorem tickBoundaryClosesTheEpoch : Obligations.TickBoundaryClosesTheEpoch := by
  unfold Obligations.TickBoundaryClosesTheEpoch
  intro s posted lc0 lc3 haw hdue
  obtain ⟨hserved, -, hwaits⟩ := tickBoundary_due (posted := posted) (served := s.served) (lost := s.dieServed) hdue
  obtain ⟨b, hbeat⟩ := tickBoundary_beat (posted := posted) (served := s.served) (lost := s.dieServed) hdue
  simp only [Pulse.beat, pulse, Beat.mk.injEq] at hbeat
  obtain ⟨hepoch, hnone, hlc0, hlc3, -, h0, h1, h2, h3, hjtag⟩ := hbeat
  obtain ⟨b', hclosed⟩ := pulse_closedAt lc0 lc3 s.served s.live
  have hrw : (closedAt lc0 lc3 s.served s.live).cfg.rw = s.live.cfg.rw.filter (fun r => !r.before lc0) := by
    rw [← pulse_rw, hclosed, ← pulse_rw]
  have hsince : waitsSince (lc0 / 65536) (closedAt lc0 lc3 s.served s.live) := by
    intro r hr
    rw [hrw, List.mem_filter] at hr
    simpa [RwWrite.before] using hr.2
  refine ⟨_, (exec_tickBoundary posted s).trans (serveEffect_alive haw.1), rfl, hepoch, hlc0, hlc3, hnone, hwaits hsince, ?_, ?_, ?_,
    h0, h1, h2, h3, hjtag⟩
  all_goals rw [hserved]
  · exact congrArg (fun p => p.epoch) hclosed
  · exact congrArg (fun p => p.lc0) hclosed
  · rw [settle_cfg, hrw]
    exact List.filter_congr fun r _ => by simp [RwWrite.before, ← decide_not]

end Sys2Proof.Claims
end

section
/-! PROOFS. WAITTAG, FENCE and the tokens of SPOST and SWAIT (04 Table 4.3; 01 R18; log 99). -/

namespace Sys2Proof.Machine

/-! ## Tables after an update -/

theorem sGet_of_mem {α : Type} {d : α} {s : Store α} {k : Nat} {v : α} (hs : storeSorted s) (h : (k, v) ∈ s) : sGet d s k = v := by
  induction s with
  | nil => cases h
  | cons p s ih =>
    obtain ⟨j, u⟩ := p
    obtain ⟨hj, hs⟩ := List.pairwise_cons.mp hs
    obtain he | hm := List.mem_cons.1 h
    · cases he; simp [sGet]
    · have hlt : j < k := hj _ hm
      simp [sGet, Nat.ne_of_lt hlt, Nat.not_lt_of_lt hlt, ih hs hm]

theorem mem_of_mem_sPut {α : Type} [DecidableEq α] {d : α} {s : Store α} {i : Nat} {v : α} {e : Nat × α} (h : e ∈ sPut d s i v) :
    e = (i, v) ∨ e ∈ s := by
  unfold sPut at h
  split at h
  · exact .inr (sErase_mem h)
  · exact sInsert_mem h

theorem ctxAt_of_mem {w : World} {k : Nat} {x : Ctx} (hs : storeSorted w.tiles.ctxs) (h : (k, x) ∈ w.tiles.ctxs) : ctxAt w k = x :=
  sGet_of_mem hs h

/-! ## Waiting contexts -/

/-- A context that waits for nothing when it executes the word at its program counter. -/
theorem wait_of_fetches {w : World} {c : TileCtx} {i : Instr} (h : fetches w c i = true) : (ctxAt w (TileCtx.key c)).wait = .none := by
  simp only [fetches, mayRun, Bool.and_eq_true, decide_eq_true_eq] at h
  obtain ⟨⟨⟨⟨-, hwait⟩, -⟩, -⟩, -⟩ := h
  exact hwait

/-- WAITTAG whose tag has retired: RD takes the tag's status word, and the context goes on. -/
theorem wakeCtx_tag_retired {x : Ctx} {rd : Fin 16} {t : Nat} (h : retired x (sGet 0 x.tagSerial t) = true) :
    wakeCtx { x with wait := .tag rd t } = { x with wait := .none, s := sPut 0 x.s rd (sGet 0 x.status t), pc := x.pc + 1 } := by
  have h' : retired { x with wait := .tag rd t } (sGet 0 x.tagSerial t) = true := h
  simp [wakeCtx, h']

theorem wakeCtx_tag_waits {x : Ctx} {rd : Fin 16} {t : Nat} (h : retired x (sGet 0 x.tagSerial t) = false) :
    wakeCtx { x with wait := .tag rd t } = { x with wait := .tag rd t } := by
  have h' : retired { x with wait := .tag rd t } (sGet 0 x.tagSerial t) = false := h
  simp [wakeCtx, h']

theorem wakeCtx_fence (x : Ctx) : wakeCtx { x with wait := .fence } =
    if allRetired x then { x with wait := .none, pc := x.pc + 1 } else { x with wait := .fence } := rfl

/-! ## Tokens -/

/-- `w'` differs from `w` at most in what tokens touch: contexts, the counts of synchronisation objects and their ledgers. -/
def syncScope (w w' : World) : Prop :=
  ∃ cs n l, w' = { w with tiles := { w.tiles with ctxs := cs, sync := n }, cont := { w.cont with sync := l } }

theorem syncScope.refl (w : World) : syncScope w w := ⟨_, _, _, rfl⟩

theorem syncScope.trans {a b c : World} (hab : syncScope a b) (hbc : syncScope b c) : syncScope a c := by
  obtain ⟨_, _, _, rfl⟩ := hab
  obtain ⟨cs, n, l, rfl⟩ := hbc
  exact ⟨cs, n, l, rfl⟩

theorem syncScope.dev_eq {w w' : World} (h : syncScope w w') : w'.dev = w.dev := by
  obtain ⟨_, _, _, rfl⟩ := h; rfl

theorem syncScope.eq_with {w w' : World} (h : syncScope w w') : w' = { w with
    tiles := { w.tiles with ctxs := w'.tiles.ctxs, sync := w'.tiles.sync }, cont := { w.cont with sync := w'.cont.sync } } := by
  obtain ⟨_, _, _, rfl⟩ := h; rfl

theorem syncScope_onCtx (k : Nat) (f : Ctx → Ctx) (w : World) : syncScope w (onCtx k f w) := ⟨_, _, _, rfl⟩

@[simp] theorem syncCount_onCtx (k : Nat) (f : Ctx → Ctx) (w : World) (o : Nat) : syncCount (onCtx k f w) o = syncCount w o := rfl

/-- The count of an object and its ledger after one more token, before it wakes a context. -/
def addToken (obj : Nat) (w : World) : World :=
  onSyncLedger (syncLedgerOf w obj) (fun l => { l with posted := l.posted + 1 }) (onTiles (fun t => { t with sync := sUpd 0 t.sync obj (· + 1) }) w)

theorem postSync_eq (obj : Nat) (w : World) : postSync obj w = wakeSync obj (addToken obj w) := rfl

theorem addToken_sync (obj : Nat) (w : World) : (addToken obj w).tiles.sync = sUpd 0 w.tiles.sync obj (· + 1) := rfl

theorem syncScope_addToken (obj : Nat) (w : World) : syncScope w (addToken obj w) := ⟨_, _, _, rfl⟩

@[simp] theorem ctxAt_addToken (obj : Nat) (w : World) (k : Nat) : ctxAt (addToken obj w) k = ctxAt w k := rfl

theorem syncCount_addToken_same (obj : Nat) {w : World} (h : storeSorted w.tiles.sync) :
    syncCount (addToken obj w) obj = syncCount w obj + 1 := by
  rw [syncCount, addToken_sync]; exact sGet_put_same _ _ h

theorem syncCount_addToken_other {obj o : Nat} {w : World} (h : storeSorted w.tiles.sync) (ho : o ≠ obj) :
    syncCount (addToken obj w) o = syncCount w o := by
  rw [syncCount, addToken_sync]; exact sGet_put_other _ h ho

theorem takeSync_of_none {obj : Nat} {w : World} (h : syncCount w obj = 0) : takeSync obj w = w := if_pos h

theorem takeSync_of_some {obj : Nat} {w : World} (h : syncCount w obj ≠ 0) : takeSync obj w =
    onSyncLedger (syncLedgerOf w obj) (fun l => { l with waited := l.waited + 1 })
      (onTiles (fun t => { t with sync := sUpd 0 t.sync obj (· - 1) }) w) := if_neg h

theorem syncScope_takeSync (obj : Nat) (w : World) : syncScope w (takeSync obj w) := by
  unfold takeSync
  split
  · exact syncScope.refl w
  · exact ⟨_, _, _, rfl⟩

@[simp] theorem takeSync_ctxs (obj : Nat) (w : World) : (takeSync obj w).tiles.ctxs = w.tiles.ctxs := by
  unfold takeSync
  split <;> rfl

theorem syncCount_takeSync_same (obj : Nat) {w : World} (h : storeSorted w.tiles.sync) :
    syncCount (takeSync obj w) obj = syncCount w obj - 1 := by
  by_cases h0 : syncCount w obj = 0
  · rw [takeSync_of_none h0, h0]
  · rw [takeSync_of_some h0]; exact sGet_put_same _ _ h

theorem syncCount_takeSync_other {obj o : Nat} {w : World} (h : storeSorted w.tiles.sync) (ho : o ≠ obj) :
    syncCount (takeSync obj w) o = syncCount w o := by
  by_cases h0 : syncCount w obj = 0
  · rw [takeSync_of_none h0]
  · rw [takeSync_of_some h0]; exact sGet_put_other _ h ho

/-- A posted token is taken by one context that waits for it, which goes on, or stays. -/
theorem wakeSync_cases (obj : Nat) (w : World) : wakeSync obj w = w ∨ ∃ k x, (k, x) ∈ w.tiles.ctxs ∧ x.wait = .sync obj ∧
    wakeSync obj w = onCtx k (fun c => { c with wait := .none, pc := c.pc + 1 }) (takeSync obj w) := by
  unfold wakeSync
  split
  · exact .inl rfl
  · split
    next k x hfind =>
      have hwait := List.find?_some hfind
      simp only [Bool.and_eq_true, decide_eq_true_eq] at hwait
      exact .inr ⟨k, x, List.mem_of_find?_eq_some hfind, hwait.2, rfl⟩
    · exact .inl rfl

theorem syncScope_postSync (obj : Nat) (w : World) : syncScope w (postSync obj w) := by
  rw [postSync_eq]
  obtain h | ⟨k, x, -, -, h⟩ := wakeSync_cases obj (addToken obj w)
  · rw [h]; exact syncScope_addToken obj w
  · rw [h]; exact (syncScope_addToken obj w).trans ((syncScope_takeSync obj _).trans (syncScope_onCtx k _ _))

/-- A post leaves every context that does not wait for its object. -/
theorem ctxAt_postSync_of_not_waiting {obj k : Nat} {w : World} (hs : storeSorted w.tiles.ctxs) (hk : (ctxAt w k).wait ≠ .sync obj) :
    ctxAt (postSync obj w) k = ctxAt w k := by
  rw [postSync_eq]
  obtain h | ⟨j, x, hm, hx, h⟩ := wakeSync_cases obj (addToken obj w)
  · rw [h, ctxAt_addToken]
  · have hj : k ≠ j := by
      rintro rfl
      rw [ctxAt_of_mem hs hm] at hk
      exact hk hx
    have hsorted : storeSorted (takeSync obj (addToken obj w)).tiles.ctxs := by rw [takeSync_ctxs]; exact hs
    rw [h, ctxAt_onCtx_other _ hsorted hj, ctxAt, takeSync_ctxs]
    rfl

theorem syncCount_postSync_other {obj o : Nat} {w : World} (hs : storeSorted w.tiles.sync) (ho : o ≠ obj) :
    syncCount (postSync obj w) o = syncCount w o := by
  have hadd := syncCount_addToken_other hs ho
  have hsorted : storeSorted (addToken obj w).tiles.sync := by rw [addToken_sync]; exact sPut_sorted _ _ hs
  rw [postSync_eq]
  obtain h | ⟨k, x, -, -, h⟩ := wakeSync_cases obj (addToken obj w)
  · rw [h, hadd]
  · rw [h, syncCount_onCtx, syncCount_takeSync_other hsorted ho, hadd]

/-- A token that no context waits for stays. -/
theorem postSync_of_none_waiting {obj : Nat} {w : World} (h : ∀ e ∈ w.tiles.ctxs, e.2.wait ≠ .sync obj) : postSync obj w = addToken obj w := by
  rw [postSync_eq]
  obtain hw | ⟨k, x, hm, hx, -⟩ := wakeSync_cases obj (addToken obj w)
  · exact hw
  · exact absurd hx (h (k, x) hm)

end Sys2Proof.Machine

namespace Sys2Proof.Claims

open Sys2Proof.Machine

/-! ## The rows -/

theorem exec_waittag (c : TileCtx) (rd : Fin 16) (imm : W32) (s : State) : exec (.waittag c rd imm) s =
    liveEffect (runScalar c (.waittag c rd imm) (onCtx (TileCtx.key c) (fun x => wakeCtx { x with wait := .tag rd (imm.toNat % 256) }))) s := rfl

theorem exec_fence (c : TileCtx) (s : State) : exec (.fence c) s =
    liveEffect (runScalar c (.fence c) (onCtx (TileCtx.key c) (fun x => wakeCtx { x with wait := .fence }))) s := rfl

theorem exec_spost (c : TileCtx) (imm : W32) (s : State) : exec (.spost c imm) s = liveEffect (runScalar c (.spost c imm)
    (fun w => postSync (imm.toNat % 32768) (onCtx (TileCtx.key c) (fun x => { x with pc := x.pc + 1 }) w))) s := rfl

theorem exec_swait (c : TileCtx) (imm : W32) (s : State) : exec (.swait c imm) s = liveEffect (runScalar c (.swait c imm)
    (fun w => if syncCount w (imm.toNat % 32768) = 0 then onCtx (TileCtx.key c) (fun x => { x with wait := .sync (imm.toNat % 32768) }) w
      else onCtx (TileCtx.key c) (fun x => { x with pc := x.pc + 1 }) (takeSync (imm.toNat % 32768) w))) s := rfl

/-- A scalar row that the word at the program counter spells, and that leaves the device block alone, ends in its effect. -/
theorem runsTo_of_fetches {i : Instr} {c : TileCtx} {s : State} {f : World → World} {P : State → Prop}
    (hi : exec i s = liveEffect (runScalar c i f) s) (ha : awake s) (hf : fetches s.live c i = true) (hd : (f s.live).dev = s.live.dev)
    (hP : P { s with live := f s.live }) : runsTo i s P :=
  runsTo_of_liveEffect hi ha (by rw [runScalar_of_fetches f hf, hd]) (by rwa [runScalar_of_fetches f hf])

theorem ordered.sync {w : World} (h : ordered w) : storeSorted w.tiles.sync := by
  obtain ⟨-, -, -, -, -, -, -, -, -, hs, -⟩ := h; exact hs

/-- Settles O35: each row is its effect on its context, and on the count of its object, where the word at the program counter spells it. -/
theorem waitsAndTokens : Obligations.WaitsAndTokens := by
  unfold Obligations.WaitsAndTokens
  refine ⟨?waittag, ?fence, ?spost, ?swait⟩
  case waittag =>
    intro s c rd imm ha ho hf
    obtain ⟨hregs, -⟩ := ho.ctx (TileCtx.key c)
    refine runsTo_of_fetches (exec_waittag c rd imm s) ha hf rfl ?_
    rw [ctxAt_onCtx_same _ _ ho.ctxs]
    refine ⟨fun hr => ?_, fun hr => wakeCtx_tag_waits hr, fun k hk => ctxAt_onCtx_other _ ho.ctxs hk, rfl⟩
    rw [wakeCtx_tag_retired hr]
    exact ⟨sGet_put_same _ _ hregs, rfl, rfl, fun r hr => sGet_put_other _ hregs (by simpa [Fin.ext_iff] using hr)⟩
  case fence =>
    intro s c ha ho hf
    refine runsTo_of_fetches (exec_fence c s) ha hf rfl ⟨?_, fun k hk => ctxAt_onCtx_other _ ho.ctxs hk, rfl⟩
    rw [ctxAt_onCtx_same _ _ ho.ctxs, wakeCtx_fence]
  case spost =>
    intro s c imm ha ho hf
    have hwait := wait_of_fetches hf
    have hsorted : storeSorted (onCtx (TileCtx.key c) (fun x => { x with pc := x.pc + 1 }) s.live).tiles.ctxs := onCtx_sorted _ _ ho.ctxs
    have hscope := (syncScope_onCtx (TileCtx.key c) (fun x => { x with pc := x.pc + 1 }) s.live).trans (syncScope_postSync (imm.toNat % 32768) _)
    refine runsTo_of_fetches (exec_spost c imm s) ha hf hscope.dev_eq ⟨?_, fun o hother => syncCount_postSync_other ho.sync hother, fun hnone => ?_, ?_⟩
    · have hself := ctxAt_onCtx_same (TileCtx.key c) (fun x => { x with pc := x.pc + 1 }) ho.ctxs
      rw [ctxAt_postSync_of_not_waiting hsorted (by simp [hself, hwait]), hself]
    · have hnone' : ∀ e ∈ (onCtx (TileCtx.key c) (fun x => { x with pc := x.pc + 1 }) s.live).tiles.ctxs, e.2.wait ≠ .sync (imm.toNat % 32768) := by
        intro e he
        obtain rfl | he := mem_of_mem_sPut he
        · change (ctxAt s.live (TileCtx.key c)).wait ≠ _
          simp [hwait]
        · exact hnone e he
      rw [postSync_of_none_waiting hnone']
      exact ⟨syncCount_addToken_same _ ho.sync, fun k hk => (ctxAt_addToken ..).trans (ctxAt_onCtx_other _ ho.ctxs hk)⟩
    · exact congrArg (fun w => { s with live := w }) hscope.eq_with
  case swait =>
    intro s c imm ha ho hf
    by_cases h0 : syncCount s.live (imm.toNat % 32768) = 0
    · refine runsTo_of_fetches (exec_swait c imm s) ha hf (by rw [if_pos h0]; rfl) ?_
      rw [if_pos h0]
      exact ⟨fun _ => ⟨ctxAt_onCtx_same _ _ ho.ctxs, rfl, rfl⟩, fun hpos => absurd h0 (Nat.ne_of_gt hpos), fun o _ => rfl,
        fun k hk => ctxAt_onCtx_other _ ho.ctxs hk, rfl⟩
    · have hscope := (syncScope_takeSync (imm.toNat % 32768) s.live).trans (syncScope_onCtx (TileCtx.key c) (fun x => { x with pc := x.pc + 1 }) _)
      have hsorted : storeSorted (takeSync (imm.toNat % 32768) s.live).tiles.ctxs := by rw [takeSync_ctxs]; exact ho.ctxs
      have hctx (k : Nat) : ctxAt (takeSync (imm.toNat % 32768) s.live) k = ctxAt s.live k := by rw [ctxAt, takeSync_ctxs]; rfl
      refine runsTo_of_fetches (exec_swait c imm s) ha hf (by rw [if_neg h0]; exact hscope.dev_eq) ?_
      rw [if_neg h0]
      refine ⟨fun hz => absurd hz h0, fun _ => ⟨?_, syncCount_takeSync_same _ ho.sync⟩, fun o hother => syncCount_takeSync_other ho.sync hother,
        fun k hk => ?_, congrArg (fun w => { s with live := w }) hscope.eq_with⟩
      · rw [ctxAt_onCtx_same _ _ hsorted, hctx]
      · rw [ctxAt_onCtx_other _ hsorted hk, hctx]

end Sys2Proof.Claims
end

section
/-! PROOFS. What a waiting write does when its boundary takes it (01 R26; 02 R35, R37 to R40, R47; 03 R71; 07 R188 to R190, R196, R198;
12 R343). -/

namespace Sys2Proof.Machine

/-! ## Which effect an index has -/

theorem applyRw_of_absent {w : World} {lc0 : Nat} {lc3 : Int} {r : RwWrite} (hp : w.cfg.present = true)
    (h : holderAbsent w.cfg.active r.index r.inst = true) : applyRw lc0 lc3 r w = (w, some aNoInstance) := by
  simp [applyRw, hp, h]

section

variable {w : World} {r : RwWrite} (hp : w.cfg.present = true) (ha : holderAbsent w.cfg.active r.index r.inst = false) (lc0 : Nat) (lc3 : Int)

include hp ha

theorem applyRw_rate (hi : r.index = 0x2010) : applyRw lc0 lc3 r w = (keepWrite r (setRate r.inst (signed 64 (leNat r.value)) w), none) := by
  rw [hi] at ha; simp [applyRw, hp, hi, ha]

theorem applyRw_offset (hi : r.index = 0x2012) : applyRw lc0 lc3 r w = (judge r.inst (signed 64 (leNat r.value)) w,
    if jumpTooFar r.inst (signed 64 (leNat r.value)) w then some aJumpRefused else none) := by
  rw [hi] at ha; simp [applyRw, hp, hi, ha]

theorem applyRw_force (hi : r.index = 0x2013) : applyRw lc0 lc3 r w = (forceStep r.inst (signed 64 (leNat r.value)) w, none) := by
  rw [hi] at ha; simp [applyRw, hp, hi, ha]

theorem applyRw_release (hi : r.index = 0x2014) : applyRw lc0 lc3 r w = (releaseHold r.inst w, none) := by
  rw [hi] at ha; simp [applyRw, hp, hi, ha]

theorem applyRw_omega (hi : r.index = 0x2100) : applyRw lc0 lc3 r w = (keepWrite r (setOmegaSyn r.inst (field32 r.value 0) w), none) := by
  rw [hi] at ha; simp [applyRw, hp, hi, ha]

theorem applyRw_partition (hi : r.index = 0x3001) : applyRw lc0 lc3 r w = (keepWrite r (partCtrl r.inst (leNat r.value) w), none) := by
  rw [hi] at ha; simp [applyRw, hp, hi, ha]

theorem applyRw_param (hi : r.index = 0x4111) : applyRw lc0 lc3 r w =
    (enterDelta (r.inst / 4096) (r.inst % 4096) r.sub 1 (field32 r.value 0) 0 (lc0 / 65536) (keepWrite r w), none) := by
  rw [hi] at ha; simp [applyRw, hp, hi, ha]

theorem applyRw_coeff (hi : r.index = 0x5011) : applyRw lc0 lc3 r w =
    if hasFlag lfClosed (loop w r.inst).flags then (w, some aCoeffClosed) else (keepWrite r w, none) := by
  rw [hi] at ha; simp [applyRw, hp, hi, ha]

theorem applyRw_loop (hi : r.index = 0x5012) : applyRw lc0 lc3 r w = (keepWrite r (loopCtrl r.inst (leNat r.value) w), none) := by
  rw [hi] at ha; simp [applyRw, hp, hi, ha]

theorem applyRw_injector (hi : r.index = 0x5031) : applyRw lc0 lc3 r w =
    (if r.sub = 1 then injArm r.inst (lc3 / 65536).toNat w else injHalt r.inst w, none) := by
  rw [hi] at ha; simp [applyRw, hp, hi, ha]

theorem applyRw_capture (hi : r.index = 0x5041) : applyRw lc0 lc3 r w = (capArm r.inst (leNat r.value) (lc3 / 65536).toNat w, none) := by
  rw [hi] at ha; simp [applyRw, hp, hi, ha]

theorem applyRw_sticky (hi : r.index = 0x7000) : applyRw lc0 lc3 r w = (onTiles (clearSticky r.inst (BitVec.ofNat 8 (leNat r.value))) w, none) := by
  rw [hi] at ha; simp [applyRw, hp, hi, ha]

theorem applyRw_upgrade (hi : r.index = 0x8020) (hok : upgradeBad w r.inst (leNat r.value) = none) :
    applyRw lc0 lc3 r w = (beginUpgrade r.inst (leNat r.value) w, none) := by
  rw [hi] at ha; simp [applyRw, hp, hi, ha, hok]

/-- A write of any other object is kept in the active set, and that is all. -/
theorem applyRw_other (hi : r.index ∉ [0x2010, 0x2012, 0x2013, 0x2014, 0x2100, 0x3001, 0x4110, 0x4111, 0x5011, 0x5012, 0x5031, 0x5041, 0x7000,
    0x8020, 0x8180]) : applyRw lc0 lc3 r w = (keepWrite r w, none) := by
  simp only [List.mem_cons, List.not_mem_nil, or_false, not_or] at hi
  simp [applyRw, hp, ha, hi]

end

/-! ## Logical clocks (02 R34 to R40) -/

theorem nth_updNth_same {α : Type} {d : α} {l : List α} {i : Nat} (f : α → α) (h : i < l.length) : nth d (updNth l i f) i = f (nth d l i) := by
  simp [nth, updNth, h]

/-- What a command writes into a clock that it may write. -/
theorem lcAt_onLc_same {n : Nat} {w : World} (f : Lc → Lc) (h0 : 0 < n) (hn : n < w.mer.clocks.length) :
    lcAt (onLc n f w).mer n = f (lcAt w.mer n) := by
  rw [onLc, if_neg (Nat.ne_of_gt h0)]
  exact nth_updNth_same f hn

theorem frc_clocks (m : Meridian) (cs : List Lc) (k : Nat) : frc { m with clocks := cs } k = frc m k := by
  unfold frc
  split <;> rfl

theorem lcValueOf_clocks (m : Meridian) (cs : List Lc) (l : Lc) (x : Int) : lcValueOf { m with clocks := cs } l x = lcValueOf m l x := by
  simp only [lcValueOf, frc_clocks]

theorem onLc_mer (n : Nat) (f : Lc → Lc) (w : World) : ∃ cs, (onLc n f w).mer = { w.mer with clocks := cs } := by
  unfold onLc
  split <;> exact ⟨_, rfl⟩

theorem lcNow_onLc_same {n : Nat} {w : World} (f : Lc → Lc) (h0 : 0 < n) (hn : n < w.mer.clocks.length) :
    lcNow (onLc n f w) n = lcValueOf w.mer (f (lcAt w.mer n)) 0 := by
  obtain ⟨cs, hcs⟩ := onLc_mer n f w
  unfold lcNow
  rw [lcAt_onLc_same f h0 hn, hcs]
  exact lcValueOf_clocks ..

/-- A write that touches none of offset, anchor, source and rates leaves the clock's value. -/
theorem lcNow_onLc_keeps {n : Nat} {f : Lc → Lc} (w : World) (hf : ∀ l x, lcValueOf w.mer (f l) x = lcValueOf w.mer l x) :
    lcNow (onLc n f w) n = lcNow w n := by
  by_cases h0 : n = 0
  · rw [onLc, if_pos h0]
  · by_cases hn : n < w.mer.clocks.length
    · rw [lcNow_onLc_same f (Nat.pos_of_ne_zero h0) hn, hf]; rfl
    · have hsame : updNth w.mer.clocks n f = w.mer.clocks := List.modify_eq_self (Nat.le_of_not_lt hn)
      rw [onLc, if_neg h0, onMer, hsame]

/-- A clock anchored at the present reads as its offset. -/
theorem lcValueOf_anchored {m : Meridian} {l : Lc} (h : l.anchor = frc m l.source) : lcValueOf m l 0 = l.offset := by
  simp [lcValueOf, h]

theorem lcNow_setRate {n : Nat} {w : World} (rate : Int) (h0 : 0 < n) (hn : n < w.mer.clocks.length) : lcNow (setRate n rate w) n = lcNow w n := by
  rw [setRate, lcNow_onLc_same _ h0 hn]
  dsimp only
  split <;> exact lcValueOf_anchored rfl

theorem rate_setRate {n : Nat} {w : World} (rate : Int) (h0 : 0 < n) (hn : n < w.mer.clocks.length) :
    (lcAt (setRate n rate w).mer n).rate = rate := by
  rw [setRate, lcAt_onLc_same _ h0 hn]
  dsimp only
  split <;> rfl

/-- A request that lies past the jump threshold is refused, and the clock goes on as it did. -/
theorem lcNow_judge_refused {n : Nat} {req : Int} {w : World} (h : jumpTooFar n req w = true) : lcNow (judge n req w) n = lcNow w n := by
  simp only [judge, h, if_true]
  exact lcNow_onLc_keeps w fun _ _ => rfl

theorem judge_slews {n : Nat} {req : Int} {w : World} (h : jumpTooFar n req w = false) (hs : lcStepMode n (lcRec w n) = false) (h0 : 0 < n)
    (hn : n < w.mer.clocks.length) : lcNow (judge n req w) n = lcNow w n ∧
    (lcAt (judge n req w).mer n).remainder = lcRemainder w.mer (lcAt w.mer n) + req := by
  simp only [judge, h, hs, Bool.false_eq_true, if_false]
  rw [lcNow_onLc_same _ h0 hn, lcAt_onLc_same _ h0 hn]
  split <;> exact ⟨lcValueOf_anchored rfl, rfl⟩

theorem judge_steps {n : Nat} {req : Int} {w : World} (h : jumpTooFar n req w = false) (hs : lcStepMode n (lcRec w n) = true) (h0 : 0 < n)
    (hn : n < w.mer.clocks.length) : lcNow (judge n req w) n = lcNow w n + lcRemainder w.mer (lcAt w.mer n) + req := by
  simp only [judge, h, hs, Bool.false_eq_true, if_false, if_true]
  rw [lcNow_onLc_same _ h0 hn, lcValueOf_anchored rfl, Int.add_assoc]
  rfl

theorem forceStep_steps {n : Nat} {step : Int} {w : World} (h0 : 0 < n) (hn : n < w.mer.clocks.length) :
    lcNow (forceStep n step w) n = lcNow w n + step ∧ (lcAt (forceStep n step w).mer n).stepped = true ∧
    (lcAt (forceStep n step w).mer n).hold = false := by
  have hnow : lcNow (forceStep n step w) n = lcNow w n + step := (lcNow_onLc_same _ h0 hn).trans (lcValueOf_anchored rfl)
  have hat := lcAt_onLc_same (w := w) (fun l => lcFlags { lcRebase w.mer l.source l with
    offset := (lcRebase w.mer l.source l).offset + step, remainder := 0, slew := 0, jumpRefused := false, hold := false, stepped := true }) h0 hn
  exact ⟨hnow, congrArg Lc.stepped hat, congrArg Lc.hold hat⟩

/-! ## Tracker 4's synthetic rate (02 R47) -/

theorem tracker_onTracker_same {k : Nat} {w : World} (f : Tracker → Tracker) (h : k < w.mer.trackers.length) :
    tracker (onTracker k f w) k = f (tracker w k) := nth_updNth_same f h

@[simp] theorem tracker_writeActive32 (index inst lo : Nat) (v : W32) (w : World) (k : Nat) :
    tracker (writeActive32 index inst lo v w) k = tracker w k := by
  unfold writeActive32
  split <;> rfl

@[simp] theorem tracker_resample (j : Nat) (w : World) (k : Nat) : tracker (resample j w) k = tracker w k := by
  unfold resample
  split <;> rfl

theorem trackers_writeActive32 (index inst lo : Nat) (v : W32) (w : World) : (writeActive32 index inst lo v w).mer.trackers = w.mer.trackers := by
  unfold writeActive32
  split <;> rfl

theorem anchorTheta_synth {k : Nat} (now : Nat) {w : World} (h : atMode (atRec w k) = 4) :
    anchorTheta k now w = onTracker k (anchorAt (thetaU w k now) (travelAt w k now) (thetaClock w (atRec w k) (tracker w k) now)) w := by
  simp [anchorTheta, h]

/-- The angle of an anchored tracker is the one it had at the anchor's instant. -/
theorem theta_anchorTheta {k : Nat} (now : Nat) {w : World} (h : atMode (atRec w k) = 4) (hk : k < w.mer.trackers.length) :
    (tracker (anchorTheta k now w) k).theta = BitVec.ofInt 32 (thetaU w k now) := by
  rw [anchorTheta_synth now h, tracker_onTracker_same _ hk]; rfl

/-- A write of the synthetic rate anchors the angle at the boundary's instant, or at the present one. -/
theorem theta_setOmegaSyn {k : Nat} {w : World} (v : W32) (hm : atMode (atRec w k) = 4) (hv : (tracker w k).mode = .valid)
    (hk : k < w.mer.trackers.length) : (tracker (setOmegaSyn k v w) k).theta =
      BitVec.ofInt 32 (thetaU w k (match w.dev.boundaryDue with | some d => d.1 | none => now16 w)) := by
  have hlen (now : Nat) : k < (writeActive32 0x2100 k 128 v (anchorTheta k now w)).mer.trackers.length := by
    rw [trackers_writeActive32, anchorTheta_synth now hm]
    simpa [onTracker, updNth] using hk
  rw [setOmegaSyn, if_pos ⟨hm, hv⟩]
  dsimp only
  rw [tracker_resample, tracker_onTracker_same _ (hlen _)]
  cases w.dev.boundaryDue <;> exact (congrArg Tracker.theta (tracker_writeActive32 ..)).trans (theta_anchorTheta _ hm hk)

/-! ## Partitions, templates, loops, injectors and captures: the table of each after a write -/

section

variable {w : World}

theorem part_onPart_same (p : Nat) (f : Part → Part) (h : storeSorted w.serving.parts) : part (onPart p f w) p = f (part w p) :=
  sGet_put_same _ _ h

theorem tmpl_onTmpl_same (t : Nat) (f : Tmpl → Tmpl) (h : storeSorted w.solver.tmpls) : tmpl (onTmpl t f w) t = f (tmpl w t) :=
  sGet_put_same _ _ h

theorem loop_onLoop_same (l : Nat) (f : LoopRt → LoopRt) (h : storeSorted w.halo.loops) : loop (onLoop l f w) l = f (loop w l) :=
  sGet_put_same _ _ h

theorem inj_onInj_same (i : Nat) (f : InjRt → InjRt) (h : storeSorted w.halo.injs) : inj (onInj i f w) i = f (inj w i) :=
  sGet_put_same _ _ h

theorem cap_onCap_same (c : Nat) (f : CapRt → CapRt) (h : storeSorted w.halo.caps) : cap (onCap c f w) c = f (cap w c) :=
  sGet_put_same _ _ h

@[simp] theorem part_keepWrite (r : RwWrite) (w : World) (p : Nat) : part (keepWrite r w) p = part w p := rfl

@[simp] theorem loop_keepWrite (r : RwWrite) (w : World) (l : Nat) : loop (keepWrite r w) l = loop w l := rfl

/-- PART_CTRL 1: a partition that may run (09 R249). -/
theorem part_partCtrl_start (p : Nat) (h : storeSorted w.serving.parts) : part (partCtrl p 1 w) p = { part w p with
    started := true, stopping := false, mode := if (part w p).mode = .reservedIdle then .idle else (part w p).mode } :=
  part_onPart_same p _ h

/-- PART_CTRL 0: at once, or at the end of the step or teardown under way. -/
theorem part_partCtrl_stop (p : Nat) (h : storeSorted w.serving.parts) : part (partCtrl p 0 w) p =
    if (part w p).mode = .stepping ∨ (part w p).mode = .teardown then { part w p with stopping := true }
    else { part w p with started := false, stopping := false, mode := if (part w p).mode = .idle then .reservedIdle else (part w p).mode } := by
  simp only [partCtrl]
  split <;> exact part_onPart_same p _ h

/-- PART_CTRL 2 of a halted partition. -/
theorem part_partCtrl_restart {p : Nat} (hm : (part w p).mode = .halted) (h : storeSorted w.serving.parts) :
    part (partCtrl p 2 w) p = { part w p with mode := restMode w p } := by
  simp only [partCtrl, hm, if_true]
  exact part_onPart_same p _ h

/-- A delta that its slot takes waits in the template. -/
theorem pending_enterDelta {t slot inst src : Nat} (fmt : Nat) (value : W32) (prod : Nat) (hok : deltaOk w t slot inst src = true)
    (hi : inst ≠ 0x1FF) (h : storeSorted w.solver.tmpls) :
    ∃ d, d ∈ (tmpl (enterDelta t slot inst fmt value src prod w) t).pending ∧ d.slot = slot ∧ d.inst = inst ∧ d.value = value ∧ d.prod = prod := by
  simp only [enterDelta, hok, hi, Bool.not_true, Bool.false_eq_true, if_false]
  rw [tmpl_onTmpl_same _ _ h]
  exact ⟨_, List.mem_append_right _ (List.mem_singleton_self _), rfl, rfl, rfl, rfl⟩

theorem hasFlag_eq (i : Nat) (f : BitVec 16) : hasFlag i f = f.getLsbD i := rfl

/-- LOOP_CTRL 0: the loop opens and keeps its level. -/
theorem loop_loopCtrl_open (l : Nat) (h : storeSorted w.halo.loops) : hasFlag lfClosed (loop (loopCtrl l 0 w) l).flags = false ∧
    (loop (loopCtrl l 0 w) l).level = (loop w l).level := by
  rw [loopCtrl, loop_onLoop_same _ _ h]
  refine ⟨?_, rfl⟩
  simp [hasFlag_eq, setFlag, lfClosed, lfPending]

theorem loop_loopCtrl_close {l : Nat} (hl : hasFlag lfClosed (loop w l).flags = false) (h : storeSorted w.halo.loops) :
    hasFlag lfClosed (loop (loopCtrl l 1 w) l).flags = true ∧ hasFlag lfPending (loop (loopCtrl l 1 w) l).flags = true := by
  rw [loopCtrl, loop_onLoop_same _ _ h]
  simp only [hl, Nat.one_ne_zero, Bool.false_eq_true, if_false]
  simp [hasFlag_eq, setFlag, lfClosed, lfPending, lfSat]

@[simp] theorem inj_injSettle (l : Nat) (w : World) (i : Nat) : inj (injSettle l w) i = inj w i := by
  unfold injSettle
  split <;> rfl

theorem inj_injArm {i : Nat} (stamp : Nat) (ho : hasObj w.cfg.active 0x5030 0 i = true) (hk : ijKind (injRec w i) ≠ 0) (h : storeSorted w.halo.injs) :
    inj (injArm i stamp w) i = { armed := some stamp, ts := none } := by
  rw [injArm, if_pos (by simp [ho, hk]), inj_injSettle, inj_onInj_same _ _ h]

theorem inj_injHalt (i : Nat) (h : storeSorted w.halo.injs) : inj (injHalt i w) i = {} := by
  rw [injHalt, inj_injSettle, inj_onInj_same _ _ h]

theorem cap_capArm {c : Nat} (stamp : Nat) (ho : hasObj w.cfg.active 0x5040 0 c = true) (h : storeSorted w.halo.caps) :
    (cap (capArm c 1 stamp w) c).state = .armed ∧ (cap (capArm c 1 stamp w) c).pending = none := by
  simp only [capArm, ho, Bool.not_true, Bool.false_eq_true, if_false, if_true]
  rw [cap_onCap_same _ _ h]
  exact ⟨rfl, rfl⟩

theorem sticky_clearSticky (e : Nat) (v : BitVec 8) (h : storeSorted w.tiles.sticky) (j : Nat) :
    sGet 0 (onTiles (clearSticky e v) w).tiles.sticky j = if j = e then sGet 0 w.tiles.sticky j &&& ~~~v else sGet 0 w.tiles.sticky j := by
  change sGet 0 (sUpd 0 w.tiles.sticky e (· &&& ~~~v)) j = _
  split
  next hj => rw [hj]; exact sGet_put_same _ _ h
  next hj => exact sGet_put_other _ h hj

/-! ## The rolling upgrade (12 R343) -/

theorem die_onDie_same {d : Nat} (f : Die → Die) (hd : d < w.dev.dies.length) : die (onDie d f w) d = f (die w d) := nth_updNth_same f hd

@[simp] theorem die_onCont (f : Cont → Cont) (w : World) (d : Nat) : die (onCont f w) d = die w d := rfl

theorem clearStratum_dies (d : Nat) (w : World) : (clearStratum d w).dev.dies = w.dev.dies := by simp [clearStratum]

/-- Each operation of an upgrade: DRAIN, LOAD and REJOIN move their die, BEDROCK_SWITCH the boot bank. -/
theorem beginUpgrade_moves {d : Nat} (v : Nat) (hd : d < w.dev.dies.length) :
    (upOp v = 1 → (die (beginUpgrade d v w) d).state = .draining) ∧ (upOp v = 2 → (die (beginUpgrade d v w) d).state = .loading) ∧
    (upOp v = 3 → (die (beginUpgrade d v w) d).state = .rejoining) ∧ (upOp v = 4 → (beginUpgrade d v w).garnet.bank = 1 - w.garnet.bank) := by
  refine ⟨fun h => ?_, fun h => ?_, fun h => ?_, fun h => ?_⟩
  all_goals simp only [beginUpgrade, h, die_onCont]
  · rw [die_onDie_same _ hd]
  · rw [die_onDie_same _ (by rwa [clearStratum_dies])]
  · rw [die_onDie_same _ hd]
  · simp [onDie]

end

end Sys2Proof.Machine

namespace Sys2Proof.Claims

open Sys2Proof.Machine

theorem ordered.sticky {w : World} (h : ordered w) : storeSorted w.tiles.sticky := by
  obtain ⟨-, -, -, -, -, -, -, hs, -⟩ := h; exact hs

/-- The solver's, the loops' and the serving tables of ordered data. -/
theorem ordered.blocks {w : World} (h : ordered w) : storeSorted w.solver.tmpls ∧ storeSorted w.halo.loops ∧ storeSorted w.halo.injs ∧
    storeSorted w.halo.caps ∧ storeSorted w.serving.parts := by
  obtain ⟨-, -, -, -, -, -, -, -, -, -, -, ht, -, hl, -, hi, hc, -, hp, -⟩ := h
  exact ⟨ht, hl, hi, hc, hp⟩

/-- Settles O32: the effect that the index of the write selects, read through the rules of the block it acts on; NO_INSTANCE for an absent
holder is log 47's choice. -/
theorem waitingWritesTakeEffect : Obligations.WaitingWritesTakeEffect := by
  unfold Obligations.WaitingWritesTakeEffect
  intro w lc0 lc3 r hp ho
  obtain ⟨htmpls, hloops, hinjs, hcaps, hparts⟩ := ho.blocks
  refine ⟨fun ha => applyRw_of_absent hp ha, fun ha => ?_⟩
  refine ⟨?rate, ?refused, ?offset, ?force, ?release, ?omega, ?start, ?stop, ?restart, ?param, ?other, ?sticky, ?coeffClosed, ?coeff, ?open_,
    ?close, ?arm, ?halt, ?capture, ?upgrade⟩
  case rate =>
    intro hi h0 hn
    rw [applyRw_rate hp ha lc0 lc3 hi]
    exact ⟨rfl, rate_setRate _ h0 hn, lcNow_setRate _ h0 hn⟩
  case refused =>
    intro hi hfar
    rw [applyRw_offset hp ha lc0 lc3 hi]
    exact ⟨if_pos hfar, lcNow_judge_refused hfar⟩
  case offset =>
    intro hi hnear h0 hn
    rw [applyRw_offset hp ha lc0 lc3 hi]
    exact ⟨if_neg (by simp [hnear]), fun hs => judge_slews hnear hs h0 hn, fun hs => judge_steps hnear hs h0 hn⟩
  case force =>
    intro hi h0 hn
    rw [applyRw_force hp ha lc0 lc3 hi]
    exact ⟨rfl, forceStep_steps h0 hn⟩
  case release =>
    intro hi h0 hn
    rw [applyRw_release hp ha lc0 lc3 hi]
    exact ⟨rfl, lcAt_onLc_same _ h0 hn⟩
  case omega =>
    intro hi hm hv hk
    rw [applyRw_omega hp ha lc0 lc3 hi]
    exact ⟨rfl, theta_setOmegaSyn _ hm hv hk⟩
  case start =>
    intro hi hv
    rw [applyRw_partition hp ha lc0 lc3 hi, hv]
    exact ⟨rfl, (part_keepWrite ..).trans (part_partCtrl_start _ hparts)⟩
  case stop =>
    intro hi hv
    rw [applyRw_partition hp ha lc0 lc3 hi, hv]
    exact ⟨rfl, (part_keepWrite ..).trans (part_partCtrl_stop _ hparts)⟩
  case restart =>
    intro hi hv hm
    rw [applyRw_partition hp ha lc0 lc3 hi, hv]
    exact ⟨rfl, (part_keepWrite ..).trans (part_partCtrl_restart hm hparts)⟩
  case param =>
    intro hi hok hall
    rw [applyRw_param hp ha lc0 lc3 hi]
    exact ⟨rfl, pending_enterDelta _ _ _ hok hall htmpls⟩
  case other => exact fun hi => applyRw_other hp ha lc0 lc3 hi
  case sticky =>
    intro hi
    rw [applyRw_sticky hp ha lc0 lc3 hi]
    exact ⟨rfl, sticky_clearSticky _ _ ho.sticky⟩
  case coeffClosed =>
    intro hi hc
    rw [applyRw_coeff hp ha lc0 lc3 hi, if_pos hc]
  case coeff =>
    intro hi hc
    rw [applyRw_coeff hp ha lc0 lc3 hi, if_neg (by simp [hc])]
    exact ⟨rfl, by rw [← hi]; rfl⟩
  case open_ =>
    intro hi hv
    rw [applyRw_loop hp ha lc0 lc3 hi, hv]
    simpa only [loop_keepWrite, true_and] using loop_loopCtrl_open r.inst hloops
  case close =>
    intro hi hv hc
    rw [applyRw_loop hp ha lc0 lc3 hi, hv]
    simpa only [loop_keepWrite, true_and] using loop_loopCtrl_close hc hloops
  case arm =>
    intro hi hs hobj hk
    rw [applyRw_injector hp ha lc0 lc3 hi, if_pos hs]
    exact inj_injArm _ hobj hk hinjs
  case halt =>
    intro hi hs
    rw [applyRw_injector hp ha lc0 lc3 hi, if_neg (by simp [hs])]
    exact inj_injHalt _ hinjs
  case capture =>
    intro hi hv hobj
    rw [applyRw_capture hp ha lc0 lc3 hi, hv]
    exact cap_capArm _ hobj hcaps
  case upgrade =>
    intro hi hok hd
    rw [applyRw_upgrade hp ha lc0 lc3 hi hok]
    refine ⟨rfl, ?_⟩
    dsimp only
    exact beginUpgrade_moves (leNat r.value) hd

end Sys2Proof.Claims
end

section
/-! PROOFS. Writes of the active set that wait for their boundary (01 R27; 11 R295; log 62). -/

namespace Sys2Proof.Machine

theorem keyIndex_okey {index sub inst : Nat} (hs : sub < 256) (hi : inst < 2 ^ 24) : keyIndex (okey index sub inst) = index := by
  simp only [keyIndex, okey]; omega

theorem keySub_okey {index sub inst : Nat} (hs : sub < 256) (hi : inst < 2 ^ 24) : keySub (okey index sub inst) = sub := by
  simp only [keySub, okey]; omega

theorem keyInst_okey {index sub inst : Nat} (hi : inst < 2 ^ 24) : keyInst (okey index sub inst) = inst := by
  simp only [keyInst, okey]; omega

/-! ## Rows as writes of their objects -/

theorem objWriteOf_of_value {index sub code : Nat} {x : ObjWrite} (h : x.value = [BitVec.ofNat 8 code]) :
    objWriteOf index sub code x = objWrite index sub tU8 x := by
  funext v w
  exact if_pos h

theorem upgradeWrite_of_op {op : Nat} {x : ObjWrite} (h : x.value.length = 2 ∧ upOp (beNat x.value) = op) :
    upgradeWrite op x = objWrite 0x8020 1 tU16 x := by
  funext v w
  exact if_pos h

theorem coeffType_eq (sub : BitVec 8) : coeffType sub.toNat = if sub = 8 then tU8 else if sub = 9 then tU32 else tReal := by
  simp only [coeffType, BitVec.toNat_eq]
  rfl

/-! ## From request to queue -/

/-- A request of a new REQ_ID, with room for it among the open ones, is judged with the request noted as open. -/
theorem oneRequest_new {n type : Nat} {reqId : BitVec 32} {w : World} (shadow : Bool) (f : World → World)
    (hcache : (session w n).cache.find? (fun e => e.1 = reqId) = none) (hopen : (session w n).open_.any (fun r => r.reqId = reqId) = false)
    (hroom : (session w n).open_.length < 16) : oneRequest n type reqId shadow f w =
      f (onSession n (fun s => { s with open_ := { reqId := reqId, shadow := shadow, peer := s.peer } :: s.open_ }) w) := by
  simp [oneRequest, hcache, hopen, hroom]

/-- A write as it waits for its boundary, accepted at an instant. -/
def waitingWrite (x : WriteReq) (stamp : Nat) : RwWrite where
  session := x.sess
  reqId := x.reqId
  service := x.service
  index := x.index
  sub := x.sub
  inst := x.inst
  value := x.value
  at_ := stamp

/-- An admissible write of an object that acts on neither the shadow nor at once joins the queue of its boundary. -/
theorem acceptWrite_waits (v : View) {x : WriteReq} {o : ObjDef} (w : World) (hs : x.shadow = false) (ha : actsAtOnce x.index = false) :
    acceptWrite v x o w = onCfg (fun c => { c with rw := c.rw ++ [waitingWrite x (nowNs w)] }) w := by
  simp [acceptWrite, waitingWrite, WriteReq.toShadow, hs, ha]

theorem judgeWrite_admissible (v : View) {x : WriteReq} {o : ObjDef} {w : World} (hp : permission w x o = none) (hb : writeBad w x o = none) :
    judgeWrite v x o w = acceptWrite v x o w := by simp [judgeWrite, hp, hb]

/-- A WRITE of an object that is found, writable, of its type and of its size is judged. -/
theorem serviceWrite_found (v : View) {n : Nat} {reqId : BitVec 32} {key type : Nat} {wire : Bytes} {shadow : Bool} {w : World} {o : ObjDef}
    (hrole : hasRole w n 1 = true) (ho : findObj key = .ok o) (hro : o.access ≠ .ro) (hco : o.access ≠ .co) (htype : o.type = type)
    (hblock : keyIndex key ≠ 0x9002) (hlen : wire.length ≤ 1386) (hsize : sizeOk o wire.length = true) :
    serviceWrite v n reqId key type wire shadow w =
      judgeWrite v { sess := n, reqId := reqId, service := 0x11, key := key, value := wireToStored type wire, shadow := shadow } o w := by
  simp [serviceWrite, hrole, ho, hro, hco, htype, hblock, hlen, hsize]

end Sys2Proof.Machine

namespace Sys2Proof.Claims

open Sys2Proof.Machine

/-- Every row that writes the active set is a write of its object. -/
theorem exec_of_rowWrites {c : Instr} {index sub type : Nat} {x : ObjWrite} (h : rowWrites c = some (index, sub, type, x)) (s : State) :
    exec c s = viewEffect (objWrite index sub type x) s := by
  unfold rowWrites at h
  split at h
  case h_7 | h_8 | h_12 | h_13 | h_14 | h_15 | h_16 =>
    obtain ⟨hv, he⟩ := Option.ite_none_right_eq_some.1 h
    cases he
    exact congrArg (fun f => viewEffect f s) (objWriteOf_of_value hv)
  case h_9 =>
    cases h
    rw [← coeffType_eq]; rfl
  case h_20 | h_21 | h_22 | h_23 =>
    obtain ⟨hv, he⟩ := Option.ite_none_right_eq_some.1 h
    cases he
    exact congrArg (fun f => viewEffect f s) (upgradeWrite_of_op hv)
  all_goals cases h
  all_goals rfl

theorem waitingWrite_writeOf {index sub type : Nat} {x : ObjWrite} (stamp : Nat) (hsub : sub < 256) (hinst : x.inst < 2 ^ 24) :
    waitingWrite (writeOf index sub type x) stamp =
      { session := x.session, reqId := x.reqId, service := 0x11, index := index, sub := sub, inst := x.inst, value := wireToStored type x.value,
        at_ := stamp } := by
  simp [waitingWrite, writeOf, WriteReq.index, WriteReq.sub, WriteReq.inst, keyIndex_okey hsub hinst, keySub_okey hsub hinst, keyInst_okey hinst]

/-- An accepted write of the active set: the request noted as open, the write last in the queue of its boundary. -/
theorem objWrite_of_accepted {s : State} {index sub type : Nat} {x : ObjWrite} (v : View) (h : accepted s index sub type x)
    (hctrl : index ≠ 0x1202) (hsec : index < 0x9000) : objWrite index sub type x v s.live =
      onCfg (fun c => { c with rw := c.rw ++ [waitingWrite (writeOf index sub type x) (nowNs s.live)] }) (asked s x.session x.reqId) := by
  obtain ⟨hsub, hinst, hserved, hlive, hcache, hopen, hroom, hrole, o, ho, hro, hco, htype, hblock, hlen, hsize, hperm, hbad⟩ := h
  have hindex := keyIndex_okey (index := index) hsub hinst
  have hatOnce : actsAtOnce (writeOf index sub type x).index = false := by
    simp [WriteReq.index, writeOf, hindex, actsAtOnce, hctrl, hsec]
  have hjudge : serviceWrite v x.session x.reqId (okey index sub x.inst) type x.value false (asked s x.session x.reqId) =
      judgeWrite v (writeOf index sub type x) o (asked s x.session x.reqId) :=
    serviceWrite_found v hrole ho hro hco htype (by rwa [hindex]) hlen hsize
  calc objWrite index sub type x v s.live
      = oneRequest x.session 0x11 x.reqId false (serviceWrite v x.session x.reqId (okey index sub x.inst) type x.value false) s.live := by
        simp [objWrite, hserved, hlive]
    _ = judgeWrite v (writeOf index sub type x) o (asked s x.session x.reqId) := (oneRequest_new false _ hcache hopen hroom).trans hjudge
    _ = acceptWrite v (writeOf index sub type x) o (asked s x.session x.reqId) := judgeWrite_admissible v hperm hbad
    _ = _ := acceptWrite_waits v _ rfl hatOnce

/-- Settles O29: the row is a write of its object (`exec_of_rowWrites`), which once accepted joins the queue of its boundary. -/
theorem acceptedWritesWaitForTheirBoundary : Obligations.AcceptedWritesWaitForTheirBoundary := by
  unfold Obligations.AcceptedWritesWaitForTheirBoundary
  intro s c index sub type x ha hrow hctrl hsec hacc
  have hworld := objWrite_of_accepted (viewOf s.live s.served s.dieServed) hacc hctrl hsec
  refine runsTo_of_liveEffect (f := fun w => objWrite index sub type x (viewOf w s.served s.dieServed) w) (exec_of_rowWrites hrow s) ha ?_ ?_
  · rw [hworld]; rfl
  · obtain ⟨hsub, hinst, -⟩ := hacc
    rw [hworld, ← waitingWrite_writeOf _ hsub hinst]; exact ⟨rfl, rfl, rfl, rfl⟩

end Sys2Proof.Claims
end

section
/-! PROOFS. The free-running counters and the logical clocks: holdover and relock (02 R32, R33), LC3's ramp and the end of a correction
(02 R35, R38, R41), LC3 against its reference (02 R41). -/

namespace Sys2Proof.Machine

/-! ## Lists and clocks after an update -/

theorem nth_updNth_other {α : Type} {d : α} {l : List α} {i j : Nat} (f : α → α) (h : j ≠ i) : nth d (updNth l i f) j = nth d l j := by
  simp [nth, updNth, List.getD_eq_getElem?_getD, Ne.symm h]

theorem lcAt_onLc_other {n k : Nat} (f : Lc → Lc) (w : World) (h : k ≠ n) : lcAt (onLc n f w).mer k = lcAt w.mer k := by
  unfold onLc
  split
  · rfl
  · exact nth_updNth_other f h

/-- A clock that has no writer, or that the device does not have, takes no write. -/
theorem onLc_acts_or_not (n : Nat) (f : Lc → Lc) (w : World) : (0 < n ∧ n < w.mer.clocks.length) ∨ onLc n f w = w := by
  by_cases h0 : n = 0
  · exact .inr (by rw [onLc, if_pos h0])
  · by_cases hn : n < w.mer.clocks.length
    · exact .inl ⟨Nat.pos_of_ne_zero h0, hn⟩
    · have hsame : updNth w.mer.clocks n f = w.mer.clocks := List.modify_eq_self (Nat.le_of_not_lt hn)
      exact .inr (by rw [onLc, if_neg h0, onMer, hsame])

theorem onLc_eq_with (n : Nat) (f : Lc → Lc) (w : World) : ∃ cs, onLc n f w = { w with mer := { w.mer with clocks := cs } } := by
  unfold onLc
  split <;> exact ⟨_, rfl⟩

@[simp] theorem onLc_dev (n : Nat) (f : Lc → Lc) (w : World) : (onLc n f w).dev = w.dev := by
  obtain ⟨cs, h⟩ := onLc_eq_with n f w
  rw [h]

/-- A write that leaves the value at the counters' whole nanosecond leaves the clock's reading. -/
theorem lcNow_onLc_of_value {n : Nat} {f : Lc → Lc} (w : World) (hf : ∀ l, lcValueOf w.mer (f l) 0 = lcValueOf w.mer l 0) :
    lcNow (onLc n f w) n = lcNow w n := by
  obtain ⟨h0, hn⟩ | h := onLc_acts_or_not n f w
  · rw [lcNow_onLc_same f h0 hn, hf]; rfl
  · rw [h]

/-- What a clock reads after a rebase: its value as it stood (02 R35). -/
theorem lcValueOf_rebased {m : Meridian} {l l' : Lc} {source : Nat} (ha : l'.anchor = frc m source) (hs : l'.source = source)
    (ho : l'.offset = lcValueOf m l 0) : lcValueOf m l' 0 = lcValueOf m l 0 := by
  rw [lcValueOf_anchored (by rw [ha, hs]), ho]

/-! ## The free-running counters (02 R32, R33) -/

theorem doFrcHoldover_of_locked {n : Nat} {w : World} (hn : n ≠ 0) (hh : (nth {} w.mer.frcStatus n).holdover = false) :
    doFrcHoldover n w = record 0x03 4 0x2000 n (onFrc n (fun x => { x with locked := false, holdover := true }) w) := by
  simp [doFrcHoldover, hn, hh]

theorem doFrcHoldover_frc0 (w : World) : doFrcHoldover 0 w = w := rfl

end Sys2Proof.Machine

namespace Sys2Proof.Claims

open Sys2Proof.Machine

theorem exec_frcHoldover (n : Fin 4) (s : State) : exec (.frcHoldover n) s = liveEffect (doFrcHoldover n) s := rfl

theorem exec_frcRelock (n : Fin 4) (s : State) : exec (.frcRelock n) s = liveEffect (doFrcRelock n) s := rfl

/-- Settles O19, by what the update of one counter's status writes and leaves (`nth_updNth_same`, `nth_updNth_other`). -/
theorem countersHoldOverAndRelock : Obligations.CountersHoldOverAndRelock := by
  unfold Obligations.CountersHoldOverAndRelock
  refine ⟨fun s n ha h0 hn hh => ?_, fun s ha => ?_, fun s n ha hn => ?_⟩
  · have hw := doFrcHoldover_of_locked (Fin.val_ne_of_ne h0) hh
    refine runsTo_of_liveEffect (exec_frcHoldover n s) ha (by rw [hw]; rfl) ?_
    rw [hw]
    exact ⟨nth_updNth_same _ hn, fun k hk => nth_updNth_other _ hk, rfl, rfl⟩
  · exact runsTo_self (exec_frcHoldover 0 s) ha (doFrcHoldover_frc0 s.live)
  · exact runsTo_of_liveEffect (exec_frcRelock n s) ha rfl ⟨nth_updNth_same _ hn, fun k hk => nth_updNth_other _ hk, rfl, rfl⟩

end Sys2Proof.Claims

namespace Sys2Proof.Machine

/-! ## LC3's ramp (02 R35, R38, R41) -/

theorem stepToward_near (a b : Int) : (stepToward a b - a).natAbs ≤ 2814749 := by
  unfold stepToward rampStep
  split <;> omega

theorem stepToward_ne {a b : Int} (h : a ≠ b) : stepToward a b ≠ a := by
  unfold stepToward rampStep
  split <;> omega

/-- LC3 after a ramp step of its slew term, and of its rate. -/
def slewStepped (m : Meridian) (slew : Int) (l : Lc) : Lc := lcFlags { lcRebase m 0 l with slew := slew }
def rateStepped (m : Meridian) (rate : Int) (l : Lc) : Lc := lcFlags { lcRebase m 0 l with rate := rate }

/-- Where a ramp step takes LC3's rate. -/
def rampRate (w : World) : Int :=
  stepToward (lcAt w.mer 3).rate (boundedRate (lcAt w.mer 3).slew (lcAt w.mer 3).rateTarget)

/-- A ramp step changes nothing, or the slew term alone, or the rate alone. -/
theorem doRampStep_cases (w : World) : doRampStep w = w ∨
    doRampStep w = onLc 3 (slewStepped w.mer (stepToward (lcAt w.mer 3).slew (rampGoal w))) w ∨
    doRampStep w = storeRate 3 (onLc 3 (rateStepped w.mer (rampRate w)) w) := by
  simp only [doRampStep]
  split_ifs
  · exact .inl rfl
  · exact .inr (.inl rfl)
  · exact .inr (.inr rfl)
  · exact .inl rfl
  · exact .inr (.inl rfl)

theorem doRampStep_early {w : World} (h : nowNs w < (lcAt w.mer 3).lastChange + 10000000) : doRampStep w = w := if_pos h

/-- Where no correction is in progress, the slew term stays at zero. -/
theorem rampGoal_idle {w : World} (hs : (lcAt w.mer 3).slew = 0) (hr : (lcAt w.mer 3).remainder = 0) : rampGoal w = 0 := by
  simp [rampGoal, lcRemainder, lcConsumed, slewTarget, hs, hr]

/-- Where no correction is in progress, a ramp step that is due moves the rate. -/
theorem doRampStep_idle {w : World} (hdue : (lcAt w.mer 3).lastChange + 10000000 ≤ nowNs w) (hs : (lcAt w.mer 3).slew = 0)
    (hr : (lcAt w.mer 3).remainder = 0) (hmove : rampRate w ≠ (lcAt w.mer 3).rate) :
    doRampStep w = storeRate 3 (onLc 3 (rateStepped w.mer (rampRate w)) w) := by
  have hdue' : ¬ nowNs w < (lcAt w.mer 3).lastChange + 10000000 := Nat.not_lt.mpr hdue
  have hstill : ¬ (rampGoal w).natAbs < (lcAt w.mer 3).slew.natAbs := by rw [rampGoal_idle hs hr, hs]; decide
  simp only [doRampStep, hdue', hstill, if_false]
  exact if_pos hmove

theorem boundedRate_of_within {rate : Int} (h : (rate.natAbs : Int) ≤ rateLimit) : boundedRate 0 rate = rate := by
  unfold boundedRate
  omega

@[simp] theorem storeRate_mer (n : Nat) (w : World) : (storeRate n w).mer = w.mer := rfl

@[simp] theorem lcNow_storeRate (n : Nat) (w : World) (k x : Nat) : lcNow (storeRate n w) k x = lcNow w k x := rfl

/-- A ramp step moves the effective rate by at most 0.01 ppm. -/
theorem doRampStep_near (w : World) :
    (((lcAt (doRampStep w).mer 3).rate + (lcAt (doRampStep w).mer 3).slew) - ((lcAt w.mer 3).rate + (lcAt w.mer 3).slew)).natAbs ≤ 2814749 := by
  have hslew := stepToward_near (lcAt w.mer 3).slew (rampGoal w)
  have hrate : (rampRate w - (lcAt w.mer 3).rate).natAbs ≤ 2814749 := stepToward_near _ _
  obtain h | h | h := doRampStep_cases w
  · rw [h]; omega
  · rw [h]
    obtain ⟨h0, hn⟩ | hsame := onLc_acts_or_not 3 (slewStepped w.mer (stepToward (lcAt w.mer 3).slew (rampGoal w))) w
    · rw [lcAt_onLc_same _ h0 hn]
      simp only [slewStepped, lcFlags, lcRebase]
      omega
    · rw [hsame]; omega
  · rw [h, storeRate_mer]
    obtain ⟨h0, hn⟩ | hsame := onLc_acts_or_not 3 (rateStepped w.mer (rampRate w)) w
    · rw [lcAt_onLc_same _ h0 hn]
      simp only [rateStepped, lcFlags, lcRebase]
      omega
    · rw [hsame]; omega

/-- No ramp step makes LC3's value jump: the step goes with a rebase. -/
theorem lcNow_doRampStep (w : World) : lcNow (doRampStep w) 3 = lcNow w 3 := by
  obtain h | h | h := doRampStep_cases w
  · rw [h]
  · rw [h]; exact lcNow_onLc_of_value w fun l => lcValueOf_rebased rfl rfl rfl
  · rw [h, lcNow_storeRate]; exact lcNow_onLc_of_value w fun l => lcValueOf_rebased rfl rfl rfl

theorem lcAt_doRampStep_other {k : Nat} (w : World) (h : k ≠ 3) : lcAt (doRampStep w).mer k = lcAt w.mer k := by
  obtain hw | hw | hw := doRampStep_cases w
  · rw [hw]
  · rw [hw, lcAt_onLc_other _ w h]
  · rw [hw, storeRate_mer, lcAt_onLc_other _ w h]

/-- A ramp step writes the clocks, and RATE in the active set. -/
theorem doRampStep_eq_with (w : World) : ∃ cs st, doRampStep w =
    { w with mer := { w.mer with clocks := cs }, cfg := { w.cfg with active := st } } := by
  obtain h | h | h := doRampStep_cases w
  · exact ⟨_, _, h⟩
  · obtain ⟨cs, hcs⟩ := onLc_eq_with 3 (slewStepped w.mer (stepToward (lcAt w.mer 3).slew (rampGoal w))) w
    exact ⟨cs, _, h.trans hcs⟩
  · obtain ⟨cs, hcs⟩ := onLc_eq_with 3 (rateStepped w.mer (rampRate w)) w
    rw [hcs] at h
    exact ⟨cs, _, h⟩

/-! ## The end of a correction (02 R35, R38) -/

/-- A clock whose remainder is consumed: its slew term ends with a rebase; on LC3 what is left is a further ramp's. -/
def slewEnded (n : Nat) (m : Meridian) (l : Lc) : Lc :=
  lcFlags { lcRebase m l.source l with remainder := if n = 3 then lcRemainder m l else 0, slew := 0 }

/-- The remainder of a clock has been consumed since its anchor. -/
def consumed (m : Meridian) (l : Lc) : Prop :=
  l.remainder ≠ 0 ∧ (lcRemainder m l = 0 ∨ (0 < l.remainder ∧ lcRemainder m l < 0) ∨ (l.remainder < 0 ∧ 0 < lcRemainder m l))

theorem doSlewComplete_of_consumed {n : Nat} {w : World} (h : consumed w.mer (lcAt w.mer n))
    (h3 : n = 3 → (lcAt w.mer 3).slew.natAbs ≤ 2814749 ∧
      ((lcAt w.mer 3).slew = 0 ∨ (lcAt w.mer 3).lastChange + 10000000 ≤ nowNs w)) :
    doSlewComplete n w = onLc n (slewEnded n w.mer) w := by
  refine (if_pos h).trans ?_
  split
  next hn =>
    subst hn
    obtain ⟨hstep, hdue⟩ := h3 rfl
    refine (if_pos ?_).trans rfl
    simp only [Bool.and_eq_true, Bool.or_eq_true, beq_iff_eq, decide_eq_true_eq]
    exact ⟨hstep, hdue⟩
  next hn => exact congrArg (onLc n · w) (funext fun l => by simp only [slewEnded, if_neg hn])

end Sys2Proof.Machine

namespace Sys2Proof.Claims

open Sys2Proof.Machine

theorem exec_lc3RampStep (s : State) : exec .lc3RampStep s = liveEffect doRampStep s := rfl

theorem exec_slewComplete (n : Fin 16) (s : State) : exec (.slewComplete n) s = liveEffect (doSlewComplete n) s := rfl

/-- Settles O20: a ramp step is one of three (`doRampStep_cases`), each with a rebase, and so is the end of a correction. -/
theorem ratesAndCorrectionsMoveWithoutJumps : Obligations.RatesAndCorrectionsMoveWithoutJumps := by
  unfold Obligations.RatesAndCorrectionsMoveWithoutJumps
  refine ⟨fun s ha => ?step, fun s ha hearly => ?early, fun s ha hdue hlen hne hs hr hlim => ?idle, fun s n ha h0 hn hrem h3 hdone => ?slew⟩
  case step =>
    obtain ⟨cs, st, hw⟩ := doRampStep_eq_with s.live
    refine runsTo_of_liveEffect (exec_lc3RampStep s) ha (by rw [hw])
      ⟨doRampStep_near s.live, lcNow_doRampStep s.live, fun k hk => lcAt_doRampStep_other s.live hk, ?_⟩
    rw [hw]
    exact ⟨rfl, rfl⟩
  case early => exact runsTo_self (exec_lc3RampStep s) ha (doRampStep_early hearly)
  case idle =>
    have hrate : rampRate s.live = stepToward (lcAt s.live.mer 3).rate (lcAt s.live.mer 3).rateTarget := by
      rw [rampRate, hs, boundedRate_of_within hlim]
    have hw := doRampStep_idle hdue hs hr (by rw [hrate]; exact stepToward_ne hne)
    refine runsTo_of_liveEffect (exec_lc3RampStep s) ha (by rw [hw]; exact onLc_dev _ _ _) ?_
    dsimp only
    rw [hw, storeRate_mer, lcAt_onLc_same _ (by decide) hlen]
    exact ⟨hrate, rfl⟩
  case slew =>
    have hw : doSlewComplete n s.live = onLc n (slewEnded n s.live.mer) s.live :=
      doSlewComplete_of_consumed ⟨hrem, hdone⟩ fun h => by
        have hn3 : n = 3 := Fin.ext h
        subst hn3; exact h3 rfl
    have hpos : 0 < n.val := Nat.pos_of_ne_zero (Fin.val_ne_of_ne h0)
    refine runsTo_of_liveEffect (exec_slewComplete n s) ha (by rw [hw]; exact onLc_dev _ _ _) ?_
    dsimp only
    rw [hw, lcAt_onLc_same _ hpos hn]
    have hn3 : n.val = 3 ↔ n = 3 := ⟨fun h => Fin.ext h, fun h => by rw [h]; rfl⟩
    refine ⟨lcNow_onLc_of_value _ fun l => lcValueOf_rebased rfl rfl rfl, rfl, ?_, rfl, fun hne => ?_, rfl, rfl,
      fun k hk => lcAt_onLc_other _ _ hk, ?_, ?_⟩
    · simp only [slewEnded, lcFlags, hn3]
      split
      next h => subst h; rfl
      next => rfl
    · simp [slewEnded, lcFlags, hn3, hne]
    · obtain ⟨cs, hcs⟩ := onLc_eq_with n (slewEnded n s.live.mer) s.live
      rw [hcs]
    · obtain ⟨cs, hcs⟩ := onLc_eq_with n (slewEnded n s.live.mer) s.live
      rw [hcs]

end Sys2Proof.Claims
end

section
/-! PROOFS. LC3 against its reference (02 R41): the comparison, and the correction it asks for. -/

namespace Sys2Proof.Machine

/-! ## What a correction leaves of its clock, and of the rest -/

theorem onLc_clocks (n : Nat) (f : Lc → Lc) (w : World) : ∃ cs, cs.length = w.mer.clocks.length ∧
    onLc n f w = { w with mer := { w.mer with clocks := cs } } := by
  unfold onLc
  split
  · exact ⟨_, rfl, rfl⟩
  · exact ⟨_, List.length_modify .., rfl⟩

@[simp] theorem recordWith_mer (known : Bytes) (ty so ix i : Nat) (w : World) : (recordWith known ty so ix i w).mer = w.mer := rfl

/-- What a write keeps of every clock it keeps of its own. -/
theorem lcAt_onLc_of_keeps {α : Type} {n : Nat} {f : Lc → Lc} (P : Lc → α) (w : World) (hf : ∀ l, P (f l) = P l) :
    P (lcAt (onLc n f w).mer n) = P (lcAt w.mer n) := by
  obtain ⟨h0, hn⟩ | h := onLc_acts_or_not n f w
  · rw [lcAt_onLc_same f h0 hn, hf]
  · rw [h]

/-- A judged correction writes its clock alone: as the refusal, the step or the slew leaves it. -/
theorem judge_cases (n : Nat) (req : Int) (w : World) : ∃ f : Lc → Lc,
    (∀ l, (f l).rate = l.rate ∧ (f l).rateTarget = l.rateTarget ∧ (f l).trackFar = l.trackFar) ∧
    (judge n req w = onLc n f w ∨ ∃ b, judge n req w = recordWith b 0x01 4 0x2010 n (onLc n f w)) := by
  simp only [judge]
  split
  · refine ⟨_, ?_, .inr ⟨_, rfl⟩⟩
    exact fun l => ⟨rfl, rfl, rfl⟩
  · split
    · refine ⟨_, ?_, .inl rfl⟩
      exact fun l => ⟨rfl, rfl, rfl⟩
    · refine ⟨_, ?_, .inl rfl⟩
      intro l
      split <;> exact ⟨rfl, rfl, rfl⟩

/-- A correction leaves the rate, the rate's target and TRACK_FAR. -/
theorem judge_leaves (n : Nat) (req : Int) (w : World) : (lcAt (judge n req w).mer n).rate = (lcAt w.mer n).rate ∧
    (lcAt (judge n req w).mer n).rateTarget = (lcAt w.mer n).rateTarget ∧
    (lcAt (judge n req w).mer n).trackFar = (lcAt w.mer n).trackFar := by
  obtain ⟨f, hf, h⟩ := judge_cases n req w
  have hmer : (judge n req w).mer = (onLc n f w).mer := by
    obtain h | ⟨b, h⟩ := h
    · rw [h]
    · rw [h, recordWith_mer]
  rw [hmer]
  exact ⟨lcAt_onLc_of_keeps Lc.rate w fun l => (hf l).1, lcAt_onLc_of_keeps Lc.rateTarget w fun l => (hf l).2.1,
    lcAt_onLc_of_keeps Lc.trackFar w fun l => (hf l).2.2⟩

theorem lcAt_judge_other {n k : Nat} (req : Int) (w : World) (hk : k ≠ n) : lcAt (judge n req w).mer k = lcAt w.mer k := by
  obtain ⟨f, -, h | ⟨b, h⟩⟩ := judge_cases n req w
  · rw [h, lcAt_onLc_other f w hk]
  · rw [h, recordWith_mer, lcAt_onLc_other f w hk]

/-- A judged correction writes clocks, and a refused one a record. -/
theorem judge_eq_with (n : Nat) (req : Int) (w : World) : ∃ cs ct k, cs.length = w.mer.clocks.length ∧ judge n req w =
    { w with mer := { w.mer with clocks := cs }, cont := ct, free := k } := by
  obtain ⟨f, -, h⟩ := judge_cases n req w
  obtain ⟨cs, hlen, hcs⟩ := onLc_clocks n f w
  rw [hcs] at h
  obtain h | ⟨b, h⟩ := h
  · exact ⟨cs, _, _, hlen, h⟩
  · exact ⟨cs, _, _, hlen, h⟩

theorem lcStepMode_three (r : Bytes) : lcStepMode 3 r = false := by simp [lcStepMode]

/-- LC3's value does not jump with a correction, refused or slewed. -/
theorem lcNow_judge_three (req : Int) {w : World} (hn : 3 < w.mer.clocks.length) : lcNow (judge 3 req w) 3 = lcNow w 3 := by
  cases h : jumpTooFar 3 req w
  · exact (judge_slews h (lcStepMode_three _) (by decide) hn).1
  · exact lcNow_judge_refused h

/-! ## The comparison -/

/-- The difference of LC3 from a reference lies beyond LC3's JUMP_THRESHOLD. -/
def farFrom (w : World) (r : Nat) : Bool :=
  decide (((lcJumpThreshold (lcRec w 3) * 65536 : Nat) : Int) < ((lcNow w r - lcNow w 3).natAbs : Int))

/-- The comparison noted: its instant, the reference, and what that read. -/
def compared (r : Nat) (w : World) : World := onMer (fun m => { m with trackAt := some (nowNs w, r, lcNow w r) }) w

/-- LC3's rate target after a comparison, before it is held within the limit: the reference's own rate since the last comparison with it,
else as it was. -/
def referenceRate (w : World) (r : Nat) : Int :=
  match w.mer.trackAt with
  | some (t, q, prev) =>
    if q = r ∧ t < nowNs w then ((lcNow w r - prev) - ((nowNs w - t) * 65536 : Nat)) * 2 ^ 48 / ((nowNs w - t) * 65536 : Nat)
    else (lcAt w.mer 3).rateTarget
  | none => (lcAt w.mer 3).rateTarget

/-- LC3 as a comparison leaves it before its correction is judged. -/
def tracked (w : World) (r : Nat) (l : Lc) : Lc :=
  { l with rateTarget := max (-rateLimit) (min rateLimit (referenceRate w r)), trackFar := farFrom w r }

/-- The last comparison is 125 ms ago. -/
def compareDue (w : World) : Prop := ∀ a p, w.mer.trackAt = some (a, p) → a + 125000000 ≤ nowNs w

variable {w : World} {r : Nat}

theorem referenceRate_since {a : Nat} {v : Int} (ht : w.mer.trackAt = some (a, r, v)) (hdue : compareDue w) : referenceRate w r =
    ((lcNow w r - v) - ((nowNs w - a) * 65536 : Nat)) * 2 ^ 48 / ((nowNs w - a) * 65536 : Nat) := by
  have hlt : a < nowNs w := by have := hdue a _ ht; omega
  simp [referenceRate, ht, hlt]

theorem doTrackCompare_of_due (hr : leNat (actObj w 0x2015 1 3) = r) (h16 : r < 16) (h3 : r ≠ 3) (hdue : compareDue w)
    (hold : (lcAt w.mer r).hold = false) : doTrackCompare w =
      if farFrom w r then onLc 3 (tracked w r) (compared r w)
      else judge 3 (lcNow w r - lcNow w 3) (onLc 3 (tracked w r) (compared r w)) := by
  subst hr
  have hFF : leNat (actObj w 0x2015 1 3) ≠ 0xFF := by omega
  have h16' : ¬ 16 ≤ leNat (actObj w 0x2015 1 3) := by omega
  refine (if_neg ?now).trans ((if_neg ?free).trans rfl)
  case free => rw [hold]; exact Bool.false_ne_true
  case now =>
    cases ht : w.mer.trackAt with
    | none => simp [hFF, h3, h16']
    | some e => simp [hFF, h3, h16', hdue e.1 e.2 ht]

/-- A comparison with a clock in HOLD is noted at most, and asks for nothing. -/
theorem doTrackCompare_of_hold (hr : leNat (actObj w 0x2015 1 3) = r) (hold : (lcAt w.mer r).hold = true) :
    doTrackCompare w = w ∨ doTrackCompare w = compared r w := by
  subst hr
  exact (ite_eq_or_eq _ _ _).imp id fun h => h.trans (if_pos hold)

theorem doTrackCompare_none (hr : leNat (actObj w 0x2015 1 3) = 0xFF) : doTrackCompare w = w := by
  simp [doTrackCompare, hr]

/-- A correction within the threshold, asked while none is in progress, is the remainder that is then slewed. -/
theorem remainder_judge_tracked (hn : 3 < w.mer.clocks.length) (hfar : farFrom w r = false) (hrem : lcRemainder w.mer (lcAt w.mer 3) = 0) :
    (lcAt (judge 3 (lcNow w r - lcNow w 3) (onLc 3 (tracked w r) (compared r w))).mer 3).remainder = lcNow w r - lcNow w 3 := by
  have hat : lcAt (onLc 3 (tracked w r) (compared r w)).mer 3 = tracked w r (lcAt w.mer 3) := lcAt_onLc_same _ (by decide) hn
  obtain ⟨cs, -, hcs⟩ := onLc_clocks 3 (tracked w r) (compared r w)
  have hrem' : lcRemainder (onLc 3 (tracked w r) (compared r w)).mer (lcAt (onLc 3 (tracked w r) (compared r w)).mer 3) = 0 := by
    rw [hat, hcs]
    exact (congrArg (_ - ·) (by simp only [lcConsumed, frc_clocks]; rfl)).trans hrem
  have hjump : jumpTooFar 3 (lcNow w r - lcNow w 3) (onLc 3 (tracked w r) (compared r w)) = false := by
    rw [jumpTooFar, hrem', Int.zero_add, hcs]
    exact hfar
  have hlen : 3 < (onLc 3 (tracked w r) (compared r w)).mer.clocks.length := by
    simpa [onLc, updNth, compared] using hn
  rw [(judge_slews hjump (lcStepMode_three _) (by decide) hlen).2, hrem', Int.zero_add]

end Sys2Proof.Machine

namespace Sys2Proof.Claims

open Sys2Proof.Machine

theorem exec_lc3TrackCompare (s : State) : exec .lc3TrackCompare s = liveEffect doTrackCompare s := rfl

/-- Settles O21: a comparison that is due writes the target and TRACK_FAR (`tracked`), and within the threshold judges a correction, which
slews. -/
theorem lc3FollowsItsReference : Obligations.Lc3FollowsItsReference := by
  unfold Obligations.Lc3FollowsItsReference
  refine ⟨fun s r ha hr h16 h3 hn hdue hold => ?due, fun s r ha hr h16 h3 hold => ?hold, fun s ha hr => ?none⟩
  case due =>
    have hw := doTrackCompare_of_due hr h16 h3 hdue hold
    have hat : lcAt (onLc 3 (tracked s.live r) (compared r s.live)).mer 3 = tracked s.live r (lcAt s.live.mer 3) :=
      lcAt_onLc_same _ (by decide) hn
    have hnow : lcNow (onLc 3 (tracked s.live r) (compared r s.live)) 3 = lcNow s.live 3 := lcNow_onLc_keeps _ fun _ _ => rfl
    have hother (k : Nat) (hk : k ≠ 3) : lcAt (onLc 3 (tracked s.live r) (compared r s.live)).mer k = lcAt s.live.mer k :=
      lcAt_onLc_other _ _ hk
    have hrate (a : Nat) (v : Int) (ht : s.live.mer.trackAt = some (a, r, v)) : (tracked s.live r (lcAt s.live.mer 3)).rateTarget = _ :=
      congrArg (fun x => max (-rateLimit) (min rateLimit x)) (referenceRate_since ht hdue)
    obtain ⟨cs, hlen, hcs⟩ := onLc_clocks 3 (tracked s.live r) (compared r s.live)
    cases hfar : farFrom s.live r
    case true =>
      rw [hfar, if_pos rfl] at hw
      refine runsTo_of_liveEffect (exec_lc3TrackCompare s) ha (by rw [hw, hcs]; rfl) ?_
      dsimp only
      rw [hw]
      refine ⟨?_, hnow, ?_, fun _ => ?_, fun h => ?_, fun a v ht => ?_, hother, ?_, ?_⟩
      · rw [hcs]; rfl
      · rw [hat]; rfl
      · rw [hat]; rfl
      · rw [hat] at h
        exact absurd (h.symm.trans hfar) Bool.false_ne_true
      · rw [hat]; exact hrate a v ht
      · rw [hcs]; rfl
      · rw [hcs]; rfl
    case false =>
      rw [hfar, if_neg Bool.false_ne_true] at hw
      obtain ⟨cs', ct, k, -, hj⟩ := judge_eq_with 3 (lcNow s.live r - lcNow s.live 3) (onLc 3 (tracked s.live r) (compared r s.live))
      obtain ⟨-, htarget, htf⟩ := judge_leaves 3 (lcNow s.live r - lcNow s.live 3) (onLc 3 (tracked s.live r) (compared r s.live))
      rw [hat] at htarget htf
      have hn' : 3 < (onLc 3 (tracked s.live r) (compared r s.live)).mer.clocks.length := by rw [hcs]; exact hlen ▸ hn
      refine runsTo_of_liveEffect (exec_lc3TrackCompare s) ha (by rw [hw, hj, hcs]; rfl) ?_
      dsimp only
      rw [hw]
      refine ⟨?_, (lcNow_judge_three _ hn').trans hnow, htf, fun h => ?_, fun _ hrem => remainder_judge_tracked hn hfar hrem,
        fun a v ht => htarget.trans (hrate a v ht), fun k hk => (lcAt_judge_other _ _ hk).trans (hother k hk), ?_, ?_⟩
      · rw [hj, hcs]; rfl
      · exact absurd ((htf.trans hfar).symm.trans h) Bool.false_ne_true
      · rw [hj, hcs]; rfl
      · rw [hj, hcs]; rfl
  case hold =>
    obtain hw | hw := doTrackCompare_of_hold hr hold
    · exact runsTo_of_liveEffect (exec_lc3TrackCompare s) ha (by rw [hw]) (by rw [hw]; exact ⟨rfl, rfl⟩)
    · exact runsTo_of_liveEffect (exec_lc3TrackCompare s) ha (by rw [hw]; rfl) (by rw [hw]; exact ⟨rfl, rfl⟩)
  case none => exact runsTo_self (exec_lc3TrackCompare s) ha (doTrackCompare_none hr)

end Sys2Proof.Claims
end

section
/-! PROOFS. PTP on the host ports (02 R42, R43; 14 R380, R381): Syncs and their servo, Announce, delay messages, a silent grandmaster. -/

namespace Sys2Proof.Machine

/-! ## Adjustments by a servo (02 R37 to R39, R43) -/

/-- `w'` differs from `w` at most in what servos write: clocks, RATE in the active set, records. -/
def servoScope (w w' : World) : Prop :=
  ∃ cs st ct k, cs.length = w.mer.clocks.length ∧
    w' = { w with mer := { w.mer with clocks := cs }, cfg := { w.cfg with active := st }, cont := ct, free := k }

theorem servoScope.refl (w : World) : servoScope w w := ⟨_, _, _, _, rfl, rfl⟩

theorem servoScope.trans {a b c : World} (hab : servoScope a b) (hbc : servoScope b c) : servoScope a c := by
  obtain ⟨_, _, _, _, hl, rfl⟩ := hab
  obtain ⟨cs, st, ct, k, hl', rfl⟩ := hbc
  exact ⟨cs, st, ct, k, hl'.trans hl, rfl⟩

theorem servoScope.dev_eq {w w' : World} (h : servoScope w w') : w'.dev = w.dev := by
  obtain ⟨_, _, _, _, -, rfl⟩ := h; rfl

theorem servoScope.length_eq {w w' : World} (h : servoScope w w') : w'.mer.clocks.length = w.mer.clocks.length := by
  obtain ⟨_, _, _, _, hl, rfl⟩ := h; exact hl

theorem servoScope.ptp_eq {w w' : World} (h : servoScope w w') : w'.mer.ptp = w.mer.ptp := by
  obtain ⟨_, _, _, _, -, rfl⟩ := h; rfl

theorem servoScope_onLc (n : Nat) (f : Lc → Lc) (w : World) : servoScope w (onLc n f w) := by
  obtain ⟨cs, hl, h⟩ := onLc_clocks n f w
  exact ⟨cs, _, _, _, hl, h⟩

theorem servoScope_storeRate (n : Nat) (w : World) : servoScope w (storeRate n w) := ⟨_, _, _, _, rfl, rfl⟩

theorem servoScope_judge (n : Nat) (req : Int) (w : World) : servoScope w (judge n req w) := by
  obtain ⟨cs, ct, k, hl, h⟩ := judge_eq_with n req w
  exact ⟨cs, _, ct, k, hl, h⟩

variable {n : Nat} {w : World} {req rate : Int}

theorem servoAdjust_of_hold (h : (lcAt w.mer n).hold = true) :
    servoAdjust n req rate w = onLc n (fun l => { l with ignored := l.ignored + 1 }) w := if_pos h

theorem servoAdjust_too_far (h : (lcAt w.mer n).hold = false) (hj : jumpTooFar n req w = true) :
    servoAdjust n req rate w = judge n req w := by
  simp [servoAdjust, h, hj]

theorem servoAdjust_acts (h : (lcAt w.mer n).hold = false) (hj : jumpTooFar n req w = false) :
    servoAdjust n req rate w = judge n req (storeRate n (setRate n (max (-rateLimit) (min rateLimit rate)) w)) := by
  simp [servoAdjust, h, hj]

/-- An adjustment is counted, or judged, or its rate taken and then judged. -/
theorem servoAdjust_cases (n : Nat) (req rate : Int) (w : World) :
    servoAdjust n req rate w = onLc n (fun l => { l with ignored := l.ignored + 1 }) w ∨ servoAdjust n req rate w = judge n req w ∨
    servoAdjust n req rate w = judge n req (storeRate n (setRate n (max (-rateLimit) (min rateLimit rate)) w)) := by
  cases h : (lcAt w.mer n).hold
  · cases hj : jumpTooFar n req w
    · exact .inr (.inr (servoAdjust_acts h hj))
    · exact .inr (.inl (servoAdjust_too_far h hj))
  · exact .inl (servoAdjust_of_hold h)

theorem servoScope_servoAdjust (n : Nat) (req rate : Int) (w : World) : servoScope w (servoAdjust n req rate w) := by
  obtain h | h | h := servoAdjust_cases n req rate w <;> rw [h]
  · exact servoScope_onLc _ _ _
  · exact servoScope_judge _ _ _
  · exact ((servoScope_onLc _ _ _).trans (servoScope_storeRate _ _)).trans (servoScope_judge _ _ _)

theorem lcAt_servoAdjust_other {k : Nat} (req rate : Int) (w : World) (hk : k ≠ n) :
    lcAt (servoAdjust n req rate w).mer k = lcAt w.mer k := by
  obtain h | h | h := servoAdjust_cases n req rate w <;> rw [h]
  · exact lcAt_onLc_other _ _ hk
  · exact lcAt_judge_other _ _ hk
  · rw [lcAt_judge_other _ _ hk]; exact lcAt_onLc_other _ _ hk

/-- The rate a servo asks for is taken within the limit, unless its correction is refused. -/
theorem rate_servoAdjust (h : (lcAt w.mer n).hold = false) (h0 : 0 < n) (hn : n < w.mer.clocks.length) :
    (lcAt (servoAdjust n req rate w).mer n).rate =
      if jumpTooFar n req w = true then (lcAt w.mer n).rate else max (-rateLimit) (min rateLimit rate) := by
  cases hj : jumpTooFar n req w
  · rw [servoAdjust_acts h hj, (judge_leaves n req _).1]
    exact rate_setRate _ h0 hn
  · rw [servoAdjust_too_far h hj, (judge_leaves n req _).1]
    rfl

/-! ## A servo's clocks, one after the other -/

/-- The clocks that a writer sets (02 Table 2.4). -/
def clocksOf (writer : Nat) (w : World) : List Nat := (upTo 16).filter (fun n => lcWriter n (lcRec w n) = writer)

theorem mem_clocksOf {k writer : Nat} : k ∈ clocksOf writer w ↔ k < 16 ∧ lcWriter k (lcRec w k) = writer := by
  simp [clocksOf, upTo]

theorem nodup_clocksOf (writer : Nat) (w : World) : (clocksOf writer w).Nodup := List.nodup_range.filter _

theorem pos_of_mem_clocksOf {k writer : Nat} (h : k ∈ clocksOf (writer + 1) w) : 0 < k := by
  obtain ⟨-, hw⟩ := mem_clocksOf.1 h
  refine Nat.pos_of_ne_zero fun h0 => ?_
  rw [h0] at hw
  exact absurd hw (Nat.succ_ne_zero writer).symm

/-- A writer that has one clock alone. -/
theorem clocksOf_eq_singleton {k writer : Nat} (hk : k < 16) (hw : lcWriter k (lcRec w k) = writer)
    (hone : ∀ j, j < 16 → j ≠ k → lcWriter j (lcRec w j) ≠ writer) : clocksOf writer w = [k] := by
  have hmem (j : Nat) : j ∈ clocksOf writer w ↔ j = k := by
    rw [mem_clocksOf]
    refine ⟨fun ⟨hj, hjw⟩ => ?_, fun h => h ▸ ⟨hk, hw⟩⟩
    by_contra hne
    exact hone j hj hne hjw
  exact List.perm_singleton.1 ((List.perm_ext_iff_of_nodup (nodup_clocksOf writer w) (List.nodup_singleton k)).2 (by simpa using hmem))

theorem eachW_append {α : Type} (l l' : List α) (f : α → World → World) (w : World) : eachW (l ++ l') f w = eachW l' f (eachW l f w) :=
  List.foldl_append

/-! ### A pass over the entries of a table, each step of which writes its own entry -/

section

variable {α : Type} {get : World → Nat → α} {f : Nat → World → World} (hother : ∀ j w k, k ≠ j → get (f j w) k = get w k)

include hother

theorem get_eachW_other {k : Nat} {l : List Nat} (hk : k ∉ l) (w : World) : get (eachW l f w) k = get w k := by
  induction l generalizing w with
  | nil => rfl
  | cons j l ih =>
    rw [List.mem_cons, not_or] at hk
    rw [eachW_cons, ih hk.2, hother j w k hk.1]

/-- An entry that a pass writes once ends as that write leaves it, from the entry as it stood before the pass; `P` is what every step
keeps. -/
theorem get_eachW_once {P : World → Prop} (hP : ∀ j w, P w → P (f j w)) {k : Nat} {l : List Nat} {v : α} (hk : k ∈ l) (hl : l.Nodup)
    {w : World} (h : P w) (hv : ∀ w', P w' → get w' k = get w k → get (f k w') k = v) : get (eachW l f w) k = v := by
  obtain ⟨l₁, l₂, rfl⟩ := List.append_of_mem hk
  have hsplit := List.nodup_middle.1 hl
  obtain ⟨hnot, -⟩ := List.nodup_cons.1 hsplit
  rw [List.mem_append, not_or] at hnot
  rw [eachW_append, eachW_cons, get_eachW_other hother hnot.2]
  exact hv _ (eachW_keeps hP l₁ h) (get_eachW_other hother hnot.1 w)

end

theorem servoScope_eachW {f : Nat → World → World} (hf : ∀ j w, servoScope w (f j w)) (l : List Nat) (w : World) :
    servoScope w (eachW l f w) :=
  eachW_keeps (P := servoScope w) (fun j w' h => h.trans (hf j w')) l (servoScope.refl w)

/-! ## A port in PTP -/

theorem onPtp_onPtp (p : Nat) (f g : Ptp → Ptp) (w : World) : onPtp p f (onPtp p g w) = onPtp p (f ∘ g) w :=
  congrArg (fun l => { w with mer := { w.mer with ptp := l } }) (List.modify_modify_eq g f p w.mer.ptp)

/-- The offset from master that a Sync measures (02 R42, R43). -/
def portOffset (w : World) (p : Nat) (origin : Int) (frac : Nat) : Int :=
  lcNow w (p + 1) frac - origin - (nth {} w.mer.ptp p).pathDelay

/-- What the servo of a port answers to an offset: correction, rate, integrator. -/
def servoAnswer (w : World) (p : Nat) (off : Int) : Int × Int × Int :=
  Config.ptpServo (actObj w 0x2202 0 p) (nth {} w.mer.ptp p).integ off

/-- A port after a message that it does not support. -/
def portDiscarded (q : Ptp) : Ptp := { q with received := q.received + 1, discarded := q.discarded + 1 }

/-- A port after a Sync has been stamped, and after its servo has then run. -/
def portStamped (w : World) (p : Nat) (origin : Int) (frac : Nat) (q : Ptp) : Ptp :=
  { q with
    offset := portOffset w p origin frac, gmLost := false, lastHeard := nowNs w, syncT1 := origin, syncT2 := lcNow w (p + 1) frac }
def portServoed (w : World) (p : Nat) (off : Int) (q : Ptp) : Ptp :=
  let run := if off.natAbs < lockThreshold p w then (nth {} w.mer.ptp p).lockRun + 1 else 0
  { q with integ := (servoAnswer w p off).2.2, lockRun := run, locked := decide (16 ≤ run) }

/-- A message counted. -/
def portReceived (q : Ptp) : Ptp := { q with received := q.received + 1 }

variable {p frac : Nat} {origin : Int}

theorem nth_onPtp_same (f : Ptp → Ptp) (hp : p < w.mer.ptp.length) : nth {} (onPtp p f w).mer.ptp p = f (nth {} w.mer.ptp p) :=
  nth_updNth_same f hp

theorem nth_onPtp_other {k : Nat} (f : Ptp → Ptp) (w : World) (hk : k ≠ p) : nth {} (onPtp p f w).mer.ptp k = nth {} w.mer.ptp k :=
  nth_updNth_other f hk

theorem ptpIn_discards (f : World → World) (hr : ptpRuns w = true) : ptpIn p false f w = onPtp p portDiscarded w := by
  simp only [ptpIn, hr, Bool.not_true, Bool.false_eq_true, if_false, onPtp_onPtp]
  rfl

theorem ptpIn_takes (f : World → World) (hr : ptpRuns w = true) : ptpIn p true f w = f (onPtp p portReceived w) := by
  simp only [ptpIn, hr, Bool.not_true, Bool.false_eq_true, if_false, if_true]
  rfl

theorem servoRun_eq (p : Nat) (off : Int) (w : World) : servoRun p off w =
    eachW (clocksOf (p + 1) w) (fun n => servoAdjust n (servoAnswer w p off).1 (servoAnswer w p off).2.1) (onPtp p (portServoed w p off) w) := rfl

/-- Outside acquisition a Sync goes to the servo. -/
theorem syncIn_servo (hp : p < w.mer.ptp.length) (hacq : ¬(w.dev.state = .timeAcquire ∧ (nth {} w.mer.ptp p).acquired = false)) :
    syncIn p origin frac w = servoRun p (portOffset w p origin frac) (onPtp p (portStamped w p origin frac) w) := by
  refine if_neg fun h => hacq ?_
  obtain ⟨hstate, hq⟩ := h
  rw [nth_onPtp_same _ hp] at hq
  exact ⟨hstate, by simpa using hq⟩

/-- The first Sync in TIME_ACQUIRE steps the port's clock (14 R381). -/
theorem syncIn_first (hp : p < w.mer.ptp.length) (hstate : w.dev.state = .timeAcquire) (hacq : (nth {} w.mer.ptp p).acquired = false)
    (h0 : (nth {} w.mer.ptp p).acqSteps = 0) :
    syncIn p origin frac w = acquireStep p (portOffset w p origin frac) (onPtp p (portStamped w p origin frac) w) := by
  refine (if_pos ⟨hstate, ?acq⟩).trans (if_pos ?steps)
  case acq => rw [nth_onPtp_same _ hp]; simpa using hacq
  case steps => rw [nth_onPtp_same _ hp]; exact h0

/-- The offset that a port measures is the same after the message has been counted. -/
theorem portOffset_received (hp : p < w.mer.ptp.length) : portOffset (onPtp p portReceived w) p origin frac = portOffset w p origin frac := by
  rw [portOffset, nth_onPtp_same _ hp]; rfl

/-- A port after a Sync whose servo has run, from the world before it. -/
def portSynced (w : World) (p : Nat) (origin : Int) (frac : Nat) : Ptp → Ptp :=
  portServoed (onPtp p (portStamped (onPtp p portReceived w) p origin frac) (onPtp p portReceived w)) p (portOffset w p origin frac) ∘
    portStamped (onPtp p portReceived w) p origin frac ∘ portReceived

/-- A supported Sync outside acquisition: the port's report, then the adjustment of each clock that the port writes. -/
theorem doPtpSync_servo {h : PtpHeader} (hr : ptpRuns w = true) (hp : p < w.mer.ptp.length)
    (hok : (ptpHeaderOk p h w && decide (-7 ≤ h.logInterval ∧ h.logInterval ≤ 0)) = true)
    (hacq : ¬(w.dev.state = .timeAcquire ∧ (nth {} w.mer.ptp p).acquired = false)) :
    doPtpSync p h origin frac w = eachW (clocksOf (p + 1) w)
      (fun n => servoAdjust n (servoAnswer w p (portOffset w p origin frac)).1 (servoAnswer w p (portOffset w p origin frac)).2.1)
      (onPtp p (portSynced w p origin frac) w) := by
  have hp' : p < (onPtp p portReceived w).mer.ptp.length := by simpa [onPtp, updNth] using hp
  have hacq' : ¬((onPtp p portReceived w).dev.state = .timeAcquire ∧ (nth {} (onPtp p portReceived w).mer.ptp p).acquired = false) := by
    rw [nth_onPtp_same _ hp]; exact hacq
  have hanswer : servoAnswer (onPtp p (portStamped (onPtp p portReceived w) p origin frac) (onPtp p portReceived w)) p
      (portOffset w p origin frac) = servoAnswer w p (portOffset w p origin frac) := by
    rw [servoAnswer, nth_onPtp_same _ hp', nth_onPtp_same _ hp]; rfl
  rw [doPtpSync, hok, ptpIn_takes _ hr, syncIn_servo hp' hacq', portOffset_received hp, servoRun_eq, hanswer]
  simp only [portSynced, onPtp_onPtp]
  rfl

/-- What a port reports of a Sync whose servo has run. -/
theorem portSynced_reports (hp : p < w.mer.ptp.length) (q : Ptp) (hq : q = portSynced w p origin frac (nth {} w.mer.ptp p)) :
    q.offset = portOffset w p origin frac ∧ q.gmLost = false ∧ q.lastHeard = nowNs w ∧ q.received = (nth {} w.mer.ptp p).received + 1 ∧
    q.lockRun = (if (portOffset w p origin frac).natAbs < lockThreshold p w then (nth {} w.mer.ptp p).lockRun + 1 else 0) ∧
    q.locked = decide (16 ≤ q.lockRun) ∧ q.integ = (servoAnswer w p (portOffset w p origin frac)).2.2 := by
  have hp' : p < (onPtp p portReceived w).mer.ptp.length := by simpa [onPtp, updNth] using hp
  have hlast : nth {} (onPtp p (portStamped (onPtp p portReceived w) p origin frac) (onPtp p portReceived w)).mer.ptp p =
      portStamped (onPtp p portReceived w) p origin frac (portReceived (nth {} w.mer.ptp p)) := by
    rw [nth_onPtp_same _ hp', nth_onPtp_same _ hp]
  subst hq
  refine ⟨portOffset_received hp, rfl, rfl, rfl, ?_, rfl, ?_⟩
  · exact congrArg (fun x : Ptp => if (portOffset w p origin frac).natAbs < lockThreshold p w then x.lockRun + 1 else 0) hlast |>.trans rfl
  · exact congrArg (fun x : Ptp => (Config.ptpServo (actObj w 0x2202 0 p) x.integ (portOffset w p origin frac)).2.2) hlast |>.trans rfl

/-! ## Other messages (02 R42, R43; 14 R380) -/

theorem ptpRuns_of_state (h : 7 ≤ devCode w.dev.state) : ptpRuns w = true := decide_eq_true h

theorem doPtpSync_unsupported {h : PtpHeader} (hr : ptpRuns w = true)
    (hok : (ptpHeaderOk p h w && decide (-7 ≤ h.logInterval ∧ h.logInterval ≤ 0)) = false) :
    doPtpSync p h origin frac w = onPtp p portDiscarded w := by
  rw [doPtpSync, hok, ptpIn_discards _ hr]

/-- The grandmaster that an Announce is better than, or that it is from again (log 16). -/
def yields (g : Option AnnounceData) (a : AnnounceData) : Bool :=
  match g with
  | none => true
  | some g => g.identity == a.identity || decide (announceKey a < announceKey g)

theorem not_yields {g a : AnnounceData} (hid : g.identity ≠ a.identity) (hkey : announceKey g ≤ announceKey a) :
    yields (some g) a = false := by
  simp [yields, hid, hkey]

theorem yields_of_better {g a : AnnounceData} (hkey : announceKey a < announceKey g) : yields (some g) a = true := by
  simp [yields, hkey]

/-- A port after an Announce. -/
def portAnnounced (now : Nat) (a : AnnounceData) (q : Ptp) : Ptp :=
  { portReceived q with gm := if yields q.gm a then some a else q.gm, gmLost := q.gmLost && !yields q.gm a, lastHeard := now }

theorem gm_portAnnounced_of_yields {now : Nat} {a : AnnounceData} {q : Ptp} (h : yields q.gm a = true) :
    (portAnnounced now a q).gm = some a := if_pos h

theorem gm_portAnnounced_of_not_yields {now : Nat} {a : AnnounceData} {q : Ptp} (h : yields q.gm a = false) :
    (portAnnounced now a q).gm = q.gm := if_neg (by rw [h]; exact Bool.false_ne_true)

theorem gm_portAnnounced {now : Nat} {a g : AnnounceData} {q : Ptp} (h : (portAnnounced now a q).gm = some g) : q.gm = some g ∨ g = a := by
  cases hy : yields q.gm a
  · exact .inl ((gm_portAnnounced_of_not_yields hy).symm.trans h)
  · exact .inr (Option.some.inj ((gm_portAnnounced_of_yields hy).symm.trans h)).symm

theorem doPtpAnnounce_ok {h : PtpHeader} (a : AnnounceData) (hr : ptpRuns w = true) (hok : ptpHeaderOk p h w = true) :
    doPtpAnnounce p h a w = onPtp p (portAnnounced (nowNs w) a) w := by
  rw [doPtpAnnounce, hok, ptpIn_takes _ hr, onPtp_onPtp]
  rfl

/-- A delay message as its port takes it. -/
def portDelay (now : Int) (m : PtpOther) (q : Ptp) : Ptp :=
  match m with
  | .pdelayResp t1 t2 t3 => { q with pathDelay := ((now - t1) - (t3 - t2)) / 2 }
  | .delayResp t3 t4 => { q with pathDelay := ((q.syncT2 - q.syncT1) + (t4 - t3)) / 2 }
  | .intervalRequest link sync ann =>
    { q with logPdelay := askedInterval q.logPdelay link, logSync := askedInterval q.logSync sync, logAnnounce := askedInterval q.logAnnounce ann }
  | .pdelayReq | .delayReq | .other => q

theorem doPtpDelay_ok {h : PtpHeader} {m : PtpOther} (hr : ptpRuns w = true) (hok : ptpHeaderOk p h w = true) (hm : ptpOtherOk p m w = true) :
    doPtpDelay p h m frac w = onPtp p (portDelay (lcNow w (p + 1) frac) m ∘ portReceived) w := by
  rw [doPtpDelay, hok, hm, Bool.and_self, ptpIn_takes _ hr, ← onPtp_onPtp]
  cases m <;> rfl

theorem doGmLost_silent (hr : ptpRuns w = true) (h : (nth {} w.mer.ptp p).lastHeard + (Config.announceTimeout p).toNat ≤ nowNs w) :
    doGmLost p w = onPtp p (fun q => { q with gmLost := true, gm := none }) w := by
  simp [doGmLost, whenW, hr, h]

/-- A clock after an acquisition step (14 R381). -/
def stepped (m : Meridian) (off : Int) (l : Lc) : Lc := { lcRebase m l.source l with offset := lcValueOf m l 0 - off }

theorem acquireStep_eq (p : Nat) (off : Int) (w : World) : acquireStep p off w =
    record 0x02 4 0x2010 (p + 1) (onPtp p (fun q => { q with acqSteps := q.acqSteps + 1 }) (onLc (p + 1) (stepped w.mer off) w)) := rfl

/-- An acquisition step: the clock goes back by the offset, the step is counted; it writes clocks, its port and a record. -/
theorem acquireStep_steps {off : Int} (hp : p < w.mer.ptp.length) (hn : p + 1 < w.mer.clocks.length) :
    lcNow (acquireStep p off w) (p + 1) = lcNow w (p + 1) - off ∧
    (nth {} (acquireStep p off w).mer.ptp p).acqSteps = (nth {} w.mer.ptp p).acqSteps + 1 ∧
    (∀ k, k ≠ p + 1 → lcAt (acquireStep p off w).mer k = lcAt w.mer k) ∧
    ∃ cs qs ct n, acquireStep p off w = { w with mer := { w.mer with clocks := cs, ptp := qs }, cont := ct, free := n } := by
  have hnow : lcNow (onLc (p + 1) (stepped w.mer off) w) (p + 1) = lcNow w (p + 1) - off :=
    (lcNow_onLc_same _ (Nat.succ_pos p) hn).trans (lcValueOf_anchored rfl)
  have hother (k : Nat) (hk : k ≠ p + 1) : lcAt (onLc (p + 1) (stepped w.mer off) w).mer k = lcAt w.mer k := lcAt_onLc_other _ w hk
  rw [acquireStep_eq]
  obtain ⟨cs, -, hcs⟩ := onLc_clocks (p + 1) (stepped w.mer off) w
  rw [hcs] at hnow hother ⊢
  exact ⟨hnow, congrArg Ptp.acqSteps (nth_updNth_same _ hp), hother, _, _, _, _, rfl⟩

/-- The first supported Sync of an acquisition. -/
theorem doPtpSync_first {h : PtpHeader} (hr : ptpRuns w = true) (hp : p < w.mer.ptp.length)
    (hok : (ptpHeaderOk p h w && decide (-7 ≤ h.logInterval ∧ h.logInterval ≤ 0)) = true) (hstate : w.dev.state = .timeAcquire)
    (hacq : (nth {} w.mer.ptp p).acquired = false) (h0 : (nth {} w.mer.ptp p).acqSteps = 0) :
    doPtpSync p h origin frac w = acquireStep p (portOffset w p origin frac)
      (onPtp p (portStamped (onPtp p portReceived w) p origin frac ∘ portReceived) w) := by
  have hp' : p < (onPtp p portReceived w).mer.ptp.length := by simpa [onPtp, updNth] using hp
  rw [doPtpSync, hok, ptpIn_takes _ hr, syncIn_first hp' hstate (by rw [nth_onPtp_same _ hp]; exact hacq)
    (by rw [nth_onPtp_same _ hp]; exact h0), portOffset_received hp, onPtp_onPtp]

end Sys2Proof.Machine

namespace Sys2Proof.Claims

open Sys2Proof.Machine

theorem exec_ptpSyncReceive (p : Fin 2) (h : PtpHeader) (origin : Int) (s : State) :
    exec (.ptpSyncReceive p h origin) s = liveEffect (doPtpSync p h origin h.frac.toNat) s := rfl

theorem exec_ptpAnnounceReceive (p : Fin 2) (a : PtpAnnounce) (s : State) :
    exec (.ptpAnnounceReceive p a) s = liveEffect (doPtpAnnounce p a.header a.data) s := rfl

theorem exec_ptpDelayMessageReceive (p : Fin 2) (h : PtpHeader) (m : PtpOther) (s : State) :
    exec (.ptpDelayMessageReceive p h m) s = liveEffect (doPtpDelay p h m h.frac.toNat) s := rfl

theorem exec_announceReceiptTimeout (p : Fin 2) (s : State) : exec (.announceReceiptTimeout p) s = liveEffect (doGmLost p) s := rfl

/-- A command whose effect is a change of one port's part in PTP. -/
theorem runsTo_onPtp {c : Instr} {s : State} {p : Nat} {g : World → World} {f : Ptp → Ptp} {Q : Ptp → Prop} (hi : exec c s = liveEffect g s)
    (ha : awake s) (hp : p < s.live.mer.ptp.length) (hg : g s.live = onPtp p f s.live) (hQ : Q (f (nth {} s.live.mer.ptp p))) :
    runsTo c s (fun t => Q (nth {} t.live.mer.ptp p) ∧
      t = { s with live := { s.live with mer := { s.live.mer with ptp := t.live.mer.ptp } } }) := by
  refine runsTo_of_liveEffect hi ha (by rw [hg]; rfl) ?_
  dsimp only
  rw [hg, nth_onPtp_same f hp]
  exact ⟨hQ, rfl⟩

/-- A supported Sync outside acquisition. -/
theorem ptpSync_servo {s : State} {p : Fin 2} {h : PtpHeader} {origin : Int} (ha : awake s) (hr : ptpRuns s.live = true)
    (hp : p.val < s.live.mer.ptp.length) (hok : syncOk s p h = true)
    (hacq : ¬(s.live.dev.state = .timeAcquire ∧ (nth {} s.live.mer.ptp p).acquired = false)) {P : State → Prop}
    (hP : ∀ w, servoScope (onPtp p (portSynced s.live p origin h.frac.toNat) s.live) w →
      w = eachW (clocksOf (p + 1) s.live) (fun n => servoAdjust n (servoAnswer s.live p (syncOffset s p origin h.frac)).1
        (servoAnswer s.live p (syncOffset s p origin h.frac)).2.1) (onPtp p (portSynced s.live p origin h.frac.toNat) s.live) →
      P { s with live := w }) : runsTo (.ptpSyncReceive p h origin) s P := by
  have hw := doPtpSync_servo (w := s.live) (p := p) (origin := origin) (frac := h.frac.toNat) hr hp hok hacq
  have hscope := servoScope_eachW (f := fun n => servoAdjust n (servoAnswer s.live p (syncOffset s p origin h.frac)).1
    (servoAnswer s.live p (syncOffset s p origin h.frac)).2.1) (fun _ _ => servoScope_servoAdjust _ _ _ _) (clocksOf (p + 1) s.live)
    (onPtp p (portSynced s.live p origin h.frac.toNat) s.live)
  refine runsTo_of_liveEffect (exec_ptpSyncReceive p h origin s) ha (by rw [hw]; exact hscope.dev_eq) ?_
  rw [hw]
  exact hP _ hscope rfl

/-- Settles O22: a supported Sync updates its port and then adjusts each clock of it once (`doPtpSync_servo`, `get_eachW_once`); the first
one of an acquisition steps the port's clock; every other message changes its port alone (`runsTo_onPtp`). -/
theorem ptpMeasuresAndLocks : Obligations.PtpMeasuresAndLocks := by
  unfold Obligations.PtpMeasuresAndLocks
  refine ⟨fun s p h origin ha hst hp hok hacq => ?sync, fun s p h origin ha hst hp hn hacq h0 hok => ?first,
    fun s p h origin ha hst hp hok => ?unsupported, fun s p h a ha hst hp hok => ?announce,
    fun s p h m ha hst hp hok hm => ?delay, fun s p ha hst hp hsil => ?lost⟩
  case sync =>
    refine ptpSync_servo ha (ptpRuns_of_state hst) hp hok hacq fun w hscope hw => ?_
    have hport : nth {} w.mer.ptp p = portSynced s.live p origin h.frac.toNat (nth {} s.live.mer.ptp p) := by
      rw [hscope.ptp_eq, nth_onPtp_same _ hp]
    obtain ⟨hoff, hgm, hheard, hrecv, hrun, hlock, hinteg⟩ := portSynced_reports hp _ hport
    refine ⟨hoff, hgm, hheard, hrecv, hrun, hlock, fun k hk => ?_, fun n hn => ?_, fun n h16 hlen hwr hhold => ?_,
      fun n h16 hlen hwr hhold hone o ho => ?_, ?_⟩
    · dsimp only; rw [hscope.ptp_eq, nth_onPtp_other _ _ hk]
    · dsimp only
      rw [hw]
      exact get_eachW_other (get := fun w => lcAt w.mer) (fun _ _ _ hk => lcAt_servoAdjust_other _ _ _ hk) (fun hmem => hn (mem_clocksOf.1 hmem).2) _
    · have hmem : n ∈ clocksOf (p + 1) s.live := mem_clocksOf.2 ⟨h16, hwr⟩
      dsimp only
      rw [hw]
      refine get_eachW_once (get := fun w => lcAt w.mer) (P := servoScope (onPtp p (portSynced s.live p origin h.frac.toNat) s.live))
        (fun _ _ _ hk => lcAt_servoAdjust_other _ _ _ hk) (fun _ _ hs => hs.trans (servoScope_servoAdjust _ _ _ _)) hmem
        (nodup_clocksOf _ _) (servoScope.refl _) fun w' hs hl => ?_
      rw [servoAdjust_of_hold (by rw [hl]; exact hhold),
        lcAt_onLc_same _ (pos_of_mem_clocksOf hmem) (by rw [hs.length_eq]; exact hlen), hl]
      rfl
    · have hmem : n ∈ clocksOf (p + 1) s.live := mem_clocksOf.2 ⟨h16, hwr⟩
      subst ho
      refine ⟨hinteg, ?_⟩
      dsimp only
      rw [hw, clocksOf_eq_singleton h16 hwr hone, eachW_cons, eachW_nil]
      exact rate_servoAdjust hhold (pos_of_mem_clocksOf hmem) hlen
    · obtain ⟨cs, st, ct, k, -, hw⟩ := hscope
      rw [hw]; rfl
  case first =>
    have hw := doPtpSync_first (w := s.live) (p := p) (origin := origin) (frac := h.frac.toNat) (ptpRuns_of_state (by rw [hst]; decide)) hp
      hok hst hacq h0
    obtain ⟨hnow, hsteps, hother, cs, qs, ct, k, hframe⟩ := acquireStep_steps (off := portOffset s.live p origin h.frac.toNat)
      (w := onPtp p (portStamped (onPtp p portReceived s.live) p origin h.frac.toNat ∘ portReceived) s.live) (p := p.val)
      (by simpa [onPtp, updNth] using hp) hn
    rw [nth_onPtp_same _ hp] at hsteps
    refine runsTo_of_liveEffect (exec_ptpSyncReceive p h origin s) ha (by rw [hw, hframe]; rfl) ?_
    dsimp only
    rw [hw]
    refine ⟨hnow, hsteps.trans (congrArg (· + 1) h0), hother, ?_⟩
    rw [hframe]; rfl
  case unsupported =>
    exact runsTo_onPtp (Q := fun q => q = portDiscarded (nth {} s.live.mer.ptp p)) (exec_ptpSyncReceive p h origin s) ha hp
      (doPtpSync_unsupported (ptpRuns_of_state hst) hok) rfl
  case announce =>
    obtain ⟨t, hex, hpend, hq, hframe⟩ := runsTo_onPtp (Q := fun q => q = portAnnounced (nowNs s.live) a (nth {} s.live.mer.ptp p))
      (exec_ptpAnnounceReceive p ⟨h, a⟩ s) ha hp (doPtpAnnounce_ok a (ptpRuns_of_state hst) hok) rfl
    refine ⟨t, hex, hpend, ?_⟩
    dsimp only
    rw [hq]
    exact ⟨fun g hg => gm_portAnnounced hg, fun hnone => gm_portAnnounced_of_yields (by rw [hnone]; rfl),
      fun g hg hid hkey => (gm_portAnnounced_of_not_yields (by rw [hg]; exact not_yields hid hkey)).trans hg,
      fun g hg hkey => gm_portAnnounced_of_yields (by rw [hg]; exact yields_of_better hkey), rfl, hframe⟩
  case delay =>
    refine runsTo_onPtp (Q := fun q => q = _) (exec_ptpDelayMessageReceive p h m s) ha hp (doPtpDelay_ok (ptpRuns_of_state hst) hok hm) ?_
    cases m <;> rfl
  case lost =>
    exact runsTo_onPtp (Q := fun q => q = { nth {} s.live.mer.ptp p with gmLost := true, gm := none }) (exec_announceReceiptTimeout p s) ha hp
      (doGmLost_silent (ptpRuns_of_state hst) hsil) rfl

end Sys2Proof.Claims
end

section
/-! PROOFS. Bytes on the wire (00 R9): what a frame's builder writes is what its reader finds; the frames of the trunks (10 Table 10.3,
R274), and a host port's Sync (02 R45; log 91). -/

namespace Sys2Proof.Machine

/-! ## Byte strings -/

@[simp] theorem length_leBytes (k n : Nat) : (leBytes k n).length = k := by
  induction k generalizing n with
  | zero => rfl
  | succ k ih => simp [leBytes, ih]

@[simp] theorem length_beBytes (k n : Nat) : (beBytes k n).length = k := by simp [beBytes]

theorem leNat_leBytes (k n : Nat) : leNat (leBytes k n) = n % 256 ^ k := by
  induction k generalizing n with
  | zero => simp [leBytes, leNat, Nat.mod_one]
  | succ k ih => rw [leBytes, leNat, ih, Nat.pow_succ', Nat.mod_mul, BitVec.toNat_ofNat]

theorem beNat_concat (bs : Bytes) (b : Byte) : beNat (bs ++ [b]) = beNat bs * 256 + b.toNat := by simp [beNat]

theorem beNat_reverse (bs : Bytes) : beNat bs.reverse = leNat bs := by
  induction bs with
  | nil => rfl
  | cons b bs ih => rw [List.reverse_cons, beNat_concat, ih, leNat]; omega

@[simp] theorem beNat_beBytes (k n : Nat) : beNat (beBytes k n) = n % 256 ^ k := by rw [beBytes, beNat_reverse, leNat_leBytes]

@[simp] theorem beNat_singleton (b : Byte) : beNat [b] = b.toNat := by simp [beNat]

/-! ## Reading a part -/

theorem beAt_append_left {a b : Bytes} {o n : Nat} (h : o + n ≤ a.length) : beAt (a ++ b) o n = beAt a o n := by
  have hdrop : n ≤ (a.drop o).length := by rw [List.length_drop]; omega
  rw [beAt, beAt, slice, slice, List.drop_append_of_le_length (by omega), List.take_append_of_le_length hdrop]

theorem beAt_append_right {a b : Bytes} {o n : Nat} (h : a.length ≤ o) : beAt (a ++ b) o n = beAt b (o - a.length) n := by
  rw [beAt, beAt, slice, slice, List.drop_append, List.drop_eq_nil_of_le h, List.nil_append]

/-- A whole string read as one number. -/
theorem beAt_whole {a : Bytes} {n : Nat} (h : a.length = n) : beAt a 0 n = beNat a := by
  rw [beAt, slice, List.drop_zero, ← h, List.take_length]

theorem beAt_cons_succ (b : Byte) (a : Bytes) (o n : Nat) : beAt (b :: a) (o + 1) n = beAt a o n := rfl

theorem beAt_cons_one (b : Byte) (a : Bytes) : beAt (b :: a) 0 1 = b.toNat := beNat_singleton b

/-! ## A host port's Sync -/

theorem length_ptpSyncFrame (w : World) (p : Nat) (o c : Int) (q : Ptp) : (ptpSyncFrame w p o c q).length = 60 := by
  simp [ptpSyncFrame]

/-! ## Frames of the trunks -/

theorem length_dataFrame (w : World) (t k type seq : Nat) (body : Bytes) : (dataFrame w t k type seq body).length = 20 + body.length := by
  simp [dataFrame]; omega

theorem frType_dataFrame (w : World) (t k type seq : Nat) (body : Bytes) : frType (dataFrame w t k type seq body) = type % 256 := by
  simp [frType, dataFrame, beAt_append_right, beAt_cons_one]

theorem frSeq_dataFrame (w : World) (t k type seq : Nat) (body : Bytes) : frSeq (dataFrame w t k type seq body) = seq % 65536 := by
  simp [frSeq, dataFrame, beAt_append_left, beAt_append_right, beAt_cons_succ, beAt_whole]

theorem frCell_dataFrame (w : World) (t k type seq : Nat) (body : Bytes) : frCell (dataFrame w t k type seq body) = k % 256 := by
  simp [frCell, dataFrame, beAt_append_right, beAt_cons_succ, beAt_cons_one]

theorem beAt_dataFrame_body (w : World) (t k type seq o n : Nat) (body : Bytes) :
    beAt (dataFrame w t k type seq body) (20 + o) n = beAt body o n := by
  rw [dataFrame, beAt_append_right (by simp)]
  simp

section

variable (w : World) (t dst c seq interval : Nat) (mcast uncal : Bool) (origin : Nat) (corr : Int)

theorem length_syncFrame : (syncFrame w t dst c seq interval mcast uncal origin corr).length = 60 := by
  simp [syncFrame]

theorem syncFrame_dst : beAt (syncFrame w t dst c seq interval mcast uncal origin corr) 0 6 = dst % 256 ^ 6 := by
  simp [syncFrame, beAt_append_left, beAt_whole]

theorem syncFrame_outLive : beAt (syncFrame w t dst c seq interval mcast uncal origin corr) 30 1 = b2n w.dev.outLive := by
  cases h : w.dev.outLive <;> simp [syncFrame, beAt_append_right, beAt_cons_succ, beAt_cons_one, b2n, h]

theorem syncFrame_flags : beAt (syncFrame w t dst c seq interval mcast uncal origin corr) 31 1 = b2n mcast + 2 * b2n uncal := by
  cases mcast <;> cases uncal <;> simp [syncFrame, beAt_append_right, beAt_cons_succ, beAt_cons_one, b2n]

theorem syncFrame_cell : beAt (syncFrame w t dst c seq interval mcast uncal origin corr) 32 1 = c % 256 := by
  simp [syncFrame, beAt_append_right, beAt_cons_succ, beAt_cons_one]

theorem syncFrame_interval : beAt (syncFrame w t dst c seq interval mcast uncal origin corr) 47 1 = (256 - interval) % 256 := by
  simp [syncFrame, beAt_append_right, beAt_cons_succ, beAt_cons_one]

end

end Sys2Proof.Machine

namespace Sys2Proof.Claims

open Sys2Proof.Machine

/-- Refutes O23: a host port's Sync frame has 60 bytes before its check sequence, the least an Ethernet frame may have (log 91), of which
the claim counts 58; the frame of the power-on world, port 0, origin and correction 0 is one. -/
theorem not_syncsAndPulsesPerSecond : ¬ Obligations.SyncsAndPulsesPerSecond := by
  unfold Obligations.SyncsAndPulsesPerSecond
  rintro ⟨-, hframe, -⟩
  obtain ⟨-, -, -, hlen⟩ := hframe {} 0 0 0 {}
  rw [length_ptpSyncFrame] at hlen
  exact absurd hlen (by decide)

end Sys2Proof.Claims
end

section
/-! PROOFS. Encoder inputs (02 R417, Table 2.10), fallback and return (02 R48, R49). -/

namespace Sys2Proof.Machine

/-! ## Pins after a change of the device block -/

/-- `d'` differs from `d` at most in what no output pin follows. -/
def sameDrive (d d' : Dev) : Prop :=
  ∃ due enc pend, d' = { d with boundaryDue := due, encPins := enc, pendFallback := pend }

theorem sameDrive.refl (d : Dev) : sameDrive d d := ⟨_, _, _, rfl⟩

/-- Pins that agree still agree after a change that no output pin follows. -/
theorem settle_of_sameDrive {w w' : World} (h : settle w = w) (hd : sameDrive w.dev w'.dev) : settle w' = w' := by
  obtain ⟨due, enc, pend, hdev⟩ := hd
  have hset : (settle w').dev = w'.dev := calc
    (settle w').dev = { (settle w).dev with boundaryDue := due, encPins := enc, pendFallback := pend } := by simp only [settle, hdev]; rfl
    _ = w'.dev := by rw [h, hdev]
  calc settle w' = { w' with dev := (settle w').dev } := rfl
    _ = w' := by rw [hset]

/-! ## Trackers after an update -/

/-- `w'` differs from `w` at most in the trackers' state. -/
def trackerScope (w w' : World) : Prop :=
  ∃ ts, ts.length = w.mer.trackers.length ∧ w' = { w with mer := { w.mer with trackers := ts } }

theorem trackerScope.refl (w : World) : trackerScope w w := ⟨_, rfl, rfl⟩

theorem trackerScope.trans {a b c : World} (hab : trackerScope a b) (hbc : trackerScope b c) : trackerScope a c := by
  obtain ⟨_, hl, rfl⟩ := hab
  obtain ⟨ts, hl', rfl⟩ := hbc
  exact ⟨ts, hl'.trans hl, rfl⟩

theorem trackerScope.length_eq {w w' : World} (h : trackerScope w w') : w'.mer.trackers.length = w.mer.trackers.length := by
  obtain ⟨ts, hl, rfl⟩ := h; exact hl

theorem trackerScope_onTracker (k : Nat) (f : Tracker → Tracker) (w : World) : trackerScope w (onTracker k f w) :=
  ⟨_, List.length_modify .., rfl⟩

theorem tracker_onTracker_other {k j : Nat} (f : Tracker → Tracker) (w : World) (h : j ≠ k) : tracker (onTracker k f w) j = tracker w j :=
  nth_updNth_other f h

theorem onTracker_onTracker (k : Nat) (f g : Tracker → Tracker) (w : World) : onTracker k f (onTracker k g w) = onTracker k (f ∘ g) w :=
  congrArg (fun l => { w with mer := { w.mer with trackers := l } }) (List.modify_modify_eq g f k w.mer.trackers)

variable {k : Nat} {w : World}

/-- What tracker `k` has travelled when a change has taken θ over to what it is now measured by (02 R48). -/
def travelled (k now : Nat) (f : Tracker → Tracker) (w : World) : Int :=
  (tracker w k).odo +
    (thetaU w k now + angleDiff (BitVec.ofInt 32 (thetaU (onTracker k f w) k now)) (BitVec.ofInt 32 (thetaU w k now)) -
      anchorU (atRec w k) (tracker w k)).natAbs -
    (thetaU (onTracker k f w) k now - anchorU (atRec w k) (tracker (onTracker k f w) k)).natAbs

/-- θ reads of the trackers the one alone that it is of. -/
theorem thetaU_trackers (now : Nat) {ts ts' : List Tracker} (h : nth {} ts k = nth {} ts' k) :
    thetaU { w with mer := { w.mer with trackers := ts } } k now = thetaU { w with mer := { w.mer with trackers := ts' } } k now := by
  have ht : tracker { w with mer := { w.mer with trackers := ts } } k = tracker { w with mer := { w.mer with trackers := ts' } } k := h
  unfold thetaU
  rw [ht]; rfl

theorem travelled_congr (now : Nat) (f : Tracker → Tracker) {w' : World} (h : trackerScope w w') (ht : tracker w' k = tracker w k)
    (hk : k < w.mer.trackers.length) : travelled k now f w' = travelled k now f w := by
  have hk' : k < w'.mer.trackers.length := by rw [h.length_eq]; exact hk
  have hf : tracker (onTracker k f w') k = tracker (onTracker k f w) k := by
    rw [tracker_onTracker_same f hk', tracker_onTracker_same f hk, ht]
  obtain ⟨ts, -, rfl⟩ := h
  have hu := thetaU_trackers (w := w) now (ts' := w.mer.trackers) ht
  have hv := thetaU_trackers (w := w) now hf
  unfold travelled
  rw [ht, hf]
  exact congrArg₂ (fun u v : Int => (tracker w k).odo + (u + angleDiff (BitVec.ofInt 32 v) (BitVec.ofInt 32 u) -
    anchorU (atRec w k) (tracker w k)).natAbs - (v - anchorU (atRec w k) (tracker (onTracker k f w) k)).natAbs) hu hv

/-- A change of a tracker that keeps its travel is a change of that tracker. -/
theorem keepTravel_onTracker (k now : Nat) (f : Tracker → Tracker) (w : World) :
    keepTravel k now (onTracker k f) w = onTracker k (fun t => { f t with odo := travelled k now f w }) w :=
  onTracker_onTracker k (fun x => { x with odo := travelled k now f w }) f w

theorem trackerScope_eachW {f : Nat → World → World} (hf : ∀ j w, trackerScope w (f j w)) (l : List Nat) (w : World) :
    trackerScope w (eachW l f w) :=
  eachW_keeps (P := trackerScope w) (fun j w' h => h.trans (hf j w')) l (trackerScope.refl w)

/-! ### A change of each tracker of a list -/

/-- Each tracker of a list changed, each in its own way. -/
def passTrackers (l : List Nat) (f : Nat → Tracker → Tracker) : World → World := eachW l (fun k => onTracker k (f k))

theorem trackerScope_passTrackers (l : List Nat) (f : Nat → Tracker → Tracker) (w : World) : trackerScope w (passTrackers l f w) :=
  trackerScope_eachW (fun j w => trackerScope_onTracker j (f j) w) l w

theorem tracker_passTrackers_other {l : List Nat} (f : Nat → Tracker → Tracker) (hk : k ∉ l) (w : World) :
    tracker (passTrackers l f w) k = tracker w k :=
  get_eachW_other (get := tracker) (fun j w _ hj => tracker_onTracker_other (f j) w hj) hk w

theorem tracker_passTrackers {l : List Nat} {f : Nat → Tracker → Tracker} (hk : k ∈ l) (hl : l.Nodup) (hlen : k < w.mer.trackers.length) :
    tracker (passTrackers l f w) k = f k (tracker w k) :=
  get_eachW_once (get := tracker) (P := trackerScope w) (fun j w _ hj => tracker_onTracker_other (f j) w hj)
    (fun j w' h => h.trans (trackerScope_onTracker j (f j) w')) hk hl (trackerScope.refl w) fun w' h hw => by
      rw [tracker_onTracker_same _ (by rw [h.length_eq]; exact hlen), hw]

/-! ## Encoder edges (02 R417) -/

theorem mem_encTrackers {enc : Nat} : k ∈ encTrackers w enc ↔
    k < 8 ∧ (atMode (atRec w k) = 1 ∧ atEnc (atRec w k) = enc) ∧ (tracker w k).mode ≠ .off := by
  simp [encTrackers, upTo]

theorem nodup_encTrackers (w : World) (enc : Nat) : (encTrackers w enc).Nodup := List.nodup_range.filter _

/-- The direction of an edge: A's counts up where its new level differs from B's, B's where it equals A's (02 R417). -/
def edgeForward (pins : BitVec 8) (enc : Nat) (pinB rising : Bool) : Bool :=
  if pinB then rising == pins.getLsbD (2 * enc) else rising != pins.getLsbD (2 * enc + 1)

/-- The device with one encoder input's level changed. -/
def flipPin (i : Nat) (w : World) : World := onDev (fun d => { d with encPins := d.encPins ^^^ BitVec.ofNat 8 (2 ^ i) }) w

theorem encoderEdge_same_level {enc frac : Nat} {pinB rising : Bool} (h : w.dev.encPins.getLsbD (2 * enc + b2n pinB) = rising) :
    encoderEdge enc pinB rising frac w = w := if_pos h

theorem encoderEdge_new_level {enc frac : Nat} {pinB rising : Bool} (h : w.dev.encPins.getLsbD (2 * enc + b2n pinB) ≠ rising) :
    encoderEdge enc pinB rising frac w = passTrackers (encTrackers w enc)
      (fun k => countEdge (atRec w k) (edgeForward w.dev.encPins enc pinB rising) (now16 w frac)) (flipPin (2 * enc + b2n pinB) w) := if_neg h

theorem getLsbD_flip (p : BitVec 8) {i j : Nat} (hj : j < 8) : (p ^^^ BitVec.ofNat 8 (2 ^ i)).getLsbD j = (p.getLsbD j ^^ decide (i = j)) := by
  simp only [BitVec.getLsbD_xor, BitVec.getLsbD_ofNat, Nat.testBit_two_pow, hj, decide_true, Bool.true_and]

/-! ## Z pulses (02 Table 2.10) -/

variable {r : Bytes} {t : Tracker}

theorem zPulse_not_valid (h : t.mode ≠ .valid) : zPulse r t = { t with zSeen := true } := if_pos h

theorem zPulse_first (h : t.mode = .valid) (hz : t.zAligned = false) :
    zPulse r t = alignCount r { t with zSeen := true, zAligned := true } := by
  simp [zPulse, h, hz]

theorem zPulse_zSeen (r : Bytes) (t : Tracker) : (zPulse r t).zSeen = true := by
  simp only [zPulse]
  split_ifs <;> rfl

/-- A later pulse counts a mismatch where the count is more than two away from alignment. -/
theorem zPulse_later (h : t.mode = .valid) (hz : t.zAligned = true) : (zPulse r t).count = t.count ∧
    (zPulse r t).zMismatches = t.zMismatches +
      (if 2 < t.count % (4 * atLines r : Nat) ∧ t.count % (4 * atLines r : Nat) < (4 * atLines r : Nat) - 2 then 1 else 0) := by
  simp only [zPulse, h, hz, ne_eq, not_true_eq_false, Bool.not_true, Bool.false_eq_true, if_false]
  split <;> exact ⟨rfl, rfl⟩

theorem countSpan_zero (r : Bytes) : countSpan r 0 = 0 := by simp [countSpan]

/-- A count at zero stands at its base. -/
theorem countedTheta_of_aligned (hc : t.count = 0) : countedTheta r t = t.base := by
  simp [countedTheta, countedU, hc, countSpan_zero]

/-- A Z pulse before VALID is no travel. -/
theorem travelled_zSeen (now : Nat) (hk : k < w.mer.trackers.length) (h : (tracker w k).mode ≠ .valid) :
    travelled k now (fun t => zPulse r t) w = (tracker w k).odo := by
  have hz : tracker (onTracker k (fun t => zPulse r t) w) k = { tracker w k with zSeen := true } := by
    rw [tracker_onTracker_same _ hk, zPulse_not_valid h]
  have hu : thetaU (onTracker k (fun t => zPulse r t) w) k now = thetaU w k now := by
    unfold thetaU
    rw [hz]; rfl
  have hanchor : anchorU (atRec w k) { tracker w k with zSeen := true } = anchorU (atRec w k) (tracker w k) := rfl
  simp only [travelled, hu, hz, hanchor, angleDiff, BitVec.sub_self, BitVec.toInt_zero]
  omega

/-- The effect of a Z pulse. -/
def zPulses (enc : Nat) (w : World) : World :=
  eachW ((encTrackers w enc).filter (fun k => atZEn (atRec w k))) (fun k => keepTravel k (now16 w) (onTracker k (zPulse (atRec w k)))) w

theorem zPulses_scope (enc : Nat) (w : World) : trackerScope w (zPulses enc w) := by
  refine trackerScope_eachW (fun k w' => ?_) _ w
  rw [keepTravel_onTracker]
  exact trackerScope_onTracker _ _ _

theorem keepTravel_other {j : Nat} (now : Nat) (f : Tracker → Tracker) (w : World) (h : j ≠ k) :
    tracker (keepTravel k now (onTracker k f) w) j = tracker w j := by
  rw [keepTravel_onTracker, tracker_onTracker_other _ w h]

/-- A Z pulse leaves every tracker that is not on its input, or does not follow Z. -/
theorem tracker_zPulses_other {enc : Nat} (h : k ∉ encTrackers w enc ∨ atZEn (atRec w k) = false) : tracker (zPulses enc w) k = tracker w k := by
  refine get_eachW_other (get := tracker) (fun j w' k hk => keepTravel_other _ _ w' hk) (fun hmem => ?_) w
  obtain ⟨hin, hz⟩ := List.mem_filter.1 hmem
  obtain hn | hn := h
  · exact hn hin
  · exact Bool.false_ne_true (hn.symm.trans hz)

/-- A tracker that follows Z takes the pulse, and the travel of its angle over to the count's. -/
theorem tracker_zPulses {enc : Nat} (hin : k ∈ encTrackers w enc) (hz : atZEn (atRec w k) = true) (hk : k < w.mer.trackers.length) :
    ∃ odo, tracker (zPulses enc w) k = { zPulse (atRec w k) (tracker w k) with odo := odo } ∧
      ((tracker w k).mode ≠ .valid → odo = (tracker w k).odo) := by
  refine ⟨travelled k (now16 w) (zPulse (atRec w k)) w, ?_, travelled_zSeen _ hk⟩
  refine get_eachW_once (get := tracker) (P := trackerScope w) (fun j w' i hi => keepTravel_other _ _ w' hi) (fun j w' h => ?_)
    (List.mem_filter.2 ⟨hin, hz⟩) ((nodup_encTrackers w enc).filter _) (trackerScope.refl w) fun w' h hw => ?_
  · rw [keepTravel_onTracker]; exact h.trans (trackerScope_onTracker _ _ _)
  · rw [keepTravel_onTracker, tracker_onTracker_same _ (by rw [h.length_eq]; exact hk), hw, travelled_congr _ _ h hw hk]

end Sys2Proof.Machine

namespace Sys2Proof.Claims

open Sys2Proof.Machine

/-- An awake device ends in the effect of a command that changes nothing that an output pin follows. -/
theorem runsTo_of_sameDrive {i : Instr} {s : State} {f : World → World} {P : State → Prop} (hi : exec i s = liveEffect f s) (ha : awake s)
    (hd : sameDrive s.live.dev (f s.live).dev) (hP : P { s with live := f s.live }) : runsTo i s P := by
  obtain ⟨halive, hpins⟩ := ha
  exact ⟨{ s with live := f s.live }, by rw [hi, liveEffect_alive halive, settle_of_sameDrive hpins hd], rfl, hP⟩

theorem exec_encoderEdge (enc : Fin 4) (e : EncEdge) (frac : BitVec 16) (s : State) :
    exec (.encoderEdge enc e frac) s = liveEffect (encoderEdge enc e.pinB e.rising frac.toNat) s := rfl

theorem exec_encoderZPulse (enc : Fin 4) (s : State) : exec (.encoderZPulse enc) s = liveEffect (zPulses enc) s := rfl

/-- Settles O24: each tracker of the input is written once (`tracker_passTrackers`), as one edge (`countEdge`) or one pulse (`zPulse`)
leaves it. -/
theorem encoderEdgesAndZPulsesCount : Obligations.EncoderEdgesAndZPulsesCount := by
  unfold Obligations.EncoderEdgesAndZPulsesCount
  refine ⟨fun s enc pinB rising frac ha hlen hne => ?edge, fun s enc pinB frac ha => ?still, fun s enc ha hlen => ?pulse⟩
  case edge =>
    have hw := encoderEdge_new_level (w := s.live) (frac := frac.toNat) hne
    obtain ⟨ts, hts, hscope⟩ := trackerScope_passTrackers (encTrackers s.live enc)
      (fun k => countEdge (atRec s.live k) (edgeForward s.live.dev.encPins enc pinB rising) (now16 s.live frac.toNat))
      (flipPin (2 * enc + b2n pinB) s.live)
    refine runsTo_of_sameDrive (exec_encoderEdge enc ⟨pinB, rising⟩ frac s) ha ?_
      ⟨fun i hi => ?_, fun k hk fwd hfwd => ?_, fun k hk => ?_, ?_⟩
    · dsimp only; rw [hw, hscope]; exact ⟨_, _, _, rfl⟩
    · dsimp only
      rw [hw, hscope]
      refine (getLsbD_flip _ hi).trans ?_
      by_cases h : i = 2 * enc.val + b2n pinB
      · rw [if_pos h, h, decide_eq_true rfl, Bool.xor_true]
        exact Bool.not_eq.2 hne
      · rw [if_neg h, decide_eq_false (Ne.symm h), Bool.xor_false]
    · have hdir : edgeForward s.live.dev.encPins enc pinB rising = fwd := by
        rw [Bool.eq_iff_iff, hfwd]
        cases pinB <;> simp [edgeForward]
      have hk8 : k < s.live.mer.trackers.length := by rw [hlen]; exact (mem_encTrackers.1 hk).1
      have hat : tracker (encoderEdge enc pinB rising frac.toNat s.live) k = countEdge (atRec s.live k) fwd (now16 s.live frac.toNat)
          (tracker s.live k) := by
        rw [hw, ← hdir]
        exact tracker_passTrackers hk (nodup_encTrackers s.live enc) hk8
      dsimp only
      rw [hat]
      exact ⟨rfl, rfl, rfl, rfl, rfl, rfl, rfl⟩
    · dsimp only
      rw [hw]
      exact tracker_passTrackers_other _ hk _
    · dsimp only
      rw [hw, hscope]
      rfl
  case still => exact runsTo_self (exec_encoderEdge enc _ frac s) ha (encoderEdge_same_level rfl)
  case pulse =>
    obtain ⟨ts, hts, hscope⟩ := zPulses_scope enc s.live
    refine runsTo_of_liveEffect (exec_encoderZPulse enc s) ha (by rw [hscope]) ⟨fun k hk hz => ?_, fun k hk => ?_, ?_⟩
    · have hk8 : k < s.live.mer.trackers.length := by rw [hlen]; exact (mem_encTrackers.1 hk).1
      obtain ⟨odo, hat, hodo⟩ := tracker_zPulses hk hz hk8
      dsimp only
      rw [hat]
      refine ⟨?_, fun hv => ?_, fun hv hz0 => ?_, fun hv hz1 => ?_⟩
      · exact zPulse_zSeen _ _
      · rw [zPulse_not_valid hv, hodo hv]
      · rw [zPulse_first hv hz0]
        exact ⟨rfl, rfl, rfl, countedTheta_of_aligned rfl, hv, rfl, rfl⟩
      · obtain ⟨hcount, hmis⟩ := zPulse_later (r := atRec s.live k) hv hz1
        exact ⟨hcount, hmis⟩
    · exact tracker_zPulses_other hk
    · dsimp only; rw [hscope]

end Sys2Proof.Claims

namespace Sys2Proof.Machine

variable {k : Nat} {w : World}

/-! ## Into FALLBACK (02 Table 2.10, R48, R49) -/

theorem mustFallBack_of_cause {together : Bool} (hv : (tracker w k).mode = .valid) (hm : atMode (atRec w k) ≠ 4)
    (hc : lt32 (omegaNow w k &&& 0x7FFFFFFF) (atOmegaMin (atRec w k)) = true ∨ sourceGood w k (now16 w) = false ∨
      (atMode (atRec w k) = 1 ∧ together = true)) : mustFallBack w k together = true := by
  simpa [mustFallBack, hv, hm, or_assoc] using hc

theorem mustFallBack_of_none {together : Bool} (h : (tracker w k).mode ≠ .valid ∨ atMode (atRec w k) = 4 ∨
    (lt32 (omegaNow w k &&& 0x7FFFFFFF) (atOmegaMin (atRec w k)) = false ∧ sourceGood w k (now16 w) = true ∧
      (atMode (atRec w k) = 1 → together = false))) : mustFallBack w k together = false := by
  obtain h | h | ⟨hslow, hsrc, htog⟩ := h
  · simp [mustFallBack, h]
  · simp [mustFallBack, h]
  · simp only [mustFallBack, hslow, hsrc, Bool.not_true, Bool.false_or, Bool.and_eq_false_iff, beq_eq_false_iff_ne]
    by_cases h1 : atMode (atRec w k) = 1
    · exact .inr (.inr (htog h1))
    · exact .inr (.inl h1)

/-- A tracker that has fallen back: θ held as it stands, ω noted, the switch counted. -/
def fallenBack (w : World) (k : Nat) (lost : Bool) (t : Tracker) : Tracker :=
  anchorAt (thetaU w k (now16 w)) (travelAt w k (now16 w)) (now16 w) { t with
    mode := .fallback, validOmega := omegaNow w k, switches := t.switches + 1, switched := true, goodTicks := 0
    edgeAt := if lost then none else t.edgeAt, edgeGap := if lost then none else t.edgeGap
    edgeRun := if lost then 0 else t.edgeRun, freshRun := if lost then 0 else t.freshRun }

/-- A switch that is recorded and marks the epoch (02 R48). -/
def noteSwitch (k : Nat) (w : World) : World := record 0x04 4 0x2100 k (onDev (fun d => { d with pendFallback := true }) w)

theorem enterFallback_eq (k : Nat) (lost : Bool) (w : World) :
    enterFallback k lost w = noteSwitch k (onTracker k (fallenBack w k lost) w) := rfl

@[simp] theorem tracker_noteSwitch (j : Nat) (w : World) (k : Nat) : tracker (noteSwitch j w) k = tracker w k := rfl

theorem thetaLc_of_not_valid (r : Bytes) {t : Tracker} (h : t.mode ≠ .valid) : thetaLc r t = 0 := if_neg h

/-- θ of a tracker in FALLBACK at the instant of its anchor. -/
theorem thetaU_at_anchor {now : Nat} (hm : (tracker w k).mode = .fallback) (hat : (tracker w k).thetaAt = now) :
    thetaU w k now = (tracker w k).theta.toNat := by
  have hlc : thetaLc (atRec w k) (tracker w k) = 0 := thetaLc_of_not_valid _ (by rw [hm]; decide)
  simp [thetaU, hm, thetaClock, hlc, hat, angleSpan]

/-- θ does not jump where the source is given up. -/
theorem thetaAt_enterFallback (lost : Bool) (hk : k < w.mer.trackers.length) : thetaAt (enterFallback k lost w) k = thetaAt w k := by
  have ht : tracker (enterFallback k lost w) k = fallenBack w k lost (tracker w k) := by
    rw [enterFallback_eq, tracker_noteSwitch, tracker_onTracker_same _ hk]
  have hu : thetaU (enterFallback k lost w) k (now16 w) = (fallenBack w k lost (tracker w k)).theta.toNat := by
    rw [thetaU_at_anchor (by rw [ht]; rfl) (by rw [ht]; rfl), ht]
  have htheta : (fallenBack w k lost (tracker w k)).theta = thetaAt w k := rfl
  calc thetaAt (enterFallback k lost w) k = BitVec.ofInt 32 (thetaU (enterFallback k lost w) k (now16 w)) := rfl
    _ = thetaAt w k := by rw [hu, htheta, BitVec.ofInt_natCast, BitVec.ofNat_toNat, BitVec.setWidth_eq]

/-! ## Back to VALID (02 R48, R51) -/

/-- A tracker that takes its measured θ. -/
def takenUp (w : World) (k frac : Nat) (t : Tracker) : Tracker :=
  { t with
    mode := .valid, theta := if atMode (atRec w k) = 1 then countedTheta (atRec w k) t else dirAngle (atRec w k) t.mTheta
    thetaAt := if atMode (atRec w k) = 1 then now16 w frac else t.mAt, omega := measuredOmega (atRec w k) (tracker w k) (now16 w frac)
    validOmega := measuredOmega (atRec w k) (tracker w k) (now16 w frac), wasValid := true, goodTicks := 0, zAligned := false
    sinceBack := true }

theorem enterValid_eq (k frac : Nat) (w : World) : ∃ u odo fwd, enterValid k frac w = leaveFallback k (tracker w k).mode
    (onTracker k (fun t => regrid (atRec w k) u fwd { takenUp w k frac t with odo := odo }) w) := by
  simp only [enterValid, keepTravel_onTracker, onTracker_onTracker]
  exact ⟨_, _, _, rfl⟩

theorem leaveFallback_fallback (k : Nat) (w : World) : leaveFallback k .fallback w =
    noteSwitch k (onTracker k (fun t => { t with switches := t.switches + 1, switched := true }) w) := rfl

/-- A tracker that has taken its measured θ, as the ticks and passages that follow count from it. -/
def resumed (w : World) (k frac : Nat) (u odo : Int) (fwd : Bool) : Tracker :=
  regrid (atRec w k) u fwd { takenUp w k frac (tracker w k) with odo := odo }

/-- The return to VALID: out of FALLBACK the switch is counted and noted; a tracker that only acquires counts none. -/
theorem enterValid_spec (frac : Nat) (fromFallback : Bool) (hm : (tracker w k).mode = (if fromFallback then .fallback else .acquiring))
    (hk : k < w.mer.trackers.length) : ∃ u odo fwd,
      tracker (enterValid k frac w) k = (if fromFallback then
        { resumed w k frac u odo fwd with switches := (tracker w k).switches + 1, switched := true } else resumed w k frac u odo fwd) ∧
      (∀ j, j ≠ k → tracker (enterValid k frac w) j = tracker w j) ∧
      ∃ ts ct n, enterValid k frac w = { w with
        dev := if fromFallback then { w.dev with pendFallback := true } else w.dev
        mer := { w.mer with trackers := ts }, cont := ct, free := n } := by
  obtain ⟨u, odo, fwd, h⟩ := enterValid_eq k frac w
  refine ⟨u, odo, fwd, ?_⟩
  rw [h, hm]
  cases fromFallback
  case false =>
    refine ⟨(tracker_onTracker_same _ hk).trans rfl, fun j hj => tracker_onTracker_other _ w hj, _, _, _, rfl⟩
  case true =>
    rw [if_pos rfl, leaveFallback_fallback, onTracker_onTracker]
    exact ⟨(tracker_onTracker_same _ hk).trans rfl, fun j hj => tracker_onTracker_other _ w hj, _, _, _, rfl⟩

end Sys2Proof.Machine

namespace Sys2Proof.Claims

open Sys2Proof.Machine

theorem exec_trackerFallback (k : Fin 8) (together : Bool) (s : State) : exec (.trackerFallback ⟨k, together⟩) s =
    liveEffect (fun w => whenW (mustFallBack w k together)
      (enterFallback k (!sourceGood w k (now16 w) || (atMode (atRec w k) == 1 && together))) w) s := rfl

theorem exec_trackerResumeValid (k : Fin 8) (fromFallback : Bool) (frac : BitVec 16) (s : State) :
    exec (.trackerResumeValid k fromFallback frac) s =
    liveEffect (fun w => whenW (decide ((tracker w k).mode = if fromFallback then .fallback else .acquiring) && atMode (atRec w k) != 4 &&
      decide (atResume (atRec w k) ≤ (tracker w k).goodTicks)) (enterValid k frac.toNat) w) s := rfl

/-- Settles O25: a fallback holds θ where it stands (`thetaAt_enterFallback`), a return takes the measured one (`enterValid_spec`). -/
theorem trackersFallBackAndReturn : Obligations.TrackersFallBackAndReturn := by
  unfold Obligations.TrackersFallBackAndReturn
  refine ⟨fun s k together ha hk hv hm hc => ?fall, fun s k together ha hn => ?stay, fun s k fromFallback frac ha hk hmode hm hgood => ?back⟩
  case fall =>
    have hmust := mustFallBack_of_cause hv hm hc
    refine runsTo_of_sameDrive (exec_trackerFallback k together s) ha ?_ ?_
    · rw [hmust]; exact ⟨_, _, _, rfl⟩
    · dsimp only
      rw [hmust, whenW_true]
      generalize (!sourceGood s.live k (now16 s.live) || (atMode (atRec s.live k) == 1 && together)) = lost
      have ht : tracker (enterFallback k lost s.live) k = fallenBack s.live k lost (tracker s.live k) := tracker_onTracker_same _ hk
      have hother (j : Nat) (hj : j ≠ k.val) : tracker (enterFallback k lost s.live) j = tracker s.live j := tracker_onTracker_other _ s.live hj
      rw [ht]
      exact ⟨rfl, thetaAt_enterFallback lost hk, rfl, rfl, rfl, rfl, rfl, rfl, rfl, rfl, hother, rfl⟩
  case stay =>
    refine runsTo_self (exec_trackerFallback k together s) ha ?_
    rw [mustFallBack_of_none hn, whenW_false]
  case back =>
    obtain ⟨u, odo, fwd, ht, hother, ts, ct, n, hw⟩ := enterValid_spec frac.toNat fromFallback hmode hk
    have hgo : (decide ((tracker s.live k).mode = if fromFallback then .fallback else .acquiring) && atMode (atRec s.live k) != 4 &&
        decide (atResume (atRec s.live k) ≤ (tracker s.live k).goodTicks)) = true := by simp [hmode, hm, hgood]
    refine runsTo_of_sameDrive (exec_trackerResumeValid k fromFallback frac s) ha ?_ ?_
    · rw [hgo, whenW_true, hw]
      cases fromFallback <;> exact ⟨_, _, _, rfl⟩
    · dsimp only
      rw [hgo, whenW_true, ht]
      cases fromFallback
      case false =>
        exact ⟨rfl, rfl, rfl, rfl, rfl, rfl, rfl, fun h1 => ⟨if_pos h1, if_pos h1⟩, fun h1 => ⟨if_neg h1, if_neg h1⟩,
          fun h => absurd h Bool.false_ne_true, fun _ => ⟨rfl, by rw [hw]; rfl⟩, hother, by rw [hw]⟩
      case true =>
        exact ⟨rfl, rfl, rfl, rfl, rfl, rfl, rfl, fun h1 => ⟨if_pos h1, if_pos h1⟩, fun h1 => ⟨if_neg h1, if_neg h1⟩,
          fun _ => ⟨rfl, by rw [hw]; rfl⟩, fun h => absurd h.symm Bool.false_ne_true, hother, by rw [hw]⟩

end Sys2Proof.Claims
end

section
/-! PROOFS. Angle events: fired once, and armed again (02 R414, Table 2.15). -/

namespace Sys2Proof.Machine

variable {k : Nat} {w : World}

/-! ## Pulses that fall due (02 R53) -/

/-- Pulses that fall due are listed at their pins, and that is all. -/
theorem dueEdges_eq_with (sel : Nat → Bool) (stamp : Nat) (w : World) :
    ∃ es, dueEdges sel stamp w = { w with mer := { w.mer with edges := es } } := by
  refine eachW_keeps (P := fun w' => ∃ es, w' = { w with mer := { w.mer with edges := es } }) (fun p w' h => ?_) _ ⟨_, rfl⟩
  obtain ⟨es, rfl⟩ := h
  dsimp only
  split <;> exact ⟨_, rfl⟩

/-! ## The action of an event (02 Table 2.15) -/

/-- `w'` differs from `w` at most in the blocks that an event acts on. -/
def actionScope (w w' : World) : Prop :=
  ∃ sv ha ti ct, w' = { w with solver := sv, halo := ha, tiles := ti, cont := ct }

theorem actionScope_releaseTmpl (stamp t : Nat) (w : World) : actionScope w (releaseTmpl stamp t w) := by
  unfold releaseTmpl
  split <;> exact ⟨_, _, _, _, rfl⟩

theorem actionScope_injArm (i stamp : Nat) (w : World) : actionScope w (injArm i stamp w) := by
  unfold injArm injSettle
  split_ifs <;> exact ⟨_, _, _, _, rfl⟩

theorem actionScope_capEvent (c stamp : Nat) (w : World) : actionScope w (capEvent c stamp w) := by
  unfold capEvent
  split <;> exact ⟨_, _, _, _, rfl⟩

theorem actionScope_postSync (obj : Nat) (w : World) : actionScope w (postSync obj w) := by
  obtain ⟨_, _, _, h⟩ := syncScope_postSync obj w
  exact ⟨_, _, _, _, h⟩

theorem eventAction_release {target stamp : Nat} (h : hasObj w.cfg.active 0x4100 0 target = true) :
    eventAction 1 target stamp w = releaseTmpl stamp target w := if_pos h

theorem eventAction_scope (action target stamp : Nat) (w : World) : actionScope w (eventAction action target stamp w) := by
  unfold eventAction
  split
  · split
    · exact actionScope_releaseTmpl _ _ _
    · exact ⟨_, _, _, _, rfl⟩
  · exact actionScope_injArm _ _ _
  · exact actionScope_capEvent _ _ _
  · exact actionScope_postSync _ _
  · exact ⟨_, _, _, _, rfl⟩

theorem nReleases_releaseTmpl (stamp : Nat) {t : Nat} (he : (tmplEngine w t).isSome = true) (hs : storeSorted w.solver.tmpls) :
    (tmpl (releaseTmpl stamp t w) t).nReleases = (tmpl w t).nReleases + 1 := by
  rw [releaseTmpl, if_neg (by rw [Option.isNone_eq_false_iff.2 he]; exact Bool.false_ne_true)]
  exact congrArg Tmpl.nReleases (tmpl_onTmpl_same t _ hs)

theorem cap_capEvent {c : Nat} (stamp : Nat) (ho : hasObj w.cfg.active 0x5040 0 c = true) (ht : cpTrig (capRec w c) = 1)
    (ha : (cap w c).state = .armed) (hs : storeSorted w.halo.caps) : cap (capEvent c stamp w) c = { cap w c with pending := some stamp } := by
  rw [capEvent, if_pos (by simp [ho, ht, ha])]
  exact cap_onCap_same c _ hs

/-- What each action does: a template is released, an injector armed, a capture channel triggered, a token posted. -/
theorem eventAction_acts (action target stamp : Nat) (htmpls : storeSorted w.solver.tmpls) (hinjs : storeSorted w.halo.injs)
    (hcaps : storeSorted w.halo.caps) (hsync : storeSorted w.tiles.sync) :
    (action = 1 → hasObj w.cfg.active 0x4100 0 target = true → (tmplEngine w target).isSome = true →
      (tmpl (eventAction action target stamp w) target).nReleases = (tmpl w target).nReleases + 1) ∧
    (action = 2 → hasObj w.cfg.active 0x5030 0 target = true → ijKind (injRec w target) ≠ 0 →
      inj (eventAction action target stamp w) target = { armed := some (lc3At w stamp), ts := none }) ∧
    (action = 3 → hasObj w.cfg.active 0x5040 0 target = true → cpTrig (capRec w target) = 1 → (cap w target).state = .armed →
      cap (eventAction action target stamp w) target = { cap w target with pending := some (lc3At w stamp) }) ∧
    (action = 4 → (∀ c ∈ w.tiles.ctxs, c.2.wait ≠ .sync target) →
      syncCount (eventAction action target stamp w) target = syncCount w target + 1) := by
  refine ⟨?release, ?arm, ?trigger, ?post⟩
  case release => rintro rfl ho he; rw [eventAction_release ho, nReleases_releaseTmpl stamp he htmpls]
  case arm => rintro rfl ho hkind; exact inj_injArm _ ho hkind hinjs
  case trigger => rintro rfl ho htrig harm; exact cap_capEvent _ ho htrig harm hcaps
  case post =>
    rintro rfl hwait
    exact (congrArg (syncCount · target) (postSync_of_none_waiting hwait)).trans (syncCount_addToken_same target hsync)

/-! ## An event that fires -/

/-- A tracker with event `e` disarmed. -/
def disarm (e : Nat) (t : Tracker) : Tracker := { t with disarmed := (t.disarmed.filter (· < e)) ++ [e] ++ t.disarmed.filter (e < ·) }

theorem mem_disarm (e : Nat) (t : Tracker) : e ∈ (disarm e t).disarmed := by simp [disarm]

/-- The device as an event that fires leaves it before the event acts: the event disarmed, pulses due. -/
def eventNoted (k e stamp : Nat) (w : World) : World :=
  dueEdges (fun o => bits o 2 0 = k && bit o 5 && bits o 15 10 == e) stamp (onTracker k (disarm e) w)

theorem eventFire_passed {e frac : Nat} {fwd : Bool} (hp : w.cfg.present = true) (hm : (tracker w k).mode ≠ .off)
    (hd : e ∉ (tracker w k).disarmed) (hdir : eventDir (eventEntry w.cfg.active k e) fwd = true)
    (hpass : passed w k e fwd (now16 w frac) = true) : eventFire k e fwd frac w =
      eventAction (bits (eventEntry w.cfg.active k e) 35 32) (bits (eventEntry w.cfg.active k e) 55 36)
        (passInstant w k e fwd (now16 w frac)) (eventNoted k e (passInstant w k e fwd (now16 w frac)) w) :=
  if_neg (by simp [hp, hm, hd, hdir, hpass])

/-- A device whose trackers and due pulses alone differ. -/
theorem eventNoted_eq_with (k e stamp : Nat) (w : World) : ∃ es, eventNoted k e stamp w =
    { w with mer := { w.mer with trackers := (onTracker k (disarm e) w).mer.trackers, edges := es } } := by
  obtain ⟨es, h⟩ := dueEdges_eq_with (fun o => bits o 2 0 = k && bit o 5 && bits o 15 10 == e) stamp (onTracker k (disarm e) w)
  exact ⟨es, h⟩

/-! ## An event that is armed again -/

/-- A tracker with event `e` armed again, its passages counted from `u`. -/
def rearm (e : Nat) (u : Int) (t : Tracker) : Tracker :=
  { t with disarmed := t.disarmed.filter (· ≠ e), armedU := sInsert t.armedU e u }

theorem mem_rearm {e n : Nat} {u : Int} {t : Tracker} : n ∈ (rearm e u t).disarmed ↔ n ∈ t.disarmed ∧ n ≠ e := by
  simp [rearm]

/-- The condition on which ANGLE_EVENT_REARM acts: the event is disarmed, and θ a quarter turn from its angle. -/
def rearms (w : World) (k e now : Nat) : Bool :=
  decide ((tracker w k).mode ≠ .off) && (tracker w k).disarmed.contains e && decide (2 ^ 30 ≤
    (angleDiff (BitVec.ofInt 32 (judgedU w k now)) (BitVec.ofNat 32 (bits (eventEntry w.cfg.active k e) 31 0))).natAbs)

end Sys2Proof.Machine

namespace Sys2Proof.Claims

open Sys2Proof.Machine

theorem exec_angleEventFire (k : Fin 8) (e : Fin 64) (fwd : Bool) (frac : BitVec 16) (s : State) :
    exec (.angleEventFire k e fwd frac) s = liveEffect (eventFire k e fwd frac.toNat) s := rfl

theorem exec_angleEventRearm (k : Fin 8) (e : Fin 64) (frac : BitVec 16) (s : State) : exec (.angleEventRearm k e frac) s =
    liveEffect (fun w => whenW (rearms w k e (now16 w frac.toNat)) (onTracker k (rearm e (judgedU w k (now16 w frac.toNat)))) w) s := rfl

/-- Settles O27: an event that is passed is disarmed and acts once (`eventFire_passed`); one that is armed again changes its tracker alone. -/
theorem angleEventsFireOnce : Obligations.AngleEventsFireOnce := by
  unfold Obligations.AngleEventsFireOnce
  refine ⟨fun s k e fwd frac ha hord hk hp hm hd hdir hpass => ?fire, fun s k e frac ha hk hm hd hfar => ?rearm⟩
  case fire =>
    have hw := eventFire_passed (frac := frac.toNat) hp hm hd hdir hpass
    generalize eventEntry s.live.cfg.active k e = x at hw ⊢
    generalize passInstant s.live k e fwd (now16 s.live frac.toNat) = stamp at hw ⊢
    have ht : nth {} (onTracker k (disarm e) s.live).mer.trackers k = disarm e (tracker s.live k) := tracker_onTracker_same _ hk
    have hother (j : Nat) (hj : j ≠ k.val) : nth {} (onTracker k (disarm e) s.live).mer.trackers j = tracker s.live j :=
      tracker_onTracker_other _ s.live hj
    obtain ⟨es, hes⟩ := eventNoted_eq_with k e stamp s.live
    obtain ⟨sv, hal, ti, ct, hact⟩ := eventAction_scope (bits x 35 32) (bits x 55 36) stamp (eventNoted k e stamp s.live)
    have hframe : eventFire k e fwd frac.toNat s.live = { s.live with
        mer := { s.live.mer with trackers := (onTracker k (disarm e) s.live).mer.trackers, edges := es }
        solver := sv, halo := hal, tiles := ti, cont := ct } := by rw [hw, hact, hes]
    refine runsTo_of_liveEffect (exec_angleEventFire k e fwd frac s) ha (by rw [hframe]) ⟨?_, ?_, fun j hj => ?_, ?_, ?_, ?_⟩
    · dsimp only; rw [hframe]
      exact congrArg Tracker.disarmed ht ▸ mem_disarm e (tracker s.live k)
    · dsimp only; rw [hframe]
      exact ht.trans (congrArg (fun l => { tracker s.live k with disarmed := l }) (congrArg Tracker.disarmed ht).symm)
    · dsimp only; rw [hframe]
      exact hother j hj
    · rintro j rfl
      obtain ⟨htmpls, -, hinjs, hcaps, -⟩ := hord.blocks
      dsimp only
      rw [hw, hes]
      exact eventAction_acts (w := { s.live with
        mer := { s.live.mer with trackers := (onTracker k (disarm e) s.live).mer.trackers, edges := es } })
        (bits x 35 32) (bits x 55 36) stamp htmpls hinjs hcaps hord.sync
    · dsimp only; rw [hframe]
    · dsimp only; rw [hframe]
  case rearm =>
    have hgo : rearms s.live k e (now16 s.live frac.toNat) = true := by
      rw [rearms, decide_eq_true hm, decide_eq_true hfar, Bool.true_and, Bool.and_true, List.contains_iff_mem]
      exact hd
    have ht : tracker (onTracker k (rearm e (judgedU s.live k (now16 s.live frac.toNat))) s.live) k =
        rearm e (judgedU s.live k (now16 s.live frac.toNat)) (tracker s.live k) := tracker_onTracker_same _ hk
    refine runsTo_of_liveEffect (exec_angleEventRearm k e frac s) ha (by rw [hgo]; rfl) ?_
    rw [hgo, whenW_true]
    dsimp only
    rw [ht]
    exact ⟨fun n => mem_rearm, rfl, fun _ => sFind_insert_same _ _, fun j hj => tracker_onTracker_other _ s.live hj, rfl⟩

end Sys2Proof.Claims
end

section
/-! PROOFS. Ticks: crossings, delayed and fallback ticks, the tick boundary, and the pulses of the TICK pins (02 R49 to R53; 01 R20). -/

namespace Sys2Proof.Machine

variable {k : Nat} {w : World}

/-! ## What a tick writes -/

/-- `w'` differs from `w` at most in what a tick writes: the boundary that is due, trackers, pulses due, what the boundary shows, releases
and token boundaries. -/
def tickScope (w w' : World) : Prop :=
  ∃ due sv sg ts es ab, ts.length = w.mer.trackers.length ∧ w' = { w with
    dev := { w.dev with boundaryDue := due }, solver := sv, serving := sg
    mer := { w.mer with trackers := ts, edges := es, atBoundary := ab } }

theorem tickScope.refl (w : World) : tickScope w w := ⟨_, _, _, _, _, _, rfl, rfl⟩

theorem tickScope.trans {a b c : World} (hab : tickScope a b) (hbc : tickScope b c) : tickScope a c := by
  obtain ⟨_, _, _, _, _, _, hl, rfl⟩ := hab
  obtain ⟨due, sv, sg, ts, es, ab, hl', rfl⟩ := hbc
  exact ⟨due, sv, sg, ts, es, ab, hl'.trans hl, rfl⟩

theorem tickScope.sameDrive {w' : World} (h : tickScope w w') : sameDrive w.dev w'.dev := by
  obtain ⟨due, _, _, _, _, _, -, rfl⟩ := h
  exact ⟨due, _, _, rfl⟩

theorem tickScope.eq_with {w' : World} (h : tickScope w w') : w' = { w with
    dev := { w.dev with boundaryDue := w'.dev.boundaryDue }, solver := w'.solver, serving := w'.serving
    mer := { w.mer with trackers := w'.mer.trackers, edges := w'.mer.edges, atBoundary := w'.mer.atBoundary } } := by
  obtain ⟨_, _, _, _, _, _, -, rfl⟩ := h; rfl

theorem tickScope_of_trackerScope {w' : World} (h : trackerScope w w') : tickScope w w' := by
  obtain ⟨ts, hl, rfl⟩ := h
  exact ⟨_, _, _, ts, _, _, hl, rfl⟩

/-! ## A tick (02 R50, R53; 01 R20) -/

/-- A tracker that has ticked. -/
def tickedBy (good : Bool) (b : Nat) (u : Int) (fwd : Bool) (stamp : Nat) (t : Tracker) : Tracker :=
  { t with
    tickCount := t.tickCount + 1, lastB := b, tickU := u, lastFwd := fwd, lastTickAt := stamp, delayed := none, sinceBack := false
    goodTicks := if good then t.goodTicks + 1 else 0 }

/-- The device once the tracker has ticked, before the tick's consequences. -/
def tickCounted (k b : Nat) (u : Int) (fwd : Bool) (stamp : Nat) (w : World) : World :=
  let w' := onTracker k (tickedBy (tickGood w k stamp) b u fwd stamp) w
  if atMode (atRec w k) = 4 ∧ (tracker w k).mode = .acquiring then synValid k stamp w' else w'

/-- A tick of the epoch tracker of a set in force is a tick boundary, and what its epoch shows is taken at its stamp. -/
def markBoundary (k stamp : Nat) (w : World) : World :=
  if k = epochTracker w && w.cfg.present then
    onMer (fun m => { m with atBoundary := some (timeSample stamp w) })
      (onDev (fun d => { d with boundaryDue := some (stamp, lcAtInstant w 3 stamp) }) w)
  else w

theorem produceTick_eq (k b : Nat) (u : Int) (fwd : Bool) (stamp : Nat) (w : World) : ∃ sel,
    produceTick k b u fwd stamp w = markBoundary k stamp (dueEdges sel stamp (tickCounted k b u fwd stamp w)) := ⟨_, rfl⟩

/-- A SYNTHETIC tracker that becomes VALID keeps what its tick has written. -/
theorem synValid_eq (k stamp : Nat) (w : World) : ∃ f : Tracker → Tracker, synValid k stamp w = onTracker k f w ∧
    ∀ t, (f t).mode = .valid ∧ (f t).tickCount = t.tickCount ∧ (f t).lastB = t.lastB ∧ (f t).lastFwd = t.lastFwd ∧
      (f t).lastTickAt = t.lastTickAt ∧ (f t).delayed = t.delayed := by
  simp only [synValid, anchorTheta]
  split
  · simp only [onTracker_onTracker]
    refine ⟨_, rfl, fun t => ⟨rfl, rfl, rfl, rfl, rfl, rfl⟩⟩
  · simp only [onTracker_onTracker]
    refine ⟨_, rfl, fun t => ⟨rfl, rfl, rfl, rfl, rfl, rfl⟩⟩

/-- A tick writes its tracker alone. -/
theorem tickCounted_eq (k b : Nat) (u : Int) (fwd : Bool) (stamp : Nat) (w : World) : ∃ f : Tracker → Tracker,
    tickCounted k b u fwd stamp w = onTracker k f w ∧ ∀ t, (f t).tickCount = t.tickCount + 1 ∧ (f t).lastB = b ∧ (f t).lastFwd = fwd ∧
      (f t).lastTickAt = stamp ∧ (f t).delayed = none ∧
      (f t).mode = (if atMode (atRec w k) = 4 ∧ (tracker w k).mode = .acquiring then .valid else t.mode) ∧
      ((tracker w k).mode = .valid → (f t).tickU = u) := by
  simp only [tickCounted]
  split
  next hfirst =>
    obtain ⟨g, hg, hkeep⟩ := synValid_eq k stamp (onTracker k (tickedBy (tickGood w k stamp) b u fwd stamp) w)
    rw [hg, onTracker_onTracker]
    refine ⟨_, rfl, fun t => ?_⟩
    obtain ⟨hmode, hcount, hb, hfwd, hat, hdel⟩ := hkeep (tickedBy (tickGood w k stamp) b u fwd stamp t)
    refine ⟨hcount, hb, hfwd, hat, hdel, hmode, fun hv => ?_⟩
    rw [hfirst.2] at hv
    exact AtMode.noConfusion hv
  next => exact ⟨_, rfl, fun t => ⟨rfl, rfl, rfl, rfl, rfl, rfl, fun _ => rfl⟩⟩

theorem markBoundary_trackers (k stamp : Nat) (w : World) : (markBoundary k stamp w).mer.trackers = w.mer.trackers := by
  unfold markBoundary
  split <;> rfl

theorem tickScope_markBoundary (k stamp : Nat) (w : World) : tickScope w (markBoundary k stamp w) := by
  unfold markBoundary
  split
  · exact ⟨_, _, _, _, _, _, rfl, rfl⟩
  · exact tickScope.refl w

theorem tickScope_dueEdges (sel : Nat → Bool) (stamp : Nat) (w : World) : tickScope w (dueEdges sel stamp w) := by
  obtain ⟨es, h⟩ := dueEdges_eq_with sel stamp w
  exact ⟨_, _, _, _, es, _, rfl, h⟩

theorem dueEdges_trackers (sel : Nat → Bool) (stamp : Nat) (w : World) : (dueEdges sel stamp w).mer.trackers = w.mer.trackers := by
  obtain ⟨es, h⟩ := dueEdges_eq_with sel stamp w
  rw [h]

section

variable (k) (b : Nat) (u : Int) (fwd : Bool) (stamp : Nat) (w)

theorem tickScope_produceTick : tickScope w (produceTick k b u fwd stamp w) := by
  obtain ⟨sel, h⟩ := produceTick_eq k b u fwd stamp w
  obtain ⟨f, hf, -⟩ := tickCounted_eq k b u fwd stamp w
  rw [h, hf]
  exact ((tickScope_of_trackerScope (trackerScope_onTracker k f w)).trans (tickScope_dueEdges _ _ _)).trans (tickScope_markBoundary _ _ _)

theorem tracker_produceTick (j : Nat) : tracker (produceTick k b u fwd stamp w) j = tracker (tickCounted k b u fwd stamp w) j := by
  obtain ⟨sel, h⟩ := produceTick_eq k b u fwd stamp w
  rw [h, tracker, markBoundary_trackers, dueEdges_trackers]; rfl

theorem tracker_produceTick_other {j : Nat} (hj : j ≠ k) : tracker (produceTick k b u fwd stamp w) j = tracker w j := by
  obtain ⟨f, hf, -⟩ := tickCounted_eq k b u fwd stamp w
  rw [tracker_produceTick, hf, tracker_onTracker_other f w hj]

/-- A tick counted: its boundary, direction and stamp, none delayed, VALID where it is a SYNTHETIC tracker's first. -/
theorem tracker_produceTick_same (hk : k < w.mer.trackers.length) (t : Tracker) (ht : t = tracker (produceTick k b u fwd stamp w) k) :
    t.tickCount = (tracker w k).tickCount + 1 ∧ t.lastB = b ∧ t.lastFwd = fwd ∧ t.lastTickAt = stamp ∧ t.delayed = none ∧
    t.mode = (if atMode (atRec w k) = 4 ∧ (tracker w k).mode = .acquiring then .valid else (tracker w k).mode) ∧
    ((tracker w k).mode = .valid → t.tickU = u) := by
  obtain ⟨f, hf, hspec⟩ := tickCounted_eq k b u fwd stamp w
  rw [ht, tracker_produceTick, hf, tracker_onTracker_same f hk]
  exact hspec (tracker w k)

/-- A tick of the epoch tracker makes a boundary due, stamped in LC0 and LC3; another leaves what is due. -/
theorem boundaryDue_produceTick : (produceTick k b u fwd stamp w).dev.boundaryDue =
    if k = epochTracker w ∧ w.cfg.present = true then some (stamp, lcAtInstant w 3 stamp) else w.dev.boundaryDue := by
  obtain ⟨sel, h⟩ := produceTick_eq k b u fwd stamp w
  obtain ⟨f, hf, -⟩ := tickCounted_eq k b u fwd stamp w
  rw [h, hf]
  obtain ⟨es, hes⟩ := dueEdges_eq_with sel stamp (onTracker k f w)
  rw [hes, markBoundary]
  simp only [Bool.and_eq_true, decide_eq_true_eq]
  split
  next hc => exact (if_pos (c := k = epochTracker w ∧ w.cfg.present = true) hc).symm
  next hc => exact (if_neg (c := k = epochTracker w ∧ w.cfg.present = true) hc).symm

end

/-! ## What follows a tick (06 R150; 08 R209) -/

/-- What follows a tick writes token boundaries and releases. -/
theorem afterTick_eq_with (k : Nat) (r : World × Bool) : ∃ sv sg, afterTick k r = { r.1 with solver := sv, serving := sg } := by
  have htoken (c lc3 : Nat) (w : World) : ∃ sg, tokenTicks k c lc3 w = { w with serving := sg } :=
    eachW_keeps (P := fun w' => ∃ sg, w' = { w with serving := sg }) (fun s w' h => by
      obtain ⟨sg, rfl⟩ := h
      dsimp only
      split <;> exact ⟨_, rfl⟩) _ ⟨_, rfl⟩
  have hrel (c stamp : Nat) (w : World) : ∃ sv, tickReleases k c stamp w = { w with solver := sv } :=
    eachW_keeps (P := fun w' => ∃ sv, w' = { w with solver := sv }) (fun t w' h => by
      obtain ⟨sv, rfl⟩ := h
      dsimp only
      unfold releaseTmpl
      split_ifs <;> exact ⟨_, rfl⟩) _ ⟨_, rfl⟩
  simp only [afterTick]
  split
  · exact ⟨_, _, rfl⟩
  · obtain ⟨sg, hsg⟩ := htoken (tracker r.1 k).tickCount (lc3At r.1 (tracker r.1 k).lastTickAt) r.1
    rw [hsg]
    split
    · exact ⟨_, _, rfl⟩
    · obtain ⟨sv, hsv⟩ := hrel (tracker r.1 k).tickCount (tracker r.1 k).lastTickAt { r.1 with serving := sg }
      exact ⟨sv, sg, hsv⟩

theorem tickScope_afterTick (k : Nat) (r : World × Bool) : tickScope r.1 (afterTick k r) := by
  obtain ⟨sv, sg, h⟩ := afterTick_eq_with k r
  exact ⟨_, sv, sg, _, _, _, rfl, h⟩

@[simp] theorem tracker_afterTick (k : Nat) (r : World × Bool) (j : Nat) : tracker (afterTick k r) j = tracker r.1 j := by
  obtain ⟨sv, sg, h⟩ := afterTick_eq_with k r
  rw [h]; rfl

@[simp] theorem dev_afterTick (k : Nat) (r : World × Bool) : (afterTick k r).dev = r.1.dev := by
  obtain ⟨sv, sg, h⟩ := afterTick_eq_with k r
  rw [h]

/-! ## Crossings (02 R50, R51) -/

section

variable {fwd : Bool} {frac : Nat}

/-- The instant that a crossing in a direction is stamped with. -/
def crossStamp (w : World) (k : Nat) (fwd : Bool) (frac : Nat) : Nat :=
  reachInstant w k (now16 w frac) (nextU (atRec w k) (tracker w k).tickU fwd)

/-- The crossing comes T_min or later after the last tick. -/
def inTime (w : World) (k : Nat) (fwd : Bool) (frac : Nat) : Bool :=
  spanReaches (atRec w k) (atOmegaMax (atRec w k)) ((crossStamp w k fwd frac : Int) - (tracker w k).lastTickAt)

/-- A crossing writes what a tick writes, and of the trackers its own alone. -/
theorem crossing_scope (k : Nat) (fwd : Bool) (frac : Nat) (w : World) :
    tickScope w (crossing k fwd frac w).1 ∧ ∀ j, j ≠ k → tracker (crossing k fwd frac w).1 j = tracker w j := by
  have hown (f : Tracker → Tracker) : tickScope w (onTracker k f w) ∧ ∀ j, j ≠ k → tracker (onTracker k f w) j = tracker w j :=
    ⟨tickScope_of_trackerScope (trackerScope_onTracker k f w), fun j hj => tracker_onTracker_other f w hj⟩
  simp only [crossing]
  split
  · exact ⟨tickScope.refl w, fun _ _ => rfl⟩
  · split
    · exact hown _
    · split
      · exact ⟨tickScope_produceTick .., fun j hj => tracker_produceTick_other _ _ _ _ _ _ hj⟩
      · split
        · exact hown _
        · exact hown _

theorem crossing_skips (hv : (tracker w k).mode = .valid) (hr : hasReached w k (now16 w frac) fwd = true)
    (hd : (tracker w k).delayed.isSome = true) : crossing k fwd frac w =
      (onTracker k (fun t => { t with crossU := nextU (atRec w k) t.crossU fwd, skipped := t.skipped + 1 }) w, false) := by
  simp [crossing, hv, hr, hd]

theorem crossing_ticks (hv : (tracker w k).mode = .valid) (hr : hasReached w k (now16 w frac) fwd = true)
    (hd : (tracker w k).delayed = none) (ht : inTime w k fwd frac = true) : crossing k fwd frac w =
      (produceTick k (nextBoundary (atRec w k) (tracker w k).lastB fwd) (nextU (atRec w k) (tracker w k).tickU fwd) fwd
        (crossStamp w k fwd frac) w, true) := by
  refine (if_neg (by simp [hv, hr])).trans ((if_neg (by simp [hd])).trans (if_pos ht))

theorem crossing_passes (hv : (tracker w k).mode = .valid) (hr : hasReached w k (now16 w frac) fwd = true)
    (hd : (tracker w k).delayed = none) (ht : inTime w k fwd frac = false) (hb : (tracker w k).sinceBack = true) : crossing k fwd frac w =
      (onTracker k (fun t => { t with
        lastB := nextBoundary (atRec w k) (tracker w k).lastB fwd, tickU := nextU (atRec w k) (tracker w k).tickU fwd }) w, false) := by
  refine (if_neg (by simp [hv, hr])).trans ((if_neg (by simp [hd])).trans ((if_neg ?_).trans (if_pos hb)))
  exact fun h => Bool.false_ne_true (ht.symm.trans h)

theorem crossing_waits (hv : (tracker w k).mode = .valid) (hr : hasReached w k (now16 w frac) fwd = true)
    (hd : (tracker w k).delayed = none) (ht : inTime w k fwd frac = false) (hb : (tracker w k).sinceBack = false) : crossing k fwd frac w =
      (onTracker k (fun t => { t with
        delayed := some (nextBoundary (atRec w k) (tracker w k).lastB fwd, fwd), crossU := nextU (atRec w k) (tracker w k).tickU fwd
        overspeed := true, delays := t.delays + 1 }) w, false) := by
  refine (if_neg (by simp [hv, hr])).trans ((if_neg (by simp [hd])).trans ((if_neg ?_).trans (if_neg ?_)))
  · exact fun h => Bool.false_ne_true (ht.symm.trans h)
  · rw [hb]; exact Bool.false_ne_true

end

/-! ## Delayed and fallback ticks (02 R49, R51) -/

theorem delayedTick_due {frac b : Nat} {fwd : Bool} (hm : (tracker w k).mode ≠ .off) (hd : (tracker w k).delayed = some (b, fwd))
    (hdue : (tracker w k).lastTickAt + interval16 (atRec w k) (atOmegaMax (atRec w k)) ≤ now16 w frac) : delayedTick k frac w =
      (produceTick k b (nextU (atRec w k) (tracker w k).tickU fwd) fwd
        ((tracker w k).lastTickAt + interval16 (atRec w k) (atOmegaMax (atRec w k))) w, true) := by
  simp only [delayedTick, hd]
  exact if_neg (by simp [hm, hdue])

/-- The generator's direction: that of its rate. -/
def fallbackForward (w : World) (k : Nat) : Bool := !(fallbackRate (atRec w k) (tracker w k)).getLsbD 31

theorem fallbackTick_due {frac : Nat} (hm : (tracker w k).mode = .fallback ∨ (tracker w k).mode = .acquiring)
    (hd : (tracker w k).delayed = none) (hdue : fallbackStamp (atRec w k) (tracker w k) ≤ now16 w frac) : fallbackTick k frac w =
      (produceTick k (nextBoundary (atRec w k) (tracker w k).lastB (fallbackForward w k))
        (nextU (atRec w k) (tracker w k).tickU (fallbackForward w k)) (fallbackForward w k)
        (fallbackStamp (atRec w k) (tracker w k)) w, true) := by
  have hruns : fallbackRuns (tracker w k) = true := by
    rcases hm with hm | hm <;> simp [fallbackRuns, hm]
  exact if_pos (by simp [hruns, hd, hdue])

/-! ## Pulses of the TICK pins (02 R53) -/

theorem pinLevel_active (o : Nat) : pinLevel o true = if bit o 4 then .low else .high := by
  cases h : bit o 4 <;> simp [pinLevel, h]

theorem pinLevel_inactive (o : Nat) : pinLevel o false = if bit o 4 then .high else .low := by
  cases h : bit o 4 <;> simp [pinLevel, h]

/-- TICK pin `p` of the device. -/
def tickPin (d : Dev) (p : Fin 4) : PinLevel :=
  match p with | 0 => d.tick0 | 1 => d.tick1 | 2 => d.tick2 | 3 => d.tick3

theorem tickPin_setTick (p : Fin 4) (l : PinLevel) (w : World) : tickPin (setTick p l w).dev p = l := by
  fin_cases p <;> rfl

/-- A TICK pin set leaves the others and the rest of the device. -/
theorem setTick_eq_with (p : Fin 4) (l : PinLevel) (w : World) : setTick p l w = { w with dev := { w.dev with
    tick0 := if p = 0 then (setTick p l w).dev.tick0 else w.dev.tick0, tick1 := if p = 1 then (setTick p l w).dev.tick1 else w.dev.tick1
    tick2 := if p = 2 then (setTick p l w).dev.tick2 else w.dev.tick2
    tick3 := if p = 3 then (setTick p l w).dev.tick3 else w.dev.tick3 } } := by
  fin_cases p <;> rfl

/-- While the device runs, its TICK pins may stand at any level. -/
theorem settle_setTick {w : World} (p : Nat) (l : PinLevel) (halive : alive w = true) (hrun : running w.dev.state = true)
    (h : settle w = w) : settle (setTick p l w) = setTick p l w := by
  have hon : (running w.dev.state && !w.dev.inReset && !w.dev.bedrockFailed) = true := by
    rw [Bool.and_assoc, hrun]; exact halive
  have hfault : faultLevel w.dev = w.dev.faultN := congrArg (fun v => v.dev.faultN) h
  have hsettle (d : Dev) (hd : (running d.state && !d.inReset && !d.bedrockFailed) = true) (hf : faultLevel d = d.faultN) :
      settle { w with dev := d } = { w with dev := d } := by
    simp only [settle, hd, hf, Bool.and_true, if_true]
  unfold setTick
  split <;> exact hsettle _ hon hfault

theorem sFind_of_below {α : Type} {s : Store α} {i : Nat} (h : ∀ e ∈ s, i < e.1) : sFind s i = none := by
  cases s with
  | nil => rfl
  | cons e s =>
    have hlt : i < e.1 := h e List.mem_cons_self
    simp [sFind, hlt, hlt.ne']

theorem sFind_erase_same {α : Type} {s : Store α} (i : Nat) (h : storeSorted s) : sFind (sErase s i) i = none := by
  induction s with
  | nil => rfl
  | cons e s ih =>
    obtain ⟨hbelow, hs⟩ := List.pairwise_cons.mp h
    by_cases hk : e.1 = i
    · simp only [sErase, hk, if_true]
      exact sFind_of_below fun x hx => hk ▸ hbelow x hx
    · by_cases hlt : i < e.1
      · simp [sErase, sFind, hk, hlt]
      · simp [sErase, sFind, hk, hlt, ih hs]

/-- The device with the edge that was due first on a pin taken, and its pulse to end at `stop`. -/
def pulseBegun (p : Nat) (rest : List Nat) (stop : Nat) (w : World) : World :=
  onMer (fun m => { m with edges := sPut [] m.edges p rest, pulseEnd := sInsert m.pulseEnd p stop }) w

/-- The device with a pin's pulse ended. -/
def pulseEnded (p : Nat) (w : World) : World := onMer (fun m => { m with pulseEnd := sErase m.pulseEnd p }) w

theorem tickStart_due {p a : Nat} {rest : List Nat} (hp : w.cfg.present = true) (he : sGet [] w.mer.edges p = a :: rest)
    (ha : a ≤ now16 w) (ho : bit (tickOut w p) 3 = true) : tickStart p w =
      setTick p (pinLevel (tickOut w p) true) (pulseBegun p rest (a + bits (tickOut w p) 55 36 * 65536) w) := by
  simp only [tickStart, he]
  exact if_neg (by simp [hp, ho, ha])

/-- TICK_PULSE_END: WIDTH after the leading edge. -/
def tickEnd (p : Nat) (w : World) : World :=
  match sFind w.mer.pulseEnd p with
  | some e =>
    if now16 w < e then w
    else setTick p (pinLevel (tickOut w p) false) (pulseEnded p w)
  | none => w

theorem tickEnd_due {p e : Nat} (he : sFind w.mer.pulseEnd p = some e) (hdue : e ≤ now16 w) :
    tickEnd p w = setTick p (pinLevel (tickOut w p) false) (pulseEnded p w) := by
  simp only [tickEnd, he]
  exact if_neg (Nat.not_lt.mpr hdue)

end Sys2Proof.Machine

namespace Sys2Proof.Claims

open Sys2Proof.Machine

/-- What runs to a state whose TICK pin has been set, of a device that runs. -/
theorem runsTo_setTick {i : Instr} {s : State} {f : World → World} {P : State → Prop} {p : Nat} {l : PinLevel} {w : World}
    (hi : exec i s = liveEffect f s) (ha : awake s) (hrun : running s.live.dev.state = true) (hf : f s.live = setTick p l w)
    (hdev : w.dev = s.live.dev) (hP : P { s with live := setTick p l w }) : runsTo i s P := by
  obtain ⟨halive, hpins⟩ := ha
  have hw : settle w = w := settle_of_sameDrive hpins (by rw [hdev]; exact sameDrive.refl _)
  have hset : settle (setTick p l w) = setTick p l w :=
    settle_setTick p l (by simpa only [alive, hdev] using halive) (by rw [hdev]; exact hrun) hw
  exact ⟨{ s with live := setTick p l w }, by rw [hi, liveEffect_alive halive, hf, hset], rfl, hP⟩

theorem exec_trackerTick (k : Fin 8) (c : Fin 32768) (fwd : Bool) (frac : BitVec 16) (s : State) : exec (.trackerTick k c fwd frac) s =
    liveEffect (fun w => whenW (c.val == crossedB (atRec w k) (tracker w k) fwd) (fun w => afterTick k (crossing k fwd frac.toNat w)) w) s := rfl

theorem exec_delayedTick (k : Fin 8) (b : Fin 32768) (frac : BitVec 16) (s : State) : exec (.delayedTick k b frac) s =
    liveEffect (fun w => whenW ((tracker w k).delayed.any (fun d => d.1 == b.val)) (fun w => afterTick k (delayedTick k frac.toNat w)) w) s :=
  rfl

theorem exec_fallbackTick (k : Fin 8) (frac : BitVec 16) (s : State) :
    exec (.fallbackTick k frac) s = liveEffect (fun w => afterTick k (fallbackTick k frac.toNat w)) s := rfl

theorem exec_tickPulseStart (p : Fin 4) (s : State) : exec (.tickPulseStart p) s = liveEffect (tickStart p) s := rfl

theorem exec_tickPulseEnd (p : Fin 4) (s : State) : exec (.tickPulseEnd p) s = liveEffect (tickEnd p) s := rfl

/-- What a tick of tracker `k` does: it is counted, with its boundary, direction and stamp, and beside its tracker it writes what `tickScope`
names. -/
def tickMade (k b : Nat) (fwd : Bool) (stamp : Nat) (s t : State) : Prop :=
  (tracker t.live k).tickCount = (tracker s.live k).tickCount + 1 ∧ (tracker t.live k).lastB = b ∧ (tracker t.live k).lastFwd = fwd ∧
  (tracker t.live k).lastTickAt = stamp ∧ (tracker t.live k).delayed = none ∧
  (tracker t.live k).mode = (if atMode (atRec s.live k) = 4 ∧ (tracker s.live k).mode = .acquiring then .valid else (tracker s.live k).mode) ∧
  (∀ j, j ≠ k → tracker t.live j = tracker s.live j) ∧
  t = { s with live := { s.live with
    dev := { s.live.dev with boundaryDue := t.live.dev.boundaryDue }, solver := t.live.solver, serving := t.live.serving
    mer := { s.live.mer with trackers := t.live.mer.trackers, edges := t.live.mer.edges, atBoundary := t.live.mer.atBoundary } } }

theorem runsTo_tick {i : Instr} {s : State} {f : World → World} {P : State → Prop} {k b : Nat} {u : Int} {fwd : Bool} {stamp : Nat}
    (hi : exec i s = liveEffect f s) (ha : awake s) (hk : k < s.live.mer.trackers.length)
    (hf : f s.live = afterTick k (produceTick k b u fwd stamp s.live, true))
    (hP : tickMade k b fwd stamp s { s with live := f s.live } → P { s with live := f s.live }) : runsTo i s P := by
  have hscope : tickScope s.live (f s.live) := by
    rw [hf]; exact (tickScope_produceTick k s.live b u fwd stamp).trans (tickScope_afterTick k (_, true))
  refine runsTo_of_sameDrive hi ha hscope.sameDrive (hP ?_)
  have htracker (j : Nat) : tracker (f s.live) j = tracker (produceTick k b u fwd stamp s.live) j := by rw [hf, tracker_afterTick]
  simp only [tickMade, htracker]
  obtain ⟨hcount, hlast, hdir, hat, hdel, hmode, -⟩ := tracker_produceTick_same k s.live b u fwd stamp hk _ rfl
  exact ⟨hcount, hlast, hdir, hat, hdel, hmode, fun j hj => tracker_produceTick_other _ _ _ _ _ _ hj,
    congrArg (fun w => { s with live := w }) hscope.eq_with⟩

/-- Settles O26: a crossing that is reached ticks, passes, waits or is skipped (`crossing_ticks` and its fellows); delayed and fallback
ticks are ticks too (`delayedTick_due`, `fallbackTick_due`); a TICK pin alone moves with its pulse (`runsTo_setTick`). -/
theorem ticksAndTheirPulses : Obligations.TicksAndTheirPulses := by
  unfold Obligations.TicksAndTheirPulses
  refine ⟨fun s k fwd frac c b stamp u ha hk hv hc hr hb hu hs => ?tick, fun s k frac c fwd ha => ⟨fun hc => ?other, fun hd => ?otherDelayed⟩,
    fun s k frac b fwd ha hk hm hd hdue => ?delayed, fun s k frac ha hk hm hd hdue => ?fallback,
    fun s p a rest ha hord hrun hp he hle hen => ?start, fun s p e ha hord hrun he hle => ?stop⟩
  case tick =>
    subst hu hb hs
    have hgo : (c.val == crossedB (atRec s.live k) (tracker s.live k) fwd) = true := beq_iff_eq.mpr hc
    obtain ⟨hcross, hothers⟩ := crossing_scope k fwd frac.toNat s.live
    have hscope := hcross.trans (tickScope_afterTick k (crossing k fwd frac.toNat s.live))
    refine runsTo_of_sameDrive (exec_trackerTick k c fwd frac s) ha (by rw [hgo]; exact hscope.sameDrive) ?_
    rw [hgo, whenW_true]
    dsimp only
    simp only [tracker_afterTick]
    refine ⟨fun hd ht => ?_, fun hd hb ht => ?_, fun hd hb ht => ?_, fun hd => ?_, hothers, ?_⟩
    · rw [dev_afterTick, crossing_ticks hv hr hd ht]
      obtain ⟨hcount, hlast, hdir, hat, hdel, -, htu⟩ := tracker_produceTick_same k s.live _ _ fwd _ hk _ rfl
      exact ⟨hlast, htu hv, hcount, hat, hdir, hdel, boundaryDue_produceTick ..⟩
    · rw [dev_afterTick, crossing_waits hv hr hd ht hb, tracker_onTracker_same _ hk]
      exact ⟨rfl, rfl, rfl, rfl, rfl, rfl⟩
    · rw [dev_afterTick, crossing_passes hv hr hd ht hb, tracker_onTracker_same _ hk]
      exact ⟨rfl, rfl⟩
    · rw [dev_afterTick, crossing_skips hv hr hd, tracker_onTracker_same _ hk]
      exact ⟨rfl, rfl, rfl, rfl, rfl⟩
    · exact congrArg (fun w => { s with live := w }) hscope.eq_with
  case other =>
    exact runsTo_self (exec_trackerTick k c fwd frac s) ha (by rw [beq_false_of_ne hc, whenW_false])
  case otherDelayed =>
    have hno : ((tracker s.live k).delayed.any fun d => d.1 == c.val) = false := by
      cases h : (tracker s.live k).delayed with
      | none => rfl
      | some d => exact beq_false_of_ne fun hc => hd (by rw [h, Option.map_some, hc])
    exact runsTo_self (exec_delayedTick k c frac s) ha (by rw [hno, whenW_false])
  case delayed =>
    have hgo : ((tracker s.live k).delayed.any fun d => d.1 == b.val) = true := by rw [hd]; exact beq_self_eq_true b.val
    refine runsTo_tick (exec_delayedTick k b frac s) ha hk
      (by rw [hgo, whenW_true, delayedTick_due hm hd hdue]) ?_
    rintro ⟨hcount, hlast, hdir, hat, hdel, -, hothers, hframe⟩
    exact ⟨hcount, hat, hdir, hlast, hdel, hothers, hframe⟩
  case fallback =>
    refine runsTo_tick (exec_fallbackTick k frac s) ha hk (by rw [fallbackTick_due hm hd hdue]) ?_
    rintro ⟨hcount, hlast, -, hat, -, hmode, hothers, hframe⟩
    exact ⟨hcount, hat, hlast, hmode.trans (if_congr and_comm rfl rfl), hothers, hframe⟩
  case start =>
    obtain ⟨hedges, -⟩ := hord
    refine runsTo_setTick (exec_tickPulseStart p s) ha hrun (tickStart_due hp he hle hen) rfl ?_
    refine ⟨?_, sFind_insert_same _ _, sGet_put_same _ _ hedges, fun q hq => sGet_put_other _ hedges hq, rfl, ?_⟩
    · exact (tickPin_setTick p _ _).trans (pinLevel_active _)
    · exact congrArg (fun w => { s with live := w }) (setTick_eq_with p _ _)
  case stop =>
    obtain ⟨-, hends, -⟩ := hord
    refine runsTo_setTick (exec_tickPulseEnd p s) ha hrun (tickEnd_due he hle) rfl ?_
    refine ⟨?_, sFind_erase_same _ hends, rfl, ?_⟩
    · exact (tickPin_setTick p _ _).trans (pinLevel_inactive _)
    · exact congrArg (fun w => { s with live := w }) (setTick_eq_with p _ _)

end Sys2Proof.Claims
end

section
/-! PROOFS. Commands and SYNCs on the trunks (10 R267, R268, R271, R276, R280, R286; 02 R45). -/

namespace Sys2Proof.Machine

variable {w : World} {n k : Nat}

/-! ## Trunks and cells after a write -/

/-- The tables of trunks and of cells list their keys in rising order. -/
def trunksOrdered (w : World) : Prop := storeSorted w.trunks.trunks ∧ storeSorted w.trunks.cells

theorem sUpd_sorted {α : Type} [DecidableEq α] {d : α} {s : Store α} (i : Nat) (f : α → α) (h : storeSorted s) : storeSorted (sUpd d s i f) :=
  sPut_sorted i _ h

@[simp] theorem trunksOrdered_onTrunk {f : Trunk → Trunk} (h : trunksOrdered w) : trunksOrdered (onTrunk n f w) := ⟨sUpd_sorted n f h.1, h.2⟩

@[simp] theorem trunksOrdered_onCell {f : CellRt → CellRt} (h : trunksOrdered w) : trunksOrdered (onCell k f w) := ⟨h.1, sUpd_sorted k f h.2⟩

@[simp] theorem trunk_onTrunk_same {f : Trunk → Trunk} (h : trunksOrdered w) : trunk (onTrunk n f w) n = f (trunk w n) :=
  sGet_put_same n _ h.1

theorem trunk_onTrunk_other {f : Trunk → Trunk} {j : Nat} (h : trunksOrdered w) (hj : j ≠ n) : trunk (onTrunk n f w) j = trunk w j :=
  sGet_put_other _ h.1 hj

@[simp] theorem cell_onTrunk (n : Nat) (f : Trunk → Trunk) (w : World) (j : Nat) : cell (onTrunk n f w) j = cell w j := rfl

@[simp] theorem cell_onCell_same {f : CellRt → CellRt} (h : trunksOrdered w) : cell (onCell k f w) k = f (cell w k) := sGet_put_same k _ h.2

theorem cell_onCell_other {f : CellRt → CellRt} {j : Nat} (h : trunksOrdered w) (hj : j ≠ k) : cell (onCell k f w) j = cell w j :=
  sGet_put_other _ h.2 hj

@[simp] theorem trunk_onCell (k : Nat) (f : CellRt → CellRt) (w : World) (j : Nat) : trunk (onCell k f w) j = trunk w j := rfl

@[simp] theorem trunk_countTrunk_same {c : Nat} (h : trunksOrdered w) :
    trunk (countTrunk n c w) n = { trunk w n with counters := sUpd 0 (trunk w n).counters c (· + 1) } := trunk_onTrunk_same h

@[simp] theorem cell_countTrunk (n c : Nat) (w : World) (k : Nat) : cell (countTrunk n c w) k = cell w k := rfl

@[simp] theorem trunksOrdered_countTrunk {c : Nat} (h : trunksOrdered w) : trunksOrdered (countTrunk n c w) := trunksOrdered_onTrunk h

theorem cellKey_trunk (n : Nat) (c : Fin 256) : cellKey n c / 256 = n := by unfold cellKey; omega

theorem cellKey_cell (n : Nat) (c : Fin 256) : cellKey n c % 256 = c := by unfold cellKey; omega

/-! ## What is written beside the trunks' tables -/

/-- `w'` differs from `w` at most in the trunks' state. -/
def trunkScope (w w' : World) : Prop := w' = { w with trunks := w'.trunks }

theorem trunkScope.refl (w : World) : trunkScope w w := rfl

theorem trunkScope.trans {a b c : World} (hab : trunkScope a b) (hbc : trunkScope b c) : trunkScope a c := by
  unfold trunkScope at *
  rw [hbc, hab]

theorem trunkScope.dev {w' : World} (h : trunkScope w w') : w'.dev = w.dev := (congrArg World.dev h :)

@[simp] theorem trunkScope_onTrunk {a : World} {f : Trunk → Trunk} (h : trunkScope a w) : trunkScope a (onTrunk n f w) := h.trans rfl

@[simp] theorem trunkScope_onCell {a : World} {f : CellRt → CellRt} (h : trunkScope a w) : trunkScope a (onCell k f w) := h.trans rfl

@[simp] theorem trunkScope_countTrunk {a : World} {c : Nat} (h : trunkScope a w) : trunkScope a (countTrunk n c w) := h.trans rfl

/-! ## A SYNC or CELLCFG that starts (10 R286) -/

theorem starts_waiting (h : ¬ (trunk w n).queue.isEmpty = true) : starts n w = onTrunk n (fun x => { x with heldAt := some (nowNs w) }) w :=
  if_neg h

theorem starts_cases {P : World → Prop} (n : Nat) (hidle : P w) (hwait : P (onTrunk n (fun x => { x with heldAt := some (nowNs w) }) w)) :
    P (starts n w) := by
  unfold starts
  split
  · exact hidle
  · exact hwait

@[simp] theorem trunksOrdered_starts (h : trunksOrdered w) : trunksOrdered (starts n w) := starts_cases n h (trunksOrdered_onTrunk h)

@[simp] theorem trunkScope_starts {a : World} (h : trunkScope a w) : trunkScope a (starts n w) := starts_cases n h (trunkScope_onTrunk h)

@[simp] theorem cells_starts (n : Nat) (w : World) : (starts n w).trunks.cells = w.trunks.cells :=
  starts_cases (P := fun w' => w'.trunks.cells = w.trunks.cells) n rfl rfl

@[simp] theorem cell_starts (n : Nat) (w : World) (k : Nat) : cell (starts n w) k = cell w k := by
  rw [cell, cells_starts]; rfl

theorem heldAt_starts (h : trunksOrdered w) (hq : (trunk w n).queue ≠ []) : (trunk (starts n w) n).heldAt = some (nowNs w) := by
  rw [starts_waiting (by simpa using hq), trunk_onTrunk_same h]

theorem counters_starts (h : trunksOrdered w) : (trunk (starts n w) n).counters = (trunk w n).counters :=
  starts_cases (P := fun w' => (trunk w' n).counters = (trunk w n).counters) n rfl (by rw [trunk_onTrunk_same h])

/-! ## A frame sent -/

@[simp] theorem cell_sendTrunk (n : Nat) (b : Bytes) (w : World) (k : Nat) : cell (sendTrunk n b w) k = cell w k := rfl

@[simp] theorem trunk_sendTrunk_same {b : Bytes} (h : trunksOrdered w) :
    trunk (sendTrunk n b w) n = { trunk w n with counters := sUpd 0 (trunk w n).counters 2 (· + 1) } := trunk_onTrunk_same h

theorem trunk_sendTrunk_other {b : Bytes} {j : Nat} (h : trunksOrdered w) (hj : j ≠ n) : trunk (sendTrunk n b w) j = trunk w j :=
  trunk_onTrunk_other h hj

/-- A frame sent writes what had been written, the trunk's count and the frame. -/
theorem sendTrunk_frame {a : World} (b : Bytes) (h : trunkScope a w) : sendTrunk n b w =
    { a with trunks := (sendTrunk n b w).trunks, out := .trunk n b (frameCheck b) :: a.out } := by
  unfold trunkScope at h
  generalize w.trunks = tr at h
  subst h; rfl

/-! ## COMMAND_DEPARTURE (10 R267) -/

/-- What the front's conversion to LC3 leaves of the engine and of the loop: whether it was late. -/
def lateNoted (c : TxCmd) (late : Option Bool) (w : World) : World :=
  match late with
  | some l => onHe c.engine (fun h => { h with late := h.late + b2n l })
      (onLoop c.loop (fun x => { x with flags := setFlag lfLate l x.flags, nLate := x.nLate + b2n l }) w)
  | none => w

@[simp] theorem trunk_lateNoted (c : TxCmd) (late : Option Bool) (w : World) (j : Nat) : trunk (lateNoted c late w) j = trunk w j := by
  cases late <;> rfl

@[simp] theorem cell_lateNoted (c : TxCmd) (late : Option Bool) (w : World) (k : Nat) : cell (lateNoted c late w) k = cell w k := by
  cases late <;> rfl

@[simp] theorem shadow_lateNoted (c : TxCmd) (late : Option Bool) (w : World) (l : Nat) : shadow (lateNoted c late w) l = shadow w l := by
  cases late <;> rfl

theorem trunksOrdered_lateNoted {c : TxCmd} {late : Option Bool} (h : trunksOrdered w) : trunksOrdered (lateNoted c late w) := by
  cases late <;> exact h

theorem lateNoted_eq_with (c : TxCmd) (late : Option Bool) (w : World) : ∃ ls es,
    lateNoted c late w = { w with halo := { w.halo with loops := ls, engines := es } } ∧ (late = none → ls = w.halo.loops) := by
  cases late with
  | none => exact ⟨_, _, rfl, fun _ => rfl⟩
  | some l => exact ⟨_, _, rfl, fun h => by cases h⟩

/-- The instant that the front leaves with, LC3 in 2^-16 ns: its own, or that of its angle. -/
def departInstant (w : World) (n frac : Nat) (c : TxCmd) : Int :=
  match c.angle with
  | some a => (convertAngle w n a.1 a.2 frac).1
  | none => (c.exec * 65536 : Nat)

/-- The device with the front handed to the port, to be outstanding with its whole ns, but for its frame. -/
def departed (n : Nat) (c : TxCmd) (rest : List TxCmd) (ns : Nat) (w : World) : World :=
  let w := onTrunk n (fun x => { x with queue := rest }) w
  let w := if c.expired then w else
    onCell (cellKey n c.cell) (fun x => { x with outstanding := x.outstanding ++ [{ c.asOut with exec := ns }] }) w
  onShadow c.loop (fun _ => { level := c.level, lastExec := ns }) w

/-- The body of a COMMAND (10 Table 10.6). -/
def commandBody (c : TxCmd) (exec : Int) : Bytes :=
  beBytes 8 (exec / 65536).toNat ++ beBytes 2 (exec % 65536).toNat ++ [BitVec.ofNat 8 c.output, BitVec.ofNat 8 c.level] ++
    beBytes 2 c.loop ++ beBytes 4 c.epoch.toNat ++ leBytes 22 0

theorem departure_front {frac : Nat} {c : TxCmd} {rest : List TxCmd} (hq : (trunk w n).queue = c :: rest) (hup : (trunk w n).up = true) :
    ∃ late, (c.angle = none → late = none) ∧ departure n frac w =
      sendTrunk n (dataFrame (lateNoted c late (departed n c rest (departInstant w n frac c / 65536).toNat w)) n (cellKey n c.cell) 2 c.number
        (commandBody c (departInstant w n frac c))) (lateNoted c late (departed n c rest (departInstant w n frac c / 65536).toNat w)) := by
  refine ⟨c.angle.map fun a => (convertAngle w n a.1 a.2 frac).2, fun h => by rw [h]; rfl, ?_⟩
  simp only [departure, hq, hup, departInstant]
  cases c.angle with
  | none => rfl
  | some a => rfl

section

variable {c : TxCmd} {rest : List TxCmd} {ns : Nat}

theorem trunksOrdered_departed (h : trunksOrdered w) : trunksOrdered (departed n c rest ns w) := by
  unfold departed
  dsimp only
  split
  · exact trunksOrdered_onTrunk (n := n) h
  · exact trunksOrdered_onCell (k := cellKey n c.cell) (trunksOrdered_onTrunk (n := n) h)

/-- The front that leaves has left the queue. -/
theorem trunk_departed (h : trunksOrdered w) : trunk (departed n c rest ns w) n = { trunk w n with queue := rest } ∧
    ∀ j, j ≠ n → trunk (departed n c rest ns w) j = trunk w j := by
  have hcells : (departed n c rest ns w).trunks.trunks = (onTrunk n (fun x => { x with queue := rest }) w).trunks.trunks := by
    unfold departed
    dsimp only
    split <;> rfl
  have htrunk (j : Nat) : trunk (departed n c rest ns w) j = trunk (onTrunk n (fun x => { x with queue := rest }) w) j := by
    rw [trunk, hcells]; rfl
  exact ⟨(htrunk n).trans (trunk_onTrunk_same h), fun j hj => (htrunk j).trans (trunk_onTrunk_other h hj)⟩

/-- A front that has not expired becomes outstanding (10 R280; log 67). -/
theorem cell_departed (h : trunksOrdered w) :
    (cell (departed n c rest ns w) (cellKey n c.cell)).outstanding = (cell w (cellKey n c.cell)).outstanding ++
      (if c.expired = true then [] else [{ number := c.number, loop := c.loop, engine := c.engine, exec := ns }]) ∧
    ∀ k, k ≠ cellKey n c.cell → cell (departed n c rest ns w) k = cell w k := by
  unfold departed
  dsimp only
  by_cases hx : c.expired = true
  · rw [if_pos hx, if_pos hx, List.append_nil]
    exact ⟨rfl, fun _ _ => rfl⟩
  · rw [if_neg hx, if_neg hx]
    have h' := trunksOrdered_onTrunk (n := n) (f := fun x => { x with queue := rest }) h
    exact ⟨congrArg CellRt.outstanding (cell_onCell_same h'), fun k hk => cell_onCell_other h' hk⟩

theorem shadow_departed (h : storeSorted w.halo.shadows) :
    shadow (departed n c rest ns w) c.loop = { level := c.level, lastExec := ns } := by
  have hs : (departed n c rest ns w).halo.shadows = sUpd {} w.halo.shadows c.loop fun _ => { level := c.level, lastExec := ns } := by
    unfold departed
    dsimp only
    split <;> rfl
  rw [shadow, hs]
  exact sGet_put_same _ _ h

theorem departed_eq_with (n : Nat) (c : TxCmd) (rest : List TxCmd) (ns : Nat) (w : World) : ∃ tr sh,
    departed n c rest ns w = { w with trunks := tr, halo := { w.halo with shadows := sh } } := by
  unfold departed
  dsimp only
  split <;> exact ⟨_, _, rfl⟩

end

theorem length_commandBody (c : TxCmd) (exec : Int) : (commandBody c exec).length = 40 := by simp [commandBody]

section

variable (c : TxCmd) (exec : Int)

theorem commandBody_exec : beAt (commandBody c exec) 0 8 = (exec / 65536).toNat % 2 ^ 64 := by
  simp [commandBody, beAt_append_left, beAt_whole]

theorem commandBody_frac : beAt (commandBody c exec) 8 2 = (exec % 65536).toNat % 65536 := by
  simp [commandBody, beAt_append_left, beAt_append_right, beAt_whole]

theorem commandBody_output : beAt (commandBody c exec) 10 1 = c.output % 256 := by
  simp [commandBody, beAt_append_right, beAt_cons_one]

theorem commandBody_level : beAt (commandBody c exec) 11 1 = c.level % 256 := by
  simp [commandBody, beAt_append_right, beAt_cons_succ, beAt_cons_one]

end

/-! ## Commands that expire (10 R271, R280) -/

section

variable {gone : OutCmd → Bool}

/-- A command that waits and expires now. -/
def lateIn (k : Nat) (gone : OutCmd → Bool) (c : TxCmd) : Bool := c.cell == k % 256 && !c.expired && gone c.asOut

/-- A command that waits, after the expiry. -/
def expireWaiting (k : Nat) (gone : OutCmd → Bool) (c : TxCmd) : TxCmd := if lateIn k gone c then { c with expired := true } else c

/-- The commands that expire. -/
def goneCount (k : Nat) (gone : OutCmd → Bool) (w : World) : Nat :=
  ((cell w k).outstanding.filter gone).length + ((trunk w (k / 256)).queue.filter (lateIn k gone)).length

theorem cell_expireCmds_other {j : Nat} (h : trunksOrdered w) (hj : j ≠ k) : cell (expireCmds k gone w) j = cell w j :=
  cell_onCell_other (trunksOrdered_onTrunk h) hj

theorem outstanding_expireCmds (h : trunksOrdered w) :
    (cell (expireCmds k gone w) k).outstanding = (cell w k).outstanding.filter (fun o => !gone o) :=
  congrArg CellRt.outstanding (cell_onCell_same (trunksOrdered_onTrunk h))

theorem queue_expireCmds (h : trunksOrdered w) :
    (trunk (expireCmds k gone w) (k / 256)).queue = (trunk w (k / 256)).queue.map (expireWaiting k gone) := by
  unfold expireCmds
  dsimp only
  rw [trunk_onCell, trunk_onTrunk_same h]
  rfl

theorem expired_expireCmds (h : trunksOrdered w) :
    (trunk (expireCmds k gone w) (k / 256)).expired = (trunk w (k / 256)).expired + goneCount k gone w := by
  unfold expireCmds
  dsimp only
  rw [trunk_onCell, trunk_onTrunk_same h, List.length_append, List.length_map, List.length_map]
  rfl

/-- A command that expires as it waits waits no longer as one that has not. -/
theorem length_waiting_expire (k : Nat) (gone : OutCmd → Bool) (q : List TxCmd) :
    (q.filter (lateIn k gone)).length + ((q.map (expireWaiting k gone)).filter (fun c => !c.expired)).length =
      (q.filter (fun c => !c.expired)).length := by
  induction q with
  | nil => rfl
  | cons c q ih =>
    by_cases hl : lateIn k gone c = true
    · have hx : c.expired = false := by simp only [lateIn, Bool.and_eq_true, Bool.not_eq_true'] at hl; exact hl.1.2
      simp only [List.map_cons, List.filter_cons, expireWaiting, hl, hx, if_true, Bool.not_true, Bool.not_false, List.length_cons,
        Bool.false_eq_true, if_false] at ih ⊢
      omega
    · simp only [List.map_cons, List.filter_cons, expireWaiting, hl, Bool.false_eq_true, if_false]
      split
      · simp only [List.length_cons]; exact congrArg (· + 1) ih
      · exact ih

theorem length_filter_add_not {α : Type} (p : α → Bool) (l : List α) : (l.filter p).length + (l.filter (fun x => !p x)).length = l.length := by
  rw [← List.countP_eq_length_filter, ← List.countP_eq_length_filter, List.length_eq_countP_add_countP p]
  simp

end

/-! ## CREDIT (10 R268, R275, R280) -/

/-- From `w` to `w'`, a cell's commands of some numbers are no longer outstanding; the trunk's queue and the cell's mode stay, and no other
trunk or cell is written. -/
def acked (n k : Nat) (nums : List Nat) (w w' : World) : Prop :=
  trunkScope w w' ∧ trunksOrdered w' ∧ (∀ o, o ∈ (cell w' k).outstanding ↔ o ∈ (cell w k).outstanding ∧ o.number ∉ nums) ∧
  (cell w' k).mode = (cell w k).mode ∧ (trunk w' n).queue = (trunk w n).queue ∧ (∀ j, j ≠ k → cell w' j = cell w j) ∧
  ∀ j, j ≠ n → trunk w' j = trunk w j

theorem acked.refl (h : trunksOrdered w) : acked n k [] w w :=
  ⟨rfl, h, fun _ => by simp, rfl, rfl, fun _ _ => rfl, fun _ _ => rfl⟩

theorem acked.ordered {nums : List Nat} {w' : World} (h : acked n k nums w w') : trunksOrdered w' := by
  obtain ⟨-, ho, -⟩ := h; exact ho

theorem acked.trans {a b c : World} {l m : List Nat} (hab : acked n k l a b) (hbc : acked n k m b c) : acked n k (l ++ m) a c := by
  obtain ⟨hs, -, hout, hmode, hq, hcell, htrunk⟩ := hab
  obtain ⟨hs', ho, hout', hmode', hq', hcell', htrunk'⟩ := hbc
  refine ⟨hs.trans hs', ho, fun o => ?_, hmode'.trans hmode, hq'.trans hq, fun j hj => (hcell' j hj).trans (hcell j hj),
    fun j hj => (htrunk' j hj).trans (htrunk j hj)⟩
  rw [hout', hout, List.mem_append, not_or, and_assoc]

/-- A write of the trunk that leaves its queue. -/
theorem acked_onTrunk {f : Trunk → Trunk} (h : trunksOrdered w) (hf : ∀ x, (f x).queue = x.queue) : acked n k [] w (onTrunk n f w) :=
  ⟨rfl, trunksOrdered_onTrunk h, fun _ => by simp, rfl, by rw [trunk_onTrunk_same h, hf], fun _ _ => rfl,
    fun _ hj => trunk_onTrunk_other h hj⟩

/-- A write of the cell that leaves its mode and takes commands of some numbers away. -/
theorem acked_onCell {nums : List Nat} {f : CellRt → CellRt} (h : trunksOrdered w)
    (ho : ∀ o, o ∈ (f (cell w k)).outstanding ↔ o ∈ (cell w k).outstanding ∧ o.number ∉ nums)
    (hm : (f (cell w k)).mode = (cell w k).mode) : acked n k nums w (onCell k f w) :=
  ⟨rfl, trunksOrdered_onCell h, by rw [cell_onCell_same h]; exact ho, by rw [cell_onCell_same h, hm], rfl,
    fun _ hj => cell_onCell_other h hj, fun _ _ => rfl⟩

/-- A frame counted, and its cell heard. -/
theorem acked_heard (c : Nat) (h : trunksOrdered w) :
    acked n k [] w (onCell k (fun x => { x with heard := nowNs w }) (countTrunk n c w)) :=
  (acked_onTrunk (f := fun x => { x with counters := sUpd 0 x.counters c (· + 1) }) h fun _ => rfl).trans
    (acked_onCell (nums := []) (trunksOrdered_countTrunk h) (fun _ => by simp) rfl)

theorem acked_pathDelay (b : Bytes) (t4 : Int) (h : trunksOrdered w) : acked n k [] w (pathDelay n k b t4 w) := by
  unfold pathDelay
  split
  · exact acked.refl h
  · dsimp only
    split
    · exact acked_onTrunk h fun _ => rfl
    · exact acked_onCell h (fun _ => by simp) rfl

theorem acked_ackCommand (c : Nat) (rej late : Bool) (h : trunksOrdered w) : acked n k [c] w (ackCommand n k c rej late w) := by
  unfold ackCommand
  dsimp only
  split
  next hany =>
    have hcell : acked n k [c] w (onCell k (fun x => { x with
        outstanding := x.outstanding.filter (fun o => o.number ≠ c), nAcked := x.nAcked + 1 }) w) :=
      acked_onCell h (fun o => by simp) rfl
    have htrunk := hcell.trans (acked_onTrunk (f := fun y => { y with acked := y.acked + 1 }) hcell.ordered fun _ => rfl)
    exact htrunk.trans (acked_onCell (nums := []) htrunk.ordered (fun _ => by simp) rfl)
  next hnone =>
    have hno (o : OutCmd) (ho : o ∈ (cell w k).outstanding) : o.number ∉ [c] := fun hc =>
      hnone (List.any_eq_true.mpr ⟨o, ho, by simpa using hc⟩)
    have hsame : acked n k [c] w w := ⟨rfl, h, fun o => ⟨fun ho => ⟨ho, hno o ho⟩, And.left⟩, rfl, rfl, fun _ _ => rfl, fun _ _ => rfl⟩
    split
    · have hcell := hsame.trans (acked_onCell (n := n) (k := k) (nums := []) (f := fun x => { x with expired := x.expired.filter (· ≠ c) }) h
        (fun _ => by simp) rfl)
      have htrunk := hcell.trans (acked_onTrunk (f := fun x => { x with counters := sUpd 0 x.counters 12 (· + 1) }) hcell.ordered fun _ => rfl)
      exact htrunk.trans (acked_onCell (nums := []) htrunk.ordered (fun _ => by simp) rfl)
    · exact hsame.trans (acked_onTrunk h fun _ => rfl)

theorem acked_eachW {nums : Nat → Nat} {f : Nat → World → World} (hf : ∀ i w, trunksOrdered w → acked n k [nums i] w (f i w)) (l : List Nat)
    (h : trunksOrdered w) : acked n k (l.map nums) w (eachW l f w) := by
  induction l generalizing w with
  | nil => exact acked.refl h
  | cons i l ih =>
    have hi := hf i w h
    exact hi.trans (ih hi.ordered)

/-- The numbers that a CREDIT acknowledges. -/
def creditNums (b : Bytes) : List Nat := ((upTo 32).filter (fun i => bit (beAt b 44 4) i)).map (fun i => (beAt b 42 2 + i) % 65536)

theorem mem_creditNums {b : Bytes} {m : Nat} : m ∈ creditNums b ↔
    ∃ i, i < 32 ∧ bit (beAt b 44 4) i = true ∧ m = (beAt b 42 2 + i) % 65536 := by
  simp only [creditNums, List.mem_map, List.mem_filter, upTo, List.mem_range, and_assoc, eq_comm]

theorem acked_creditIn (n k frac : Nat) (b : Bytes) (h : trunksOrdered w) : acked n k (creditNums b) w (creditIn n frac k b w) := by
  have hdelay := acked_pathDelay (n := n) (k := k) b (lcNow w 3 frac) h
  exact hdelay.trans (acked_eachW (fun i w hw => acked_ackCommand _ _ _ hw) _ hdelay.ordered)

/-- A frame accepted and of the row's kind: counted, the cell heard, and given to the row (10 R265). -/
theorem frameIn_accepted {f : Frame} {mine : Bytes → Bool} {run : Nat → Bytes → World → World} (hup : (trunk w n).up = true)
    (href : refusal w n f = none) (hmine : mine f.bytes = true) : frameIn n f mine run w =
      run (cellKey n (frCell f.bytes)) f.bytes (onCell (cellKey n (frCell f.bytes)) (fun c => { c with heard := nowNs w }) (countTrunk n 1 w)) := by
  simp only [frameIn, hup, href]
  exact if_pos hmine

/-! ## SET and SYNC (10 R271, R276, R286) -/

/-- How often a cell is sent SET, in ns (10 R271). -/
def setEvery : CellMode → Option Nat
  | .announced => some 10000000
  | .lost | .mismatch => some 100000000
  | _ => none

theorem setEvery_eq {m : CellMode} {iv : Nat} (h : m = .announced ∧ iv = 10000000 ∨ (m = .lost ∨ m = .mismatch) ∧ iv = 100000000) :
    setEvery m = some iv := by
  rcases h with ⟨rfl, rfl⟩ | ⟨rfl | rfl, rfl⟩ <;> rfl

/-- A SET sent to a cell, the next one `iv` ns from now. -/
def setSent (n k iv : Nat) (w : World) : World :=
  sendTrunk n (dataFrame w n k 4 (cell w k).setSeq (setBody w n k))
    (onCell k (fun x => { x with setSeq := (x.setSeq + 1) % 65536, setDue := some (nowNs w + iv) }) (starts n w))

/-- CELLCFG_SET_SEND. -/
def setSend (n k : Nat) (w : World) : World :=
  match setEvery (cell w k).mode with
  | none => w
  | some iv =>
    if decide ((cell w k).setDue.getD (nowNs w) ≤ nowNs w) && (trunk w n).up && w.cfg.present &&
      mayStart w n ((cell w k).setDue.getD (nowNs w)) then setSent n k iv w else w

theorem setSend_due {iv : Nat} (hup : (trunk w n).up = true) (hp : w.cfg.present = true) (hm : setEvery (cell w k).mode = some iv)
    (hdue : ∀ a, (cell w k).setDue = some a → a ≤ nowNs w) :
    setSend n k w = if mayStart w n ((cell w k).setDue.getD (nowNs w)) = true then setSent n k iv w else w := by
  have hle : (cell w k).setDue.getD (nowNs w) ≤ nowNs w := by
    cases h : (cell w k).setDue with
    | none => exact Nat.le_refl _
    | some a => exact hdue a h
  simp only [setSend, hm, hup, hp, hle, decide_true, Bool.true_and]

theorem length_setBody (w : World) (n k : Nat) : (setBody w n k).length = 56 := by
  simp [setBody, upTo, List.range_succ]

theorem setBody_code (w : World) (n k : Nat) : beAt (setBody w n k) 0 1 = 2 := by
  simp [setBody, beAt_cons_one]

theorem setBody_cfgId (w : World) (n k : Nat) : beAt (setBody w n k) 4 4 = clCfgId (cellRec w k) := by
  have hlt : clCfgId (cellRec w k) < 4294967296 := Nat.mod_lt _ (by decide)
  simp [setBody, beAt_append_right, beAt_append_left, beAt_cons_succ, beAt_whole, Nat.mod_eq_of_lt hlt]

/-- A SYNC to a cell is one frame; the trunk and its cell keep its number and instant. -/
theorem cellSync_eq (n k egress : Nat) (w : World) : ∃ seq origin corr sync, (∀ x, ∃ m l, sync x = { x with syncSeq := m, syncs := l }) ∧
    cellSync n k egress w = sendTrunk n (syncFrame w n (clMac (cellRec w k)) (k % 256) seq (trSyncLog (trunkRec w n)) false
      (cell w k).pathDelay.isNone origin corr) (onCell k sync w) :=
  ⟨_, _, _, _, fun _ => ⟨_, _, rfl⟩, rfl⟩

/-- The device as a cell's SYNC in its turn leaves it, but for the frame. -/
def turnBegun (n k : Nat) (w : World) : World := onCell k (fun x => { x with syncAt := some (nowNs w) }) (starts n w)

theorem trunksOrdered_turnBegun (h : trunksOrdered w) : trunksOrdered (turnBegun n k w) := trunksOrdered_onCell (trunksOrdered_starts h)

theorem trunkScope_turnBegun (n k : Nat) (w : World) : trunkScope w (turnBegun n k w) :=
  trunkScope_onCell (trunkScope_starts (trunkScope.refl w))

theorem cell_turnBegun (h : trunksOrdered w) : cell (turnBegun n k w) k = { cell w k with syncAt := some (nowNs w) } ∧
    ∀ j, j ≠ k → cell (turnBegun n k w) j = cell w j :=
  ⟨(cell_onCell_same (trunksOrdered_starts h)).trans (by rw [cell_starts]),
    fun j hj => (cell_onCell_other (trunksOrdered_starts h) hj).trans (cell_starts n w j)⟩

/-- The device as a cell's extra SYNC leaves it, but for the frame. -/
def changeBegun (n k : Nat) (w : World) : World := countTrunk n 13 (onCell k (fun x => { x with extraSync := none }) (starts n w))

theorem trunksOrdered_changeBegun (h : trunksOrdered w) : trunksOrdered (changeBegun n k w) :=
  trunksOrdered_countTrunk (trunksOrdered_onCell (trunksOrdered_starts h))

theorem trunkScope_changeBegun (n k : Nat) (w : World) : trunkScope w (changeBegun n k w) :=
  trunkScope_countTrunk (trunkScope_onCell (trunkScope_starts (trunkScope.refl w)))

theorem cell_changeBegun (h : trunksOrdered w) : cell (changeBegun n k w) k = { cell w k with extraSync := none } ∧
    ∀ j, j ≠ k → cell (changeBegun n k w) j = cell w j := by
  have hs := trunksOrdered_starts (n := n) h
  refine ⟨?_, fun j hj => ?_⟩
  · rw [changeBegun, cell_countTrunk, cell_onCell_same hs, cell_starts]
  · rw [changeBegun, cell_countTrunk, cell_onCell_other hs hj, cell_starts]

theorem counters_changeBegun (h : trunksOrdered w) :
    (trunk (changeBegun n k w) n).counters = sUpd 0 (trunk w n).counters 13 (· + 1) := by
  rw [changeBegun, trunk_countTrunk_same (trunksOrdered_onCell (trunksOrdered_starts h)), trunk_onCell]
  exact congrArg (fun l => sUpd 0 l 13 (· + 1)) (counters_starts h)

/-- TRUNK_SYNC_SEND. -/
def turnSync (n k egress : Nat) (w : World) : World :=
  match syncSlot w n k with
  | none => w
  | some dueAt =>
    let due := match (cell w k).syncAt with | none => true | some a => decide (a < dueAt)
    if w.cfg.present && clEnable (cellRec w k) && (trunk w n).up && due && mayStart w n dueAt then
      cellSync n k egress (turnBegun n k w)
    else w

theorem turnSync_due {egress due : Nat} (hup : (trunk w n).up = true) (hp : w.cfg.present = true) (hen : clEnable (cellRec w k) = true)
    (hslot : syncSlot w n k = some due) (hlast : ∀ a, (cell w k).syncAt = some a → a < due) (hmay : mayStart w n due = true) :
    turnSync n k egress w = cellSync n k egress (turnBegun n k w) := by
  simp only [turnSync, hslot]
  refine if_pos ?_
  cases hat : (cell w k).syncAt with
  | none => simp [hp, hen, hup, hmay]
  | some a => simp [hp, hen, hup, hmay, hlast a hat]

/-- OUT_LIVE_CHANGE_SYNC. -/
def changeSync (n k egress : Nat) (w : World) : World :=
  match (cell w k).extraSync with
  | none => w
  | some dueAt =>
    if (trunk w n).up && mayStart w n dueAt then
      cellSync n k egress (changeBegun n k w)
    else w

theorem changeSync_due {egress due : Nat} (hup : (trunk w n).up = true) (hx : (cell w k).extraSync = some due)
    (hmay : mayStart w n due = true) : changeSync n k egress w = cellSync n k egress (changeBegun n k w) := by
  simp only [changeSync, hx]
  exact if_pos (by rw [hup, hmay]; rfl)

/-- A multicast SYNC sent. -/
def quietSent (n egress : Nat) (w : World) : World :=
  sendTrunk n (syncFrame w n 0x011B19000000 0 (trunk w n).quietSeq (quietLog w n) true false (lc3Ns w) (lcNow w 3 egress - lc3Ns w * 65536))
    (onTrunk n (fun x => { x with quietSeq := (x.quietSeq + 1) % 65536, quietAt := some (nowNs w) }) (starts n w))

/-- QUIET_SYNC_SEND. -/
def quietSync (n egress : Nat) (w : World) : World :=
  let dueAt := match (trunk w n).quietAt with | none => nowNs w | some a => a + 62500000
  if !w.cfg.present && hostsServed w && trEnable (trunkRec w n) && (trunk w n).up && decide (dueAt ≤ nowNs w) && mayStart w n dueAt then
    quietSent n egress w
  else w

theorem quietSync_due {egress : Nat} (hup : (trunk w n).up = true) (hp : w.cfg.present = false) (hserved : hostsServed w = true)
    (hen : trEnable (trunkRec w n) = true) (hlast : ∀ a, (trunk w n).quietAt = some a → a + 62500000 ≤ nowNs w)
    (hq : (trunk w n).queue = []) : quietSync n egress w = quietSent n egress w := by
  have hmay (due : Nat) : mayStart w n due = true := by simp [mayStart, hq]
  unfold quietSync
  refine if_pos ?_
  cases hat : (trunk w n).quietAt with
  | none => simp [hp, hserved, hen, hup, hmay]
  | some a => simp [hp, hserved, hen, hup, hmay, hlast a hat]

end Sys2Proof.Machine

namespace Sys2Proof.Claims

open Sys2Proof.Machine

theorem exec_commandDeparture (n : Fin 16) (frac : BitVec 16) (s : State) :
    exec (.commandDeparture n frac) s = liveEffect (departure n frac.toNat) s := rfl

/-- An outstanding command of a number that its time has run out for. -/
def overdue (w : World) (n number : Nat) (o : OutCmd) : Bool :=
  decide (o.number = number) && decide (o.exec + trAckTimeout (trunkRec w n) * 1000 ≤ lc3Ns w)

theorem overdue_iff {w : World} {n number : Nat} {o : OutCmd} : overdue w n number o = true ↔
    o.number = number ∧ (o.exec + trAckTimeout (trunkRec w n) * 1000 : Int) ≤ lc3Ns w := by
  rw [overdue, Bool.and_eq_true, decide_eq_true_eq, decide_eq_true_eq]
  norm_cast

/-- The commands that wait, after those of a number that are overdue have expired. -/
theorem nth_expireWaiting (w : World) (n : Nat) (c : Fin 256) (number : Nat) (q : List TxCmd) (i : Nat) :
    nth {} (q.map (expireWaiting (cellKey n c) (overdue w n number))) i =
      if (nth {} q i).cell = c.val ∧ (nth {} q i).number = number ∧ i < q.length ∧
          ((nth {} q i).exec + trAckTimeout (trunkRec w n) * 1000 : Int) ≤ lc3Ns w
        then { nth {} q i with expired := true } else nth {} q i := by
  by_cases hi : i < q.length
  · have hnth : nth {} (q.map (expireWaiting (cellKey n c) (overdue w n number))) i =
        expireWaiting (cellKey n c) (overdue w n number) (nth {} q i) := by simp [nth, hi]
    rw [hnth]
    generalize nth {} q i = x
    have hlate : lateIn (cellKey n c) (overdue w n number) x = true ↔ x.expired = false ∧ x.cell = c.val ∧ x.number = number ∧
        (x.exec + trAckTimeout (trunkRec w n) * 1000 : Int) ≤ lc3Ns w := by
      have hover : overdue w n number x.asOut = true ↔ x.number = number ∧
          (x.exec + trAckTimeout (trunkRec w n) * 1000 : Int) ≤ lc3Ns w := overdue_iff
      rw [lateIn, Bool.and_eq_true, Bool.and_eq_true, beq_iff_eq, cellKey_cell, Bool.not_eq_true', hover, and_comm (a := x.cell = c.val), and_assoc]
    rw [expireWaiting]
    cases hx : x.expired
    · simp only [hlate, hx, hi, true_and]
    · have hsame : { x with expired := true } = x := by rw [← hx]
      rw [hsame, ite_self, ite_self]
  · have hnth : nth {} (q.map (expireWaiting (cellKey n c) (overdue w n number))) i = nth {} q i := by simp [nth, hi]
    rw [hnth, if_neg fun ⟨_, _, hlt, _⟩ => hi hlt]

theorem exec_commandExpire (n : Fin 16) (c : Fin 256) (number : BitVec 16) (s : State) : exec (.commandExpire n c number) s =
    liveEffect (fun w => expireCmds (cellKey n c) (overdue w n number.toNat) w) s := rfl

theorem exec_credit (n : Fin 16) (f : Frame) (frac : BitVec 16) (s : State) :
    exec (.credit n f frac) s = liveEffect (frameIn n f (fun b => frType b == 3) (creditIn n frac.toNat)) s := rfl

theorem exec_cellcfgSetSend (n : Fin 16) (c : Fin 256) (s : State) :
    exec (.cellcfgSetSend n c) s = liveEffect (setSend n (cellKey n c)) s := rfl

theorem exec_trunkSyncSend (n : Fin 16) (c : Fin 256) (egress : Nat) (s : State) :
    exec (.trunkSyncSend n c egress) s = liveEffect (turnSync n (cellKey n c) egress) s := rfl

theorem exec_outLiveChangeSync (n : Fin 16) (c : Fin 256) (egress : Nat) (s : State) :
    exec (.outLiveChangeSync n c egress) s = liveEffect (changeSync n (cellKey n c) egress) s := rfl

theorem exec_quietSyncSend (n : Fin 16) (egress : Nat) (s : State) :
    exec (.quietSyncSend n egress) s = liveEffect (quietSync n egress) s := rfl

theorem ordered.trunkTables {w : World} (h : ordered w) : trunksOrdered w := by
  obtain ⟨-, -, -, -, -, -, -, -, -, -, -, -, -, -, -, -, -, -, -, ht, hc, -⟩ := h
  exact ⟨ht, hc⟩

/-- What runs to a state whose trunk has sent a frame. -/
theorem runsTo_send {i : Instr} {s : State} {f : World → World} {P : State → Prop} {n : Nat} {b : Bytes} {w : World}
    (hi : exec i s = liveEffect f s) (ha : awake s) (hf : f s.live = sendTrunk n b w) (hw : trunkScope s.live w)
    (hP : (sendTrunk n b w).out = .trunk n b (frameCheck b) :: s.live.out →
      ({ s with live := sendTrunk n b w } : State) = { s with live := { s.live with
        trunks := (sendTrunk n b w).trunks, out := (sendTrunk n b w).out } } → P { s with live := sendTrunk n b w }) : runsTo i s P := by
  have hframe := sendTrunk_frame (n := n) b hw
  have hout : (sendTrunk n b w).out = .trunk n b (frameCheck b) :: s.live.out := congrArg World.out hframe
  refine runsTo_of_liveEffect hi ha (by rw [hf]; exact (congrArg World.dev hframe :)) ?_
  rw [hf]
  exact hP hout (congrArg (fun w => { s with live := w }) (hframe.trans (by rw [hout])))

/-- What a SYNC to cell `c` leaves in `t` of the device `w` that it starts from: one frame, its number and instant, and the count. -/
def syncLeft (n : Nat) (c : Fin 256) (s t : State) (w : World) : Prop :=
  (∃ b, t.live.out = .trunk n b (frameCheck b) :: s.live.out ∧ b.length = 60 ∧ beAt b 30 1 = b2n s.live.dev.outLive ∧
    beAt b 31 1 = 2 * b2n (cell w (cellKey n c)).pathDelay.isNone ∧ beAt b 32 1 = c.val) ∧
  (cell t.live (cellKey n c)).syncAt = (cell w (cellKey n c)).syncAt ∧
  (cell t.live (cellKey n c)).extraSync = (cell w (cellKey n c)).extraSync ∧
  (trunk t.live n).counters = sUpd 0 (trunk w n).counters 2 (· + 1) ∧
  (∀ k, k ≠ cellKey n c → cell t.live k = cell w k) ∧
  t = { s with live := { s.live with trunks := t.live.trunks, out := t.live.out } }

theorem runsTo_cellSync {i : Instr} {s : State} {f : World → World} {P : State → Prop} {n egress : Nat} {c : Fin 256} {w : World}
    (hi : exec i s = liveEffect f s) (ha : awake s) (hf : f s.live = cellSync n (cellKey n c) egress w) (hw : trunkScope s.live w)
    (ho : trunksOrdered w) (hP : syncLeft n c s { s with live := f s.live } w → P { s with live := f s.live }) : runsTo i s P := by
  obtain ⟨seq, origin, corr, sync, hkeeps, hsync⟩ := cellSync_eq n (cellKey n c) egress w
  rw [hf] at hP
  rw [hsync] at hf hP
  refine runsTo_send hi ha hf (trunkScope_onCell hw) fun hout hframe => hP ?_
  obtain ⟨m, l, hm⟩ := hkeeps (cell w (cellKey n c))
  refine ⟨⟨_, hout, length_syncFrame .., ?_, ?_, ?_⟩, ?_, ?_, ?_, fun k hk => cell_onCell_other ho hk, hframe⟩
  · rw [syncFrame_outLive, hw.dev]
  · rw [syncFrame_flags]; exact Nat.zero_add _
  · rw [syncFrame_cell, Nat.mod_mod, cellKey_cell]
  · dsimp only
    rw [cell_sendTrunk, cell_onCell_same ho, hm]
  · dsimp only
    rw [cell_sendTrunk, cell_onCell_same ho, hm]
  · dsimp only
    rw [trunk_sendTrunk_same (trunksOrdered_onCell ho), trunk_onCell]

/-- Settles O54: the front becomes outstanding (`departure_front`), an acknowledgement or its time takes it away (`acked_creditIn`,
`outstanding_expireCmds`), and SET and the SYNCs each send one frame when they may start (`runsTo_send`). -/
theorem commandsAndSyncsLeaveAndReturn : Obligations.CommandsAndSyncsLeaveAndReturn := by
  unfold Obligations.CommandsAndSyncsLeaveAndReturn
  refine ⟨fun s n frac c rest ha hord hq hup => ?departure, fun s n c number ha hord => ?expire, fun s n f frac ha hord hf => ?credit,
    fun s n c iv ha hord hup hp hm hdue => ⟨fun hmay => ?waits, fun hmay => ?set⟩, fun s n c egress ha hord hup =>
      ⟨fun due hp hen hslot hlast hmay => ?sync, fun due hx hmay => ?change, fun hp hserved hen hlast hq => ?quiet⟩⟩
  all_goals have ho := hord.trunkTables
  case departure =>
    obtain ⟨late, hlate, hdep⟩ := departure_front (frac := frac.toNat) hq hup
    have hx : c.angle = none → departInstant s.live n frac.toNat c = (c.exec * 65536 : Nat) := fun h => by rw [departInstant, h]
    generalize departInstant s.live n frac.toNat c = x at hdep hx
    obtain ⟨ls, es, hnoted, hloops⟩ := lateNoted_eq_with c late (departed n c rest (x / 65536).toNat s.live)
    obtain ⟨tr, sh, hgone⟩ := departed_eq_with n c rest (x / 65536).toNat s.live
    have hord' := trunksOrdered_lateNoted (c := c) (late := late)
      (trunksOrdered_departed (n := n) (c := c) (rest := rest) (ns := (x / 65536).toNat) ho)
    obtain ⟨hqueue, hothers⟩ := trunk_departed (n := n) (c := c) (rest := rest) (ns := (x / 65536).toNat) ho
    obtain ⟨hout, hcells⟩ := cell_departed (n := n) (c := c) (rest := rest) (ns := (x / 65536).toNat) ho
    generalize hb : dataFrame _ n _ 2 c.number _ = b at hdep
    have hbody (o m : Nat) : beAt b (20 + o) m = beAt (commandBody c x) o m := by rw [← hb, beAt_dataFrame_body]
    refine runsTo_of_liveEffect (exec_commandDeparture n frac s) ha (by rw [hdep, hnoted, hgone]; rfl) ?_
    rw [hdep]
    dsimp only
    simp only [cell_sendTrunk, cell_lateNoted, trunk_sendTrunk_same hord', trunk_lateNoted, hqueue]
    refine ⟨trivial, trivial, ⟨(x / 65536).toNat, b, fun h => ⟨?instant, ?fraction⟩, hout, fun hs => ?shadow, ?sent, ?kind, ?number,
      fun _ => ?key, (hbody 0 8).trans (commandBody_exec c x), (hbody 10 1).trans (commandBody_output c x),
      (hbody 11 1).trans (commandBody_level c x),
      ?length⟩, hcells, fun k hk => ?trunk, fun h => ?loops, ?frame⟩
    case instant => rw [hx h]; omega
    case fraction => rw [hbody 8 2, commandBody_frac, hx h]; omega
    case shadow => exact (shadow_lateNoted c late _ c.loop).trans (shadow_departed hs)
    case sent => rw [hnoted, hgone]; rfl
    case kind => rw [← hb, frType_dataFrame]
    case number => rw [← hb, frSeq_dataFrame]
    case key => rw [← hb, frCell_dataFrame]
    case length => rw [← hb, length_dataFrame, length_commandBody]
    case trunk => rw [trunk_sendTrunk_other hord' hk, trunk_lateNoted, hothers k hk]
    case loops => rw [hnoted]; exact (hloops (hlate h)).trans (by rw [hgone])
    case frame => rw [hnoted, hgone]; rfl
  case expire =>
    have hqueue := queue_expireCmds (k := cellKey n c) (gone := overdue s.live n number.toNat) ho
    rw [cellKey_trunk] at hqueue
    refine runsTo_of_liveEffect (exec_commandExpire n c number s) ha rfl
      ⟨fun o => ?_, fun i => ?_, ?_, fun k hk => cell_expireCmds_other ho hk, rfl⟩
    · dsimp only
      rw [outstanding_expireCmds ho, List.mem_filter, Bool.not_eq_true', ← Bool.not_eq_true, overdue_iff]
    · exact (congrArg (fun l => nth {} l i) hqueue).trans (nth_expireWaiting ..)
    · have hexp := expired_expireCmds (k := cellKey n c) (gone := overdue s.live n number.toNat) ho
      have hwait := length_waiting_expire (cellKey n c) (overdue s.live n number.toNat) (trunk s.live n).queue
      have hsplit := length_filter_add_not (overdue s.live n number.toNat) (cell s.live (cellKey n c)).outstanding
      rw [goneCount, cellKey_trunk] at hexp
      dsimp only
      rw [outstanding_expireCmds ho, hqueue, hexp]
      omega
  case credit =>
    obtain ⟨hup, href, htype⟩ := hf
    have hrun := frameIn_accepted (mine := fun b => frType b == 3) (run := creditIn n frac.toNat) hup href (beq_iff_eq.mpr htype)
    have hheard := acked_heard (n := n) (k := cellOf n f) 1 ho
    obtain ⟨hscope, -, hout, hmode, hq, hcell, htrunk⟩ := hheard.trans (acked_creditIn n (cellOf n f) frac.toNat f.bytes hheard.ordered)
    refine runsTo_of_liveEffect (exec_credit n f frac s) ha (by rw [hrun]; exact hscope.dev) ?_
    rw [hrun]
    refine ⟨fun o => (hout o).trans (and_congr_right fun _ => not_congr mem_creditNums), hmode, hq, hcell, htrunk, ?_⟩
    exact congrArg (fun w => { s with live := w }) hscope
  case waits =>
    exact runsTo_self (exec_cellcfgSetSend n c s) ha
      ((setSend_due hup hp (setEvery_eq hm) hdue).trans (if_neg (by rw [hmay]; exact Bool.false_ne_true)))
  case set =>
    refine runsTo_send (exec_cellcfgSetSend n c s) ha ((setSend_due hup hp (setEvery_eq hm) hdue).trans (if_pos hmay))
      (trunkScope_onCell (trunkScope_starts (trunkScope.refl s.live))) fun hout hframe => ?_
    refine ⟨⟨_, hout, ?_, ?_, ?_, ?_, ?_⟩, ?_, ?_, fun hq => ?_, fun k hk => ?_, hframe⟩
    · rw [frType_dataFrame]
    · rw [frCell_dataFrame, cellKey_cell]
    · exact (beAt_dataFrame_body _ _ _ _ _ 0 1 _).trans (setBody_code ..)
    · exact (beAt_dataFrame_body _ _ _ _ _ 4 4 _).trans (setBody_cfgId ..)
    · rw [length_dataFrame, length_setBody]
    · dsimp only
      rw [cell_sendTrunk, cell_onCell_same (trunksOrdered_starts ho)]
    · dsimp only
      rw [cell_sendTrunk, cell_onCell_same (trunksOrdered_starts ho), cell_starts]
    · dsimp only
      rw [trunk_sendTrunk_same (trunksOrdered_onCell (trunksOrdered_starts ho)), trunk_onCell]
      exact heldAt_starts ho hq
    · dsimp only
      rw [cell_sendTrunk, cell_onCell_other (trunksOrdered_starts ho) hk, cell_starts]
  case sync =>
    refine runsTo_cellSync (exec_trunkSyncSend n c egress s) ha (turnSync_due hup hp hen hslot hlast hmay) (trunkScope_turnBegun ..)
      (trunksOrdered_turnBegun ho) ?_
    rintro ⟨⟨b, hout, hlen, hlive, hflags, hcell⟩, hat, -, -, hothers, hframe⟩
    rw [(cell_turnBegun ho).1] at hflags hat
    exact ⟨⟨b, hout, hlen, hlive, hflags, hcell⟩, hat, fun k hk => (hothers k hk).trans ((cell_turnBegun ho).2 k hk), hframe⟩
  case change =>
    refine runsTo_cellSync (exec_outLiveChangeSync n c egress s) ha (changeSync_due hup hx hmay) (trunkScope_changeBegun ..)
      (trunksOrdered_changeBegun ho) ?_
    rintro ⟨⟨b, hout, hlen, hlive, -, hcell⟩, -, hextra, hcount, hothers, hframe⟩
    rw [(cell_changeBegun ho).1] at hextra
    refine ⟨⟨b, hout, hlen, hlive, hcell⟩, fun hsorted => ?_, hextra, fun k hk => (hothers k hk).trans ((cell_changeBegun ho).2 k hk), hframe⟩
    rw [hcount, counters_changeBegun ho]
    exact (sGet_put_other _ (sUpd_sorted 13 _ hsorted) (by decide)).trans (sGet_put_same 13 _ hsorted)
  case quiet =>
    refine runsTo_send (exec_quietSyncSend n egress s) ha (quietSync_due hup hp hserved hen hlast hq)
      (trunkScope_onTrunk (trunkScope_starts (trunkScope.refl s.live))) fun hout hframe => ?_
    refine ⟨⟨_, hout, length_syncFrame .., syncFrame_dst .., syncFrame_outLive .., syncFrame_flags .., syncFrame_interval ..⟩, ?_,
      cells_starts n s.live, hframe⟩
    dsimp only
    rw [trunk_sendTrunk_same (trunksOrdered_onTrunk (trunksOrdered_starts ho)), trunk_onTrunk_same (trunksOrdered_starts ho)]

end Sys2Proof.Claims
end

section
/-! PROOFS. The scalar sequencer's arithmetic, its jumps and STEP_END (04 R89, R90, Tables 4.2 and 4.3). -/

namespace Sys2Proof.Machine

/-! ## Scalar registers -/

@[simp] theorem sReg_setS_same {x : Ctx} (rd : Fin 16) (v : W32) (h : storeSorted x.s) : sReg (setS rd v x) rd = v := sGet_put_same _ _ h

theorem sReg_setS_other {x : Ctx} {rd r : Fin 16} (v : W32) (h : storeSorted x.s) (hr : r ≠ rd) : sReg (setS rd v x) r = sReg x r :=
  sGet_put_other _ h (Fin.val_ne_of_ne hr)

/-- A context after DBNZ: the register one lower, and the counter at IMM unless that is zero. -/
def dbnzCtx (ra : Fin 16) (imm : W32) (x : Ctx) : Ctx :=
  { branch (sReg x ra - 1 != 0) imm x with s := sPut 0 x.s ra (sReg x ra - 1) }

theorem sReg_dbnzCtx_same {x : Ctx} (ra : Fin 16) (imm : W32) (h : storeSorted x.s) : sReg (dbnzCtx ra imm x) ra = sReg x ra - 1 :=
  sGet_put_same _ _ h

theorem sReg_dbnzCtx_other {x : Ctx} {ra r : Fin 16} (imm : W32) (h : storeSorted x.s) (hr : r ≠ ra) :
    sReg (dbnzCtx ra imm x) r = sReg x r := sGet_put_other _ h (Fin.val_ne_of_ne hr)

theorem pc_dbnzCtx (ra : Fin 16) (imm : W32) (x : Ctx) :
    (dbnzCtx ra imm x).pc = if sReg x ra = 1 then x.pc + 1 else imm.toNat := by
  have hzero : sReg x ra - 1 = 0 ↔ sReg x ra = 1 := by bv_omega
  simp only [dbnzCtx, branch, bne_iff_ne, ne_eq, ite_not, hzero]

end Sys2Proof.Machine

namespace Sys2Proof.Claims

open Sys2Proof.Machine

/-! ## The rows -/

theorem exec_of_scalarValue {i : Instr} {c : TileCtx} {rd : Fin 16} {f : (Fin 16 → W32) → W32} (h : scalarValue i = some (c, rd, f))
    (s : State) : exec i s = liveEffect (runScalar c i (onCtx (TileCtx.key c) (fun x => setS rd (f (sReg x)) x))) s := by
  unfold scalarValue at h
  split at h <;> cases h <;> rfl

theorem exec_of_scalarJump {i : Instr} {c : TileCtx} {g : (Fin 16 → W32) → Bool} {imm : W32} (h : scalarJump i = some (c, g, imm))
    (s : State) : exec i s = liveEffect (runScalar c i (onCtx (TileCtx.key c) (fun x => branch (g (sReg x)) imm x))) s := by
  unfold scalarJump at h
  split at h <;> cases h <;> rfl

theorem exec_dbnz (c : TileCtx) (ra : Fin 16) (imm : W32) (s : State) : exec (.dbnz c ra imm) s =
    liveEffect (runScalar c (.dbnz c ra imm) (onCtx (TileCtx.key c) (dbnzCtx ra imm))) s := rfl

theorem exec_stepEnd (c : TileCtx) (s : State) : exec (.stepEnd c) s = liveEffect (runScalar c (.stepEnd c)
    (fun w => onCtx (TileCtx.key c) (fun x => { x with atEnd := true, endAt := nowNs w }) w)) s := rfl

/-- Settles O33: each row writes RD with its function of the registers, on its own context. -/
theorem scalarArithmeticWritesOneRegister : Obligations.ScalarArithmeticWritesOneRegister := by
  unfold Obligations.ScalarArithmeticWritesOneRegister
  intro s i c rd f ha ho hi hf
  obtain ⟨hregs, -⟩ := ho.ctx (TileCtx.key c)
  refine runsTo_of_fetches (exec_of_scalarValue hi s) ha hf rfl ?_
  rw [ctxAt_onCtx_same _ _ ho.ctxs]
  exact ⟨sReg_setS_same _ _ hregs, fun r hr => sReg_setS_other _ hregs hr, rfl, rfl, fun k hk => ctxAt_onCtx_other _ ho.ctxs hk, rfl⟩

/-- Settles O34: each row sets the counter of its context, DBNZ after its register, STEP_END none but the mark of the step's end. -/
theorem scalarJumpsSetTheProgramCounter : Obligations.ScalarJumpsSetTheProgramCounter := by
  unfold Obligations.ScalarJumpsSetTheProgramCounter
  refine ⟨?jump, ?dbnz, ?stepEnd⟩
  case jump =>
    intro s i c g imm ha ho hi hf
    refine runsTo_of_fetches (exec_of_scalarJump hi s) ha hf rfl ⟨?_, fun k hk => ctxAt_onCtx_other _ ho.ctxs hk, rfl⟩
    rw [ctxAt_onCtx_same _ _ ho.ctxs, branch]
  case dbnz =>
    intro s c ra imm ha ho hf
    obtain ⟨hregs, -⟩ := ho.ctx (TileCtx.key c)
    refine runsTo_of_fetches (exec_dbnz c ra imm s) ha hf rfl ?_
    rw [ctxAt_onCtx_same _ _ ho.ctxs]
    exact ⟨sReg_dbnzCtx_same _ _ hregs, fun r hr => sReg_dbnzCtx_other _ hregs hr, pc_dbnzCtx _ _ _, rfl,
      fun k hk => ctxAt_onCtx_other _ ho.ctxs hk, rfl⟩
  case stepEnd =>
    intro s c ha ho hf
    exact runsTo_of_fetches (exec_stepEnd c s) ha hf rfl
      ⟨ctxAt_onCtx_same _ _ ho.ctxs, fun k hk => ctxAt_onCtx_other _ ho.ctxs hk, rfl⟩

end Sys2Proof.Claims
end

section
/-! PROOFS. The vector unit (04 R89, R98, Tables 4.10 and 4.12): lanes after a write of registers, VOP, VSF, VRED, VLD and VST. -/

namespace Sys2Proof.Machine

/-! ## A run of entries written into a table -/

/-- The table with `n` entries from `b` on written. -/
def putRun {α : Type} [DecidableEq α] (d : α) (g : Nat → α) (b n : Nat) (s : Store α) : Store α :=
  (upTo n).foldl (fun t i => sPut d t (b + i) (g i)) s

section
variable {α : Type} [DecidableEq α] {d : α} {g : Nat → α} {b : Nat} {s : Store α}

theorem putRun_succ (n : Nat) : putRun d g b (n + 1) s = sPut d (putRun d g b n s) (b + n) (g n) := by
  simp [putRun, upTo, List.range_succ]

theorem putRun_sorted (n : Nat) (h : storeSorted s) : storeSorted (putRun d g b n s) := by
  induction n with
  | zero => exact h
  | succ n ih => rw [putRun_succ]; exact sPut_sorted _ _ ih

theorem sGet_putRun_inside {n i : Nat} (h : storeSorted s) (hi : i < n) : sGet d (putRun d g b n s) (b + i) = g i := by
  induction n with
  | zero => omega
  | succ n ih =>
    rw [putRun_succ]
    by_cases hin : i = n
    · rw [hin]; exact sGet_put_same _ _ (putRun_sorted n h)
    · rw [sGet_put_other _ (putRun_sorted n h) (by omega)]
      exact ih (by omega)

theorem sGet_putRun_outside {n j : Nat} (h : storeSorted s) (hj : j < b ∨ b + n ≤ j) : sGet d (putRun d g b n s) j = sGet d s j := by
  induction n with
  | zero => rfl
  | succ n ih =>
    rw [putRun_succ, sGet_put_other _ (putRun_sorted n h) (by omega)]
    exact ih (by omega)

end

/-! ## Lanes (04 R89) -/

theorem lane_setLanes_inside {x : Ctx} {r i : Nat} {vs : List W32} (h : storeSorted x.v) (hi : i < vs.length) :
    lane (setLanes r vs x) r i = nth 0 vs i := sGet_putRun_inside (b := r * 64) (g := nth 0 vs) h hi

theorem lane_setLanes_outside {x : Ctx} {r j : Nat} {vs : List W32} (h : storeSorted x.v) (hj : j < r * 64 ∨ r * 64 + vs.length ≤ j) :
    lane (setLanes r vs x) 0 j = lane x 0 j := by
  simp only [lane, Nat.zero_mul, Nat.zero_add]
  exact sGet_putRun_outside (b := r * 64) (g := nth 0 vs) h hj

@[simp] theorem length_group (x : Ctx) (r n : Nat) : (group x r n).length = 64 * n := by simp [group, upTo]

theorem nth_map_upTo {α : Type} (d : α) (f : Nat → α) {n i : Nat} (hi : i < n) : nth d ((upTo n).map f) i = f i := by
  simp [nth, upTo, hi]

theorem nth_map_group {α : Type} (d : α) (f : W32 → α) {x : Ctx} {r n i : Nat} (hi : i < 64 * n) :
    nth d ((group x r n).map f) i = f (lane x r i) := by
  rw [group, List.map_map, nth_map_upTo _ _ hi]; rfl

/-! ## What a command writes to its registers -/

/-- The lanes of VD after a VOP on a context. -/
def vopResults (x : Ctx) (c : BitVec 256) : List W32 := (upTo (64 * vCount c)).map (fun i =>
  (vopLane (vSub c) (cSat c) (lane x (vA c) i) (lane x (vB c) i) (lane x (vC c) i) (lane x (vA c) 0) (lane x (vB c) 0)).1)

/-- The lanes of VD after a VSF on a context. -/
def vsfResults (x : Ctx) (c : BitVec 256) : List W32 := (group x (vA c) (vCount c)).map (fun a => (vsfLane (vSub c) (cSat c) a).1)

theorem runVop_world (k : Nat) (e : SbEntry) (w : World) : (runVop k e w).2 = onCtx k (setLanes (vD e.cmd) (vopResults (ctxAt w k) e.cmd)) w := by
  simp only [runVop, vopResults, List.map_map]; rfl

theorem runVsf_world (k : Nat) (e : SbEntry) (w : World) : (runVsf k e w).2 = onCtx k (setLanes (vD e.cmd) (vsfResults (ctxAt w k) e.cmd)) w := by
  simp only [runVsf, vsfResults, List.map_map]; rfl

@[simp] theorem length_vopResults (x : Ctx) (c : BitVec 256) : (vopResults x c).length = 64 * vCount c := by simp [vopResults, upTo]

@[simp] theorem length_vsfResults (x : Ctx) (c : BitVec 256) : (vsfResults x c).length = 64 * vCount c := by simp [vsfResults]

/-- The reduction of a VRED, before it is rounded to G32. -/
def vredSum (w : World) (sub : Nat) (xs : List Acc) : Acc :=
  match sub with
  | 0 => boundedSum w accZero xs (reduceSum accZero xs).1 0
  | 1 => (reduceExt accMax (.inf true) xs).1
  | _ => (reduceExt accMin (.inf false) xs).1

/-- The value that VRED writes to lane 0 of VD. -/
def vredResult (k : Nat) (e : SbEntry) (w : World) : W32 :=
  (pack32 (cSat e.cmd) (vredSum w (vSub e.cmd) ((group (ctxAt w k) (vA e.cmd) (vCount e.cmd)).map (fun v => (operand32 v).1)))).1

/-- The world after VRED has drawn what a reduction outside normal service draws. -/
def vredDrawn (w : World) : World := { w with free := w.free + (if w.dev.bounded then 1 else 0) }

theorem runVred_world (k : Nat) (e : SbEntry) (w : World) : (runVred k e w).2 =
    onCtx k (fun x => { x with v := sPut 0 x.v (vD e.cmd * 64) (vredResult k e w) }) (vredDrawn w) := by
  simp only [runVred, vredResult, List.map_map]
  rcases vSub e.cmd with _ | _ | n <;> rfl

theorem boundedSum_of_not_bounded {w : World} (h : w.dev.bounded = false) (acc : Acc) (ps : List Acc) (r : Acc) (i : Nat) :
    boundedSum w acc ps r i = r := by simp [boundedSum, h]

theorem vredResult_sum {k : Nat} {e : SbEntry} {w : World} (hb : w.dev.bounded = false) (hs : vSub e.cmd = 0) : vredResult k e w =
    (pack32 (cSat e.cmd) (reduceSum accZero ((group (ctxAt w k) (vA e.cmd) (vCount e.cmd)).map (fun v => (operand32 v).1))).1).1 := by
  simp only [vredResult, vredSum, hs, boundedSum_of_not_bounded hb]

/-! ## VLD and VST with equal codes (04 Table 4.12) -/

theorem orFlags_of_all_zero {l : List (BitVec 8)} (h : ∀ f ∈ l, f = 0) : orFlags l = 0 := by
  unfold orFlags
  induction l with
  | nil => rfl
  | cons a l ih => rw [List.foldl_cons, h a List.mem_cons_self]; exact ih fun f hf => h f (List.mem_cons_of_mem _ hf)

theorem runVld_g32 {tile k : Nat} {e : SbEntry} {w : World} (h : tFmt e.cmd = 3) : runVld tile k e w = (0, onCtx k (setLanes (tReg e.cmd)
    ((upTo (64 * tCount e.cmd)).map (fun i => BitVec.ofNat 32 (leNat (padRead w tile (cBase e.cmd 0 * 32 + 4 * i) 4))))) w) := by
  have hflags : orFlags ((upTo (64 * tCount e.cmd)).map (fun _ => (0 : BitVec 8))) = 0 := orFlags_of_all_zero (by simp)
  simp only [runVld, h, if_true, List.map_map]
  exact Prod.ext ((BitVec.zero_or).trans hflags) rfl

theorem runVst_g32 {tile k : Nat} {e : SbEntry} {w : World} (h : tFmt e.cmd = 3) : runVst tile k e w = (0, padWrite tile (cBase e.cmd 0 * 32)
    ((group (ctxAt w k) (tReg e.cmd) (tCount e.cmd)).map (fun v => leBytes 4 v.toNat)).flatten w) := by simp only [runVst, h, if_true]

/-! ## Reading a part of what was written -/

@[simp] theorem Mem.length_read (m : List Host.Cell) (a n : Nat) : (Mem.read m a n).length = n := by
  induction n generalizing a with
  | zero => rfl
  | succ n ih => simp [Mem.read, ih]

theorem Mem.read_add (m : List Host.Cell) (a n k : Nat) : Mem.read m a (n + k) = Mem.read m a n ++ Mem.read m (a + n) k := by
  induction n generalizing a with
  | zero => simp [Mem.read]
  | succ n ih => rw [Nat.succ_add, Mem.read, Mem.read, ih, List.cons_append, Nat.succ_add_eq_add_succ]

theorem Mem.read_write_part {m : List Host.Cell} (a : Nat) {o n : Nat} {bs : Bytes} (h : Memory.wf m) (hn : o + n ≤ bs.length) :
    Mem.read (Mem.write m a bs) (a + o) n = slice bs o n := by
  obtain ⟨rest, hrest⟩ := Nat.exists_eq_add_of_le hn
  have hwhole := Mem.read_write a bs h
  rw [hrest, Nat.add_assoc, Mem.read_add, Mem.read_add] at hwhole
  have hdrop : bs.drop o = Mem.read (Mem.write m a bs) (a + o) n ++ Mem.read (Mem.write m a bs) (a + o + n) rest := by
    rw [← hwhole, List.drop_left' (Mem.length_read ..), hwhole]
  rw [slice, hdrop, List.take_left' (Mem.length_read ..)]

theorem length_flatten_of_uniform {l : List Bytes} {n : Nat} (h : ∀ b ∈ l, b.length = n) : l.flatten.length = l.length * n := by
  rw [List.length_flatten, List.map_congr_left h, List.map_const', List.sum_replicate, smul_eq_mul]

theorem slice_flatten_of_uniform {l : List Bytes} {n i : Nat} (h : ∀ b ∈ l, b.length = n) (hi : i < l.length) :
    slice l.flatten (n * i) n = nth [] l i := by
  induction l generalizing i with
  | nil => simp at hi
  | cons b l ih =>
    have hb := h b List.mem_cons_self
    cases i with
    | zero => simp [slice, nth, List.take_left' hb]
    | succ i =>
      have hrest := ih (fun c hc => h c (List.mem_cons_of_mem _ hc)) (Nat.lt_of_succ_lt_succ hi)
      rw [slice] at hrest
      rw [slice, List.flatten_cons, Nat.mul_succ, Nat.add_comm, ← List.drop_drop, List.drop_left' hb, hrest]
      rfl

theorem padAddr_add (tile a o : Nat) : padAddr tile (a + o) = padAddr tile a + o := by simp only [padAddr, Nat.add_assoc]

theorem padRead_padWrite_part {tile a o n : Nat} {v : Bytes} {w : World} (hw : Memory.wf w.tiles.scratch) (h : o + n ≤ v.length) :
    padRead (padWrite tile a v w) tile (a + o) n = slice v o n := by
  rw [padRead, padAddr_add]
  exact Mem.read_write_part (padAddr tile a) hw h

/-- A lane that VST wrote as it stands reads back. -/
theorem padRead_runVst_g32 {tile k i : Nat} {e : SbEntry} {w : World} (hw : Memory.wf w.tiles.scratch) (h : tFmt e.cmd = 3)
    (hi : i < 64 * tCount e.cmd) : padRead (runVst tile k e w).2 tile (cBase e.cmd 0 * 32 + 4 * i) 4 =
      leBytes 4 (lane (ctxAt w k) (tReg e.cmd) i).toNat := by
  have huniform : ∀ b ∈ (group (ctxAt w k) (tReg e.cmd) (tCount e.cmd)).map (fun v => leBytes 4 v.toNat), b.length = 4 := by simp
  rw [runVst_g32 h, padRead_padWrite_part hw (by rw [length_flatten_of_uniform huniform]; simp; omega), 
    slice_flatten_of_uniform huniform (by simpa using hi), nth_map_group _ _ hi]

end Sys2Proof.Machine

namespace Sys2Proof.Claims

open Sys2Proof.Machine

/-- Settles O39: each command writes its list of results to consecutive lanes of its context, and VST the bytes of its lanes. -/
theorem vectorCommandsActLaneByLane : Obligations.VectorCommandsActLaneByLane := by
  unfold Obligations.VectorCommandsActLaneByLane
  refine ⟨?lanes, ?otherLanes, ?sum, ?otherLanesOfSum, ?load, ?store⟩
  case lanes =>
    intro w k e i ho hi
    obtain ⟨-, hv, -⟩ := ho.ctx k
    rw [runVop_world, runVsf_world, ctxAt_onCtx_same _ _ ho.ctxs, ctxAt_onCtx_same _ _ ho.ctxs, lane_setLanes_inside hv (by simpa),
      lane_setLanes_inside hv (by simpa)]
    exact ⟨nth_map_upTo _ _ hi, nth_map_group _ _ hi⟩
  case otherLanes =>
    intro w k e j ho hj
    obtain ⟨-, hv, -⟩ := ho.ctx k
    rw [runVop_world, runVsf_world, ctxAt_onCtx_same _ _ ho.ctxs, ctxAt_onCtx_same _ _ ho.ctxs]
    exact ⟨lane_setLanes_outside hv (by simpa), lane_setLanes_outside hv (by simpa)⟩
  case sum =>
    intro w k e ho hb hs
    obtain ⟨-, hv, -⟩ := ho.ctx k
    rw [runVred_world, ctxAt_onCtx_same _ _ (w := vredDrawn w) ho.ctxs, vredResult_sum hb hs]
    exact sGet_put_same _ _ hv
  case otherLanesOfSum =>
    intro w k e j ho hj
    obtain ⟨-, hv, -⟩ := ho.ctx k
    rw [runVred_world, ctxAt_onCtx_same _ _ (w := vredDrawn w) ho.ctxs]
    exact sGet_put_other _ hv (by omega)
  case load =>
    intro w tile k e i ho hf hi
    obtain ⟨-, hv, -⟩ := ho.ctx k
    rw [runVld_g32 hf, ctxAt_onCtx_same _ _ ho.ctxs, lane_setLanes_inside hv (by simpa [upTo])]
    exact ⟨nth_map_upTo _ _ hi, rfl⟩
  case store =>
    intro w tile k e i ho hm hf hi
    obtain ⟨hscratch, -⟩ := hm
    rw [padRead_runVst_g32 hscratch hf hi, leNat_leBytes, Nat.mod_eq_of_lt (b := 256 ^ 4) (BitVec.isLt _), BitVec.ofNat_toNat, BitVec.setWidth_eq]

end Sys2Proof.Claims
end

section
/-! PROOFS. Retirement from the scoreboard (04 R100, R108, R112; 03 R71), and the end and start of slices (04 R111, 09 R248). -/

namespace Sys2Proof.Machine

/-! ## Windows after an update -/

theorem winAt_onWin_same (k : Nat) (f : Window → Window) {w : World} (h : storeSorted w.tiles.windows) :
    winAt (onWin k f w) k = f (winAt w k) := sGet_put_same _ _ h

theorem winAt_onWin_other {k j : Nat} (f : Window → Window) {w : World} (h : storeSorted w.tiles.windows) (hj : j ≠ k) :
    winAt (onWin k f w) j = winAt w j := sGet_put_other _ h hj

@[simp] theorem winAt_onCtx (k : Nat) (f : Ctx → Ctx) (w : World) (j : Nat) : winAt (onCtx k f w) j = winAt w j := rfl

@[simp] theorem ctxAt_onWin (k : Nat) (f : Window → Window) (w : World) (j : Nat) : ctxAt (onWin k f w) j = ctxAt w j := rfl

/-! ## Parked commands issue again (04 R111) -/

theorem reissue_eq_with (w : World) (l : List SbEntry) (x : Ctx) : ∃ sb parked since most, reissue w l x =
    { x with sb := sb, parked := parked, stallSince := since, stallMax := most } := by
  induction l generalizing x with
  | nil => exact ⟨_, _, _, _, rfl⟩
  | cons e l ih =>
    simp only [reissue]
    split
    · obtain ⟨sb, parked, since, most, h⟩ := ih { x with sb := x.sb ++ [e] }
      exact ⟨sb, parked, since, most, h⟩
    · exact ⟨_, _, _, _, rfl⟩

theorem reissueIn_eq_with (w : World) (k : Nat) (x : Ctx) : ∃ sb parked since most, reissueIn w k x =
    { x with sb := sb, parked := parked, stallSince := since, stallMax := most } := by
  unfold reissueIn
  split
  · exact ⟨_, _, _, _, rfl⟩
  · exact reissue_eq_with w x.parked x

theorem reissueIn_of_none_parked (w : World) (k : Nat) {x : Ctx} (h : x.parked = []) : reissueIn w k x = x := by simp [reissueIn, h]

theorem wakeCtx_eq_with (x : Ctx) : ∃ wait s pc, wakeCtx x = { x with wait := wait, s := s, pc := pc } := by
  unfold wakeCtx
  split
  · split <;> exact ⟨_, _, _, rfl⟩
  · split <;> exact ⟨_, _, _, rfl⟩
  · exact ⟨_, _, _, rfl⟩

/-! ## An entry that leaves the scoreboard -/

/-- A context that an entry has left: its status word is its tag's where it is the tag's latest. -/
def leftCtx (e : SbEntry) (x : Ctx) : Ctx := { x with
  sb := x.sb.filter (fun g => g.serial != e.serial)
  status := if sGet 0 x.tagSerial (cTag e.cmd) = e.serial then sPut 0 x.status (cTag e.cmd) (statusWord e) else x.status }

theorem retireEntry_eq (k : Nat) (e : SbEntry) (w : World) : retireEntry k e w =
    onTiles (enterFlags (k / 2) e.flags) (onCtx k (fun x => wakeCtx (reissueIn w k (leftCtx e x))) w) := rfl

@[simp] theorem ctxAt_onTiles_enterFlags (n : Nat) (f : BitVec 8) (w : World) (k : Nat) : ctxAt (onTiles (enterFlags n f) w) k = ctxAt w k := rfl

@[simp] theorem winAt_retireEntry (k : Nat) (e : SbEntry) (w : World) (j : Nat) : winAt (retireEntry k e w) j = winAt w j := rfl

theorem retireEntry_eq_with (k : Nat) (e : SbEntry) (w : World) : ∃ cs st n, retireEntry k e w =
    { w with tiles := { w.tiles with ctxs := cs, sticky := st, arithCount := n } } := ⟨_, _, _, rfl⟩

section
variable {w : World} {k : Nat} {e : SbEntry}

theorem ctxAt_retireEntry_same (h : storeSorted w.tiles.ctxs) :
    ctxAt (retireEntry k e w) k = wakeCtx (reissueIn w k (leftCtx e (ctxAt w k))) := by
  rw [retireEntry_eq, ctxAt_onTiles_enterFlags, ctxAt_onCtx_same k _ h]

theorem ctxAt_retireEntry_other {j : Nat} (h : storeSorted w.tiles.ctxs) (hj : j ≠ k) : ctxAt (retireEntry k e w) j = ctxAt w j := by
  rw [retireEntry_eq, ctxAt_onTiles_enterFlags, ctxAt_onCtx_other _ h hj]

/-- What follows a retirement, commands issued again and a wait that ends, leaves the status words. -/
theorem status_retireEntry (h : storeSorted w.tiles.ctxs) : (ctxAt (retireEntry k e w) k).status = (leftCtx e (ctxAt w k)).status := by
  obtain ⟨_, _, _, _, hi⟩ := reissueIn_eq_with w k (leftCtx e (ctxAt w k))
  obtain ⟨_, _, _, hw⟩ := wakeCtx_eq_with (reissueIn w k (leftCtx e (ctxAt w k)))
  rw [ctxAt_retireEntry_same h, hw, hi]

theorem sb_retireEntry (h : storeSorted w.tiles.ctxs) (hp : (ctxAt w k).parked = []) :
    (ctxAt (retireEntry k e w) k).sb = (ctxAt w k).sb.filter (fun g => g.serial != e.serial) := by
  obtain ⟨_, _, _, hw⟩ := wakeCtx_eq_with (leftCtx e (ctxAt w k))
  rw [ctxAt_retireEntry_same h, reissueIn_of_none_parked w k (x := leftCtx e (ctxAt w k)) hp, hw]
  rfl

theorem sticky_retireEntry_same (h : storeSorted w.tiles.sticky) :
    sGet 0 (retireEntry k e w).tiles.sticky (k / 2) = sGet 0 w.tiles.sticky (k / 2) ||| e.flags := sGet_put_same _ _ h

theorem sticky_retireEntry_other {n : Nat} (h : storeSorted w.tiles.sticky) (hn : n ≠ k / 2) :
    sGet 0 (retireEntry k e w).tiles.sticky n = sGet 0 w.tiles.sticky n := sGet_put_other _ h hn

end

theorem key_div (c : TileCtx) : TileCtx.key c / 2 = c.tile := by
  unfold TileCtx.key ctxKey; omega

theorem transferDone_eq_with (tile : Nat) (e : SbEntry) (w : World) : ∃ ws, transferDone tile e w =
    { w with tiles := { w.tiles with windows := ws } } := by
  unfold transferDone
  split
  · split <;> exact ⟨_, rfl⟩
  · exact ⟨_, rfl⟩

theorem transferDone_accepted {tile n : Nat} {e : SbEntry} (w : World) (hu : unitOf (cOp e.cmd) = 4) (hr : e.result = 0)
    (hn : neighbour tile (wDir e.cmd) = some n) : transferDone tile e w =
      onWin (winKey n (wSlot e.cmd)) (fun v => { v with inFlight := v.inFlight - 1 }) w := by
  simp [transferDone, hu, hr, hn]

/-! ## Slices -/

/-- A context whose slice has ended: what it has not begun is parked in front of what is. -/
def slicedCtx (now : Nat) (x : Ctx) : Ctx := { x with
  sb := x.sb.filter (fun e => e.begun)
  parked := x.sb.filter (fun e => !e.begun) ++ x.parked
  offSince := some now }

/-- The slice of a tile from now on: a context, or 2 + the one whose units finish. -/
def setSlice (tile n : Nat) (w : World) : World :=
  onTiles (fun t => { t with slice := sPut 0 t.slice tile n, sliceAt := sPut 0 t.sliceAt tile (nowNs w) }) w

@[simp] theorem ctxAt_setSlice (tile n : Nat) (w : World) (k : Nat) : ctxAt (setSlice tile n w) k = ctxAt w k := rfl

/-- The effect of SLICE_END where it is due. -/
def endSlice (tile cur : Nat) (w : World) : World := setSlice tile (2 + cur) (onCtx (ctxKey tile cur) (slicedCtx (nowNs w)) w)

/-- A context that is scheduled again: the time it was off is counted. -/
def resumedCtx (now : Nat) (x : Ctx) : Ctx := { x with
  offSince := none
  offCycles := x.offCycles + (match x.offSince with | some t => cyclesOfNs (now - t) | none => 0) }

/-- The cycles that the units of a tile have taken beyond the slice, 4,096 at most. -/
def sliceOverrun (w : World) (tile : Nat) : Nat := min 4096 (cyclesOfNs (nowNs w - sGet 0 w.tiles.sliceAt tile))

/-- What the context that ends owes of its next slice. -/
def owingCtx (o : Nat) (x : Ctx) : Ctx := { x with overrun := o, overrunMax := max x.overrunMax o }

theorem beginSlice_eq (tile ctx : Nat) (w : World) : beginSlice tile ctx w = onCtx (ctxKey tile ctx)
    (fun x => reissueIn (setSlice tile ctx w) (ctxKey tile ctx) (resumedCtx (nowNs w) x)) (setSlice tile ctx w) := rfl

theorem ctxAt_beginSlice_same {tile ctx : Nat} {w : World} (h : storeSorted w.tiles.ctxs) : ctxAt (beginSlice tile ctx w) (ctxKey tile ctx) =
    reissueIn (setSlice tile ctx w) (ctxKey tile ctx) (resumedCtx (nowNs w) (ctxAt w (ctxKey tile ctx))) := by
  rw [beginSlice_eq, ctxAt_onCtx_same _ _ (w := setSlice tile ctx w) h, ctxAt_setSlice]

theorem offSince_beginSlice {tile ctx : Nat} {w : World} (h : storeSorted w.tiles.ctxs) :
    (ctxAt (beginSlice tile ctx w) (ctxKey tile ctx)).offSince = none := by
  obtain ⟨_, _, _, _, hi⟩ := reissueIn_eq_with (setSlice tile ctx w) (ctxKey tile ctx) (resumedCtx (nowNs w) (ctxAt w (ctxKey tile ctx)))
  rw [ctxAt_beginSlice_same h, hi, resumedCtx]

theorem ctxAt_beginSlice_other {tile ctx k : Nat} {w : World} (h : storeSorted w.tiles.ctxs) (hk : k ≠ ctxKey tile ctx) :
    ctxAt (beginSlice tile ctx w) k = ctxAt w k := by
  rw [beginSlice_eq, ctxAt_onCtx_other _ (w := setSlice tile ctx w) h hk, ctxAt_setSlice]

end Sys2Proof.Machine

namespace Sys2Proof.Claims

open Sys2Proof.Machine

/-! ## The rows -/

/-- The effect of a row on the device as it stands is `w`. -/
def effectIs (i : Instr) (s : State) (w : World) : Prop := ∃ f, exec i s = liveEffect f s ∧ f s.live = w

theorem runsTo_of_effectIs {i : Instr} {s : State} {w : World} {P : State → Prop} (hi : effectIs i s w) (ha : awake s)
    (hd : w.dev = s.live.dev) (hP : P { s with live := w }) : runsTo i s P := by
  obtain ⟨f, hf, rfl⟩ := hi
  exact runsTo_of_liveEffect hf ha hd hP

theorem effectIs_retire {s : State} {c : TileCtx} {e : SbEntry} (h : (ctxAt s.live (TileCtx.key c)).sb.find? (fun e => e.done) = some e) :
    effectIs (.tileCommandRetire c) s (retireEntry (TileCtx.key c) e (transferDone c.tile e s.live)) := by
  refine ⟨_, (rfl : execTileCommandRetire c s = _), ?_⟩
  simp only [h]

theorem effectIs_sliceEnd {s : State} {tile : Fin 128} {cur : Nat} (hshared : tileShared s.live tile = true)
    (hcur : sGet 0 s.live.tiles.slice tile = cur) (hlt : cur < 2) (hover : sliceOver s.live tile cur = true) :
    effectIs (.sliceEnd tile) s (endSlice tile cur s.live) := by
  refine ⟨_, rfl, ?_⟩
  simp only [hshared, hcur, hlt, hover, decide_true, Bool.and_self, whenW_true]
  rfl

theorem effectIs_sliceEnd_early {s : State} {tile : Fin 128} (h : sliceOver s.live tile (sGet 0 s.live.tiles.slice tile) = false) :
    effectIs (.sliceEnd tile) s s.live := by
  refine ⟨_, rfl, ?_⟩
  simp only [h, Bool.and_false, whenW_false]

theorem effectIs_sliceStart {s : State} {tile : Fin 128} {ctx : Fin 2} {cur : Nat} (hctx : cur = 1 - ctx.val)
    (hcur : sGet 0 s.live.tiles.slice tile = 2 + cur) (hdone : unitsDone (ctxAt s.live (ctxKey tile cur)) = true) :
    effectIs (.sliceStart tile ctx) s (beginSlice tile (1 - cur) (onCtx (ctxKey tile cur)
      (owingCtx (sliceOverrun s.live tile)) s.live)) := by
  have hother : 1 - cur = ctx.val := by omega
  refine ⟨_, rfl, ?_⟩
  simp only [hcur, Nat.add_sub_cancel_left, hdone, Nat.le_add_right, decide_true, hother, beq_self_eq_true, Bool.and_self, whenW_true]
  rfl

theorem ordered.windows {w : World} (h : ordered w) : storeSorted w.tiles.windows := by
  obtain ⟨-, -, -, -, -, -, hw, -⟩ := h; exact hw

theorem ordered.slice {w : World} (h : ordered w) : storeSorted w.tiles.slice := by
  obtain ⟨-, -, -, -, -, -, -, -, -, -, -, -, -, -, -, -, -, -, -, -, -, -, hs, -⟩ := h; exact hs

/-- Settles O42: the retired entry's marks on its context, its tile and its window, each read through what retirement leaves alone; a
slice's end parks, its start issues again. -/
theorem commandsRetireAndSlicesAlternate : Obligations.CommandsRetireAndSlicesAlternate := by
  unfold Obligations.CommandsRetireAndSlicesAlternate
  refine ⟨?retire, ?early, ?sliceEnd, ?sliceStart⟩
  case retire =>
    intro s c e ha ho hdone
    obtain ⟨-, -, hstatus, -⟩ := ho.ctx (TileCtx.key c)
    obtain ⟨ws, hws⟩ := transferDone_eq_with c.tile e s.live
    have hctxs : storeSorted (transferDone c.tile e s.live).tiles.ctxs := by rw [hws]; exact ho.ctxs
    have hsticky : storeSorted (transferDone c.tile e s.live).tiles.sticky := by rw [hws]; exact ho.sticky
    have hctx (k : Nat) : ctxAt (transferDone c.tile e s.live) k = ctxAt s.live k := by rw [hws]; rfl
    have hst (n : Nat) : sGet 0 (transferDone c.tile e s.live).tiles.sticky n = sGet 0 s.live.tiles.sticky n := by rw [hws]
    obtain ⟨cs, st, n, hret⟩ := retireEntry_eq_with (TileCtx.key c) e (transferDone c.tile e s.live)
    have hframe : retireEntry (TileCtx.key c) e (transferDone c.tile e s.live) =
        { s.live with tiles := { s.live.tiles with windows := ws, ctxs := cs, sticky := st, arithCount := n } } := by rw [hret, hws]
    refine runsTo_of_effectIs (effectIs_retire hdone) ha (by rw [hframe]) ⟨fun htag => ?_, fun htag => ?_, ?_, fun n hn => ?_, fun hp => ?_,
      fun k hk => ?_, fun hu hr n hn => ?_, by rw [hframe], by rw [hframe]⟩
    · rw [status_retireEntry hctxs, hctx, leftCtx, if_pos htag]
      exact sGet_put_same _ _ hstatus
    · rw [status_retireEntry hctxs, hctx, leftCtx, if_neg htag]
    · have hsame := sticky_retireEntry_same (k := TileCtx.key c) (e := e) hsticky
      rw [key_div, hst] at hsame
      exact hsame
    · rw [sticky_retireEntry_other hsticky (by rwa [key_div]), hst]
    · rw [sb_retireEntry hctxs (by rwa [hctx]), hctx]
    · rw [ctxAt_retireEntry_other hctxs hk, hctx]
    · rw [winAt_retireEntry, transferDone_accepted s.live hu hr hn, winAt_onWin_same _ _ ho.windows]
  case early =>
    exact fun s tile ha hover => runsTo_of_effectIs (effectIs_sliceEnd_early hover) ha rfl rfl
  case sliceEnd =>
    intro s tile cur ha ho hshared hcur hlt hover
    have hover' : sliceOver s.live tile cur = true := by simpa [sliceOver] using hover
    exact runsTo_of_effectIs (effectIs_sliceEnd hshared hcur hlt hover') ha rfl ⟨sGet_put_same _ _ ho.slice,
      ctxAt_onCtx_same _ _ ho.ctxs, fun k hk => ctxAt_onCtx_other _ ho.ctxs hk, fun hat => sGet_put_same _ _ hat, rfl⟩
  case sliceStart =>
    intro s tile ctx cur overrun ha ho hctx hcur hdone hoverrun
    obtain rfl : overrun = sliceOverrun s.live tile := hoverrun
    have hctxs := onCtx_sorted (ctxKey tile cur) (owingCtx (sliceOverrun s.live tile)) ho.ctxs
    have hne : ctxKey tile cur ≠ ctxKey tile (1 - cur) := by unfold ctxKey; omega
    refine runsTo_of_effectIs (effectIs_sliceStart hctx hcur hdone) ha rfl ⟨?_, ?_, ?_, fun hp => ?_, fun k h0 h1 => ?_, rfl⟩
    · rw [show ctx.val = 1 - cur by omega]
      exact sGet_put_same _ _ ho.slice
    · rw [ctxAt_beginSlice_other hctxs hne, ctxAt_onCtx_same _ _ ho.ctxs, owingCtx]
    · rw [offSince_beginSlice hctxs]
    · rw [ctxAt_beginSlice_same hctxs, ctxAt_onCtx_other _ ho.ctxs hne.symm, reissueIn_of_none_parked _ _ (by exact hp)]
      rfl
    · have hk : k ≠ ctxKey tile cur ∧ k ≠ ctxKey tile (1 - cur) := by unfold ctxKey at *; omega
      rw [ctxAt_beginSlice_other hctxs hk.2, ctxAt_onCtx_other _ ho.ctxs hk.1]

end Sys2Proof.Claims
end

section
/-! PROOFS. Windows (04 R107 to R110): WOPEN, WCLOSE, RPUT, RGET, the arrival of a transfer, and the end of a closing window. -/

namespace Sys2Proof.Machine

/-! ## Entries of a scoreboard after an update -/

theorem onEntry_eq (k n : Nat) (f : SbEntry → SbEntry) (w : World) : onEntry k n f w =
    onCtx k (fun x => { x with sb := x.sb.map (fun e => if e.serial = n then f e else e) }) w := rfl

theorem ctxAt_onEntry_same (k n : Nat) (f : SbEntry → SbEntry) {w : World} (h : storeSorted w.tiles.ctxs) : ctxAt (onEntry k n f w) k =
    { ctxAt w k with sb := (ctxAt w k).sb.map (fun e => if e.serial = n then f e else e) } := by rw [onEntry_eq, ctxAt_onCtx_same _ _ h]

theorem ctxAt_onEntry_other {k j : Nat} (n : Nat) (f : SbEntry → SbEntry) {w : World} (h : storeSorted w.tiles.ctxs) (hj : j ≠ k) :
    ctxAt (onEntry k n f w) j = ctxAt w j := by rw [onEntry_eq, ctxAt_onCtx_other _ h hj]

@[simp] theorem winAt_onEntry (k n : Nat) (f : SbEntry → SbEntry) (w : World) (j : Nat) : winAt (onEntry k n f w) j = winAt w j := rfl

theorem winAt_onEntry_onWin_same (k n j : Nat) (g : SbEntry → SbEntry) (f : Window → Window) {w : World} (h : storeSorted w.tiles.windows) :
    winAt (onEntry k n g (onWin j f w)) j = f (winAt w j) := by rw [winAt_onEntry, winAt_onWin_same j f h]

theorem winAt_onEntry_onWin_other (k n : Nat) {j i : Nat} (g : SbEntry → SbEntry) (f : Window → Window) {w : World}
    (h : storeSorted w.tiles.windows) (hi : i ≠ j) : winAt (onEntry k n g (onWin j f w)) i = winAt w i := by
  rw [winAt_onEntry, winAt_onWin_other f h hi]

/-- What an update gives every entry holds of the entries of its serial. -/
theorem onEntry_marks {k n : Nat} {f : SbEntry → SbEntry} {w : World} {P : SbEntry → Prop} (h : storeSorted w.tiles.ctxs)
    (hf : ∀ e, P (f e)) : ∀ g ∈ (ctxAt (onEntry k n f w) k).sb, g.serial = n → P g := by
  rw [ctxAt_onEntry_same k n f h]
  intro g hg hn
  obtain ⟨e, -, rfl⟩ := List.mem_map.mp hg
  split at hn
  next he => rw [if_pos he]; exact hf e
  next he => exact absurd hn he

/-! ## Words moved between scratchpads -/

theorem padRead_padWrite {tile a : Nat} {v : Bytes} {w : World} (hw : Memory.wf w.tiles.scratch) :
    padRead (padWrite tile a v w) tile a v.length = v := Mem.read_write _ v hw

theorem get_padWrite_outside {tile b a : Nat} {v : Bytes} {w : World} (hw : Memory.wf w.tiles.scratch)
    (ha : a < padAddr tile b ∨ padAddr tile b + v.length ≤ a) : Mem.get (padWrite tile b v w).tiles.scratch a = Mem.get w.tiles.scratch a :=
  Mem.get_write_outside v hw ha

@[simp] theorem length_padRead (w : World) (tile b n : Nat) : (padRead w tile b n).length = n := Mem.length_read ..

theorem outside_of_not_inWords {tile a : Nat} {r : Nat × Nat} (h : ¬ Claims.inWords tile r a) :
    a < padAddr tile (r.1 * 32) ∨ padAddr tile (r.1 * 32) + r.2 * 32 ≤ a := by
  unfold Claims.inWords at h; omega

/-- `l` words copied from word `a` of tile `t` to word `b` of tile `t'`. -/
def padCopy (t a t' b l : Nat) (w : World) : World := padWrite t' (b * 32) (padRead w t (a * 32) (l * 32)) w

theorem padRead_padCopy {t t' a b l : Nat} {w : World} (hw : Memory.wf w.tiles.scratch) :
    padRead (padCopy t a t' b l w) t' (b * 32) (l * 32) = padRead w t (a * 32) (l * 32) := by
  have h := padRead_padWrite (tile := t') (a := b * 32) (v := padRead w t (a * 32) (l * 32)) hw
  rwa [length_padRead] at h

theorem get_padCopy_outside {t t' a b l c : Nat} {w : World} (hw : Memory.wf w.tiles.scratch) (hc : ¬ Claims.inWords t' (b, l) c) :
    Mem.get (padCopy t a t' b l w).tiles.scratch c = Mem.get w.tiles.scratch c := by
  have houtside := outside_of_not_inWords hc
  exact get_padWrite_outside (tile := t') (b := b * 32) (v := padRead w t (a * 32) (l * 32)) hw (by rwa [length_padRead])

/-! ## The effects of the window commands -/

/-- The window that a WOPEN opens. -/
def newWindow (key : Nat) (e : SbEntry) : Window where
  isOpen := true
  closing := false
  ctx := key
  base := cBase e.cmd 0
  len := cLen e.cmd 0
  rights := wRights e.cmd
  dir := wDir e.cmd
  serial := e.serial
  inFlight := 0

/-- A command that its unit has begun. -/
def begunEntry (e : SbEntry) : SbEntry := { e with begun := true }

/-- A mesh command that the owner has answered: 0 accepted, else why it drops it. -/
def answeredEntry (r : Nat) (e : SbEntry) : SbEntry := { e with done := true, result := r }

/-- The words of an accepted transfer: to the owner with RPUT, from it with RGET. -/
def moveWords (c : TileCtx) (e : SbEntry) (n : Nat) (w : World) : World :=
  if cOp e.cmd = 0x32 then
    padCopy c.tile (cBase e.cmd 0) n ((winAt w (winKey n (wSlot e.cmd))).base + wOffset e.cmd) (cLen e.cmd 0) w
  else padCopy n ((winAt w (winKey n (wSlot e.cmd))).base + wOffset e.cmd) c.tile (cBase e.cmd 0) (cLen e.cmd 0) w

theorem moveWords_eq_with (c : TileCtx) (e : SbEntry) (n : Nat) (w : World) : ∃ m, moveWords c e n w =
    { w with tiles := { w.tiles with scratch := m } } := by
  unfold moveWords
  split <;> exact ⟨_, rfl⟩

/-- The effect of an accepted transfer. -/
def acceptTransfer (c : TileCtx) (e : SbEntry) (n : Nat) (w : World) : World :=
  onEntry (TileCtx.key c) e.serial (fun g => { g with done := true })
    (onWin (winKey n (wSlot e.cmd)) (fun v => { v with inFlight := v.inFlight + 1 }) (moveWords c e n w))

/-- The effect of a transfer that the owner drops. -/
def dropTransfer (c : TileCtx) (e : SbEntry) (n r : Nat) (w : World) : World :=
  onEntry (TileCtx.key c) e.serial (answeredEntry r)
    (onTiles (fun t => { t with winDropped := sUpd 0 t.winDropped n (· + 1), winNack := sUpd 0 t.winNack c.tile (· + 1) }) w)

/-- The commands that closed a slot are done with it. -/
def closedCtx (slot : Nat) (x : Ctx) : Ctx := { x with
  sb := x.sb.map (fun e => if cOp e.cmd = 0x31 && wSlot e.cmd = slot && e.begun then { e with done := true } else e) }

/-- A slot freed, and the WCLOSE of its context done. -/
def freeSlot (key slot ctx : Nat) (w : World) : World := onCtx ctx (closedCtx slot) (onWin key (fun _ => {}) w)

theorem winAt_freeSlot_same {key slot ctx : Nat} {w : World} (h : storeSorted w.tiles.windows) : winAt (freeSlot key slot ctx w) key = {} := by
  rw [freeSlot, winAt_onCtx, winAt_onWin_same _ _ h]

theorem winAt_freeSlot_other {key slot ctx j : Nat} {w : World} (h : storeSorted w.tiles.windows) (hj : j ≠ key) :
    winAt (freeSlot key slot ctx w) j = winAt w j := by
  rw [freeSlot, winAt_onCtx, winAt_onWin_other _ h hj]

theorem ctxAt_freeSlot_other {key slot ctx j : Nat} {w : World} (h : storeSorted w.tiles.ctxs) (hj : j ≠ ctx) :
    ctxAt (freeSlot key slot ctx w) j = ctxAt w j := by
  rw [freeSlot, ctxAt_onCtx_other _ (w := onWin key (fun _ => {}) w) h hj, ctxAt_onWin]

theorem freeSlot_sorted (key slot ctx : Nat) {w : World} (h : storeSorted w.tiles.ctxs) : storeSorted (freeSlot key slot ctx w).tiles.ctxs :=
  onCtx_sorted _ _ (w := onWin key (fun _ => {}) w) h

/-- A window fault writes what any context fault writes. -/
theorem windowFault_scope (k : Nat) (e : SbEntry) (w : World) : faultScope w (windowFault k e w) :=
  (faultScope_onCtx _ _ _).trans (contextFault_scope _ _ _)

theorem windowFault_stops (k : Nat) (e : SbEntry) {w : World} (h : storeSorted w.tiles.ctxs) :
    (ctxAt (windowFault k e w) k).faultReason = 6 ∧ (ctxAt (windowFault k e w) k).stopped = true := by
  obtain ⟨hs, hr, -⟩ := contextFault_stops k 6 (onCtx_sorted k (fun x => { x with sb := x.sb.filter (fun g => g.serial != e.serial) }) h)
  exact ⟨hr, hs⟩

end Sys2Proof.Machine

namespace Sys2Proof.Claims

open Sys2Proof.Machine

/-! ## The rows -/

section
variable {s : State} {c : TileCtx} {e : SbEntry}

theorem effectIs_wopen (h : nextOp s.live (TileCtx.key c) 0x30 = some e) (hok : wopenBad s.live c.tile (TileCtx.key c) e.cmd = false) :
    effectIs (.wopen c) s (onEntry (TileCtx.key c) e.serial begunEntry
      (onWin (winKey c.tile (wSlot e.cmd)) (fun _ => newWindow (TileCtx.key c) e) s.live)) := by
  refine ⟨_, (rfl : execWopen c s = _), ?_⟩
  simp only [h, hok]
  rfl

theorem effectIs_wopen_bad (h : nextOp s.live (TileCtx.key c) 0x30 = some e) (hbad : wopenBad s.live c.tile (TileCtx.key c) e.cmd = true) :
    effectIs (.wopen c) s (windowFault (TileCtx.key c) e s.live) := by
  refine ⟨_, (rfl : execWopen c s = _), ?_⟩
  simp only [h, hbad, if_true]

theorem effectIs_wclose (h : nextOp s.live (TileCtx.key c) 0x31 = some e)
    (hopen : (winAt s.live (winKey c.tile (wSlot e.cmd))).isOpen = true)
    (hctx : (winAt s.live (winKey c.tile (wSlot e.cmd))).ctx = TileCtx.key c)
    (hclosing : (winAt s.live (winKey c.tile (wSlot e.cmd))).closing = false) :
    effectIs (.wclose c) s (onEntry (TileCtx.key c) e.serial begunEntry
      (onWin (winKey c.tile (wSlot e.cmd)) (fun v => { v with closing := true }) s.live)) := by
  refine ⟨_, (rfl : execWclose c s = _), ?_⟩
  simp only [h, hopen, hctx, hclosing, beq_self_eq_true, Bool.not_false, Bool.and_self, if_true]
  rfl

theorem meshBegin_of_neighbour {op : Nat} (h : nextOp s.live (TileCtx.key c) op = some e) (hn : (neighbour c.tile (wDir e.cmd)).isSome = true) :
    meshBegin c op s.live = onEntry (TileCtx.key c) e.serial begunEntry s.live := by
  obtain ⟨n, hn⟩ := Option.isSome_iff_exists.mp hn
  simp only [meshBegin, h, hn, Option.isNone_some]
  rfl

theorem effectIs_mesh {i : Instr} (h : i = .rput c ∧ nextOp s.live (TileCtx.key c) 0x32 = some e ∨
    i = .rget c ∧ nextOp s.live (TileCtx.key c) 0x33 = some e) (hn : (neighbour c.tile (wDir e.cmd)).isSome = true) :
    effectIs i s (onEntry (TileCtx.key c) e.serial begunEntry s.live) := by
  obtain ⟨rfl, h⟩ | ⟨rfl, h⟩ := h
  · exact ⟨_, (rfl : execRput c s = _), meshBegin_of_neighbour h hn⟩
  · exact ⟨_, (rfl : execRget c s = _), meshBegin_of_neighbour h hn⟩

theorem effectIs_arrive_accepted {n : Nat}
    (h : (ctxAt s.live (TileCtx.key c)).sb.find? (fun e => unitOf (cOp e.cmd) == 4 && e.begun && !e.done) = some e)
    (hn : neighbour c.tile (wDir e.cmd) = some n) (hj : judgeTransfer (winAt s.live (winKey n (wSlot e.cmd))) e = 0) :
    effectIs (.windowTransferArrive c) s (acceptTransfer c e n s.live) := by
  refine ⟨_, (rfl : execWindowTransferArrive c s = _), ?_⟩
  simp only [h, hn, hj, if_true, winRange, cRange]
  rfl

theorem effectIs_arrive_dropped {n : Nat}
    (h : (ctxAt s.live (TileCtx.key c)).sb.find? (fun e => unitOf (cOp e.cmd) == 4 && e.begun && !e.done) = some e)
    (hn : neighbour c.tile (wDir e.cmd) = some n) (hj : judgeTransfer (winAt s.live (winKey n (wSlot e.cmd))) e ≠ 0) :
    effectIs (.windowTransferArrive c) s (dropTransfer c e n (judgeTransfer (winAt s.live (winKey n (wSlot e.cmd))) e) s.live) := by
  refine ⟨_, (rfl : execWindowTransferArrive c s = _), ?_⟩
  simp only [h, hn, if_neg hj]
  rfl

end

/-- A closed window frees its slot; its entry retires where it still stands in the scoreboard. -/
theorem effectIs_windowRetire {s : State} {tile : Fin 128} {slot : Fin 8} (hopen : (winAt s.live (winKey tile slot)).isOpen = true)
    (hclosing : (winAt s.live (winKey tile slot)).closing = true) (hflight : (winAt s.live (winKey tile slot)).inFlight = 0) :
    ∃ w, effectIs (.windowRetire tile slot) s w ∧ (w = freeSlot (winKey tile slot) slot (winAt s.live (winKey tile slot)).ctx s.live ∨
      ∃ e, w = retireEntry (winAt s.live (winKey tile slot)).ctx e
        (freeSlot (winKey tile slot) slot (winAt s.live (winKey tile slot)).ctx s.live)) := by
  refine ⟨_, ⟨_, (rfl : execWindowRetire tile slot s = _), rfl⟩, ?_⟩
  simp only [hopen, hclosing, hflight, beq_self_eq_true, Bool.and_self, whenW_true]
  split
  next e _ => exact .inr ⟨e, rfl⟩
  · exact .inl rfl

/-- Settles O41: each row is its effect on the entry of its command and on one slot, and a transfer's on one range of words. -/
theorem windowsOpenTransferAndClose : Obligations.WindowsOpenTransferAndClose := by
  unfold Obligations.WindowsOpenTransferAndClose
  refine ⟨?wopen, ?wclose, ?mesh, ?arrive, ?retire⟩
  case wopen =>
    intro s c e ha ho hnext
    refine ⟨fun hok => ?_, fun hbad => ?_⟩
    · exact runsTo_of_effectIs (effectIs_wopen hnext hok) ha rfl ⟨winAt_onEntry_onWin_same _ _ _ _ _ ho.windows,
        fun k hk => winAt_onEntry_onWin_other _ _ _ _ ho.windows hk, onEntry_marks ho.ctxs fun _ => rfl, rfl⟩
    · have hscope := windowFault_scope (TileCtx.key c) e s.live
      obtain ⟨hr, hs⟩ := windowFault_stops (TileCtx.key c) e ho.ctxs
      exact runsTo_of_effectIs (effectIs_wopen_bad hnext hbad) ha hscope.dev_eq ⟨hr, hs, by rw [hscope.eq_with]⟩
  case wclose =>
    intro s c e ha ho hnext hopen hctx hclosing
    exact runsTo_of_effectIs (effectIs_wclose hnext hopen hctx hclosing) ha rfl
      ⟨winAt_onEntry_onWin_same _ _ _ _ _ ho.windows, fun k hk => winAt_onEntry_onWin_other _ _ _ _ ho.windows hk, rfl⟩
  case mesh =>
    intro s c e i ha ho hi hn
    exact runsTo_of_effectIs (effectIs_mesh hi hn) ha rfl ⟨onEntry_marks ho.ctxs fun _ => rfl, rfl⟩
  case arrive =>
    rintro s c e n v ha ho ⟨hscratch, -⟩ hfind hn rfl
    refine ⟨fun hj => ?_, fun hj => ?_⟩
    · obtain ⟨m, hm⟩ := moveWords_eq_with c e n s.live
      have hctxs : storeSorted (moveWords c e n s.live).tiles.ctxs := by rw [hm]; exact ho.ctxs
      have hwins : storeSorted (moveWords c e n s.live).tiles.windows := by rw [hm]; exact ho.windows
      have hframe : acceptTransfer c e n s.live = { s.live with tiles := { s.live.tiles with
          ctxs := (acceptTransfer c e n s.live).tiles.ctxs, windows := (acceptTransfer c e n s.live).tiles.windows
          scratch := (acceptTransfer c e n s.live).tiles.scratch } } := by simp only [acceptTransfer, hm]; rfl
      have hmoved : (acceptTransfer c e n s.live).tiles.scratch = (moveWords c e n s.live).tiles.scratch := rfl
      refine runsTo_of_effectIs (effectIs_arrive_accepted hfind hn hj) ha (by rw [hframe]) ⟨fun hop => ?_, fun hop => ?_, ?_,
        onEntry_marks (w := onWin _ _ _) hctxs fun _ => rfl, congrArg (fun w => { s with live := w }) hframe⟩
      · simp only [padRead, hmoved, moveWords, if_pos hop]
        exact ⟨padRead_padCopy hscratch, fun a ha => get_padCopy_outside hscratch ha⟩
      · simp only [padRead, hmoved, moveWords, if_neg hop]
        exact ⟨padRead_padCopy hscratch, fun a ha => get_padCopy_outside hscratch ha⟩
      · rw [acceptTransfer, winAt_onEntry_onWin_same _ _ _ _ _ hwins, hm]
        rfl
    · exact runsTo_of_effectIs (effectIs_arrive_dropped hfind hn hj) ha rfl
        ⟨rfl, rfl, onEntry_marks (w := onTiles _ s.live) ho.ctxs fun _ => ⟨rfl, rfl⟩, rfl⟩
  case retire =>
    intro s tile slot ha ho hopen hclosing hflight
    obtain ⟨w, heff, hw⟩ := effectIs_windowRetire hopen hclosing hflight
    have hwin : winAt w (winKey tile slot) = {} ∧ ∀ k, k ≠ winKey tile slot → winAt w k = winAt s.live k := by
      obtain rfl | ⟨e, rfl⟩ := hw
      · exact ⟨winAt_freeSlot_same ho.windows, fun k hk => winAt_freeSlot_other ho.windows hk⟩
      · simp only [winAt_retireEntry]
        exact ⟨winAt_freeSlot_same ho.windows, fun k hk => winAt_freeSlot_other ho.windows hk⟩
    have hctx : ∀ k, k ≠ (winAt s.live (winKey tile slot)).ctx → ctxAt w k = ctxAt s.live k := by
      intro k hk
      obtain rfl | ⟨e, rfl⟩ := hw
      · exact ctxAt_freeSlot_other ho.ctxs hk
      · rw [ctxAt_retireEntry_other (freeSlot_sorted _ _ _ ho.ctxs) hk, ctxAt_freeSlot_other ho.ctxs hk]
    have hframe : w = { s.live with tiles := w.tiles } ∧ w.tiles.scratch = s.live.tiles.scratch ∧ w.tiles.banks = s.live.tiles.banks := by
      obtain rfl | ⟨e, rfl⟩ := hw <;> exact ⟨rfl, rfl, rfl⟩
    obtain ⟨hframe, hscratch, hbanks⟩ := hframe
    exact runsTo_of_effectIs heff ha (by rw [hframe]) ⟨hwin.1, hwin.2, hscratch, hbanks, hctx, congrArg (fun w => { s with live := w }) hframe⟩

end Sys2Proof.Claims
end

section
/-! PROOFS. A unit runs its next command (04 R95, R100): what each command of a unit can write, and the bursts of the far channel
(04 R104; log 23). -/

namespace Sys2Proof.Machine

/-! ## What the commands of a unit write -/

/-- What every repetition of a step relates to its start, the whole does. -/
theorem foldl_snd_related {α β : Type} {R : World → World → Prop} (hrefl : ∀ w, R w w) (htrans : ∀ {a b c}, R a b → R b c → R a c)
    {g : β × World → α → β × World} {l : List α} (h : ∀ j ∈ l, ∀ x, R x.2 (g x j).2) (x : β × World) : R x.2 (l.foldl g x).2 := by
  induction l generalizing x with
  | nil => exact hrefl x.2
  | cons a l ih => exact htrans (h a List.mem_cons_self x) (ih (fun j hj => h j (List.mem_cons_of_mem _ hj)) (g x a))

/-- `w'` differs from `w` at most in contexts, banks, scratchpads and the count of draws. -/
def unitScope (w w' : World) : Prop :=
  ∃ cs bs m n, w' = { w with tiles := { w.tiles with ctxs := cs, banks := bs, scratch := m }, free := n }

theorem unitScope.trans {a b c : World} (hab : unitScope a b) (hbc : unitScope b c) : unitScope a c := by
  obtain ⟨_, _, _, _, rfl⟩ := hab
  obtain ⟨cs, bs, m, n, rfl⟩ := hbc
  exact ⟨cs, bs, m, n, rfl⟩

theorem unitScope.eq_with {w w' : World} (h : unitScope w w') : w' = { w with
    tiles := { w.tiles with ctxs := w'.tiles.ctxs, banks := w'.tiles.banks, scratch := w'.tiles.scratch }, free := w'.free } := by
  obtain ⟨_, _, _, _, rfl⟩ := h; rfl

theorem unitScope_onEntry (k n : Nat) (f : SbEntry → SbEntry) (w : World) : unitScope w (onEntry k n f w) := ⟨_, _, _, _, rfl⟩

/-- `w'` differs from `w` at most in banks, scratchpads and the count of draws: what the tensor unit and stores write. -/
def storeScope (w w' : World) : Prop := ∃ bs m n, w' = { w with tiles := { w.tiles with banks := bs, scratch := m }, free := n }

theorem storeScope.refl (w : World) : storeScope w w := ⟨_, _, _, rfl⟩

theorem storeScope.trans {a b c : World} (hab : storeScope a b) (hbc : storeScope b c) : storeScope a c := by
  obtain ⟨_, _, _, rfl⟩ := hab
  obtain ⟨bs, m, n, rfl⟩ := hbc
  exact ⟨bs, m, n, rfl⟩

theorem storeScope_padWrite (tile b : Nat) (v : Bytes) (w : World) : storeScope w (padWrite tile b v w) := ⟨_, _, _, rfl⟩

/-- A command of context `k` leaves every other context alone and its own scoreboard as it stands. -/
def ownContext (k : Nat) (w w' : World) : Prop :=
  storeSorted w.tiles.ctxs → storeSorted w'.tiles.ctxs ∧ (∀ j, j ≠ k → ctxAt w' j = ctxAt w j) ∧ (ctxAt w' k).sb = (ctxAt w k).sb

/-- What a command of context `k` may write. -/
def unitWrites (k : Nat) (w w' : World) : Prop := unitScope w w' ∧ ownContext k w w'

theorem storeScope.unitWrites {w w' : World} (h : storeScope w w') (k : Nat) : unitWrites k w w' := by
  obtain ⟨_, _, _, rfl⟩ := h
  exact ⟨⟨_, _, _, _, rfl⟩, fun hs => ⟨hs, fun _ _ => rfl, rfl⟩⟩

theorem unitWrites_onCtx {k : Nat} {f : Ctx → Ctx} (hf : ∀ x, (f x).sb = x.sb) (w : World) : unitWrites k w (onCtx k f w) :=
  ⟨⟨_, _, _, _, rfl⟩, fun hs => ⟨onCtx_sorted k f hs, fun _ hj => ctxAt_onCtx_other f hs hj, by rw [ctxAt_onCtx_same k f hs, hf]⟩⟩

/-! ## The commands -/

section
variable (tile k : Nat) (e : SbEntry) (w : World)

theorem runMatmul_scope : storeScope w (runMatmul tile e w).2 := ⟨_, _, _, rfl⟩

theorem rowsOut_scope (c : BitVec 256) (i stride fmt : Nat) (sat : Bool) (rows : List (List Acc)) :
    storeScope w (rowsOut tile c i stride fmt sat rows w).2 := by
  refine foldl_snd_related storeScope.refl storeScope.trans (fun r _ x => ?_) (0, w)
  dsimp only
  split
  · exact storeScope_padWrite _ _ _ _
  · exact (storeScope_padWrite _ _ _ _).trans (storeScope_padWrite _ _ _ _)

/-- The rows of entries that a TACC writes out. -/
def taccRows : List (List Acc) := (upTo (tM e.cmd)).map (fun i => (upTo (tN e.cmd)).map (fun j => bankGet w (bankKey tile (tBank e.cmd) i j)))

/-- A bank with every entry zero. -/
def clearBank (lo : Nat) : World → World :=
  onTiles (fun t => { t with banks := t.banks.filter (fun b => decide (b.1 < lo) || decide (lo + 16384 ≤ b.1)) })

theorem runTacc_world : (runTacc tile e w).2 =
    if tClear e.cmd then clearBank (bankKey tile (tBank e.cmd) 0 0)
      (rowsOut tile e.cmd 0 (wordsOf (fmtBytes (tFmt e.cmd) (tN e.cmd))) (tFmt e.cmd) (cSat e.cmd) (taccRows tile e w) w).2
    else (rowsOut tile e.cmd 0 (wordsOf (fmtBytes (tFmt e.cmd) (tN e.cmd))) (tFmt e.cmd) (cSat e.cmd) (taccRows tile e w) w).2 := by
  dsimp only [runTacc, taccRows, clearBank]

theorem runTacc_scope : storeScope w (runTacc tile e w).2 := by
  have hrows := rowsOut_scope tile w e.cmd 0 (wordsOf (fmtBytes (tFmt e.cmd) (tN e.cmd))) (tFmt e.cmd) (cSat e.cmd) (taccRows tile e w)
  rw [runTacc_world]
  split
  · exact hrows.trans ⟨_, _, _, rfl⟩
  · exact hrows

theorem runTaccLoad_scope : storeScope w (runTaccLoad tile e w).2 := by
  refine foldl_snd_related storeScope.refl storeScope.trans (fun i _ x => ?_) (0, w)
  exact ⟨_, _, _, rfl⟩

theorem runVst_scope : storeScope w (runVst tile k e w).2 := by
  unfold runVst
  dsimp only
  split
  · exact storeScope_padWrite _ _ _ _
  · exact rowsOut_scope ..

theorem runVld_writes : unitWrites k w (runVld tile k e w).2 := by
  unfold runVld
  exact unitWrites_onCtx (f := setLanes _ _) (fun _ => rfl) w

theorem runVop_writes : unitWrites k w (runVop k e w).2 := by
  rw [runVop_world]
  exact unitWrites_onCtx (f := setLanes _ _) (fun _ => rfl) w

theorem runVsf_writes : unitWrites k w (runVsf k e w).2 := by
  rw [runVsf_world]
  exact unitWrites_onCtx (f := setLanes _ _) (fun _ => rfl) w

theorem runVred_writes : unitWrites k w (runVred k e w).2 := by
  obtain ⟨⟨cs, bs, m, n, h⟩, hown⟩ := unitWrites_onCtx (k := k) (f := fun x => { x with v := sPut 0 x.v (vD e.cmd * 64) (vredResult k e w) })
    (fun _ => rfl) (vredDrawn w)
  rw [runVred_world]
  exact ⟨⟨cs, bs, m, n, h⟩, hown⟩

end

/-! ## Running the next command of a unit -/

/-- The world after a unit has run an entry. -/
def ranUnit (c : TileCtx) (e : SbEntry) (f : SbEntry → World → BitVec 8 × World) (w : World) : World :=
  onEntry (TileCtx.key c) e.serial (fun g => { g with begun := true, done := true, flags := g.flags ||| (f e w).1 }) (f e w).2

theorem runUnit_next {c : TileCtx} {op : Nat} {f : SbEntry → World → BitVec 8 × World} {e : SbEntry} {w : World}
    (h : nextFor (ctxAt w (TileCtx.key c)) (unitOf op) = some e) (hop : cOp e.cmd = op) : runUnit c op f w = ranUnit c e f w := by
  simp only [runUnit, h, hop, if_true]
  rfl

/-! ## Bursts -/

/-- `w'` differs from `w` at most in scratchpads, Stratum, what has left the device and the count of draws. -/
def burstScope (w w' : World) : Prop :=
  ∃ m st o n, w' = { w with tiles := { w.tiles with scratch := m, stratum := st }, out := o, free := n }

theorem burstScope.refl (w : World) : burstScope w w := ⟨_, _, _, _, rfl⟩

theorem burstScope.trans {a b c : World} (hab : burstScope a b) (hbc : burstScope b c) : burstScope a c := by
  obtain ⟨_, _, _, _, rfl⟩ := hab
  obtain ⟨m, st, o, n, rfl⟩ := hbc
  exact ⟨m, st, o, n, rfl⟩

theorem burstScope.eq_with {w w' : World} (h : burstScope w w') : w' = { w with
    tiles := { w.tiles with scratch := w'.tiles.scratch, stratum := w'.tiles.stratum }, out := w'.out, free := w'.free } := by
  obtain ⟨_, _, _, _, rfl⟩ := h; rfl

theorem partIn_scope (tile : Nat) (e : SbEntry) (i r first fmt : Nat) (data scales : Bytes) (w : World) :
    burstScope w (partIn tile e i r first fmt data scales w) := by
  unfold partIn
  dsimp only
  split <;> exact ⟨_, _, _, _, rfl⟩

theorem farRead_scope (w : World) (c : TileCtx) (d : BitVec 256) (a n : Nat) : burstScope w (farRead w c d a n).2 := by
  unfold farRead
  split <;> exact ⟨_, _, _, _, rfl⟩

theorem farWrite_scope (c : TileCtx) (d : BitVec 256) (a : Nat) (v : Bytes) (w : World) : burstScope w (farWrite c d a v w) := by
  unfold farWrite
  split
  · exact burstScope.refl w
  · split <;> exact ⟨_, _, _, _, rfl⟩

/-- A burst that DMA_LD reads from far memory, data and then scales, and the world in which it has been read. -/
def farBurst (c : TileCtx) (e : SbEntry) (i : Nat) (w : World) : Bytes × Bytes × World :=
  let d := e.desc
  let b := burstAt d i
  let a := farAt d b.1 b.2.1 (dSrc d)
  let data := farRead w c d a.1 (fmtBytes (dSrc d) b.2.2)
  let scales := farRead data.2 c d a.2 (scaleBytes (dSrc d) b.2.2)
  (data.1, scales.1, scales.2)

/-- A burst converted: data and scales, and those of the lo part. -/
def converted (e : SbEntry) (i : Nat) (data scales : Bytes) : Bytes × Bytes × Bytes × Bytes × BitVec 8 :=
  let b := burstAt e.desc i
  convertPart e.desc (dmaSat e) b.1 b.2.1 b.2.2 data scales

theorem loadBurst_world (c : TileCtx) (e : SbEntry) (i : Nat) (w : World) : (loadBurst c e i w).2 =
    let b := burstAt e.desc i
    let far := farBurst c e i w
    let x := converted e i far.1 far.2.1
    let w' := partIn c.tile e 0 b.1 b.2.1 (dDst e.desc) x.1 x.2.1 far.2.2
    if dSplit e.desc then partIn c.tile e 2 b.1 b.2.1 (dDst e.desc) x.2.2.1 x.2.2.2.1 w' else w' := by
  dsimp only [loadBurst, farBurst, converted]

/-- The burst that a command reads from its own scratchpad, converted. -/
def localBurst (c : TileCtx) (e : SbEntry) (i : Nat) (w : World) : Bytes × Bytes × Bytes × Bytes × BitVec 8 :=
  let b := burstAt e.desc i
  let src := partOut w c.tile e 0 b.1 b.2.1 b.2.2 (dSrc e.desc)
  converted e i src.1 src.2

theorem storeBurst_world (c : TileCtx) (e : SbEntry) (i : Nat) (w : World) : (storeBurst c e i w).2 =
    let b := burstAt e.desc i
    let a := farAt e.desc b.1 b.2.1 (dDst e.desc)
    let x := localBurst c e i w
    farWrite c e.desc a.2 x.2.1 (farWrite c e.desc a.1 x.1 w) := by
  dsimp only [storeBurst, localBurst, converted]

theorem copyBurst_world (c : TileCtx) (e : SbEntry) (i : Nat) (w : World) : (copyBurst c e i w).2 =
    let b := burstAt e.desc i
    let x := localBurst c e i w
    partIn c.tile e (if fmtScaled (dSrc e.desc) then 2 else 1) b.1 b.2.1 (dDst e.desc) x.1 x.2.1 w := by
  dsimp only [copyBurst, localBurst, converted]

theorem farBurst_scope (c : TileCtx) (e : SbEntry) (i : Nat) (w : World) : burstScope w (farBurst c e i w).2.2 :=
  (farRead_scope w ..).trans (farRead_scope ..)

theorem loadBurst_scope (c : TileCtx) (e : SbEntry) (i : Nat) (w : World) : burstScope w (loadBurst c e i w).2 := by
  rw [loadBurst_world]
  dsimp only
  have hhi (data scales : Bytes) := (farBurst_scope c e i w).trans
    (partIn_scope c.tile e 0 (burstAt e.desc i).1 (burstAt e.desc i).2.1 (dDst e.desc) data scales _)
  split
  · exact (hhi _ _).trans (partIn_scope ..)
  · exact hhi _ _

theorem storeBurst_scope (c : TileCtx) (e : SbEntry) (i : Nat) (w : World) : burstScope w (storeBurst c e i w).2 := by
  rw [storeBurst_world]
  exact (farWrite_scope ..).trans (farWrite_scope ..)

theorem copyBurst_scope (c : TileCtx) (e : SbEntry) (i : Nat) (w : World) : burstScope w (copyBurst c e i w).2 := by
  rw [copyBurst_world]
  exact partIn_scope ..

/-! ## The next bursts of a command -/

/-- Where a command stands after `n` bursts more, or the rest. -/
def stopAt (e : SbEntry) (n : Nat) : Nat := min (allBursts e.desc) (e.bursts + n)

/-- The next bursts of a command, with their flags. -/
def movedBursts (e : SbEntry) (n : Nat) (f : SbEntry → Nat → World → BitVec 8 × World) (w : World) : BitVec 8 × World :=
  (upTo (stopAt e n - e.bursts)).foldl (fun (a : BitVec 8 × World) j =>
    (a.1 ||| (f e (e.bursts + j) a.2).1, (f e (e.bursts + j) a.2).2)) (0, w)

/-- The entry of a command that has moved its bursts as far as `stop`, of `total`. -/
def movedEntry (stop total : Nat) (fl : BitVec 8) (g : SbEntry) : SbEntry :=
  { g with begun := true, done := decide (stop = total), bursts := stop, flags := g.flags ||| fl }

theorem moveBursts_eq (c : TileCtx) (e : SbEntry) (n : Nat) (f : SbEntry → Nat → World → BitVec 8 × World) (w : World) : moveBursts c e n f w =
    onEntry (TileCtx.key c) e.serial (movedEntry (stopAt e n) (allBursts e.desc) (movedBursts e n f w).1) (movedBursts e n f w).2 := rfl

theorem moveBursts_eq_with (c : TileCtx) {e : SbEntry} {n : Nat} {f : SbEntry → Nat → World → BitVec 8 × World} {w : World}
    (h : burstScope w (movedBursts e n f w).2) :
    (moveBursts c e n f w).tiles = { w.tiles with
      ctxs := (moveBursts c e n f w).tiles.ctxs, scratch := (movedBursts e n f w).2.tiles.scratch
      stratum := (movedBursts e n f w).2.tiles.stratum } ∧
    moveBursts c e n f w = { w with
      tiles := (moveBursts c e n f w).tiles, out := (movedBursts e n f w).2.out, free := (movedBursts e n f w).2.free } := by
  obtain ⟨_, _, _, _, h⟩ := h
  rw [moveBursts_eq, h]
  exact ⟨rfl, rfl⟩

/-- What every burst of a command relates to its start, the next bursts together do. -/
theorem movedBursts_related {R : World → World → Prop} (hrefl : ∀ w, R w w) (htrans : ∀ {a b c}, R a b → R b c → R a c) {e : SbEntry}
    {f : SbEntry → Nat → World → BitVec 8 × World} (h : ∀ j, j < allBursts e.desc → ∀ w, R w (f e j w).2) (n : Nat) (w : World) :
    R w (movedBursts e n f w).2 := by
  unfold movedBursts
  refine foldl_snd_related hrefl htrans (fun j hj x => ?_) (0, w)
  refine h _ ?_ x.2
  have hstop : stopAt e n ≤ allBursts e.desc := Nat.min_le_left _ _
  have hlt : j < stopAt e n - e.bursts := List.mem_range.mp hj
  omega

/-- A far command whose range leaves its target: it leaves the scoreboard, and its context faults (04 R104). -/
def farFault (c : TileCtx) (e : SbEntry) (w : World) : World :=
  contextFault (TileCtx.key c) 5 (onCtx (TileCtx.key c) (fun x => { x with sb := x.sb.filter (fun g => g.serial != e.serial) }) w)

theorem farFault_scope (c : TileCtx) (e : SbEntry) (w : World) : faultScope w (farFault c e w) :=
  (faultScope_onCtx _ _ _).trans (contextFault_scope _ _ _)

theorem ctxAt_farFault (c : TileCtx) (e : SbEntry) {w : World} (h : storeSorted w.tiles.ctxs) : ctxAt (farFault c e w) (TileCtx.key c) =
    faultCtx 5 w.dev.epoch { ctxAt w (TileCtx.key c) with
      sb := (ctxAt w (TileCtx.key c)).sb.filter (fun g => g.serial != e.serial) } := by
  rw [farFault, ctxAt_contextFault _ _ (onCtx_sorted _ _ h), ctxAt_onCtx_same _ _ h]
  rfl

/-- A far command that has moved nothing, and whose range leaves its target. -/
def farBad (w : World) (c : TileCtx) (op : Nat) (e : SbEntry) : Bool :=
  !e.begun && (op == 0x20 && !farOk w c (dSrc e.desc) e.desc || op == 0x21 && !farOk w c (dDst e.desc) e.desc)

theorem farBad_of_farOk {w : World} {c : TileCtx} {op : Nat} {e : SbEntry}
    (hld : op = 0x20 → e.begun = false → farOk w c (dSrc e.desc) e.desc = true)
    (hst : op = 0x21 → e.begun = false → farOk w c (dDst e.desc) e.desc = true) : farBad w c op e = false := by
  cases hb : e.begun with
  | true => simp [farBad, hb]
  | false =>
    simp only [farBad, hb, Bool.not_false, Bool.true_and, Bool.or_eq_false_iff, Bool.and_eq_false_imp, beq_iff_eq, Bool.not_eq_false']
    exact ⟨fun hop => hld hop hb, fun hop => hst hop hb⟩

end Sys2Proof.Machine

namespace Sys2Proof.Claims

open Sys2Proof.Machine

/-! ## The rows -/

theorem unitRow_writes {i : Instr} {c : TileCtx} {op : Nat} {f : SbEntry → World → BitVec 8 × World} (h : unitRow i = some (c, op, f))
    (e : SbEntry) (w : World) : unitWrites (TileCtx.key c) w (f e w).2 := by
  unfold unitRow at h
  split at h <;> cases h
  · exact (storeScope.refl w).unitWrites _
  · exact (runMatmul_scope ..).unitWrites _
  · exact (runTacc_scope ..).unitWrites _
  · exact (runTaccLoad_scope ..).unitWrites _
  · exact runVld_writes ..
  · exact (runVst_scope ..).unitWrites _
  · exact runVop_writes ..
  · exact runVsf_writes ..
  · exact runVred_writes ..

theorem exec_of_unitRow {i : Instr} {c : TileCtx} {op : Nat} {f : SbEntry → World → BitVec 8 × World} (h : unitRow i = some (c, op, f))
    (s : State) : exec i s = liveEffect (runUnit c op f) s := by
  unfold unitRow at h
  split at h <;> cases h <;> rfl

theorem effectIs_unit {s : State} {i : Instr} {c : TileCtx} {op : Nat} {f : SbEntry → World → BitVec 8 × World} {e : SbEntry}
    (h : unitRow i = some (c, op, f)) (hn : nextFor (ctxAt s.live (TileCtx.key c)) (unitOf op) = some e) (hop : cOp e.cmd = op) :
    effectIs i s (ranUnit c e f s.live) := ⟨_, exec_of_unitRow h s, runUnit_next hn hop⟩

theorem dmaRow_scope {i : Instr} {c : TileCtx} {op n : Nat} {f : SbEntry → Nat → World → BitVec 8 × World}
    (h : dmaRow i = some (c, op, n, f)) (e : SbEntry) (j : Nat) (w : World) : burstScope w (f e j w).2 := by
  unfold dmaRow at h
  split at h <;> cases h
  · exact loadBurst_scope ..
  · exact storeBurst_scope ..
  · exact copyBurst_scope ..

theorem effectIs_dma {s : State} {i : Instr} {c : TileCtx} {op n : Nat} {f : SbEntry → Nat → World → BitVec 8 × World} {e : SbEntry}
    (h : dmaRow i = some (c, op, n, f)) (hh : farHead s.live c op = some e) :
    effectIs i s (if farBad s.live c op e then farFault c e s.live else moveBursts c e n f s.live) := by
  unfold dmaRow at h
  split at h <;> cases h
  case h_1 r =>
    refine ⟨_, (rfl : execDmaLd r s = _), ?_⟩
    simp only [runFar, hh, farBad, beq_self_eq_true, Bool.true_and, show ((0x20 : Nat) == 0x21) = false from rfl, Bool.false_and, Bool.or_false]
    rfl
  case h_2 r =>
    refine ⟨_, (rfl : execDmaSt r s = _), ?_⟩
    simp only [runFar, hh, farBad, beq_self_eq_true, Bool.true_and, show ((0x21 : Nat) == 0x20) = false from rfl, Bool.false_and, Bool.false_or]
    rfl
  case h_3 r =>
    refine ⟨_, (rfl : execDmaLc r s = _), ?_⟩
    simp only [hh, farBad, show ((0x22 : Nat) == 0x20) = false from rfl, show ((0x22 : Nat) == 0x21) = false from rfl, Bool.false_and,
      Bool.or_false, Bool.and_false, Bool.false_eq_true, if_false]

/-- Settles O37: a unit's command keeps to its own context's registers, the banks and the scratchpads; bursts keep to the memories; a far
command outside its target only faults. -/
theorem unitsRunTheirNextCommand : Obligations.UnitsRunTheirNextCommand := by
  unfold Obligations.UnitsRunTheirNextCommand
  refine ⟨?unit, ?bursts, ?farFault⟩
  case unit =>
    intro s i c op f e ha ho hi hn hop
    obtain ⟨hscope, hown⟩ := unitRow_writes hi e s.live
    obtain ⟨hsorted, hother, hsb⟩ := hown ho.ctxs
    have hran : unitScope s.live (ranUnit c e f s.live) := hscope.trans (unitScope_onEntry _ _ _ _)
    refine runsTo_of_effectIs (effectIs_unit hi hn hop) ha (by rw [hran.eq_with]) ⟨?_, ?_, fun k hk => ?_, rfl, ?_, ?_⟩
    · rw [ranUnit, ctxAt_onEntry_same _ _ _ hsorted, hsb]
    · rw [ranUnit, ctxAt_onEntry_same _ _ _ hsorted]
    · rw [ranUnit, ctxAt_onEntry_other _ _ hsorted hk, hother k hk]
    · exact congrArg World.tiles hran.eq_with
    · rw [hran.eq_with]
  case bursts =>
    intro s i c op n stop f e moved ha ho hi hh hstop hld hst hmoved
    obtain rfl : stop = stopAt e n := hstop
    obtain rfl : moved = movedBursts e n f s.live := hmoved
    have hscope : burstScope s.live (movedBursts e n f s.live).2 :=
      movedBursts_related burstScope.refl burstScope.trans (fun j _ w => dmaRow_scope hi e j w) n s.live
    have hctxs : (movedBursts e n f s.live).2.tiles.ctxs = s.live.tiles.ctxs := by rw [hscope.eq_with]
    have hctx (k : Nat) : ctxAt (movedBursts e n f s.live).2 k = ctxAt s.live k := by rw [ctxAt, hctxs]; rfl
    have hsorted : storeSorted (movedBursts e n f s.live).2.tiles.ctxs := by rw [hctxs]; exact ho.ctxs
    have heff := effectIs_dma hi hh
    rw [if_neg (by simp [farBad_of_farOk hld hst])] at heff
    obtain ⟨htiles, hframe⟩ := moveBursts_eq_with c hscope
    refine runsTo_of_effectIs heff ha (by rw [hframe]) ⟨?_, fun k hk => ?_, htiles, congrArg (fun w => { s with live := w }) hframe⟩
    · rw [moveBursts_eq, ctxAt_onEntry_same _ _ _ hsorted, hctx]
      rfl
    · rw [moveBursts_eq, ctxAt_onEntry_other _ _ hsorted hk, hctx]
  case farFault =>
    intro s c e i n ha ho hbegun h
    have heff : effectIs i s (farFault c e s.live) := by
      obtain ⟨rfl, hh, hfar⟩ | ⟨rfl, hh, hfar⟩ := h
      · have heff := effectIs_dma (i := .dmaLd ⟨c, n⟩) rfl hh
        rwa [farBad, hbegun, hfar, if_pos (by rfl)] at heff
      · have heff := effectIs_dma (i := .dmaSt ⟨c, n⟩) rfl hh
        rwa [farBad, hbegun, hfar, if_pos (by rfl)] at heff
    have hscope := farFault_scope c e s.live
    refine runsTo_of_effectIs heff ha hscope.dev_eq ⟨?_, ?_, ?_, by rw [hscope.eq_with], by rw [hscope.eq_with], by rw [hscope.eq_with]⟩
    all_goals rw [ctxAt_farFault c e ho.ctxs]; rfl

end Sys2Proof.Claims
end

section
/-! PROOFS. A tile command writes within its declared ranges (04 R94, R103, R104): how many bytes each format takes, where the rows and
the bursts of a command stand, and what a memory keeps outside a set of bytes. -/

namespace Sys2Proof.Machine

/-! ## Bytes of rows in the formats of 04 Table 4.12 -/

theorem length_quantBlock (g8 : Bool) (xs : List Acc) : (quantBlock g8 xs).2.1.length = xs.length := by simp [quantBlock]

theorem length_quantRow_codes (g8 : Bool) (k : Nat) (xs : List Acc) : (quantRow g8 k xs).1.length = min (32 * k) xs.length := by
  induction k generalizing xs with
  | zero => simp [quantRow]
  | succ k ih =>
    simp only [quantRow, List.length_append, length_quantBlock, ih, List.length_take, List.length_drop]
    omega

theorem length_quantRow_scales (g8 : Bool) (k : Nat) (xs : List Acc) : (quantRow g8 k xs).2.1.length = k := by
  induction k generalizing xs with
  | zero => rfl
  | succ k ih => simp [quantRow, ih]

theorem length_nibbles (l : List Nat) : (nibbles l).length = (l.length + 1) / 2 := by
  induction l using nibbles.induct with
  | case1 a b rest ih => simp only [nibbles, List.length_cons, ih]; omega
  | case2 a => simp [nibbles]
  | case3 => simp [nibbles]

theorem length_flatten_leBytes (k : Nat) (f : Acc → Nat × BitVec 8) (xs : List Acc) :
    (((xs.map f).map (fun p => leBytes k p.1)).flatten).length = k * xs.length := by
  rw [length_flatten_of_uniform (n := k) (by simp), List.length_map, List.length_map, Nat.mul_comm]

/-- The data of a row takes the bytes of its format. -/
theorem length_rowWrite_data (fmt : Nat) (sat : Bool) (xs : List Acc) : (rowWrite fmt sat xs).1.length = fmtBytes fmt xs.length := by
  have hcodes (g8 : Bool) : (quantRow g8 ((xs.length + 31) / 32) xs).1.length = xs.length := by rw [length_quantRow_codes]; omega
  match fmt with
  | 0 => exact length_flatten_leBytes 2 _ xs
  | 1 => exact length_flatten_leBytes 4 _ xs
  | 2 => exact length_flatten_leBytes 2 _ xs
  | 3 => exact length_flatten_leBytes 4 _ xs
  | 4 => exact (length_flatten_leBytes 1 _ xs).trans (Nat.one_mul _)
  | 5 => simp only [rowWrite, fmtBytes, List.length_map, hcodes]
  | n + 6 => simp only [rowWrite, fmtBytes, length_nibbles, hcodes]

/-- The scales of a row, one of 32 elements in the block-scaled formats. -/
theorem length_rowWrite_scales {fmt : Nat} (hfmt : fmt < 7) (sat : Bool) (xs : List Acc) :
    (rowWrite fmt sat xs).2.1.length = scaleBytes fmt xs.length := by
  match fmt, hfmt with
  | 0, _ | 1, _ | 2, _ | 3, _ | 4, _ => rfl
  | 5, _ | 6, _ => simp [rowWrite, scaleBytes, fmtScaled, length_quantRow_scales]

@[simp] theorem length_rowRead (fmt n : Nat) (data scales : Bytes) : (rowRead fmt n data scales).1.length = n := by simp [rowRead, upTo]

theorem length_ropeRow (sat : Bool) (pos len : Nat) (base : W32) : ∀ (i : Nat) (xs : List Acc),
    (ropeRow sat pos len base i xs).1.length = xs.length
  | i, _ :: _ :: rest => by simp [ropeRow, length_ropeRow sat pos len base (i + 1) rest]
  | _, [_] => rfl
  | _, [] => rfl

/-- A part of a burst as it is stored: data and scales of `n` elements in a format. -/
def storedAs (fmt n : Nat) (data scales : Bytes) : Prop := data.length = fmtBytes fmt n ∧ scales.length = scaleBytes fmt n

theorem storedAs_rowWrite {fmt : Nat} (hfmt : fmt < 7) (sat : Bool) {xs : List Acc} {n : Nat} (h : xs.length = n) :
    storedAs fmt n (rowWrite fmt sat xs).1 (rowWrite fmt sat xs).2.1 :=
  ⟨by rw [length_rowWrite_data, h], by rw [length_rowWrite_scales hfmt, h]⟩

/-- The elements of a burst as they are read, rotated where the descriptor asks for it. -/
def rotatedRow (d : BitVec 256) (sat : Bool) (r first n : Nat) (data scales : Bytes) : List Acc :=
  (if dRope d then ropeRow sat (dRopePos d + r) (dRowLen d) (dRopeBase d) (first / 2) (rowRead (dSrc d) n data scales).1
    else ((rowRead (dSrc d) n data scales).1, 0)).1

theorem length_rotatedRow (d : BitVec 256) (sat : Bool) (r first n : Nat) (data scales : Bytes) :
    (rotatedRow d sat r first n data scales).length = n := by
  unfold rotatedRow
  split
  · rw [length_ropeRow, length_rowRead]
  · exact length_rowRead ..

/-- A conversion yields as many elements as it takes: the hi part, and the lo part of a SPLIT. -/
theorem storedAs_convertPart {d : BitVec 256} {sat : Bool} {r first n : Nat} {data scales : Bytes} (hfmt : dDst d < 7)
    (hsrc : storedAs (dSrc d) n data scales) :
    storedAs (dDst d) n (convertPart d sat r first n data scales).1 (convertPart d sat r first n data scales).2.1 ∧
    (dSplit d = true → storedAs (dDst d) n (convertPart d sat r first n data scales).2.2.1 (convertPart d sat r first n data scales).2.2.2.1) := by
  unfold convertPart
  split
  next hcopy =>
    simp only [Bool.and_eq_true, decide_eq_true_eq, Bool.not_eq_true'] at hcopy
    obtain ⟨⟨heq, -⟩, hsplit⟩ := hcopy
    exact ⟨heq ▸ hsrc, fun h => absurd h (by simp [hsplit])⟩
  next =>
    have hrow := length_rotatedRow d sat r first n data scales
    dsimp only
    split
    next =>
      refine ⟨storedAs_rowWrite hfmt sat hrow, fun _ => storedAs_rowWrite hfmt sat ?_⟩
      rw [List.length_map, List.length_map, List.length_zip, length_rowRead]
      exact (congrArg (min · n) hrow).trans (Nat.min_self n)
    next hsplit => exact ⟨storedAs_rowWrite hfmt sat hrow, fun h => absurd h hsplit⟩

/-! ## Where bursts stand (04 R104; log 23) -/

/-- Every burst of a descriptor lies in one of its rows, at a multiple of 64 elements. -/
theorem burstAt_inside {d : BitVec 256} {i : Nat} (hlen : 1 ≤ dRowLen d) (hi : i < allBursts d) :
    (burstAt d i).1 < dRows d ∧ 64 ∣ (burstAt d i).2.1 ∧ (burstAt d i).2.1 + (burstAt d i).2.2 ≤ dRowLen d := by
  have hpos : 0 < rowBursts d := by unfold rowBursts burstLen; omega
  have hmod : i % rowBursts d < (dRowLen d + 63) / 64 := Nat.mod_lt i hpos
  refine ⟨Nat.div_lt_of_lt_mul (by rwa [Nat.mul_comm]), Dvd.intro_left _ rfl, ?_⟩
  simp only [burstAt, burstLen]
  omega

theorem fmtBytes_add_le {first n len : Nat} (fmt : Nat) (hfirst : 64 ∣ first) (hn : first + n ≤ len) :
    fmtBytes fmt first + fmtBytes fmt n ≤ fmtBytes fmt len := by
  unfold fmtBytes
  split <;> omega

theorem scaleBytes_add_le {fmt first n len : Nat} (hfirst : 64 ∣ first) (hn : first + n ≤ len) (hs : fmtScaled fmt = true) :
    first / 32 + scaleBytes fmt n ≤ scaleBytes fmt len := by
  simp only [scaleBytes, hs, if_true]
  omega

theorem scaleBytes_of_not_scaled {fmt : Nat} (h : fmtScaled fmt = false) (n : Nat) : scaleBytes fmt n = 0 := by simp [scaleBytes, h]

theorem le_wordsOf (b : Nat) : b ≤ wordsOf b * 32 := by unfold wordsOf; omega

/-! ## A memory outside a set of bytes -/

/-- A memory that keeps its form and every byte outside `P`. -/
def keepsOutside (P : Nat → Prop) (m m' : List Host.Cell) : Prop :=
  Memory.wf m → Memory.wf m' ∧ ∀ a, ¬ P a → Mem.get m' a = Mem.get m a

theorem keepsOutside.refl (P : Nat → Prop) (m : List Host.Cell) : keepsOutside P m m := fun h => ⟨h, fun _ _ => rfl⟩

theorem keepsOutside.trans {P : Nat → Prop} {a b c : List Host.Cell} (hab : keepsOutside P a b) (hbc : keepsOutside P b c) :
    keepsOutside P a c := by
  intro ha
  obtain ⟨hb, hab⟩ := hab ha
  obtain ⟨hc, hbc⟩ := hbc hb
  exact ⟨hc, fun x hx => (hbc x hx).trans (hab x hx)⟩

theorem keepsOutside_write {P : Nat → Prop} (m : List Host.Cell) {a : Nat} {v : Bytes} (h : ∀ o, o < v.length → P (a + o)) :
    keepsOutside P m (Mem.write m a v) := by
  intro hm
  refine ⟨Mem.write_wf a v hm, fun x hx => Mem.get_write_outside v hm ?_⟩
  by_contra hin
  refine hx ?_
  have hx : a + (x - a) = x := by omega
  exact hx ▸ h (x - a) (by omega)

theorem keepsOutside_padWrite {P : Nat → Prop} {tile b : Nat} {v : Bytes} (w : World) (h : ∀ o, o < v.length → P (padAddr tile b + o)) :
    keepsOutside P w.tiles.scratch (padWrite tile b v w).tiles.scratch := keepsOutside_write _ h

/-! ## The write ranges of a command (04 R94) -/

/-- The bytes of scratchpad that a command declares to write. -/
def inWrites (tile : Nat) (c d : BitVec 256) (a : Nat) : Prop := ∃ r ∈ cWrites c d, Claims.inWords tile r a

/-- Slot `i` is a write range of the command, and holds `n` words. -/
def slotHolds (c d : BitVec 256) (i n : Nat) : Prop := cRange c i ∈ cWrites c d ∧ n ≤ cLen c i

theorem inWrites_of_slot {tile i n b o : Nat} {c d : BitVec 256} (h : slotHolds c d i n) (hb : cBase c i * 32 ≤ b)
    (ho : b + o < cBase c i * 32 + n * 32) : inWrites tile c d (padAddr tile b + o) := by
  obtain ⟨hmem, hn⟩ := h
  refine ⟨_, hmem, ?_⟩
  simp only [Claims.inWords, cRange, padAddr]
  omega

theorem footprint_le {rcd : Bytes} {c d : BitVec 256} {i n : Nat} (h : rangesOk rcd c d = true) (hf : (i, n) ∈ footprint c d) : n ≤ cLen c i := by
  simp only [rangesOk, Bool.and_eq_true, List.all_eq_true, decide_eq_true_eq] at h
  exact h.2 _ hf

theorem shape_of_form {shared : Bool} {die ctx : Nat} {c d : BitVec 256} (h : formOk shared die ctx c d = true) :
    shapeOf die c d = some (cNr c, cNw c) := by
  simp only [formOk, Bool.and_eq_true, decide_eq_true_eq] at h
  obtain ⟨⟨⟨⟨hshape, -⟩, -⟩, -⟩, -⟩ := h
  exact hshape

theorem mem_cWrites_slot {c d : BitVec 256} {i : Nat} (hi : i < cNw c) : cRange c (cNr c + i) ∈ cWrites c d :=
  List.mem_append_left _ (List.mem_map_of_mem (List.mem_range.mpr hi))

theorem mem_cWrites_split {c d : BitVec 256} {i : Nat} (hi : i ∈ splitSlots c d) : cRange c i ∈ cWrites c d :=
  List.mem_append_right _ (List.mem_map_of_mem hi)

/-! ## Rows written by TACC and VST (04 R97, R98) -/

theorem length_padTo {n : Nat} {bs : Bytes} (h : bs.length ≤ n) : (padTo n bs).length = n := by
  simp only [padTo, List.length_append, List.length_take, List.length_replicate]
  omega

/-- Rows of `n` elements, each padded to whole words, with their scales packed behind each other, stay in two slots that hold them. -/
theorem rowsOut_keeps {tile stride fmt n : Nat} {c d : BitVec 256} {rows : List (List Acc)} (sat : Bool) (w : World) (hfmt : fmt < 7)
    (hrows : ∀ xs ∈ rows, xs.length = n)
    (hdata : ∀ r, r < rows.length → slotHolds c d 0 (r * stride + wordsOf (fmtBytes fmt n)))
    (hscales : fmtScaled fmt = true → slotHolds c d 1 (wordsOf (rows.length * scaleBytes fmt n))) :
    keepsOutside (inWrites tile c d) w.tiles.scratch (rowsOut tile c 0 stride fmt sat rows w).2.tiles.scratch := by
  refine foldl_snd_related (R := fun a b => keepsOutside (inWrites tile c d) a.tiles.scratch b.tiles.scratch)
    (fun _ => keepsOutside.refl _ _) keepsOutside.trans (fun r hr x => ?_) (0, w)
  have hr : r < rows.length := List.mem_range.mp hr
  have hlen : (nth [] rows r).length = n := by
    simp only [nth, List.getD_eq_getElem _ _ hr]
    exact hrows _ (List.getElem_mem hr)
  obtain ⟨hd, hs⟩ := storedAs_rowWrite hfmt sat hlen
  have hpad := length_padTo (le_wordsOf (rowWrite fmt sat (nth [] rows r)).1.length)
  simp only [Nat.zero_add]
  have hone : keepsOutside (inWrites tile c d) x.2.tiles.scratch (padWrite tile ((cBase c 0 + r * stride) * 32)
      (padTo (wordsOf (rowWrite fmt sat (nth [] rows r)).1.length * 32) (rowWrite fmt sat (nth [] rows r)).1) x.2).tiles.scratch := by
    refine keepsOutside_padWrite _ fun o ho => inWrites_of_slot (hdata r hr) (by omega) ?_
    rw [hpad, hd] at ho
    omega
  split
  · exact hone
  next hne =>
    have hscaled : fmtScaled fmt = true := by
      by_contra hno
      rw [scaleBytes_of_not_scaled (by simpa using hno)] at hs
      simp [List.length_eq_zero_iff.mp hs] at hne
    refine hone.trans (keepsOutside_padWrite _ fun o ho => inWrites_of_slot (hscales hscaled) (by omega) ?_)
    have hrow := Nat.mul_le_mul_right (scaleBytes fmt n) (Nat.succ_le_of_lt hr)
    have hall := le_wordsOf (rows.length * scaleBytes fmt n)
    rw [Nat.succ_mul] at hrow
    rw [hs] at ho
    rw [hs]
    omega

/-! ## The slots of a command that its shape makes write ranges (04 R93, R94) -/

theorem slotHolds.mono {c d : BitVec 256} {i m n : Nat} (h : slotHolds c d i n) (hm : m ≤ n) : slotHolds c d i m :=
  ⟨h.1, hm.trans h.2⟩

theorem slotHolds_of_footprint {rcd : Bytes} {c d : BitVec 256} {i n : Nat} (hr : rangesOk rcd c d = true)
    (hi : cNr c ≤ i ∧ i < cNr c + cNw c ∨ i ∈ splitSlots c d) (hf : (i, n) ∈ footprint c d) : slotHolds c d i n := by
  refine ⟨?_, footprint_le hr hf⟩
  obtain ⟨hlo, hhi⟩ | hsplit := hi
  · have hmem := mem_cWrites_slot (c := c) (d := d) (i := i - cNr c) (by omega)
    rwa [Nat.add_sub_cancel' hlo] at hmem
  · exact mem_cWrites_split hsplit

section
variable {shared : Bool} {die ctx : Nat} {rcd : Bytes} {c d : BitVec 256}

theorem shape_tacc (h : formOk shared die ctx c d = true) (hop : cOp c = 0x02) :
    tFmt c < 7 ∧ cNr c = 0 ∧ cNw c = if fmtScaled (tFmt c) then 2 else 1 := by
  have hs := shape_of_form h
  simp only [shapeOf, hop, Option.ite_none_right_eq_some, Option.some.injEq, Prod.mk.injEq, Bool.and_eq_true, decide_eq_true_eq] at hs
  obtain ⟨⟨⟨⟨⟨⟨⟨⟨hfmt, -⟩, -⟩, -⟩, -⟩, -⟩, -⟩, -⟩, hr, hw⟩ := hs
  exact ⟨hfmt, hr.symm, hw.symm⟩

theorem shape_vst (h : formOk shared die ctx c d = true) (hop : cOp c = 0x11) :
    tFmt c < 7 ∧ cNr c = 0 ∧ cNw c = if fmtScaled (tFmt c) then 2 else 1 := by
  have hs := shape_of_form h
  simp only [shapeOf, hop, storePath, Option.ite_none_right_eq_some, Option.some.injEq, Prod.mk.injEq, Bool.and_eq_true, decide_eq_true_eq] at hs
  obtain ⟨⟨⟨⟨⟨⟨-, hfmt⟩, -⟩, -⟩, -⟩, -⟩, hr, hw⟩ := hs
  exact ⟨hfmt, hr.symm, hw.symm⟩

end

/-! ## The units' commands keep to their ranges -/

section
variable {shared : Bool} {die ctx : Nat} {rcd : Bytes} {e : SbEntry}

theorem runTacc_keeps (tile : Nat) (w : World) (hform : formOk shared die ctx e.cmd e.desc = true) (hr : rangesOk rcd e.cmd e.desc = true)
    (hop : cOp e.cmd = 0x02) : keepsOutside (inWrites tile e.cmd e.desc) w.tiles.scratch (runTacc tile e w).2.tiles.scratch := by
  obtain ⟨hfmt, hnr, hnw⟩ := shape_tacc hform hop
  have hlen : (taccRows tile e w).length = tM e.cmd := by simp [taccRows, upTo]
  have hrows : ∀ xs ∈ taccRows tile e w, xs.length = tN e.cmd := by simp [taccRows, upTo]
  have hdata : slotHolds e.cmd e.desc 0 (tM e.cmd * wordsOf (fmtBytes (tFmt e.cmd) (tN e.cmd))) :=
    slotHolds_of_footprint hr (.inl (by rw [hnr, hnw]; split <;> omega)) (by simp [footprint, hop])
  have hscales (hs : fmtScaled (tFmt e.cmd) = true) :
      slotHolds e.cmd e.desc 1 (wordsOf ((taccRows tile e w).length * scaleBytes (tFmt e.cmd) (tN e.cmd))) :=
    slotHolds_of_footprint hr (.inl (by rw [hnr, hnw, if_pos hs]; omega)) (by simp [footprint, hop, hs, hlen])
  have hrow (r : Nat) (hr : r < (taccRows tile e w).length) : slotHolds e.cmd e.desc 0
      (r * wordsOf (fmtBytes (tFmt e.cmd) (tN e.cmd)) + wordsOf (fmtBytes (tFmt e.cmd) (tN e.cmd))) := by
    have hle := Nat.mul_le_mul_right (wordsOf (fmtBytes (tFmt e.cmd) (tN e.cmd))) (Nat.succ_le_of_lt (hlen ▸ hr))
    rw [Nat.succ_mul] at hle
    exact hdata.mono hle
  have hkeeps := rowsOut_keeps (tile := tile) (cSat e.cmd) w hfmt hrows hrow hscales
  rw [runTacc_world]
  split
  · exact hkeeps
  · exact hkeeps

theorem runVst_keeps (tile k : Nat) (w : World) (hform : formOk shared die ctx e.cmd e.desc = true) (hr : rangesOk rcd e.cmd e.desc = true)
    (hop : cOp e.cmd = 0x11) : keepsOutside (inWrites tile e.cmd e.desc) w.tiles.scratch (runVst tile k e w).2.tiles.scratch := by
  obtain ⟨hfmt, hnr, hnw⟩ := shape_vst hform hop
  have hdata : slotHolds e.cmd e.desc 0 (wordsOf (fmtBytes (tFmt e.cmd) (64 * tCount e.cmd))) :=
    slotHolds_of_footprint hr (.inl (by rw [hnr, hnw]; split <;> omega)) (by simp [footprint, hop])
  have hscales (hs : fmtScaled (tFmt e.cmd) = true) : slotHolds e.cmd e.desc 1 (wordsOf (scaleBytes (tFmt e.cmd) (64 * tCount e.cmd))) :=
    slotHolds_of_footprint hr (.inl (by rw [hnr, hnw, if_pos hs]; omega)) (by simp [footprint, hop, hs])
  by_cases h3 : tFmt e.cmd = 3
  · have hlen := length_flatten_of_uniform (n := 4) (l := (group (ctxAt w k) (tReg e.cmd) (tCount e.cmd)).map (fun v => leBytes 4 v.toNat))
      (by simp)
    have hwords := le_wordsOf (fmtBytes 3 (64 * tCount e.cmd))
    rw [runVst_g32 h3]
    refine keepsOutside_padWrite _ fun o ho => inWrites_of_slot hdata le_rfl ?_
    rw [hlen, List.length_map, length_group] at ho
    rw [h3]
    simp only [fmtBytes] at hwords ⊢
    omega
  · have hkeeps := rowsOut_keeps (tile := tile) (stride := 0) (cSat e.cmd) w hfmt (n := 64 * tCount e.cmd)
      (rows := [((group (ctxAt w k) (tReg e.cmd) (tCount e.cmd)).map operand32).map (·.1)]) (by simp) (fun r _ => by simpa using hdata)
      (fun hs => by simpa using hscales hs)
    simp only [runVst, if_neg h3]
    exact hkeeps

theorem keepsOutside_of_eq {P : Nat → Prop} {m m' : List Host.Cell} (h : m' = m) : keepsOutside P m m' := h ▸ keepsOutside.refl P m

theorem runTaccLoad_scratch (tile : Nat) (e : SbEntry) (w : World) : (runTaccLoad tile e w).2.tiles.scratch = w.tiles.scratch := by
  refine foldl_snd_related (R := fun a b => b.tiles.scratch = a.tiles.scratch) (fun _ => rfl) (fun hab hbc => hbc.trans hab)
    (fun i _ x => ?_) (0, w)
  rfl

end

/-! ## Bursts keep to their ranges -/

/-- Slots `i` and, for the scales, `i + 1` are write ranges that hold every row of a descriptor in a format. -/
def partHolds (c d : BitVec 256) (i fmt : Nat) : Prop :=
  slotHolds c d i (stridedWords (dRows d) (dLocalStride d) (wordsOf (fmtBytes fmt (dRowLen d)))) ∧
  (fmtScaled fmt = true → slotHolds c d (i + 1) (wordsOf (dRows d * scaleBytes fmt (dRowLen d))))

theorem partIn_keeps {tile i j fmt : Nat} {e : SbEntry} {data scales : Bytes} (w : World) (hlen : 1 ≤ dRowLen e.desc)
    (hj : j < allBursts e.desc) (hst : storedAs fmt (burstAt e.desc j).2.2 data scales) (hp : partHolds e.cmd e.desc i fmt) :
    keepsOutside (inWrites tile e.cmd e.desc) w.tiles.scratch
      (partIn tile e i (burstAt e.desc j).1 (burstAt e.desc j).2.1 fmt data scales w).tiles.scratch := by
  obtain ⟨hrow, hfirst, hn⟩ := burstAt_inside hlen hj
  obtain ⟨hd, hs⟩ := hst
  obtain ⟨hdata, hscales⟩ := hp
  have hone : keepsOutside (inWrites tile e.cmd e.desc) w.tiles.scratch
      (padWrite tile (localAt e i (burstAt e.desc j).1 (burstAt e.desc j).2.1 fmt).1 data w).tiles.scratch := by
    refine keepsOutside_padWrite _ fun o ho => inWrites_of_slot hdata (by simp only [localAt]; omega) ?_
    have hbytes := fmtBytes_add_le fmt hfirst hn
    have hwords := le_wordsOf (fmtBytes fmt (dRowLen e.desc))
    have hrows := Nat.mul_le_mul_right (dLocalStride e.desc) (Nat.le_sub_one_of_lt hrow)
    simp only [localAt, stridedWords]
    omega
  unfold partIn
  dsimp only
  split
  · exact hone
  next hne =>
    have hscaled : fmtScaled fmt = true := by
      by_contra hno
      rw [scaleBytes_of_not_scaled (by simpa using hno)] at hs
      simp [List.length_eq_zero_iff.mp hs] at hne
    refine hone.trans (keepsOutside_padWrite _ fun o ho => inWrites_of_slot (hscales hscaled) (by simp only [localAt]; omega) ?_)
    have hbytes := scaleBytes_add_le hfirst hn hscaled
    have hwords := le_wordsOf (dRows e.desc * scaleBytes fmt (dRowLen e.desc))
    have hrows := Nat.mul_le_mul_right (scaleBytes fmt (dRowLen e.desc)) (Nat.succ_le_of_lt hrow)
    rw [Nat.succ_mul] at hrows
    simp only [localAt]
    omega

theorem loadPath_lt {a b : Nat} (h : loadPath a b = true) : b < 7 := by
  simp only [loadPath, Bool.and_eq_true, decide_eq_true_eq] at h
  exact h.1.2

theorem storePath_lt {a b : Nat} (h : storePath a b = true) : b < 7 := by
  simp only [storePath, Bool.and_eq_true, decide_eq_true_eq] at h
  exact h.1.2

/-- A well-formed descriptor converts to a format of Table 4.12, has elements, and splits in a load alone. -/
theorem descOk_facts {op die : Nat} {d : BitVec 256} (hop : op = 0x20 ∨ op = 0x21 ∨ op = 0x22) (h : descOk op die d = true) :
    dDst d < 7 ∧ 1 ≤ dRowLen d ∧ (dSplit d = true → op = 0x20) := by
  unfold descOk at h
  simp only [Bool.and_eq_true] at h
  obtain ⟨⟨⟨⟨⟨⟨⟨⟨⟨⟨-, hpath⟩, -⟩, -⟩, hlen⟩, -⟩, -⟩, -⟩, -⟩, hsplit⟩, -⟩ := h
  refine ⟨?_, of_decide_eq_true hlen, fun hs => ?_⟩
  case refine_2 =>
    simp only [hs, Bool.not_true, Bool.false_or, Bool.and_eq_true, beq_iff_eq] at hsplit
    obtain ⟨⟨h20, -⟩, -⟩ := hsplit
    exact h20
  obtain rfl | rfl | rfl := hop
  · exact loadPath_lt hpath
  · exact storePath_lt hpath
  · obtain hp | hp := Bool.or_eq_true_iff.mp hpath
    · exact loadPath_lt hp
    · exact storePath_lt hp

section
variable {shared : Bool} {die ctx : Nat} {rcd : Bytes} {e : SbEntry}

theorem shape_load {c d : BitVec 256} (h : formOk shared die ctx c d = true) (hop : cOp c = 0x20) :
    descOk 0x20 die d = true ∧ cNr c = 0 ∧ cNw c = if fmtScaled (dDst d) then 2 else 1 := by
  have hs := shape_of_form h
  simp only [shapeOf, hop, Option.ite_none_right_eq_some, Option.some.injEq, Prod.mk.injEq] at hs
  obtain ⟨hc, hr, hw⟩ := hs
  exact ⟨hc, hr.symm, hw.symm⟩

theorem shape_store {c d : BitVec 256} (h : formOk shared die ctx c d = true) (hop : cOp c = 0x21) : descOk 0x21 die d = true := by
  have hs := shape_of_form h
  simp only [shapeOf, hop, Option.ite_none_right_eq_some, Option.some.injEq, Prod.mk.injEq] at hs
  obtain ⟨hc, -⟩ := hs
  exact hc

theorem shape_copy {c d : BitVec 256} (h : formOk shared die ctx c d = true) (hop : cOp c = 0x22) :
    descOk 0x22 die d = true ∧ cNr c = (if fmtScaled (dSrc d) then 2 else 1) ∧ cNw c = if fmtScaled (dDst d) then 2 else 1 := by
  have hs := shape_of_form h
  simp only [shapeOf, hop, Option.ite_none_right_eq_some, Option.some.injEq, Prod.mk.injEq] at hs
  obtain ⟨hc, hr, hw⟩ := hs
  exact ⟨hc, hr.symm, hw.symm⟩

theorem partHolds_load {c d : BitVec 256} (hform : formOk shared die ctx c d = true) (hr : rangesOk rcd c d = true) (hop : cOp c = 0x20) :
    partHolds c d 0 (dDst d) ∧ (dSplit d = true → partHolds c d 2 (dDst d)) := by
  obtain ⟨-, hnr, hnw⟩ := shape_load hform hop
  refine ⟨⟨?_, fun hs => ?_⟩, fun hsplit => ⟨?_, fun hs => ?_⟩⟩
  · exact slotHolds_of_footprint hr (.inl (by rw [hnr, hnw]; split <;> omega)) (by simp only [footprint, hop]; split <;> simp)
  · exact slotHolds_of_footprint hr (.inl (by rw [hnr, hnw, if_pos hs]; omega)) (by simp [footprint, hop, hs])
  · exact slotHolds_of_footprint hr (.inr (by simp only [splitSlots, hop, hsplit, decide_true, Bool.and_self, if_true]; split <;> simp))
      (by simp only [footprint, hop, hsplit]; split <;> simp)
  · exact slotHolds_of_footprint hr (.inr (by simp [splitSlots, hop, hsplit, hs])) (by simp [footprint, hop, hsplit, hs])

theorem partHolds_copy {c d : BitVec 256} (hform : formOk shared die ctx c d = true) (hr : rangesOk rcd c d = true) (hop : cOp c = 0x22) :
    partHolds c d (if fmtScaled (dSrc d) then 2 else 1) (dDst d) := by
  obtain ⟨-, hnr, hnw⟩ := shape_copy hform hop
  refine ⟨?_, fun hs => ?_⟩
  · exact slotHolds_of_footprint hr (.inl (by rw [hnr, hnw]; split <;> split <;> omega))
      (by simp only [footprint, hop]; exact List.mem_append_right _ (by split <;> simp))
  · exact slotHolds_of_footprint hr (.inl (by rw [hnr, hnw, if_pos hs]; omega))
      (by simp only [footprint, hop]; exact List.mem_append_right _ (by simp [hs]))

/-! ## The bytes of a burst -/

theorem length_farRead (w : World) (c : TileCtx) (d : BitVec 256) (a n : Nat) : (farRead w c d a n).1.length = n := by
  unfold farRead
  split
  · exact length_leBytes ..
  · exact Mem.length_read ..

theorem tiles_farRead (w : World) (c : TileCtx) (d : BitVec 256) (a n : Nat) : (farRead w c d a n).2.tiles = w.tiles := by
  unfold farRead
  split <;> rfl

theorem tiles_farBurst (c : TileCtx) (e : SbEntry) (j : Nat) (w : World) : (farBurst c e j w).2.2.tiles = w.tiles := by
  simp only [farBurst, tiles_farRead]

theorem storedAs_farBurst (c : TileCtx) (e : SbEntry) (j : Nat) (w : World) :
    storedAs (dSrc e.desc) (burstAt e.desc j).2.2 (farBurst c e j w).1 (farBurst c e j w).2.1 :=
  ⟨length_farRead .., length_farRead ..⟩

theorem storedAs_localBurst {c : TileCtx} {j : Nat} (w : World) (hfmt : dDst e.desc < 7) :
    storedAs (dDst e.desc) (burstAt e.desc j).2.2 (localBurst c e j w).1 (localBurst c e j w).2.1 := by
  have hsrc : storedAs (dSrc e.desc) (burstAt e.desc j).2.2
      (partOut w c.tile e 0 (burstAt e.desc j).1 (burstAt e.desc j).2.1 (burstAt e.desc j).2.2 (dSrc e.desc)).1
      (partOut w c.tile e 0 (burstAt e.desc j).1 (burstAt e.desc j).2.1 (burstAt e.desc j).2.2 (dSrc e.desc)).2 :=
    ⟨length_padRead .., length_padRead ..⟩
  exact (storedAs_convertPart hfmt hsrc).1

theorem loadBurst_keeps {c : TileCtx} {j : Nat} (w : World) (hform : formOk shared die ctx e.cmd e.desc = true)
    (hr : rangesOk rcd e.cmd e.desc = true) (hop : cOp e.cmd = 0x20) (hj : j < allBursts e.desc) :
    keepsOutside (inWrites c.tile e.cmd e.desc) w.tiles.scratch (loadBurst c e j w).2.tiles.scratch := by
  obtain ⟨hdesc, -⟩ := shape_load hform hop
  obtain ⟨hfmt, hlen, -⟩ := descOk_facts (.inl rfl) hdesc
  obtain ⟨hhiSlots, hloSlots⟩ := partHolds_load hform hr hop
  obtain ⟨hhi, hlo⟩ := storedAs_convertPart (sat := dmaSat e) (r := (burstAt e.desc j).1) (first := (burstAt e.desc j).2.1) hfmt
    (storedAs_farBurst c e j w)
  have hfirst := partIn_keeps (tile := c.tile) (farBurst c e j w).2.2 hlen hj hhi hhiSlots
  rw [tiles_farBurst] at hfirst
  rw [loadBurst_world]
  dsimp only
  split
  next hsplit => exact hfirst.trans (partIn_keeps _ hlen hj (hlo hsplit) (hloSlots hsplit))
  next => exact hfirst

theorem copyBurst_keeps {c : TileCtx} {j : Nat} (w : World) (hform : formOk shared die ctx e.cmd e.desc = true)
    (hr : rangesOk rcd e.cmd e.desc = true) (hop : cOp e.cmd = 0x22) (hj : j < allBursts e.desc) :
    keepsOutside (inWrites c.tile e.cmd e.desc) w.tiles.scratch (copyBurst c e j w).2.tiles.scratch := by
  obtain ⟨hdesc, -⟩ := shape_copy hform hop
  obtain ⟨hfmt, hlen, -⟩ := descOk_facts (.inr (.inr rfl)) hdesc
  rw [copyBurst_world]
  exact partIn_keeps w hlen hj (storedAs_localBurst w hfmt) (partHolds_copy hform hr hop)

theorem stratum_partIn (tile : Nat) (e : SbEntry) (i r first fmt : Nat) (data scales : Bytes) (w : World) :
    (partIn tile e i r first fmt data scales w).tiles.stratum = w.tiles.stratum := by
  unfold partIn
  dsimp only
  split <;> rfl

theorem stratum_loadBurst (c : TileCtx) (e : SbEntry) (j : Nat) (w : World) : (loadBurst c e j w).2.tiles.stratum = w.tiles.stratum := by
  rw [loadBurst_world]
  dsimp only
  split
  · rw [stratum_partIn, stratum_partIn, tiles_farBurst]
  · rw [stratum_partIn, tiles_farBurst]

theorem stratum_copyBurst (c : TileCtx) (e : SbEntry) (j : Nat) (w : World) : (copyBurst c e j w).2.tiles.stratum = w.tiles.stratum := by
  rw [copyBurst_world, stratum_partIn]

/-! ## The far range of DMA_ST (04 R104) -/

/-- The bytes of Stratum from the far address to the end of the far extent. -/
def inFar (start : Nat) (d : BitVec 256) (a : Nat) : Prop := start + dFar d ≤ a ∧ a < start + dFar d + farExtent (dDst d) d

theorem farStart_congr {w w' : World} (h : w'.tiles.ctxs = w.tiles.ctxs) (c : TileCtx) (d : BitVec 256) : farStart w' c d = farStart w c d := by
  simp only [farStart, farPart, ctxAt, h]

theorem farWrite_sides (c : TileCtx) (d : BitVec 256) (a : Nat) (v : Bytes) (w : World) :
    (farWrite c d a v w).tiles.ctxs = w.tiles.ctxs ∧ (farWrite c d a v w).tiles.scratch = w.tiles.scratch := by
  unfold farWrite
  split
  · exact ⟨rfl, rfl⟩
  · split <;> exact ⟨rfl, rfl⟩

theorem farWrite_keeps {P : Nat → Prop} {c : TileCtx} {d : BitVec 256} {a : Nat} {v : Bytes} (w : World)
    (h : ∀ o, o < v.length → P (farStart w c d + a + o)) : keepsOutside P w.tiles.stratum (farWrite c d a v w).tiles.stratum := by
  unfold farWrite
  split
  · exact keepsOutside.refl _ _
  · split
    · exact keepsOutside.refl _ _
    · exact keepsOutside_write _ h

/-- What a burst of DMA_ST relates to its start: contexts and scratchpads as they were, Stratum but for the far range. -/
def storesFar (c : TileCtx) (d : BitVec 256) (w w' : World) : Prop :=
  w'.tiles.ctxs = w.tiles.ctxs ∧ w'.tiles.scratch = w.tiles.scratch ∧
  keepsOutside (inFar (farStart w c d) d) w.tiles.stratum w'.tiles.stratum

theorem storesFar.refl (c : TileCtx) (d : BitVec 256) (w : World) : storesFar c d w w := ⟨rfl, rfl, keepsOutside.refl _ _⟩

theorem storesFar.trans {c : TileCtx} {d : BitVec 256} {x y z : World} (hxy : storesFar c d x y) (hyz : storesFar c d y z) :
    storesFar c d x z := by
  obtain ⟨hc, hs, hk⟩ := hxy
  obtain ⟨hc', hs', hk'⟩ := hyz
  rw [farStart_congr hc] at hk'
  exact ⟨hc'.trans hc, hs'.trans hs, hk.trans hk'⟩

theorem storesFar_farWrite {c : TileCtx} {d : BitVec 256} {a : Nat} {v : Bytes} (w : World) (ha : dFar d ≤ a)
    (hv : a + v.length ≤ dFar d + farExtent (dDst d) d) : storesFar c d w (farWrite c d a v w) := by
  obtain ⟨hctxs, hscratch⟩ := farWrite_sides c d a v w
  refine ⟨hctxs, hscratch, farWrite_keeps w fun o ho => ?_⟩
  unfold inFar
  omega

theorem storeBurst_keeps {c : TileCtx} {j : Nat} (w : World) (hform : formOk shared die ctx e.cmd e.desc = true) (hop : cOp e.cmd = 0x21)
    (hj : j < allBursts e.desc) : storesFar c e.desc w (storeBurst c e j w).2 := by
  obtain ⟨hfmt, hlen, -⟩ := descOk_facts (.inr (.inl rfl)) (shape_store hform hop)
  obtain ⟨hrow, hfirst, hn⟩ := burstAt_inside hlen hj
  obtain ⟨hd, hs⟩ := storedAs_localBurst (c := c) (j := j) w hfmt
  have hbytes := fmtBytes_add_le (dDst e.desc) hfirst hn
  have hrows := Nat.mul_le_mul_right (dFarStride e.desc) (Nat.le_sub_one_of_lt hrow)
  have hdata : storesFar c e.desc w (farWrite c e.desc
      (farAt e.desc (burstAt e.desc j).1 (burstAt e.desc j).2.1 (dDst e.desc)).1 (localBurst c e j w).1 w) := by
    refine storesFar_farWrite w (by simp only [farAt]; omega) ?_
    simp only [farAt, farExtent, farRow, hd]
    omega
  rw [storeBurst_world]
  dsimp only
  refine hdata.trans ?_
  cases hscaled : fmtScaled (dDst e.desc) with
  | false =>
    rw [scaleBytes_of_not_scaled hscaled] at hs
    rw [List.length_eq_zero_iff.mp hs]
    exact storesFar.refl c e.desc _
  | true =>
    have hscales := scaleBytes_add_le hfirst hn hscaled
    refine storesFar_farWrite _ (by simp only [farAt]; omega) ?_
    simp only [farAt, farExtent, farRow, hs]
    omega

end

end Sys2Proof.Machine

namespace Sys2Proof.Claims

open Sys2Proof.Machine

/-- Where an awake device runs a row whose effect is known, its tiles are those of the effect. -/
theorem tiles_of_effectIs {i : Instr} {s t : State} {w : World} (hi : effectIs i s w) (ha : awake s) (h : exec i s = .next t) :
    t.live.tiles = w.tiles := by
  obtain ⟨f, hf, rfl⟩ := hi
  obtain ⟨halive, -⟩ := ha
  rw [hf, liveEffect_alive halive] at h
  cases h
  rfl

section
variable {i : Instr} {c : TileCtx} {op : Nat} {e : SbEntry} {shared : Bool} {rcd : Bytes}

/-- A unit's command writes no byte of scratchpad but in its ranges, and none of Stratum. -/
theorem unitRow_keeps {f : SbEntry → World → BitVec 8 × World} (h : unitRow i = some (c, op, f)) (hop : cOp e.cmd = op)
    (hform : formOk shared (c.tile / 32) c.ctx e.cmd e.desc = true) (hr : rangesOk rcd e.cmd e.desc = true) (w : World) :
    keepsOutside (inWrites c.tile e.cmd e.desc) w.tiles.scratch (f e w).2.tiles.scratch := by
  unfold unitRow at h
  split at h <;> cases h
  case h_1 => exact keepsOutside.refl _ _
  case h_2 => exact keepsOutside.refl _ _
  case h_3 => exact runTacc_keeps _ w hform hr hop
  case h_4 => exact keepsOutside_of_eq (runTaccLoad_scratch ..)
  case h_5 => exact keepsOutside.refl _ _
  case h_6 => exact runVst_keeps _ _ w hform hr hop
  case h_7 => rw [runVop_world]; exact keepsOutside.refl _ _
  case h_8 => rw [runVsf_world]; exact keepsOutside.refl _ _
  case h_9 => rw [runVred_world]; exact keepsOutside.refl _ _

/-- What a command's bursts leave alone: the scratchpads but for its ranges, Stratum but for the far range of DMA_ST. -/
def burstsKeep (c : TileCtx) (op : Nat) (e : SbEntry) (w w' : World) : Prop :=
  keepsOutside (inWrites c.tile e.cmd e.desc) w.tiles.scratch w'.tiles.scratch ∧ (op ≠ 0x21 → w'.tiles.stratum = w.tiles.stratum) ∧
  keepsOutside (inFar (farStart w c e.desc) e.desc) w.tiles.stratum w'.tiles.stratum

theorem burstsKeep_of_stratum {w w' : World} (h : keepsOutside (inWrites c.tile e.cmd e.desc) w.tiles.scratch w'.tiles.scratch)
    (hst : w'.tiles.stratum = w.tiles.stratum) : burstsKeep c op e w w' := ⟨h, fun _ => hst, keepsOutside_of_eq hst⟩

theorem dmaRow_keeps {n : Nat} {f : SbEntry → Nat → World → BitVec 8 × World} (h : dmaRow i = some (c, op, n, f)) (hop : cOp e.cmd = op)
    (hform : formOk shared (c.tile / 32) c.ctx e.cmd e.desc = true) (hr : rangesOk rcd e.cmd e.desc = true) (w : World) :
    burstsKeep c op e w (movedBursts e n f w).2 := by
  unfold dmaRow at h
  split at h <;> cases h
  case h_1 r =>
    refine burstsKeep_of_stratum ?_ ?_
    · exact movedBursts_related (R := fun a b => keepsOutside (inWrites r.c.tile e.cmd e.desc) a.tiles.scratch b.tiles.scratch)
        (fun _ => keepsOutside.refl _ _) keepsOutside.trans (fun j hj w => loadBurst_keeps w hform hr hop hj) r.bursts w
    · exact movedBursts_related (R := fun a b => b.tiles.stratum = a.tiles.stratum) (fun _ => rfl) (fun hab hbc => hbc.trans hab)
        (fun j _ w => stratum_loadBurst r.c e j w) r.bursts w
  case h_2 r =>
    obtain ⟨-, hscratch, hstratum⟩ := movedBursts_related (storesFar.refl r.c e.desc) storesFar.trans
      (fun j hj w => storeBurst_keeps w hform hop hj) r.bursts w
    exact ⟨keepsOutside_of_eq hscratch, fun hne => absurd rfl hne, hstratum⟩
  case h_3 r =>
    refine burstsKeep_of_stratum ?_ ?_
    · exact movedBursts_related (R := fun a b => keepsOutside (inWrites r.c.tile e.cmd e.desc) a.tiles.scratch b.tiles.scratch)
        (fun _ => keepsOutside.refl _ _) keepsOutside.trans (fun j hj w => copyBurst_keeps w hform hr hop hj) r.bursts w
    · exact movedBursts_related (R := fun a b => b.tiles.stratum = a.tiles.stratum) (fun _ => rfl) (fun hab hbc => hbc.trans hab)
        (fun j _ w => stratum_copyBurst r.c e j w) r.bursts w

theorem op_of_farHead {w : World} (h : farHead w c op = some e) : cOp e.cmd = op := by
  have hf := (Option.filter_eq_some_iff.mp h).2
  simp only [Bool.and_eq_true, beq_iff_eq] at hf
  obtain ⟨⟨hop, -⟩, -⟩ := hf
  exact hop

end

/-- Settles O38: TACC, VST and the bursts of a load or a copy write rows that their slots' footprints cover; the rest write no
scratchpad; a far fault moves nothing. -/
theorem tileCommandsWriteWithinTheirRanges : Obligations.TileCommandsWriteWithinTheirRanges := by
  unfold Obligations.TileCommandsWriteWithinTheirRanges
  intro s t i c op e shared rcd ha hm hrow hform hr hexec
  obtain ⟨hscratchWf, hstratumWf, -⟩ := hm
  have hkeep : ∃ w, t.live.tiles.scratch = w.tiles.scratch ∧ t.live.tiles.stratum = w.tiles.stratum ∧ burstsKeep c op e s.live w := by
    obtain ⟨f, hi, hn, hop⟩ | ⟨n, f, hi, hh⟩ := hrow
    · have htiles := tiles_of_effectIs (effectIs_unit hi hn hop) ha hexec
      obtain ⟨⟨_, _, _, _, hw⟩, -⟩ := unitRow_writes hi e s.live
      refine ⟨(f e s.live).2, by rw [htiles]; rfl, by rw [htiles]; rfl, burstsKeep_of_stratum (unitRow_keeps hi hop hform hr s.live) ?_⟩
      rw [hw]
    · have htiles := tiles_of_effectIs (effectIs_dma hi hh) ha hexec
      split at htiles
      · have hscope := farFault_scope c e s.live
        exact ⟨s.live, by rw [htiles, hscope.eq_with], by rw [htiles, hscope.eq_with], keepsOutside.refl _ _, fun _ => rfl, keepsOutside.refl _ _⟩
      · exact ⟨(movedBursts e n f s.live).2, by rw [htiles]; rfl, by rw [htiles]; rfl,
          dmaRow_keeps hi (op_of_farHead hh) hform hr s.live⟩
  obtain ⟨w, hscratch, hstratum, hin, hsame, hfar⟩ := hkeep
  rw [hscratch, hstratum]
  refine ⟨fun a hout => (hin hscratchWf).2 a ?_, hsame, fun a hout => (hfar hstratumWf).2 a ?_⟩
  · rintro ⟨r, hmem, hword⟩
    exact hout r hmem hword
  · unfold inFar
    omega

end Sys2Proof.Claims
end

section
/-! PROOFS. The solver's engines and templates: what each reads as after an update, the chains that enter a queue (05 R119), the images
that wait for holds (05 R117), and what a completion record and the end of a solve change (05 R121, R140, R142, R143). -/

namespace Sys2Proof.Machine

/-! ## Engines and templates after an update -/

section

variable {w : World}

theorem be_onBe_same (e : Nat) (f : Be → Be) (h : storeSorted w.solver.engines) : be (onBe e f w) e = f (be w e) := sGet_put_same _ _ h

theorem be_onBe_other {e k : Nat} (f : Be → Be) (h : storeSorted w.solver.engines) (hk : k ≠ e) : be (onBe e f w) k = be w k :=
  sGet_put_other _ h hk

theorem onBe_sorted (e : Nat) (f : Be → Be) (h : storeSorted w.solver.engines) : storeSorted (onBe e f w).solver.engines := sPut_sorted _ _ h

theorem onTmpl_sorted (t : Nat) (f : Tmpl → Tmpl) (h : storeSorted w.solver.tmpls) : storeSorted (onTmpl t f w).solver.tmpls :=
  sPut_sorted _ _ h

theorem tmpl_onTmpl_other {t k : Nat} (f : Tmpl → Tmpl) (h : storeSorted w.solver.tmpls) (hk : k ≠ t) : tmpl (onTmpl t f w) k = tmpl w k :=
  sGet_put_other _ h hk

/-- The releases with `f` applied to those of a number. -/
def mapRelease (num : Nat) (f : Release → Release) (l : List Release) : List Release := l.map (fun r => if r.num = num then f r else r)

theorem releases_onRelease (t num : Nat) (f : Release → Release) (h : storeSorted w.solver.tmpls) :
    (tmpl (onRelease t num f w) t).releases = mapRelease num f (tmpl w t).releases :=
  congrArg Tmpl.releases (tmpl_onTmpl_same t _ h)

/-- Every release of the number has become `f` of one, where `f` keeps numbers. -/
theorem mem_mapRelease {num : Nat} {f : Release → Release} {l : List Release} {z : Release} (hz : z ∈ mapRelease num f l) (hn : z.num = num)
    (hf : ∀ r, (f r).num = r.num) : ∃ r ∈ l, r.num = num ∧ z = f r := by
  obtain ⟨r, hr, rfl⟩ := List.mem_map.mp hz
  split at hn
  · exact ⟨r, hr, by rwa [hf] at hn, if_pos (by rwa [hf] at hn)⟩
  · contradiction

end

@[simp] theorem be_onRelease (t num : Nat) (f : Release → Release) (w : World) (e : Nat) : be (onRelease t num f w) e = be w e := rfl

/-! ## Chains that enter the queue (05 R119) -/

/-- Chains that enter move, in order, from what waits to the end of the queue. -/
theorem admitChains_eq_with (k : Nat) (x : Be) : ∃ l wt h n, x.waiting.flatten = l ++ wt.flatten ∧
    admitChains k x = { x with queue := x.queue ++ l, waiting := wt, holds := h, queueMax := n } := by
  induction k generalizing x with
  | zero => exact ⟨[], x.waiting, x.holds, x.queueMax, rfl, by simp [admitChains]⟩
  | succ k ih =>
    have hstay : ∃ l wt h n, x.waiting.flatten = l ++ wt.flatten ∧
        x = { x with queue := x.queue ++ l, waiting := wt, holds := h, queueMax := n } :=
      ⟨[], x.waiting, x.holds, x.queueMax, rfl, by simp⟩
    unfold admitChains
    split
    next c rest hw =>
      split
      · obtain ⟨l, wt, h, n, hflat, heq⟩ := ih { x with
          queue := x.queue ++ c, waiting := rest, holds := x.holds ++ c.flatMap holdsOf, queueMax := max x.queueMax (x.queue ++ c).length }
        exact ⟨c ++ l, wt, h, n, by rw [hw, List.flatten_cons, hflat, List.append_assoc], by rw [heq, List.append_assoc]⟩
      · exact hstay
    next => exact hstay

/-! ## Images that wait for holds (05 R117, 06 R147) -/

/-- `w'` differs from `w` at most in local memory and in images that wait; every release stands as it did. -/
structure imagesDrained (w w' : World) : Prop where
  eq_with : ∃ m ts, w' = { w with solver := { w.solver with mem := m, tmpls := ts } }
  sorted : storeSorted w.solver.tmpls → storeSorted w'.solver.tmpls
  releases : storeSorted w.solver.tmpls → ∀ t, (tmpl w' t).releases = (tmpl w t).releases

theorem imagesDrained.trans {a b c : World} (hab : imagesDrained a b) (hbc : imagesDrained b c) : imagesDrained a c where
  eq_with := by
    obtain ⟨_, _, rfl⟩ := hab.eq_with
    obtain ⟨m, ts, rfl⟩ := hbc.eq_with
    exact ⟨m, ts, rfl⟩
  sorted h := hbc.sorted (hab.sorted h)
  releases h t := (hbc.releases (hab.sorted h) t).trans (hab.releases h t)

theorem imagesDrained.be_eq {w w' : World} (h : imagesDrained w w') (e : Nat) : be w' e = be w e := by
  obtain ⟨_, _, rfl⟩ := h.eq_with; rfl

theorem imagesDrained_onTmpl (t : Nat) (m : List Host.Cell) (due : List (Nat × Int)) (w : World) :
    imagesDrained w (onTmpl t (fun x => { x with imageDue := due }) (onSolver (fun s => { s with mem := m }) w)) where
  eq_with := ⟨_, _, rfl⟩
  sorted h := sPut_sorted _ _ h
  releases h k := by
    by_cases hk : k = t
    · subst hk
      rw [tmpl_onTmpl_same (w := onSolver (fun s => { s with mem := m }) w) k (fun x => { x with imageDue := due }) h]
      rfl
    · exact congrArg Tmpl.releases (tmpl_onTmpl_other (w := onSolver (fun s => { s with mem := m }) w) _ h hk)

theorem drainImages_drained (w : World) : imagesDrained w (drainImages w) :=
  eachW_keeps (P := imagesDrained w) (fun t w' hw => hw.trans (imagesDrained_onTmpl t _ _ w')) _
    ⟨⟨_, _, rfl⟩, id, fun _ _ => rfl⟩

/-- No entry of an image waits for the end of a hold. -/
def noneDue (w : World) : Prop := ∀ x ∈ w.solver.tmpls, x.2.imageDue = []

theorem drainImages_of_noneDue {w : World} (h : noneDue w) : drainImages w = w := by
  have hnone : w.solver.tmpls.filter (fun x => !x.2.imageDue.isEmpty) = [] := by
    rw [List.filter_eq_nil_iff]
    intro x hx
    simp [h x hx]
  rw [drainImages, hnone]
  rfl

theorem sGet_default_or_mem {α : Type} (d : α) (s : Store α) (i : Nat) : sGet d s i = d ∨ (i, sGet d s i) ∈ s := by
  induction s with
  | nil => exact .inl rfl
  | cons p s ih =>
    obtain ⟨k, v⟩ := p
    simp only [sGet]
    split
    next hk => exact .inr (hk ▸ List.mem_cons_self)
    next =>
      split
      · exact .inl rfl
      · exact ih.imp_right (List.mem_cons_of_mem _)

theorem noneDue_onTmpl {w : World} (t : Nat) {f : Tmpl → Tmpl} (hf : ∀ x, (f x).imageDue = x.imageDue) (h : noneDue w) :
    noneDue (onTmpl t f w) := by
  intro x hx
  obtain rfl | hx := mem_of_mem_sPut hx
  · obtain hd | hm := sGet_default_or_mem {} w.solver.tmpls t
    · simp only [hf, hd]
    · exact (hf _).trans (h _ hm)
  · exact h x hx

theorem noneDue_onRelease {w : World} (t num : Nat) (f : Release → Release) (h : noneDue w) : noneDue (onRelease t num f w) :=
  noneDue_onTmpl t (fun _ => rfl) h

/-! ## Completion records (05 R140) -/

/-- The record of a descriptor that ends at an instant. -/
def completionOf (q : BeDesc) (result : Nat) (flags : BitVec 8) (status : List W64) (cycles now : Nat) : Completion where
  template := bTemplate q.desc
  tag := bTag q.desc
  result := result
  flags := flags
  nFlagged := (status.filter (fun s => bits s.toNat 63 56 ≠ 0 || bits s.toNat 47 40 ≠ 0 || bits s.toNat 38 32 ≠ 0)).length
  cycles := cycles
  endLc0 := now

theorem complete_eq_with (e : Nat) (q : BeDesc) (result : Nat) (flags : BitVec 8) (status : List W64) (cycles : Nat) (w : World) :
    ∃ f : Be → Be, complete e q result flags status cycles w = onTiles (enterFlags (128 + e) flags) (onBe e f w) ∧
      ∀ x, ∃ rp nc wi bf, f x = { x with
        fifo := x.fifo ++ [completionOf q result flags status cycles (nowNs w)]
        last := completionOf q result flags status cycles (nowNs w)
        regPivots := rp, notConverged := nc, warmIgnored := wi, boxFixed := bf } :=
  ⟨_, rfl, fun _ => ⟨_, _, _, _, rfl⟩⟩

/-! ## The end of a solve (05 R121, R142, R143) -/

/-- `w'` differs from `w` at most in the engines and in what flags enter. -/
def engineScope (w w' : World) : Prop :=
  ∃ es st n, w' = { w with solver := { w.solver with engines := es }, tiles := { w.tiles with sticky := st, arithCount := n } }

theorem engineScope.refl (w : World) : engineScope w w := ⟨_, _, _, rfl⟩

theorem engineScope.trans {a b c : World} (hab : engineScope a b) (hbc : engineScope b c) : engineScope a c := by
  obtain ⟨_, _, _, rfl⟩ := hab
  obtain ⟨es, st, n, rfl⟩ := hbc
  exact ⟨es, st, n, rfl⟩

theorem engineScope.tmpls_eq {w w' : World} (h : engineScope w w') : w'.solver.tmpls = w.solver.tmpls := by
  obtain ⟨_, _, _, rfl⟩ := h; rfl

theorem engineScope.tmpl_eq {w w' : World} (h : engineScope w w') (t : Nat) : tmpl w' t = tmpl w t := by rw [tmpl, h.tmpls_eq, tmpl]

theorem engineScope.mem_eq {w w' : World} (h : engineScope w w') : w'.solver.mem = w.solver.mem := by
  obtain ⟨_, _, _, rfl⟩ := h; rfl

theorem engineScope.noneDue {w w' : World} (h : engineScope w w') (hd : noneDue w) : Machine.noneDue w' := by
  rw [Machine.noneDue, h.tmpls_eq]; exact hd

theorem engineScope_onBe (e : Nat) (f : Be → Be) (w : World) : engineScope w (onBe e f w) := ⟨_, _, _, rfl⟩

theorem engineScope_enterFlags (n : Nat) (f : BitVec 8) (w : World) : engineScope w (onTiles (enterFlags n f) w) := ⟨_, _, _, rfl⟩

/-- The descriptor is one of a solve. -/
def ofSolve (t num : Nat) (q : BeDesc) : Bool := q.template == t && q.release == num

/-- What an engine holds: the queue, then the chains that wait for room. -/
def held (x : Be) : List BeDesc := x.queue ++ x.waiting.flatten

theorem held_admitChains (k : Nat) (x : Be) : held (admitChains k x) = held x := by
  obtain ⟨l, wt, h, n, hflat, heq⟩ := admitChains_eq_with k x
  rw [heq, held, held, hflat, List.append_assoc]

/-- What the end of a descriptor keeps of an engine: what it holds, and its counts of refusals and of errors. -/
def engineKept (x x' : Be) : Prop := held x' = held x ∧ x'.badDesc = x.badDesc ∧ x'.uncorrectable = x.uncorrectable

/-- `w'` is `w` after an update of one engine, of whose old and new state `R` holds, and flags entered. -/
structure engineMoved (e : Nat) (R : Be → Be → Prop) (w w' : World) : Prop where
  scope : engineScope w w'
  sorted : storeSorted w.solver.engines → storeSorted w'.solver.engines
  other : storeSorted w.solver.engines → ∀ k, k ≠ e → be w' k = be w k
  same : storeSorted w.solver.engines → R (be w e) (be w' e)

theorem engineMoved.trans {e : Nat} {R S T : Be → Be → Prop} {a b c : World} (hab : engineMoved e R a b) (hbc : engineMoved e S b c)
    (hT : ∀ x y z, R x y → S y z → T x z) : engineMoved e T a c where
  scope := hab.scope.trans hbc.scope
  sorted h := hbc.sorted (hab.sorted h)
  other h k hk := (hbc.other (hab.sorted h) k hk).trans (hab.other h k hk)
  same h := hT _ _ _ (hab.same h) (hbc.same (hab.sorted h))

theorem engineMoved.refl (e : Nat) {R : Be → Be → Prop} (w : World) (h : R (be w e) (be w e)) : engineMoved e R w w where
  scope := engineScope.refl w
  sorted := id
  other _ _ _ := rfl
  same _ := h

theorem engineMoved_onBe (e : Nat) {R : Be → Be → Prop} {f : Be → Be} (w : World) (h : ∀ x, R x (f x)) : engineMoved e R w (onBe e f w) where
  scope := engineScope_onBe e f w
  sorted := onBe_sorted e f
  other hs _ hk := be_onBe_other f hs hk
  same hs := by rw [be_onBe_same e f hs]; exact h _

theorem complete_moved (e : Nat) (q : BeDesc) (result : Nat) (flags : BitVec 8) (status : List W64) (cycles : Nat) (w : World) :
    engineMoved e engineKept w (complete e q result flags status cycles w) := by
  obtain ⟨f, heq, hf⟩ := complete_eq_with e q result flags status cycles w
  have hmoved : engineMoved e engineKept w (onBe e f w) := engineMoved_onBe e w (fun x => by
    obtain ⟨rp, nc, wi, bf, hx⟩ := hf x
    rw [hx]; exact ⟨rfl, rfl, rfl⟩)
  rw [heq]
  exact ⟨hmoved.scope.trans (engineScope_enterFlags _ _ _), hmoved.sorted, hmoved.other, hmoved.same⟩

theorem engineKept.trans {x y z : Be} (hxy : engineKept x y) (hyz : engineKept y z) : engineKept x z := by
  obtain ⟨hq, hb, hu⟩ := hxy
  obtain ⟨hq', hb', hu'⟩ := hyz
  exact ⟨hq'.trans hq, hb'.trans hb, hu'.trans hu⟩

theorem completeEach_moved {α : Type} (e : Nat) {f : World → α → World} (hf : ∀ w a, engineMoved e engineKept w (f w a)) (l : List α)
    (w : World) : engineMoved e engineKept w (l.foldl f w) := by
  induction l generalizing w with
  | nil => exact engineMoved.refl e w ⟨rfl, rfl, rfl⟩
  | cons a l ih => exact (hf w a).trans (ih _) (fun _ _ _ => engineKept.trans)

/-- What the end of a solve does to an engine: every descriptor of the solve leaves, and its counts of refusals and of errors stay. -/
def solveLeft (t num : Nat) (x x' : Be) : Prop :=
  held x' = (held x).filter (fun q => !ofSolve t num q) ∧ x'.badDesc = x.badDesc ∧ x'.uncorrectable = x.uncorrectable

theorem flatten_filter_nonempty {α : Type} (l : List (List α)) : (l.filter (fun c => !c.isEmpty)).flatten = l.flatten := by
  induction l with
  | nil => rfl
  | cons c l ih => cases c <;> simp [ih]

/-- An engine whose descriptors of a solve have been taken out, as its queue then fills. -/
theorem solveLeft_admitChains {t num : Nat} {x y : Be} (k : Nat) (hq : y.queue = x.queue.filter (fun q => !ofSolve t num q))
    (hw : y.waiting = (x.waiting.map (fun c => c.filter (fun q => !ofSolve t num q))).filter (fun c => !c.isEmpty))
    (hb : y.badDesc = x.badDesc) (hu : y.uncorrectable = x.uncorrectable) : solveLeft t num x (admitChains k y) := by
  refine ⟨?_, ?_, ?_⟩
  · rw [held_admitChains, held, held, hq, hw, flatten_filter_nonempty, List.filter_append, List.filter_flatten]
  · obtain ⟨l, wt, h, n, -, heq⟩ := admitChains_eq_with k y
    rw [heq]; exact hb
  · obtain ⟨l, wt, h, n, -, heq⟩ := admitChains_eq_with k y
    rw [heq]; exact hu

theorem solveLeft_of_none {t num : Nat} {x : Be} (h : (x.queue.filter (ofSolve t num) ++ x.waiting.flatten.filter (ofSolve t num)) = []) :
    solveLeft t num x x := by
  refine ⟨?_, rfl, rfl⟩
  rw [← List.filter_append, List.filter_eq_nil_iff] at h
  exact (List.filter_eq_self.mpr (fun q hq => by simpa using h q hq)).symm

/-- The end of a solve is one update of each engine, then the images whose words no longer are held. -/
theorem dropChain_eq (t num result : Nat) (w : World) : ∃ f : Nat → World → World,
    dropChain t num result w = drainImages (eachW (upTo 32) f w) ∧ ∀ e w, engineMoved e (solveLeft t num) w (f e w) := by
  refine ⟨_, rfl, fun e w => ?_⟩
  dsimp only
  split
  next hnone =>
    rw [Bool.and_eq_true, List.isEmpty_iff] at hnone
    exact engineMoved.refl e w (solveLeft_of_none hnone.1)
  next =>
    refine engineMoved.trans (R := engineKept) (S := solveLeft t num) ?completed
      (engineMoved_onBe e _ (fun x => solveLeft_admitChains 33 rfl rfl rfl rfl)) ?both
    case completed =>
      split
      · exact engineMoved.refl e w ⟨rfl, rfl, rfl⟩
      · exact (complete_moved e _ _ _ _ _ _).trans (completeEach_moved e (fun w q => complete_moved e q _ _ _ _ w) _ _)
          (fun _ _ _ => engineKept.trans)
    case both =>
      rintro x y z ⟨hq, hb, hu⟩ ⟨hq', hb', hu'⟩
      exact ⟨by rw [hq', hq], hb'.trans hb, hu'.trans hu⟩

/-- Each of the engines `l` has lost the descriptors of a solve, and none has gained any. -/
structure solveLeftOf (t num : Nat) (l : List Nat) (w w' : World) : Prop where
  scope : engineScope w w'
  sorted : storeSorted w.solver.engines → storeSorted w'.solver.engines
  holds : storeSorted w.solver.engines → ∀ k, ∀ q ∈ held (be w' k), q ∈ held (be w k) ∧ (k ∈ l → ofSolve t num q = false)
  counts : storeSorted w.solver.engines → ∀ k, (be w' k).badDesc = (be w k).badDesc ∧ (be w' k).uncorrectable = (be w k).uncorrectable

theorem engineMoved.solveLeftOf {t num e : Nat} {w w' : World} (h : engineMoved e (solveLeft t num) w w') :
    Machine.solveLeftOf t num [e] w w' where
  scope := h.scope
  sorted := h.sorted
  holds hs k q hq := by
    by_cases hk : k = e
    · subst hk
      obtain ⟨hheld, -⟩ := h.same hs
      rw [hheld, List.mem_filter] at hq
      exact ⟨hq.1, fun _ => by simpa using hq.2⟩
    · rw [h.other hs k hk] at hq
      exact ⟨hq, fun hm => absurd (List.mem_singleton.mp hm) hk⟩
  counts hs k := by
    by_cases hk : k = e
    · subst hk
      exact (h.same hs).2
    · rw [h.other hs k hk]; exact ⟨rfl, rfl⟩

theorem solveLeftOf.trans {t num : Nat} {l m : List Nat} {a b c : World} (hab : solveLeftOf t num l a b) (hbc : solveLeftOf t num m b c) :
    solveLeftOf t num (l ++ m) a c where
  scope := hab.scope.trans hbc.scope
  sorted h := hbc.sorted (hab.sorted h)
  holds h k q hq := by
    obtain ⟨hb, hm⟩ := hbc.holds (hab.sorted h) k q hq
    obtain ⟨ha, hl⟩ := hab.holds h k q hb
    exact ⟨ha, fun hk => (List.mem_append.mp hk).elim hl hm⟩
  counts h k := by
    obtain ⟨hb, hu⟩ := hab.counts h k
    obtain ⟨hb', hu'⟩ := hbc.counts (hab.sorted h) k
    exact ⟨hb'.trans hb, hu'.trans hu⟩

theorem eachW_solveLeftOf {t num : Nat} {f : Nat → World → World} (hf : ∀ e w, engineMoved e (solveLeft t num) w (f e w)) (l : List Nat)
    (w : World) : solveLeftOf t num l w (eachW l f w) := by
  induction l generalizing w with
  | nil => exact ⟨engineScope.refl w, id, fun _ _ _ hq => ⟨hq, fun hm => absurd hm List.not_mem_nil⟩, fun _ _ => ⟨rfl, rfl⟩⟩
  | cons e l ih => exact (hf e w).solveLeftOf.trans (ih (f e w))

/-- The end of a solve: its descriptors leave all 32 engines, then images drain. -/
theorem dropChain_spec (t num result : Nat) (w : World) :
    ∃ w', solveLeftOf t num (upTo 32) w w' ∧ dropChain t num result w = drainImages w' := by
  obtain ⟨f, heq, hf⟩ := dropChain_eq t num result w
  exact ⟨eachW (upTo 32) f w, eachW_solveLeftOf hf _ w, heq⟩

section

variable (t num result : Nat) {w : World}

theorem dropChain_eq_with (w : World) : ∃ sv st n, dropChain t num result w =
    { w with solver := sv, tiles := { w.tiles with sticky := st, arithCount := n } } := by
  obtain ⟨w', h, heq⟩ := dropChain_spec t num result w
  obtain ⟨_, _, _, rfl⟩ := h.scope
  obtain ⟨_, _, hdrain⟩ := (drainImages_drained _).eq_with
  exact ⟨_, _, _, heq.trans hdrain⟩

theorem releases_dropChain (h : storeSorted w.solver.tmpls) (k : Nat) : (tmpl (dropChain t num result w) k).releases = (tmpl w k).releases := by
  obtain ⟨w', hleft, heq⟩ := dropChain_spec t num result w
  rw [heq, (drainImages_drained w').releases (by rwa [hleft.scope.tmpls_eq]), hleft.scope.tmpl_eq]

theorem dropChain_sorted (h : storeSorted w.solver.tmpls) : storeSorted (dropChain t num result w).solver.tmpls := by
  obtain ⟨w', hleft, heq⟩ := dropChain_spec t num result w
  rw [heq]
  exact (drainImages_drained w').sorted (by rwa [hleft.scope.tmpls_eq])

theorem mem_dropChain (h : noneDue w) : (dropChain t num result w).solver.mem = w.solver.mem := by
  obtain ⟨w', hleft, heq⟩ := dropChain_spec t num result w
  rw [heq, drainImages_of_noneDue (hleft.scope.noneDue h), hleft.scope.mem_eq]

theorem counts_dropChain (h : storeSorted w.solver.engines) (k : Nat) :
    (be (dropChain t num result w) k).badDesc = (be w k).badDesc ∧
    (be (dropChain t num result w) k).uncorrectable = (be w k).uncorrectable := by
  obtain ⟨w', hleft, heq⟩ := dropChain_spec t num result w
  rw [heq, (drainImages_drained w').be_eq]
  exact hleft.counts h k

/-- No engine holds a descriptor of a solve that has ended. -/
theorem not_mem_queue_dropChain (h : storeSorted w.solver.engines) (e : Fin 32) {q : BeDesc} (hq : ofSolve t num q = true) :
    q ∉ (be (dropChain t num result w) e).queue := by
  obtain ⟨w', hleft, heq⟩ := dropChain_spec t num result w
  rw [heq, (drainImages_drained w').be_eq]
  intro hmem
  obtain ⟨-, hno⟩ := hleft.holds h e q (List.mem_append_left _ hmem)
  exact absurd ((hno (List.mem_range.mpr e.isLt)).symm.trans hq) Bool.false_ne_true

end

/-! ## A missed release (05 R142) -/

/-- The marks of a release that misses its deadline. -/
def missed (r : Release) : Release := { r with dead := true, fail := some 1 }

/-- A missed release is marked, its engine counts it, and its solve ends. -/
theorem missRelease_eq (t : Nat) (r : Release) (w : World) :
    ∃ w', engineScope (onRelease t r.num missed w) w' ∧ missRelease t r w = dropChain t r.num 1 w' := by
  unfold missRelease
  dsimp only
  split
  · exact ⟨_, engineScope_onBe _ _ _, rfl⟩
  · exact ⟨_, engineScope.refl _, rfl⟩

section

variable (t : Nat) (r : Release) {w : World}

theorem missRelease_eq_with (w : World) : ∃ sv st n, missRelease t r w =
    { w with solver := sv, tiles := { w.tiles with sticky := st, arithCount := n } } := by
  obtain ⟨w', ⟨_, _, _, rfl⟩, heq⟩ := missRelease_eq t r w
  obtain ⟨_, _, _, hdrop⟩ := dropChain_eq_with t r.num 1 _
  exact ⟨_, _, _, heq.trans hdrop⟩

theorem releases_missRelease (h : storeSorted w.solver.tmpls) :
    (tmpl (missRelease t r w) t).releases = mapRelease r.num missed (tmpl w t).releases := by
  obtain ⟨w', hscope, heq⟩ := missRelease_eq t r w
  have hsorted : storeSorted w'.solver.tmpls := by rw [hscope.tmpls_eq]; exact onTmpl_sorted t _ h
  rw [heq, releases_dropChain t r.num 1 hsorted, hscope.tmpl_eq, releases_onRelease t r.num missed h]

theorem mem_missRelease (h : noneDue w) : (missRelease t r w).solver.mem = w.solver.mem := by
  obtain ⟨w', hscope, heq⟩ := missRelease_eq t r w
  rw [heq, mem_dropChain t r.num 1 (hscope.noneDue (noneDue_onRelease t r.num missed h)), hscope.mem_eq]
  rfl

end

end Sys2Proof.Machine
end

section
/-! PROOFS. Deadlines (05 R142; 02 R55; 06 R150, R162, R166), the latest assembly (06 R152), an uncorrectable error in the running
descriptor (05 R143). -/

namespace Sys2Proof.Machine

/-! ## The deadline instant -/

theorem deadlineMet_iff {w : World} {t : Nat} {r : Release} : deadlineMet w t r = true ↔
    figureInstant w t r (tDeadline (tRec w.cfg.active t)) ≤ nowNs w ∧
    r.travel + tDeadline (tRec w.cfg.active t) ≤ travelAt w (tTracker (tRec w.cfg.active t)) (now16 w 65535) := by
  simp only [deadlineMet, Bool.and_eq_true, decide_eq_true_eq]

/-- The marks of a release whose deadline instant has come, its fate known. -/
def expired (r : Release) : Release := { r with dead := true }

/-- The deadline instant of the oldest release before it: a judged release leaves, one of known fate is dead, another is missed. -/
theorem deadlineReached_of_met {w : World} {t : Nat} {r : Release} (hr : (tmpl w t).releases.find? (fun r => !r.dead) = some r)
    (hm : deadlineMet w t r = true) : deadlineReached t w =
      if r.judged then onTmpl t (fun x => { x with releases := x.releases.filter (fun z => z.num ≠ r.num) }) w
      else if r.fail.isSome || r.doneAt.isSome then onRelease t r.num expired w else missRelease t r w := by
  simp only [deadlineReached, hr, hm]
  rfl

theorem deadlineReached_of_not_met {w : World} {t : Nat} {r : Release} (hr : (tmpl w t).releases.find? (fun r => !r.dead) = some r)
    (hm : deadlineMet w t r = false) : deadlineReached t w = w := by
  simp only [deadlineReached, hr, hm]
  rfl

/-- Releases of which those of a number have been marked: one of the number is there, and all of them bear the marks. -/
theorem mapRelease_marks {num : Nat} {f : Release → Release} {l : List Release} {r : Release} {P : Release → Prop} (hr : r ∈ l)
    (hnum : r.num = num) (hf : ∀ z, (f z).num = z.num) (hP : ∀ z, P (f z)) :
    (∃ z ∈ mapRelease num f l, z.num = num) ∧ ∀ z ∈ mapRelease num f l, z.num = num → P z := by
  refine ⟨⟨f r, ?_, by rw [hf, hnum]⟩, fun z hz hn => ?_⟩
  · exact List.mem_map.mpr ⟨r, hr, if_pos hnum⟩
  · obtain ⟨y, -, -, rfl⟩ := mem_mapRelease hz hn hf
    exact hP y

/-! ## Uncorrectable errors (05 R143; 12 R319) -/

/-- The marks of a release that an uncorrectable error loses. -/
def struckBy (r : Release) : Release := { r with fail := some 2 }

/-- One more uncorrectable error on the engine. -/
def countStruck (x : Be) : Be := { x with uncorrectable := x.uncorrectable + 1 }

theorem basaltStruck_of_running {w : World} {e : Nat} {q : BeDesc} {rest : List BeDesc} (hq : (be w e).queue = q :: rest)
    (hr : (be w e).run.isSome = true) : basaltStruck e w =
      onRelease q.template q.release struckBy (dropChain q.template q.release 3 (onBe e countStruck w)) := by
  obtain ⟨r, hr⟩ := Option.isSome_iff_exists.mp hr
  simp only [basaltStruck, hq, hr]
  rfl

@[simp] theorem be_reportUnc (d store address : Nat) (w : World) (k : Nat) : be (reportUnc d store address w) k = be w k := rfl
@[simp] theorem tmpl_reportUnc (d store address : Nat) (w : World) (t : Nat) : tmpl (reportUnc d store address w) t = tmpl w t := rfl
theorem mem_reportUnc (d store address : Nat) (w : World) : (reportUnc d store address w).solver.mem = w.solver.mem := rfl
theorem mem_onRelease (t num : Nat) (f : Release → Release) (w : World) : (onRelease t num f w).solver.mem = w.solver.mem := rfl

/-- An engine struck at an address while a descriptor runs: its solve ends, its release is lost, the error is reported. -/
def struckEngine (e address : Nat) (q : BeDesc) (w : World) : World :=
  reportUnc (e / 8) 1 address (onRelease q.template q.release struckBy (dropChain q.template q.release 3 (onBe e countStruck w)))

section

variable (e address : Nat) (q : BeDesc) {w : World}

theorem uncorrectable_struckEngine (h : storeSorted w.solver.engines) :
    (be (struckEngine e address q w) e).uncorrectable = (be w e).uncorrectable + 1 := by
  rw [struckEngine, be_reportUnc, be_onRelease, (counts_dropChain q.template q.release 3 (onBe_sorted e countStruck h) e).2,
    be_onBe_same e countStruck h, countStruck]

theorem fail_struckEngine (h : storeSorted w.solver.tmpls) {z : Release} (hz : z ∈ (tmpl (struckEngine e address q w) q.template).releases)
    (hn : z.num = q.release) : z.fail = some 2 := by
  have hsorted : storeSorted (onBe e countStruck w).solver.tmpls := h
  rw [struckEngine, tmpl_reportUnc, releases_onRelease _ _ _ (dropChain_sorted q.template q.release 3 hsorted)] at hz
  obtain ⟨r, -, -, rfl⟩ := mem_mapRelease hz hn (fun _ => rfl)
  rfl

theorem mem_struckEngine (h : noneDue w) : (struckEngine e address q w).solver.mem = w.solver.mem := by
  have hdue : noneDue (onBe e countStruck w) := h
  rw [struckEngine, mem_reportUnc, mem_onRelease, mem_dropChain q.template q.release 3 hdue]
  rfl

theorem struckEngine_eq_with (w : World) : ∃ ds sv ti ct n, struckEngine e address q w =
    { w with dev := { w.dev with dies := ds }, solver := sv, tiles := ti, cont := ct, free := n } := by
  obtain ⟨_, _, _, hdrop⟩ := dropChain_eq_with q.template q.release 3 (onBe e countStruck w)
  rw [struckEngine, hdrop]
  exact ⟨_, _, _, _, _, rfl⟩

end

/-- No output pin follows what is kept of the dies. -/
theorem settle_of_dies {w w' : World} {ds : List Die} (h : settle w = w) (hd : w'.dev = { w.dev with dies := ds }) : settle w' = w' := by
  have hset : (settle w').dev = w'.dev := calc
    (settle w').dev = { (settle w).dev with dies := ds } := by simp only [settle, hd]; rfl
    _ = w'.dev := by rw [h, hd]
  calc settle w' = { w' with dev := (settle w').dev } := rfl
    _ = w' := by rw [hset]

end Sys2Proof.Machine

namespace Sys2Proof.Claims

open Sys2Proof.Machine

/-! ## The rows -/

theorem exec_deadlineReached (n : Fin 4096) (s : State) : exec (.deadlineReached n) s = liveEffect (deadlineReached n) s := rfl

/-- An uncorrectable error in a descriptor that runs, at a free address. -/
theorem effectIs_basaltUncorrectable {s : State} {e : Fin 32} {q : BeDesc} {rest : List BeDesc} (hq : (be s.live e).queue = q :: rest)
    (hr : (be s.live e).run.isSome = true) :
    effectIs (.basaltUncorrectable e) s (struckEngine e (draw 64 s.live).1.toNat q (draw 64 s.live).2) := by
  refine ⟨_, (rfl : execBasaltUncorrectable e s = _), ?_⟩
  rw [struckEngine, ← basaltStruck_of_running (w := (draw 64 s.live).2) hq hr]
  simp only [hr, whenW_true]

/-- An awake device ends in an effect that changes, of the device block, what is kept of the dies alone. -/
theorem runsTo_of_dies {i : Instr} {s : State} {w : World} {P : State → Prop} {ds : List Die} (hi : effectIs i s w) (ha : awake s)
    (hd : w.dev = { s.live.dev with dies := ds }) (hP : P { s with live := w }) : runsTo i s P := by
  obtain ⟨f, hf, rfl⟩ := hi
  obtain ⟨halive, hpins⟩ := ha
  exact ⟨{ s with live := f s.live }, by rw [hf, liveEffect_alive halive, settle_of_dies hpins hd], rfl, hP⟩

theorem effectIs_asmLatest {s : State} {n : Fin 4096} {r : Release} (hr : nextAssembly s.live n = some r)
    (hlate : figureInstant s.live n r (tAsmLatest (tRec s.live.cfg.active n)) ≤ nowNs s.live) :
    effectIs (.asmLatestReached n) s (onRelease n r.num (fun r => { r with latest := true }) s.live) := by
  refine ⟨_, (rfl : execAsmLatestReached n s = _), ?_⟩
  simp only [hr, if_pos hlate]

theorem ordered.engines {w : World} (h : ordered w) : storeSorted w.solver.engines := by
  obtain ⟨-, -, -, -, -, -, -, -, -, -, he, -⟩ := h; exact he

theorem ordered.tmpls {w : World} (h : ordered w) : storeSorted w.solver.tmpls := h.blocks.1

/-- Settles O45: a release's marks are read off the list of releases, which the end of its solve leaves alone (`releases_missRelease`,
`releases_dropChain`). That travel in either direction reaches the deadline is log 26's choice. -/
theorem releasesMeetDeadlinesAndErrors : Obligations.ReleasesMeetDeadlinesAndErrors := by
  unfold Obligations.ReleasesMeetDeadlinesAndErrors
  refine ⟨?reached, ?early, ?latest, ?struck⟩
  case reached =>
    rintro s n r span ha ho hr rfl hfig htravel
    have heff := deadlineReached_of_met hr (deadlineMet_iff.mpr ⟨hfig, htravel⟩)
    have hmem := List.mem_of_find?_eq_some hr
    by_cases hj : r.judged = true
    · rw [if_pos hj] at heff
      refine runsTo_of_effectIs ⟨_, exec_deadlineReached n s, heff⟩ ha rfl ⟨fun _ => ?_, fun h => ?_, fun _ => rfl, fun _ => rfl, rfl⟩
      · exact congrArg Tmpl.releases (tmpl_onTmpl_same _ _ ho.tmpls)
      · rw [hj] at h; cases h
    rw [if_neg hj] at heff
    by_cases hk : (r.fail.isSome || r.doneAt.isSome) = true
    · rw [if_pos hk] at heff
      refine runsTo_of_effectIs ⟨_, exec_deadlineReached n s, heff⟩ ha rfl
        ⟨fun h => absurd h hj, fun _ => ?_, fun _ => rfl, fun _ => rfl, rfl⟩
      rw [releases_onRelease _ _ _ ho.tmpls]
      refine mapRelease_marks hmem rfl (fun _ => rfl) (fun z => ⟨rfl, fun hfail hdone => ?_⟩)
      simp [hfail, hdone] at hk
    · rw [if_neg hk] at heff
      obtain ⟨sv, st, k, hframe⟩ := missRelease_eq_with n r s.live
      refine runsTo_of_effectIs ⟨_, exec_deadlineReached n s, heff⟩ ha (by rw [hframe]) ⟨fun h => absurd h hj, fun _ => ?_, fun h => ?_,
        fun hdue => ?_, ?_⟩
      · rw [releases_missRelease n r ho.tmpls]
        exact mapRelease_marks (P := fun z => z.dead = true ∧ (r.fail = none → r.doneAt = none → z.fail = some 1)) hmem rfl (fun _ => rfl)
          (fun z => ⟨rfl, fun _ _ => rfl⟩)
      · exact absurd (h.resolve_left hj) (fun hdone => hk (by rw [hdone, Bool.or_true]))
      · rw [mem_missRelease n r hdue]
      · rw [hframe]
  case early =>
    intro s n r ha hr hbefore
    refine runsTo_self (exec_deadlineReached n s) ha (deadlineReached_of_not_met hr ?_)
    rw [← Bool.not_eq_true, deadlineMet_iff]
    omega
  case latest =>
    intro s n r ha ho hr hlate
    exact runsTo_of_effectIs (effectIs_asmLatest hr hlate) ha rfl
      ⟨releases_onRelease _ _ _ ho.tmpls, fun k hk => tmpl_onTmpl_other _ ho.tmpls hk, rfl⟩
  case struck =>
    intro s e q rest ha ho hq hr
    have heff := effectIs_basaltUncorrectable hq hr
    have hcount := uncorrectable_struckEngine e (draw 64 s.live).1.toNat q (w := (draw 64 s.live).2) ho.engines
    have hfail (z : Release) := fail_struckEngine e (draw 64 s.live).1.toNat q (w := (draw 64 s.live).2) (z := z) ho.tmpls
    have hmem := mem_struckEngine e (draw 64 s.live).1.toNat q (w := (draw 64 s.live).2)
    obtain ⟨ds, sv, ti, ct, n, hframe⟩ := struckEngine_eq_with e (draw 64 s.live).1.toNat q (draw 64 s.live).2
    generalize struckEngine e (draw 64 s.live).1.toNat q (draw 64 s.live).2 = w at heff hcount hfail hmem hframe
    exact runsTo_of_dies (ds := ds) heff ha (by rw [hframe]; rfl) ⟨hcount, hfail, hmem, by rw [hframe]; rfl⟩

end Sys2Proof.Claims
end

section
/-! PROOFS. Retirement of a Basalt descriptor (05 R119, R121, R140, R142; 06 R165): its completion record, the queue behind it, the solve
it ends, and the refusal of one whose form is wrong. -/

namespace Sys2Proof.Machine

/-! ## The head leaves -/

/-- An engine whose head has retired after a number of cycles. -/
def retiredBe (q : BeDesc) (rest : List BeDesc) (r : BeRun) (cycles : Nat) (x : Be) : Be := admitChains 33 { x with
  queue := rest, run := none, commands := x.commands + 1, busy := x.busy + (cycles - r.counted)
  holds := x.holds.filter (fun h => !(h.template == q.template && h.release == q.release && h.idx == q.idx && !h.untilPublished)) }

theorem retiredBe_eq_with (q : BeDesc) (rest : List BeDesc) (r : BeRun) (cycles : Nat) (x : Be) : ∃ l wt h n, (x.waiting = [] → l = []) ∧
    retiredBe q rest r cycles x = { x with
      queue := rest ++ l, waiting := wt, run := none, commands := x.commands + 1, busy := x.busy + (cycles - r.counted), holds := h
      queueMax := n } := by
  obtain ⟨l, wt, h, n, hflat, heq⟩ := admitChains_eq_with 33 _
  refine ⟨l, wt, h, n, fun hw => ?_, heq⟩
  rw [hw] at hflat
  exact (List.append_eq_nil_iff.mp hflat.symm).1

/-- The head of an engine leaves with its completion record. -/
def retireHead (e cycles : Nat) (q : BeDesc) (rest : List BeDesc) (r : BeRun) (w : World) : World :=
  onBe e (retiredBe q rest r cycles) (complete e q 0 (r.flags ||| q.asmFlags) r.status cycles w)

/-- What retirement with record `c` makes of an engine. -/
structure headRetired (rest : List BeDesc) (counted : Nat) (c : Completion) (x x' : Be) : Prop where
  commands : x'.commands = x.commands + 1
  run : x'.run = none
  queue : ∃ l, x'.queue = rest ++ l
  alone : x.waiting = [] → x'.queue = rest
  last : x'.last = c
  fifo : x'.fifo = x.fifo ++ [c]
  busy : x'.busy = x.busy + (c.cycles - counted)

section

variable (e cycles : Nat) (q : BeDesc) (rest : List BeDesc) (r : BeRun) {w : World}

theorem retireHead_scope (w : World) : engineScope w (retireHead e cycles q rest r w) :=
  (complete_moved e q 0 (r.flags ||| q.asmFlags) r.status cycles w).scope.trans (engineScope_onBe e _ _)

theorem be_retireHead_same (h : storeSorted w.solver.engines) : headRetired rest r.counted
    (completionOf q 0 (r.flags ||| q.asmFlags) r.status cycles (nowNs w)) (be w e) (be (retireHead e cycles q rest r w) e) := by
  obtain ⟨f, heq, hf⟩ := complete_eq_with e q 0 (r.flags ||| q.asmFlags) r.status cycles w
  have hbe : be (retireHead e cycles q rest r w) e = retiredBe q rest r cycles (f (be w e)) := by
    have hcomplete : be (complete e q 0 (r.flags ||| q.asmFlags) r.status cycles w) e = f (be w e) := by
      rw [heq]; exact be_onBe_same e f h
    rw [retireHead, be_onBe_same e _ ((complete_moved e q 0 _ r.status cycles w).sorted h), hcomplete]
  obtain ⟨rp, nc, wi, bf, hfx⟩ := hf (be w e)
  obtain ⟨l, wt, hd, n, halone, hretired⟩ := retiredBe_eq_with q rest r cycles (f (be w e))
  rw [hbe, hretired]
  rw [hfx] at halone ⊢
  exact ⟨rfl, rfl, ⟨l, rfl⟩, fun hw => by rw [halone hw, List.append_nil], rfl, rfl, rfl⟩

theorem be_retireHead_other (h : storeSorted w.solver.engines) {k : Nat} (hk : k ≠ e) : be (retireHead e cycles q rest r w) k = be w k := by
  have hmoved := complete_moved e q 0 (r.flags ||| q.asmFlags) r.status cycles w
  rw [retireHead, be_onBe_other _ (hmoved.sorted h) hk, hmoved.other h k hk]

theorem sticky_retireHead (h : storeSorted w.tiles.sticky) : sGet 0 (retireHead e cycles q rest r w).tiles.sticky (128 + e) =
    sGet 0 w.tiles.sticky (128 + e) ||| (r.flags ||| q.asmFlags) := sGet_put_same _ _ h

end

/-! ## The solve that a retirement ends -/

/-- A descriptor's post of its synchronisation object (05 R119). -/
def postOf (q : BeDesc) (w : World) : World := if bPostEn q.desc then postSync (bSyncObj q.desc) w else w

theorem postOf_scope (q : BeDesc) (w : World) : syncScope w (postOf q w) := by
  unfold postOf
  split
  · exact syncScope_postSync _ _
  · exact syncScope.refl w

/-- No descriptor of its solve stands behind it. -/
def lastOfSolve (q : BeDesc) (rest : List BeDesc) : Bool :=
  match rest with
  | n :: _ => !(n.template == q.template && n.release == q.release)
  | [] => true

theorem lastOfSolve_of_none {q : BeDesc} {rest : List BeDesc} (h : ∀ n l, rest = n :: l → ¬(n.template = q.template ∧ n.release = q.release)) :
    lastOfSolve q rest = true := by
  cases rest with
  | nil => rfl
  | cons n l => simpa [lastOfSolve, imp_iff_not_or] using h n l rfl

/-- The marks of a release whose solve is done. -/
def solved (now : Nat) (status : List W64) (z : Release) : Release := { z with doneAt := some now, status := status }

/-- What the retirement of a solve's last descriptor makes of its release. -/
def settleRelease (q : BeDesc) (r : BeRun) (rel : Release) (w : World) : World :=
  if !inFlight rel then onRelease q.template q.release (solved (nowNs w) r.status) w
  else if deadlineMet w q.template rel then missRelease q.template rel (onRelease q.template q.release (solved (nowNs w) r.status) w)
  else earlyRoutes q.template (tHome w q.template) (bufferChain w.cfg.active q.template rel.buffer)
    (onTmpl q.template (fun z => { z with doneRel := some rel.at_ }) (onRelease q.template q.release (solved (nowNs w) r.status) w))

/-- What a retirement makes of the solve. -/
def settleSolve (q : BeDesc) (rest : List BeDesc) (r : BeRun) (w : World) : World :=
  if !lastOfSolve q rest then w else
    match releaseOf w q.template q.release with
    | none => w
    | some rel => settleRelease q r rel w

/-- The device as the head has left it, its post made, before the solve is judged. -/
def headGone (e cycles : Nat) (q : BeDesc) (rest : List BeDesc) (r : BeRun) (w : World) : World :=
  postOf q (drainImages (retireHead e cycles q rest r w))

section

variable {e cycles : Nat} {q : BeDesc} {rest : List BeDesc} {r : BeRun} {w : World}

theorem retireBasalt_within (hq : (be w e).queue = q :: rest) (hr : (be w e).run = some r) (hc : cycles ≤ cycBound q.desc (slowest r.status)) :
    retireBasalt e cycles w = settleSolve q rest r (headGone e cycles q rest r w) := by
  simp only [retireBasalt, hq, hr, if_neg (Nat.not_lt.mpr hc)]
  rfl

theorem retireBasalt_beyond (hq : (be w e).queue = q :: rest) (hr : (be w e).run = some r) (hc : cycBound q.desc (slowest r.status) < cycles) :
    retireBasalt e cycles w = w := by
  simp only [retireBasalt, hq, hr, if_pos hc]

/-- One more descriptor refused on the engine. -/
def countRefused (x : Be) : Be := { x with badDesc := x.badDesc + 1 }

/-- The marks of a release that a refused descriptor loses. -/
def refusedBy (z : Release) : Release := { z with fail := some 5 }

theorem retireBasalt_refused (hq : (be w e).queue = q :: rest) (hr : (be w e).run = none) (hbad : bDescOk q.desc = false) :
    retireBasalt e cycles w =
      onRelease q.template q.release refusedBy (dropChain q.template q.release 2 (onBe e countRefused w)) := by
  simp only [retireBasalt, hq, hr, hbad]
  rfl

theorem headGone_eq_with (e cycles : Nat) (q : BeDesc) (rest : List BeDesc) (r : BeRun) (w : World) : ∃ sv cs sy st n ct,
    headGone e cycles q rest r w = { w with
      solver := sv, tiles := { w.tiles with ctxs := cs, sync := sy, sticky := st, arithCount := n }, cont := ct } := by
  obtain ⟨_, _, _, hpost⟩ := postOf_scope q (drainImages (retireHead e cycles q rest r w))
  obtain ⟨_, _, hdrain⟩ := (drainImages_drained (retireHead e cycles q rest r w)).eq_with
  obtain ⟨_, _, _, hhead⟩ := retireHead_scope e cycles q rest r w
  rw [headGone, hpost, hdrain, hhead]
  exact ⟨_, _, _, _, _, _, rfl⟩

theorem solver_headGone (e cycles : Nat) (q : BeDesc) (rest : List BeDesc) (r : BeRun) (w : World) :
    (headGone e cycles q rest r w).solver = (drainImages (retireHead e cycles q rest r w)).solver := by
  obtain ⟨_, _, _, hpost⟩ := postOf_scope q (drainImages (retireHead e cycles q rest r w))
  rw [headGone, hpost]

theorem be_headGone (k : Nat) : be (headGone e cycles q rest r w) k = be (retireHead e cycles q rest r w) k := by
  rw [be, solver_headGone]
  exact (drainImages_drained _).be_eq k

theorem sticky_headGone : (headGone e cycles q rest r w).tiles.sticky = (retireHead e cycles q rest r w).tiles.sticky := by
  obtain ⟨_, _, _, hpost⟩ := postOf_scope q (drainImages (retireHead e cycles q rest r w))
  obtain ⟨_, _, hdrain⟩ := (drainImages_drained (retireHead e cycles q rest r w)).eq_with
  rw [headGone, hpost, hdrain]

theorem tmpls_headGone_sorted (h : storeSorted w.solver.tmpls) : storeSorted (headGone e cycles q rest r w).solver.tmpls := by
  rw [solver_headGone]
  exact (drainImages_drained _).sorted (by rwa [(retireHead_scope e cycles q rest r w).tmpls_eq])

theorem releases_headGone (h : storeSorted w.solver.tmpls) (t : Nat) :
    (tmpl (headGone e cycles q rest r w) t).releases = (tmpl w t).releases := by
  have hscope := retireHead_scope e cycles q rest r w
  have hdrain := (drainImages_drained (retireHead e cycles q rest r w)).releases (by rwa [hscope.tmpls_eq]) t
  rw [hscope.tmpl_eq] at hdrain
  rw [tmpl, solver_headGone]
  exact hdrain

theorem releaseOf_headGone (h : storeSorted w.solver.tmpls) (t num : Nat) : releaseOf (headGone e cycles q rest r w) t num = releaseOf w t num := by
  rw [releaseOf, releases_headGone h, releaseOf]

theorem mem_headGone (h : noneDue w) : (headGone e cycles q rest r w).solver.mem = w.solver.mem := by
  have hscope := retireHead_scope e cycles q rest r w
  rw [solver_headGone, drainImages_of_noneDue (hscope.noneDue h), hscope.mem_eq]

/-- Whether a deadline instant has come rests on the clocks and the configuration alone. -/
theorem deadlineMet_headGone (t : Nat) (z : Release) : deadlineMet (headGone e cycles q rest r w) t z = deadlineMet w t z := by
  obtain ⟨_, _, _, _, _, _, h⟩ := headGone_eq_with e cycles q rest r w
  rw [h]; rfl

theorem nowNs_headGone : nowNs (headGone e cycles q rest r w) = nowNs w := by
  obtain ⟨_, _, _, _, _, _, h⟩ := headGone_eq_with e cycles q rest r w
  rw [h]; rfl

end

/-! ## A solve that ends in time -/

/-- `w'` differs from `w` at most in the templates, in Obsidian's queues and in the count of draws. -/
def routeScope (w w' : World) : Prop := ∃ ts ct n, w' = { w with solver := { w.solver with tmpls := ts }, cont := ct, free := n }

theorem routeScope.refl (w : World) : routeScope w w := ⟨_, _, _, rfl⟩

theorem routeScope.trans {a b c : World} (hab : routeScope a b) (hbc : routeScope b c) : routeScope a c := by
  obtain ⟨_, _, _, rfl⟩ := hab
  obtain ⟨ts, ct, n, rfl⟩ := hbc
  exact ⟨ts, ct, n, rfl⟩

theorem routeScope.be_eq {w w' : World} (h : routeScope w w') (e : Nat) : be w' e = be w e := by
  obtain ⟨_, _, _, rfl⟩ := h; rfl

theorem routeScope.mem_eq {w w' : World} (h : routeScope w w') : w'.solver.mem = w.solver.mem := by
  obtain ⟨_, _, _, rfl⟩ := h; rfl

theorem routeScope.tiles_eq {w w' : World} (h : routeScope w w') : w'.tiles = w.tiles := by
  obtain ⟨_, _, _, rfl⟩ := h; rfl

theorem routeScope_onTmpl (t : Nat) (f : Tmpl → Tmpl) (w : World) : routeScope w (onTmpl t f w) := ⟨_, _, _, rfl⟩

theorem routeScope_onRelease (t num : Nat) (f : Release → Release) (w : World) : routeScope w (onRelease t num f w) := ⟨_, _, _, rfl⟩

theorem routeScope_enterDelta (t slot inst fmt : Nat) (value : W32) (src prod : Nat) (w : World) :
    routeScope w (enterDelta t slot inst fmt value src prod w) := by
  unfold enterDelta
  split
  · exact ⟨_, _, _, rfl⟩
  · exact routeScope_onTmpl _ _ _

theorem routeScope_eachW {α : Type} {f : α → World → World} (hf : ∀ a w, routeScope w (f a w)) (l : List α) (w : World) :
    routeScope w (eachW l f w) :=
  eachW_keeps (P := routeScope w) (fun a w' hw => hw.trans (hf a w')) l (routeScope.refl w)

theorem routeScope_earlyRoutes (t e : Nat) (chain : List (BitVec 512)) (w : World) : routeScope w (earlyRoutes t e chain w) :=
  routeScope_eachW (fun r w => by
    split
    · exact routeScope.refl w
    · exact routeScope_eachW (fun i w => routeScope_enterDelta _ _ _ _ _ _ _ w) _ w) _ w

section

variable {q : BeDesc} {rest : List BeDesc} {r : BeRun} {w : World}

/-- A solve that no deadline instant has passed changes its template and, by its early routes, others' pending deltas. -/
theorem settleSolve_in_time (h : ∀ z, releaseOf w q.template q.release = some z → inFlight z = true → deadlineMet w q.template z = false) :
    routeScope w (settleSolve q rest r w) := by
  unfold settleSolve
  split
  · exact routeScope.refl w
  split
  · exact routeScope.refl w
  next rel hrel =>
    have hdone := routeScope_onRelease q.template q.release (solved (nowNs w) r.status) w
    unfold settleRelease
    split
    · exact hdone
    next hfly =>
      rw [h rel hrel (by simpa using hfly)]
      exact (hdone.trans (routeScope_onTmpl _ _ _)).trans (routeScope_earlyRoutes _ _ _ _)

theorem settleSolve_late {z : Release} (hlast : lastOfSolve q rest = true) (hz : releaseOf w q.template q.release = some z)
    (hfly : inFlight z = true) (hlate : deadlineMet w q.template z = true) :
    settleSolve q rest r w = missRelease q.template z (onRelease q.template q.release (solved (nowNs w) r.status) w) := by
  simp only [settleSolve, settleRelease, hlast, hz, hfly, hlate]
  rfl

end

/-! ## Retirement -/

/-- What a retirement in time leaves: the engine's record, its flags, and every other engine, memory and block as it was. -/
structure retiredInTime (e cycles : Nat) (q : BeDesc) (rest : List BeDesc) (r : BeRun) (w w' : World) : Prop where
  engine : headRetired rest r.counted (completionOf q 0 (r.flags ||| q.asmFlags) r.status cycles (nowNs w)) (be w e) (be w' e)
  other : ∀ k, k ≠ e → be w' k = be w k
  sticky : sGet 0 w'.tiles.sticky (128 + e) = sGet 0 w.tiles.sticky (128 + e) ||| (r.flags ||| q.asmFlags)
  mem : noneDue w → w'.solver.mem = w.solver.mem
  eq_with : ∃ sv cs sy st n ct k, w' = { w with
    solver := sv, tiles := { w.tiles with ctxs := cs, sync := sy, sticky := st, arithCount := n }, cont := ct, free := k }

section

variable {e cycles : Nat} {q : BeDesc} {rest : List BeDesc} {r : BeRun} {w : World}

theorem retireBasalt_in_time (hengines : storeSorted w.solver.engines) (htmpls : storeSorted w.solver.tmpls)
    (hsticky : storeSorted w.tiles.sticky) (hq : (be w e).queue = q :: rest) (hr : (be w e).run = some r)
    (hc : cycles ≤ cycBound q.desc (slowest r.status))
    (hintime : ∀ z, releaseOf w q.template q.release = some z → inFlight z = true → deadlineMet w q.template z = false) :
    retiredInTime e cycles q rest r w (retireBasalt e cycles w) := by
  have hroutes : routeScope (headGone e cycles q rest r w) (settleSolve q rest r (headGone e cycles q rest r w)) :=
    settleSolve_in_time (fun z hz hfly => by
      rw [releaseOf_headGone htmpls] at hz
      rw [deadlineMet_headGone, hintime z hz hfly])
  rw [retireBasalt_within hq hr hc]
  refine ⟨?engine, fun k hk => ?other, ?sticky, fun hdue => ?mem, ?frame⟩
  case engine => rw [hroutes.be_eq, be_headGone]; exact be_retireHead_same e cycles q rest r hengines
  case other => rw [hroutes.be_eq, be_headGone]; exact be_retireHead_other e cycles q rest r hengines hk
  case sticky => rw [hroutes.tiles_eq, sticky_headGone]; exact sticky_retireHead e cycles q rest r hsticky
  case mem => rw [hroutes.mem_eq, mem_headGone hdue]
  case frame =>
    obtain ⟨_, _, _, hsettle⟩ := hroutes
    obtain ⟨_, _, _, _, _, _, hgone⟩ := headGone_eq_with e cycles q rest r w
    rw [hsettle, hgone]
    exact ⟨_, _, _, _, _, _, _, rfl⟩

/-- What a retirement past the deadline leaves: the release done, dead and lost. -/
structure retiredLate (q : BeDesc) (w w' : World) : Prop where
  marks : ∀ y ∈ (tmpl w' q.template).releases, y.num = q.release → y.dead = true ∧ y.fail = some 1 ∧ y.doneAt = some (nowNs w)
  eq_with : ∃ sv ti ct, w' = { w with solver := sv, tiles := ti, cont := ct }

theorem retireBasalt_late {z : Release} (htmpls : storeSorted w.solver.tmpls) (hq : (be w e).queue = q :: rest) (hr : (be w e).run = some r)
    (hc : cycles ≤ cycBound q.desc (slowest r.status)) (hz : releaseOf w q.template q.release = some z) (hfly : inFlight z = true)
    (hlate : deadlineMet w q.template z = true) (hlast : lastOfSolve q rest = true) : retiredLate q w (retireBasalt e cycles w) := by
  rw [retireBasalt_within hq hr hc, settleSolve_late hlast (by rw [releaseOf_headGone htmpls, hz]) hfly (by rw [deadlineMet_headGone, hlate]),
    nowNs_headGone]
  refine ⟨fun y hy hn => ?marks, ?frame⟩
  case marks =>
    have hnum : z.num = q.release := by simpa using List.find?_some hz
    have hgone := tmpls_headGone_sorted (e := e) (cycles := cycles) (q := q) (rest := rest) (r := r) htmpls
    have hsolved : storeSorted (onRelease q.template q.release (solved (nowNs w) r.status) (headGone e cycles q rest r w)).solver.tmpls :=
      onTmpl_sorted _ _ hgone
    rw [releases_missRelease q.template z hsolved, releases_onRelease _ _ _ hgone, hnum] at hy
    obtain ⟨x, hx, hxn, rfl⟩ := mem_mapRelease hy hn (fun _ => rfl)
    obtain ⟨_, -, -, rfl⟩ := mem_mapRelease hx hxn (fun _ => rfl)
    exact ⟨rfl, rfl, rfl⟩
  case frame =>
    obtain ⟨_, _, _, hmiss⟩ := missRelease_eq_with q.template z
      (onRelease q.template q.release (solved (nowNs w) r.status) (headGone e cycles q rest r w))
    obtain ⟨_, _, _, _, _, _, hgone⟩ := headGone_eq_with e cycles q rest r w
    rw [hmiss, hgone]
    exact ⟨_, _, _, rfl⟩

/-- What a refusal leaves: the count, the queue without the descriptor, the marks of its release, the memory. -/
structure descRefused (e : Fin 32) (q : BeDesc) (w w' : World) : Prop where
  badDesc : (be w' e).badDesc = (be w e).badDesc + 1
  queue : q ∉ (be w' e).queue
  fail : ∀ z ∈ (tmpl w' q.template).releases, z.num = q.release → z.fail = some 5
  mem : noneDue w → w'.solver.mem = w.solver.mem
  eq_with : ∃ sv ti, w' = { w with solver := sv, tiles := ti }

theorem retireBasalt_refuses {e : Fin 32} (hengines : storeSorted w.solver.engines) (htmpls : storeSorted w.solver.tmpls)
    (hq : (be w e).queue = q :: rest) (hr : (be w e).run = none) (hbad : bDescOk q.desc = false) :
    descRefused e q w (retireBasalt e cycles w) := by
  have hsorted : storeSorted (onBe e countRefused w).solver.tmpls := htmpls
  have hengines' := onBe_sorted e countRefused hengines
  rw [retireBasalt_refused hq hr hbad]
  refine ⟨?badDesc, ?queue, fun z hz hn => ?fail, fun hdue => ?mem, ?frame⟩
  case badDesc =>
    rw [be_onRelease, (counts_dropChain q.template q.release 2 hengines' e).1, be_onBe_same _ _ hengines, countRefused]
  case queue =>
    rw [be_onRelease]
    exact not_mem_queue_dropChain q.template q.release 2 hengines' e (by simp [ofSolve])
  case fail =>
    rw [releases_onRelease _ _ _ (dropChain_sorted q.template q.release 2 hsorted)] at hz
    obtain ⟨_, -, -, rfl⟩ := mem_mapRelease hz hn (fun _ => rfl)
    rfl
  case mem =>
    have hdue' : noneDue (onBe e countRefused w) := hdue
    rw [mem_onRelease, mem_dropChain q.template q.release 2 hdue']
    rfl
  case frame =>
    obtain ⟨_, _, _, hdrop⟩ := dropChain_eq_with q.template q.release 2 (onBe e countRefused w)
    rw [hdrop]
    exact ⟨_, _, rfl⟩

end

end Sys2Proof.Machine

namespace Sys2Proof.Claims

open Sys2Proof.Machine

theorem exec_basaltRetire (e : Fin 32) (cycles : Nat) (s : State) : exec (.basaltRetire e cycles) s = liveEffect (retireBasalt e cycles) s := rfl

/-- Settles O44: in time the head's record and its engine (`retireBasalt_in_time`), past the deadline the release's marks
(`retireBasalt_late`), for a wrong form the end of the solve (`retireBasalt_refuses`). -/
theorem basaltRetiresWithACompletionRecord : Obligations.BasaltRetiresWithACompletionRecord := by
  unfold Obligations.BasaltRetiresWithACompletionRecord
  refine ⟨fun s e cycles q rest r ha ho hq hr => ⟨fun hc hintime => ?inTime, fun hc z hz hfly hlate hlast => ?late, fun hc => ?beyond⟩,
    fun s e cycles q rest ha ho hq hr hbad => ?refused⟩
  case inTime =>
    have hdone := retireBasalt_in_time ho.engines ho.tmpls ho.sticky hq hr hc hintime
    have heff : effectIs (.basaltRetire e cycles) s (retireBasalt e cycles s.live) := ⟨_, exec_basaltRetire e cycles s, rfl⟩
    generalize retireBasalt e cycles s.live = w at hdone heff
    obtain ⟨hengine, hother, hsticky, hmem, sv, cs, sy, st, n, ct, k, hframe⟩ := hdone
    obtain ⟨hcommands, hrun, hqueue, halone, hlast, hfifo, hbusy⟩ := hengine
    rw [← hlast] at hfifo
    exact runsTo_of_effectIs heff ha (by rw [hframe]) ⟨hcommands, hrun, hqueue, halone, congrArg Completion.template hlast,
      congrArg Completion.tag hlast, congrArg Completion.result hlast, congrArg Completion.flags hlast, congrArg Completion.cycles hlast,
      congrArg Completion.endLc0 hlast, hfifo, hbusy, hsticky, hother, hmem, by rw [hframe], by rw [hframe], by rw [hframe]⟩
  case late =>
    have hdone := retireBasalt_late ho.tmpls hq hr hc hz hfly hlate (lastOfSolve_of_none hlast)
    have heff : effectIs (.basaltRetire e cycles) s (retireBasalt e cycles s.live) := ⟨_, exec_basaltRetire e cycles s, rfl⟩
    generalize retireBasalt e cycles s.live = w at hdone heff
    obtain ⟨hmarks, sv, ti, ct, hframe⟩ := hdone
    exact runsTo_of_effectIs heff ha (by rw [hframe]) hmarks
  case beyond => exact runsTo_self (exec_basaltRetire e cycles s) ha (retireBasalt_beyond hq hr hc)
  case refused =>
    have hdone := retireBasalt_refuses (cycles := cycles) ho.engines ho.tmpls hq hr hbad
    have heff : effectIs (.basaltRetire e cycles) s (retireBasalt e cycles s.live) := ⟨_, exec_basaltRetire e cycles s, rfl⟩
    generalize retireBasalt e cycles s.live = w at hdone heff
    obtain ⟨hbad, hqueue, hfail, hmem, sv, ti, hframe⟩ := hdone
    exact runsTo_of_effectIs heff ha (by rw [hframe]) ⟨hbad, hqueue, hfail, hmem⟩

end Sys2Proof.Claims
end

section
/-! PROOFS. The nine Basalt commands (05 R117, R118, R139): where the outputs and status words of a descriptor's instances stand, and what
they leave unchanged. -/

namespace Sys2Proof.Machine

/-! ## Outputs and status words in local memory -/

theorem keepsOutside_foldl {α : Type} {P : Nat → Prop} {f : List Host.Cell → α → List Host.Cell} {l : List α}
    (h : ∀ a ∈ l, ∀ m, keepsOutside P m (f m a)) (m : List Host.Cell) : keepsOutside P m (l.foldl f m) := by
  induction l generalizing m with
  | nil => exact keepsOutside.refl P m
  | cons a l ih =>
    exact (h a List.mem_cons_self m).trans (ih (fun b hb => h b (List.mem_cons_of_mem a hb)) (f m a))

theorem keepsOutside_writeNat {P : Nat → Prop} (m : List Host.Cell) {a n : Nat} (v : Nat) (h : ∀ o, o < n → P (a + o)) :
    keepsOutside P m (Mem.writeNat m a n v) := keepsOutside_write m (by rwa [length_leBytes])

theorem readNat_writeNat {m : List Host.Cell} (a n v : Nat) (h : Memory.wf m) : Mem.readNat (Mem.writeNat m a n v) a n = v % 256 ^ n := by
  have hread := Mem.read_write a (leBytes n v) h
  rw [length_leBytes] at hread
  rw [Mem.readNat, Mem.writeNat, hread, leNat_leBytes]

theorem foldl_upTo_succ {α : Type} (f : α → Nat → α) (a : α) (n : Nat) : (upTo (n + 1)).foldl f a = f ((upTo n).foldl f a) n := by
  simp [upTo, List.range_succ]

/-- The status word of number `n` of a descriptor's instances, with the flags that assembly gave it. -/
def statusOf (out : Nat → BOut × BFlags) (pre : Store Nat) (n : Nat) : Nat := bStatus (out n).1 (out n).2 (sGet 0 pre n)

/-- The memory with the outputs of number `n` of the instances, then its status word, written. -/
def putInstance (home : Nat) (d : BitVec 512) (out : Nat → BOut × BFlags) (pre : Store Nat) (m : List Host.Cell) (n : Nat) : List Host.Cell :=
  Mem.writeNat ((out n).1.writes.foldl (fun m x => elPut home m x.1 x.2) m) (elAddr home (itemAt d n 7)) 32 (statusOf out pre n)

/-- The memory with the outputs and status words of all instances written, in their order. -/
def putInstances (home : Nat) (d : BitVec 512) (out : Nat → BOut × BFlags) (pre : Store Nat) (m : List Host.Cell) : List Host.Cell :=
  (upTo (bBatch d)).foldl (putInstance home d out pre) m

/-- The bytes that number `n` of the instances writes: its outputs and its status word. -/
def inInstance (home : Nat) (d : BitVec 512) (out : Nat → BOut × BFlags) (n a : Nat) : Prop :=
  (∃ x ∈ (out n).1.writes, elAddr home x.1 ≤ a ∧ a < elAddr home x.1 + 4) ∨
  elAddr home (itemAt d n 7) ≤ a ∧ a < elAddr home (itemAt d n 7) + 32

section

variable (home : Nat) (d : BitVec 512) (out : Nat → BOut × BFlags) (pre : Store Nat)

theorem putOutputs_keeps (n : Nat) (m : List Host.Cell) :
    keepsOutside (inInstance home d out n) m ((out n).1.writes.foldl (fun m x => elPut home m x.1 x.2) m) :=
  keepsOutside_foldl (fun x hx m => keepsOutside_writeNat m _ (fun o ho => .inl ⟨x, hx, by omega⟩)) m

theorem putInstance_keeps (n : Nat) (m : List Host.Cell) :
    keepsOutside (inInstance home d out n) m (putInstance home d out pre m n) :=
  (putOutputs_keeps home d out n m).trans (keepsOutside_writeNat _ _ (fun o ho => .inr (by omega)))

theorem putInstances_keeps (m : List Host.Cell) :
    keepsOutside (fun a => ∃ n < bBatch d, inInstance home d out n a) m (putInstances home d out pre m) :=
  keepsOutside_foldl (fun n hn m hm => by
    obtain ⟨hwf, hout⟩ := putInstance_keeps home d out pre n m hm
    exact ⟨hwf, fun a ha => hout a (fun hin => ha ⟨n, List.mem_range.mp hn, hin⟩)⟩) m

/-- The status word written last stands. -/
theorem lastStatus_putInstances {m : List Host.Cell} {n : Nat} (hn : bBatch d = n + 1) (hm : Memory.wf m) :
    Mem.readNat (putInstances home d out pre m) (elAddr home (itemAt d n 7)) 32 = statusOf out pre n % 2 ^ 256 := by
  have hsplit : putInstances home d out pre m =
      putInstance home d out pre ((upTo n).foldl (putInstance home d out pre) m) n := by
    rw [putInstances, hn, foldl_upTo_succ]
  have hbefore : keepsOutside (fun _ => True) m ((upTo n).foldl (putInstance home d out pre) m) :=
    keepsOutside_foldl (fun k _ m hm => ⟨(putInstance_keeps home d out pre k m hm).1, fun _ h => absurd trivial h⟩) m
  have houtputs := putOutputs_keeps home d out n _ (hbefore hm).1
  have hwidth : 256 ^ 32 = 2 ^ 256 := (pow_mul 2 8 32).symm
  rw [hsplit, putInstance, readNat_writeNat _ _ _ houtputs.1, hwidth]

end

/-! ## The command at the head -/

/-- The assembler's flags of the instances of a descriptor's solve. -/
def preOf (w : World) (q : BeDesc) : Store Nat := match releaseOf w q.template q.release with | some r => r.pre | none => []

/-- What a descriptor has computed, as it waits for its retirement. -/
def ranAs (d : BitVec 512) (out : Nat → BOut × BFlags) (pre : Store Nat) (now : Nat) : BeRun where
  flags := flagIf ((upTo (bBatch d)).any (fun n => (out n).2.ovf)) fOvf
  status := (upTo (bBatch d)).map (fun n => BitVec.ofNat 64 (statusOf out pre n))
  start := now

/-- An engine whose head has run. -/
def ranBasalt (e : Nat) (q : BeDesc) (out : Nat → BOut × BFlags) (w : World) : World :=
  onBe e (fun x => { x with run := some (ranAs q.desc out (preOf w q) (nowNs w)) })
    (onSolver (fun s => { s with mem := putInstances (tHome w q.template) q.desc out (preOf w q) s.mem }) w)

/-- What number `n` of a descriptor's instances yields from the memory as it stands. -/
def outOf (f : World → Nat → BitVec 512 → Nat → BM BOut) (w : World) (q : BeDesc) (n : Nat) : BOut × BFlags :=
  Id.run ((f w (tHome w q.template) q.desc n).run {})

theorem runBasalt_of_ready {op e : Nat} {f : World → Nat → BitVec 512 → Nat → BM BOut} {w : World} {q : BeDesc}
    (hq : headReady w e = some q) (hop : bOp q.desc = op) : runBasalt op f e w = ranBasalt e q (outOf f w q) w := by
  simp only [runBasalt, hq, hop, ne_eq, not_true, if_false, List.foldl_map, List.map_map, List.any_map]
  rfl

section

variable (e : Nat) (q : BeDesc) (out : Nat → BOut × BFlags) {w : World}

theorem be_ranBasalt_same (h : storeSorted w.solver.engines) : be (ranBasalt e q out w) e =
    { be w e with run := some (ranAs q.desc out (preOf w q) (nowNs w)) } := sGet_put_same _ _ h

theorem be_ranBasalt_other {k : Nat} (h : storeSorted w.solver.engines) (hk : k ≠ e) : be (ranBasalt e q out w) k = be w k :=
  sGet_put_other _ h hk

end

end Sys2Proof.Machine

namespace Sys2Proof.Claims

open Sys2Proof.Machine

theorem exec_of_basaltRow {i : Instr} {e : Fin 32} {op : Nat} {f : World → Nat → BitVec 512 → Nat → BM BOut}
    (h : basaltRow i = some (e, op, f)) (s : State) : exec i s = liveEffect (runBasalt op f e) s := by
  unfold basaltRow at h
  split at h <;> cases h <;> rfl

/-- Settles O43: every row runs the same way on the descriptor at the head (`runBasalt_of_ready`); its writes stay within the outputs and
status words of the instances (`putInstances_keeps`). -/
theorem basaltCommandsWriteOutputsAndStatus : Obligations.BasaltCommandsWriteOutputsAndStatus := by
  unfold Obligations.BasaltCommandsWriteOutputsAndStatus
  intro s i e op f q ha ho hm hrow hready hop
  obtain ⟨-, -, hmem⟩ := hm
  have heff : effectIs i s _ := ⟨_, exec_of_basaltRow hrow s, runBasalt_of_ready hready hop⟩
  refine runsTo_of_effectIs heff ha rfl (fun out hout pre hpre => ?_)
  obtain rfl : out = outOf f s.live q := funext hout
  obtain rfl : pre = preOf s.live q := hpre
  generalize outOf f s.live q = out
  have hbe := be_ranBasalt_same e q out ho.engines
  refine ⟨⟨_, congrArg Be.run hbe, rfl, rfl, rfl⟩, ?_, fun k hk => be_ranBasalt_other e q out ho.engines hk, rfl,
    fun n hn => lastStatus_putInstances _ _ _ _ hn hmem, fun a houtside => (putInstances_keeps _ _ _ _ _ hmem).2 a ?_, rfl⟩
  · rw [hbe]
  · rintro ⟨n, hn, ⟨x, hx, hlo, hhi⟩ | ⟨hlo, hhi⟩⟩
    · have := (houtside n hn).1 x hx
      omega
    · have := (houtside n hn).2
      omega

end Sys2Proof.Claims
end

section
/-! PROOFS. The assembly of a release (06 R147, R152): the chain as it is enqueued, and what assembly makes of the engine and of the
template. -/

namespace Sys2Proof.Machine

/-! ## The chain as it is enqueued -/

/-- The queue's entries for the chain of a release; its first carries the assembler's flags (05 R140). -/
def chainEntries (t num : Nat) (flags : BitVec 8) (chain : List (BitVec 512)) : List BeDesc := (upTo chain.length).map (fun i =>
  { desc := nth 0 chain i, template := t, release := num, idx := i, asmFlags := if i = 0 then flags else 0
    inst := region (nth 0 chain i) false, res := region (nth 0 chain i) true })

theorem map_desc_chainEntries (t num : Nat) (flags : BitVec 8) (chain : List (BitVec 512)) :
    (chainEntries t num flags chain).map (·.desc) = chain := by
  rw [chainEntries, List.map_map]
  exact List.ext_getElem (by simp [upTo]) (fun i _ hi => by simp [upTo, nth, hi])

theorem of_mem_chainEntries {t num : Nat} {flags : BitVec 8} {chain : List (BitVec 512)} {q : BeDesc}
    (h : q ∈ chainEntries t num flags chain) : q.template = t ∧ q.release = num := by
  obtain ⟨i, -, rfl⟩ := List.mem_map.mp h
  exact ⟨rfl, rfl⟩

/-- An enqueued chain stands behind all that the engine holds, in the queue or waiting for room. -/
theorem held_enqueueChain {w : World} (e : Nat) (c : List BeDesc) (h : storeSorted w.solver.engines) :
    held (be (enqueueChain e c w) e) = held (be w e) ++ c := by
  rw [enqueueChain, be_onBe_same e _ h, held_admitChains]
  simp [held]

theorem be_enqueueChain_other {w : World} {e k : Nat} (c : List BeDesc) (h : storeSorted w.solver.engines) (hk : k ≠ e) :
    be (enqueueChain e c w) k = be w k := be_onBe_other _ h hk

@[simp] theorem tmpl_enqueueChain (e : Nat) (c : List BeDesc) (w : World) (t : Nat) : tmpl (enqueueChain e c w) t = tmpl w t := rfl

/-! ## The template -/

/-- The marks of a release that an assembly `a` has put into a buffer. -/
def startedIn (buffer : Nat) (depStale : Bool) (a : Asm) (r : Release) : Release :=
  { r with started := true, buffer := buffer, depStale := depStale, aged := a.aged, pre := a.pre, asmFlags := a.flags }

/-- The buffer that a template's assembly takes after `buffer` (06 R148). -/
def bufferAfter (w : World) (t buffer : Nat) : Nat := if tBuffers (tRec w.cfg.active t) = 1 then 1 - buffer else 0

/-- What an assembly makes of a template besides its releases: deltas left, counts, the next buffer, outputs carried. -/
def turnedOver (a : Asm) (clamped next : Nat) (carry : Nat × OutInst → Nat × OutInst) (x : Tmpl) : Tmpl :=
  { x with pending := a.pending, nAged := x.nAged + a.aged, nClamped := x.nClamped + clamped, nextBuffer := next, out := x.out.map carry }

theorem tmpl_onRelease_other {w : World} {t k : Nat} (num : Nat) (f : Release → Release) (h : storeSorted w.solver.tmpls) (hk : k ≠ t) :
    tmpl (onRelease t num f w) k = tmpl w k := tmpl_onTmpl_other _ h hk

theorem nextBuffer_onRelease {w : World} (t num : Nat) (f : Release → Release) (h : storeSorted w.solver.tmpls) :
    (tmpl (onRelease t num f w) t).nextBuffer = (tmpl w t).nextBuffer := by rw [onRelease, tmpl_onTmpl_same t _ h]

/-- The device with what an assembly `a` has written to memory and made of the template. -/
def gathered (t : Nat) (a : Asm) (clamped : Nat) (carry : Nat × OutInst → Nat × OutInst) (w : World) : World :=
  onTmpl t (turnedOver a clamped (bufferAfter w t (tmpl w t).nextBuffer) carry) (onSolver (fun s => { s with mem := a.mem }) w)

section

variable (t : Nat) (a : Asm) (clamped : Nat) (carry : Nat × OutInst → Nat × OutInst) {w : World}

theorem gathered_sorted (h : storeSorted w.solver.tmpls) : storeSorted (gathered t a clamped carry w).solver.tmpls := sPut_sorted _ _ h

theorem nextBuffer_gathered (h : storeSorted w.solver.tmpls) :
    (tmpl (gathered t a clamped carry w) t).nextBuffer = bufferAfter w t (tmpl w t).nextBuffer :=
  congrArg Tmpl.nextBuffer (sGet_put_same t _ h)

theorem tmpl_gathered_other {k : Nat} (h : storeSorted w.solver.tmpls) (hk : k ≠ t) : tmpl (gathered t a clamped carry w) k = tmpl w k :=
  sGet_put_other _ h hk

end

/-! ## The assembly -/

/-- The device with what an assembly `a` of release `r` has gathered: memory, template, release and the engine's queue. -/
def assembledWith (t e : Nat) (r : Release) (a : Asm) (depStale : Bool) (clamped : Nat) (carry : Nat × OutInst → Nat × OutInst)
    (w : World) : World :=
  enqueueChain e (chainEntries t r.num a.flags (bufferChain w.cfg.active t (tmpl w t).nextBuffer))
    (onRelease t r.num (startedIn (tmpl w t).nextBuffer depStale a) (gathered t a clamped carry w))

theorem assemble_of_first {w : World} {t e : Nat} {r : Release} (hr : nextAssembly w t = some r) (he : tmplEngine w t = some e)
    (hready : asmReady w t = true) (hfirst : asmFirst w t e = true) :
    ∃ a depStale clamped carry, assemble t w = assembledWith t e r a depStale clamped carry w := by
  simp only [assemble, hr, he, hready, hfirst, Bool.and_self, Bool.not_true, Bool.false_eq_true, if_false]
  exact ⟨_, _, _, _, rfl⟩

section

variable (t e : Nat) (r : Release) (a : Asm) (depStale : Bool) (clamped : Nat) (carry : Nat × OutInst → Nat × OutInst) {w : World}

theorem held_assembledWith (h : storeSorted w.solver.engines) : held (be (assembledWith t e r a depStale clamped carry w) e) =
    held (be w e) ++ chainEntries t r.num a.flags (bufferChain w.cfg.active t (tmpl w t).nextBuffer) := held_enqueueChain e _ h

theorem be_assembledWith_other {k : Nat} (h : storeSorted w.solver.engines) (hk : k ≠ e) :
    be (assembledWith t e r a depStale clamped carry w) k = be w k := be_enqueueChain_other _ h hk

theorem started_assembledWith (h : storeSorted w.solver.tmpls) {z : Release}
    (hz : z ∈ (tmpl (assembledWith t e r a depStale clamped carry w) t).releases) (hn : z.num = r.num) :
    z.started = true ∧ z.buffer = (tmpl w t).nextBuffer := by
  rw [assembledWith, tmpl_enqueueChain, releases_onRelease _ _ _ (gathered_sorted t a clamped carry h)] at hz
  obtain ⟨x, -, -, rfl⟩ := mem_mapRelease hz hn (fun _ => rfl)
  exact ⟨rfl, rfl⟩

theorem nextBuffer_assembledWith (h : storeSorted w.solver.tmpls) :
    (tmpl (assembledWith t e r a depStale clamped carry w) t).nextBuffer = bufferAfter w t (tmpl w t).nextBuffer := by
  rw [assembledWith, tmpl_enqueueChain, nextBuffer_onRelease _ _ _ (gathered_sorted t a clamped carry h),
    nextBuffer_gathered t a clamped carry h]

theorem tmpl_assembledWith_other {k : Nat} (h : storeSorted w.solver.tmpls) (hk : k ≠ t) :
    tmpl (assembledWith t e r a depStale clamped carry w) k = tmpl w k := by
  rw [assembledWith, tmpl_enqueueChain, tmpl_onRelease_other _ _ (gathered_sorted t a clamped carry h) hk,
    tmpl_gathered_other t a clamped carry h hk]

end

end Sys2Proof.Machine

namespace Sys2Proof.Claims

open Sys2Proof.Machine

theorem exec_assemblyStart (n : Fin 4096) (s : State) : exec (.assemblyStart n) s = liveEffect (assemble n) s := rfl

/-- Settles O46: whatever the assembly gathers (`assemble_of_first`), its entries stand behind what the engine holds
(`held_assembledWith`), in the queue or, without room, in wait. -/
theorem assemblyEnqueuesTheChain : Obligations.AssemblyEnqueuesTheChain := by
  unfold Obligations.AssemblyEnqueuesTheChain
  intro s n r e ha ho hr he hready hfirst
  obtain ⟨a, depStale, clamped, carry, heq⟩ := assemble_of_first hr he hready hfirst
  have hheld := held_assembledWith n e r a depStale clamped carry ho.engines
  refine runsTo_of_effectIs ⟨_, exec_assemblyStart n s, heq⟩ ha rfl ⟨fun z hz hn => ?release, ?buffers, ?chain, fun q hq => ?entries,
    fun k hk => ?engines, fun k hk => ?templates, rfl⟩
  case release => exact started_assembledWith n e r a depStale clamped carry ho.tmpls hz hn
  case buffers => exact nextBuffer_assembledWith n e r a depStale clamped carry ho.tmpls
  case chain =>
    rw [← held, ← held, hheld, List.map_append, map_desc_chainEntries]
  case entries =>
    rw [← held, hheld, List.mem_append] at hq
    exact hq.imp_right of_mem_chainEntries
  case engines => exact be_assembledWith_other n e r a depStale clamped carry ho.engines hk
  case templates => exact tmpl_assembledWith_other n e r a depStale clamped carry ho.tmpls hk

end Sys2Proof.Claims
end

section
/-! PROOFS. What a Halo loop update writes: its loop, its engine, a command on a trunk (07 R176, R178, R182, R183, R186, R190). -/

namespace Sys2Proof.Machine

/-! ## A second write of the same entry -/

section

variable {α : Type} {s : Store α} (i : Nat)

theorem sErase_of_below (h : ∀ e ∈ s, i < e.1) : sErase s i = s := by
  cases s with
  | nil => rfl
  | cons p s =>
    obtain ⟨k, v⟩ := p
    have hk : i < k := h (k, v) List.mem_cons_self
    simp [sErase, hk, Nat.ne_of_gt hk]

theorem sInsert_of_below (v : α) (h : ∀ e ∈ s, i < e.1) : sInsert s i v = (i, v) :: s := by
  cases s with
  | nil => rfl
  | cons p s =>
    obtain ⟨k, u⟩ := p
    have hk : i < k := h (k, u) List.mem_cons_self
    simp [sInsert, hk, Nat.ne_of_gt hk]

theorem sErase_erase (h : storeSorted s) : sErase (sErase s i) i = sErase s i := by
  induction s with
  | nil => rfl
  | cons p s ih =>
    obtain ⟨k, v⟩ := p
    obtain ⟨hbelow, hs⟩ := List.pairwise_cons.mp h
    by_cases hk : k = i
    · subst hk
      simp [sErase, sErase_of_below k hbelow]
    · by_cases hlt : i < k <;> simp [sErase, hk, hlt, ih hs]

theorem sErase_insert (v : α) (s : Store α) : sErase (sInsert s i v) i = sErase s i := by
  induction s with
  | nil => simp [sInsert, sErase]
  | cons p s ih =>
    obtain ⟨k, u⟩ := p
    by_cases hk : k = i
    · simp [sInsert, sErase, hk]
    · by_cases hlt : i < k <;> simp [sInsert, sErase, hk, hlt, ih]

theorem sInsert_erase (v : α) (h : storeSorted s) : sInsert (sErase s i) i v = sInsert s i v := by
  induction s with
  | nil => rfl
  | cons p s ih =>
    obtain ⟨k, u⟩ := p
    obtain ⟨hbelow, hs⟩ := List.pairwise_cons.mp h
    by_cases hk : k = i
    · subst hk
      simp [sErase, sInsert, sInsert_of_below k v hbelow]
    · by_cases hlt : i < k <;> simp [sErase, sInsert, hk, hlt, ih hs]

theorem sInsert_insert (u v : α) (s : Store α) : sInsert (sInsert s i u) i v = sInsert s i v := by
  induction s with
  | nil => simp [sInsert]
  | cons p s ih =>
    obtain ⟨k, x⟩ := p
    by_cases hk : k = i
    · simp [sInsert, hk]
    · by_cases hlt : i < k <;> simp [sInsert, hk, hlt, ih]

/-- The last of two writes of an entry stands. -/
theorem sPut_put [DecidableEq α] {d : α} (u v : α) (h : storeSorted s) : sPut d (sPut d s i u) i v = sPut d s i v := by
  unfold sPut
  by_cases hv : v = d <;> by_cases hu : u = d
  · simp only [hv, hu, if_true, sErase_erase i h]
  · simp only [hv, hu, if_true, if_false, sErase_insert i u s]
  · simp only [hv, hu, if_true, if_false, sInsert_erase i v h]
  · simp only [hv, hu, if_false, sInsert_insert i u v s]

/-- Two updates of an entry are one. -/
theorem sUpd_upd [DecidableEq α] {d : α} (f g : α → α) (h : storeSorted s) : sUpd d (sUpd d s i g) i f = sUpd d s i (f ∘ g) := by
  simp only [sUpd, sGet_put_same i _ h, sPut_put i _ _ h, Function.comp_apply]

end

/-! ## What an update writes: its loop and its engine -/

/-- The tables of loops and of Halo engines list their keys in rising order. -/
def haloOrdered (w : World) : Prop := storeSorted w.halo.loops ∧ storeSorted w.halo.engines

/-- The world with loop `l` and Halo engine `e` as given. -/
def wrote (l e : Nat) (x : LoopRt) (h : He) (w : World) : World := onLoop l (fun _ => x) (onHe e (fun _ => h) w)

section

variable {w : World} {l e : Nat} {x : LoopRt} {h : He}

theorem onLoop_onLoop (f g : LoopRt → LoopRt) (ho : haloOrdered w) : onLoop l f (onLoop l g w) = onLoop l (f ∘ g) w :=
  congrArg (fun t => onHalo (fun h => { h with loops := t }) w) (sUpd_upd l f g ho.1)

theorem onHe_onHe (f g : He → He) (ho : haloOrdered w) : onHe e f (onHe e g w) = onHe e (f ∘ g) w :=
  congrArg (fun t => onHalo (fun h => { h with engines := t }) w) (sUpd_upd e f g ho.2)

theorem haloOrdered_onLoop (f : LoopRt → LoopRt) (ho : haloOrdered w) : haloOrdered (onLoop l f w) := ⟨sUpd_sorted l f ho.1, ho.2⟩

theorem haloOrdered_onHe (f : He → He) (ho : haloOrdered w) : haloOrdered (onHe e f w) := ⟨ho.1, sUpd_sorted e f ho.2⟩

theorem onLoop_wrote (f : LoopRt → LoopRt) (ho : haloOrdered w) : onLoop l f (wrote l e x h w) = wrote l e (f x) h w :=
  onLoop_onLoop f _ (haloOrdered_onHe _ ho)

theorem onHe_wrote (f : He → He) (ho : haloOrdered w) : onHe e f (wrote l e x h w) = wrote l e x (f h) w :=
  onHe_onHe (e := e) f (fun _ => h) (haloOrdered_onLoop (l := l) (fun _ => x) ho)

theorem loop_wrote_same (ho : haloOrdered w) : loop (wrote l e x h w) l = x := sGet_put_same l x ho.1

theorem loop_wrote_other {k : Nat} (ho : haloOrdered w) (hk : k ≠ l) : loop (wrote l e x h w) k = loop w k := sGet_put_other x ho.1 hk

theorem he_wrote_same (ho : haloOrdered w) : he (wrote l e x h w) e = h := sGet_put_same e h ho.2

theorem he_wrote_other {k : Nat} (ho : haloOrdered w) (hk : k ≠ e) : he (wrote l e x h w) k = he w k := sGet_put_other h ho.2 hk

theorem handCommand_wrote (t : Nat) (c : TxCmd) : handCommand t c (wrote l e x h w) = wrote l e x h (handCommand t c w) := rfl

theorem haloOrdered_handCommand (t : Nat) (c : TxCmd) (ho : haloOrdered w) : haloOrdered (handCommand t c w) := ho

/-- Credits and allowance look at a loop's engine and whether it is stopped, and at nothing else of it (10 R279). -/
theorem mayHand_wrote (t c k : Nat) (ho : haloOrdered w) (he : x.engine = (loop w l).engine) (hs : x.stopped = (loop w l).stopped) :
    mayHand (wrote l e x h w) t c k = mayHand w t c k := by
  have hkeep (j : Nat) :
      (loop (wrote l e x h w) j).engine = (loop w j).engine ∧ (loop (wrote l e x h w) j).stopped = (loop w j).stopped := by
    by_cases hj : j = l
    · subst hj
      rw [loop_wrote_same ho]
      exact ⟨he, hs⟩
    · rw [loop_wrote_other ho hj]
      exact ⟨rfl, rfl⟩
  have hhome (p : Bytes → Bool) : homesOf (wrote l e x h w) p = homesOf w p := rfl
  have hshare (p : Bytes → Bool) (j : Nat) : shareNow (wrote l e x h w) p j = shareNow w p j := by
    simp only [shareNow, fun j => (hkeep j).1, fun j => (hkeep j).2]
    rfl
  have hheld (j e' : Nat) : heldBy (wrote l e x h w) j e' = heldBy w j e' := by
    simp only [heldBy, (hkeep j).1]
    rfl
  simp only [mayHand, freeCredits, freeAllowance, shareOf, hhome, hshare, hheld]
  rfl

end

/-! ## Flags of a loop -/

theorem hasFlag_setFlag {i : Nat} (j : Nat) (b : Bool) (f : BitVec 16) (hi : i < 16) :
    hasFlag i (setFlag j b f) = if i = j then b else hasFlag i f := by
  have hbit : (BitVec.ofNat 16 (2 ^ j)).getLsbD i = decide (i = j) := by
    rw [BitVec.getLsbD_ofNat, Nat.testBit_two_pow, decide_eq_true hi, Bool.true_and]
    exact decide_eq_decide.mpr eq_comm
  cases b
  · have hclear : hasFlag i (setFlag j false f) = (hasFlag i f && !decide (i = j)) := by
      simp only [hasFlag_eq, setFlag, Bool.false_eq_true, if_false, BitVec.getLsbD_and, BitVec.getLsbD_not, hbit, hi, decide_true,
        Bool.true_and]
    rw [hclear]
    by_cases hij : i = j <;> simp [hij]
  · have hset : hasFlag i (setFlag j true f) = (hasFlag i f || decide (i = j)) := by
      simp only [hasFlag_eq, setFlag, if_true, BitVec.getLsbD_or, hbit]
    rw [hset]
    by_cases hij : i = j <;> simp [hij]

theorem hasFlag_setFlag_same {i : Nat} (b : Bool) (f : BitVec 16) (hi : i < 16 := by decide) : hasFlag i (setFlag i b f) = b := by
  rw [hasFlag_setFlag i b f hi, if_pos rfl]

theorem hasFlag_setFlag_other {i j : Nat} (b : Bool) (f : BitVec 16) (hi : i < 16 := by decide) (hij : i ≠ j := by decide) :
    hasFlag i (setFlag j b f) = hasFlag i f := by
  rw [hasFlag_setFlag j b f hi, if_neg hij]

/-! ## A command issued, or not (07 R178, R182, R183) -/

/-- A loop that waits for a credit; one whose law asks for a level that is not there. -/
def creditWaited (x : LoopRt) : LoopRt := { x with flags := setFlag lfCredit true x.flags, nCreditWaits := x.nCreditWaits + 1 }
def atEndLevel (x : LoopRt) : LoopRt := { x with flags := setFlag lfEnd true x.flags, nEndLevel := x.nEndLevel + 1 }

/-- The execute time of a command asked for at `tx`. -/
def execTime (w : World) (u : Upd) (x : LoopRt) (tx : Nat) : Nat := max tx (max (u.q.ta + lpLead u.rcd) (x.lastExec + dwellOf w u))

/-- The command as its engine hands it to Bedrock. -/
def issuedCmd (w : World) (u : Upd) (x : LoopRt) (new texec : Nat) : TxCmd where
  cell := lpCell u.rcd
  output := lpOutput u.rcd
  level := new
  loop := u.l
  engine := x.engine
  exec := texec
  angle := if lpStamp u.rcd then some (lpTracker u.rcd, targetAngle w u texec) else none
  epoch := BitVec.ofNat 32 w.dev.epoch

/-- A loop with its command's level and time, before the switching window takes them in. -/
def commandNoted (new texec : Nat) (x : LoopRt) : LoopRt :=
  { x with
    level := new, lastExec := texec, nCommands := x.nCommands + 1, flags := setFlag lfCredit false (setFlag lfEnd false x.flags) }

/-- The switching window after a command that came `spacing` after the one before it (07 R186). -/
def windowMoved (r : Bytes) (law : Bool) (spacing : W32) (x : LoopRt) : LoopRt :=
  if hasFlag lfWindow x.flags then
    if law then adapt r { x with wElapsed := hAdd x.wElapsed spacing, swCount := x.swCount + 1 }
    else { x with wElapsed := hAdd x.wElapsed spacing, swCount := x.swCount + 1 }
  else { x with flags := setFlag lfWindow true x.flags, wElapsed := 0, swCount := 0 }

/-- A loop whose command has been handed over. -/
def commanded (r : Bytes) (law : Bool) (new texec : Nat) (x : LoopRt) : LoopRt :=
  windowMoved r law (hInt ((texec : Int) - x.lastExec)) (commandNoted new texec x)

theorem adapt_eq_with (r : Bytes) (x : LoopRt) : adapt r x =
    { x with h := (adapt r x).h, swCount := (adapt r x).swCount, wElapsed := (adapt r x).wElapsed, flags := (adapt r x).flags } := by
  unfold adapt
  split <;> rfl

theorem credit_adapt (r : Bytes) (x : LoopRt) : hasFlag lfCredit (adapt r x).flags = hasFlag lfCredit x.flags := by
  unfold adapt
  split
  · rfl
  · exact hasFlag_setFlag_other _ _

theorem windowMoved_eq_with (r : Bytes) (law : Bool) (spacing : W32) (x : LoopRt) : windowMoved r law spacing x =
    { x with
      h := (windowMoved r law spacing x).h, swCount := (windowMoved r law spacing x).swCount
      wElapsed := (windowMoved r law spacing x).wElapsed, flags := (windowMoved r law spacing x).flags } := by
  unfold windowMoved
  split
  · split
    · rw [adapt_eq_with]
    · rfl
  · rfl

theorem credit_windowMoved (r : Bytes) (law : Bool) (spacing : W32) (x : LoopRt) :
    hasFlag lfCredit (windowMoved r law spacing x).flags = hasFlag lfCredit x.flags := by
  unfold windowMoved
  split
  · split
    · exact credit_adapt _ _
    · rfl
  · exact hasFlag_setFlag_other _ _

theorem credit_commanded (r : Bytes) (law : Bool) (new texec : Nat) (x : LoopRt) :
    hasFlag lfCredit (commanded r law new texec x).flags = false := by
  rw [commanded, credit_windowMoved]
  exact hasFlag_setFlag_same _ _

/-- A command leaves of its loop what is not LEVEL, LAST_EXEC, the count of commands, the window's or H. -/
theorem commanded_eq_with (r : Bytes) (law : Bool) (new texec : Nat) (x : LoopRt) : ∃ h sw we fl, commanded r law new texec x =
    { x with
      level := new, lastExec := texec, nCommands := x.nCommands + 1, h := h, swCount := sw, wElapsed := we, flags := fl } := by
  rw [commanded, windowMoved_eq_with]
  exact ⟨_, _, _, _, rfl⟩

/-- Without the law no adaptation runs (07 R189). -/
theorem h_commanded_open (r : Bytes) (new texec : Nat) (x : LoopRt) : (commanded r false new texec x).h = x.h := by
  rw [commanded, windowMoved]
  split <;> rfl

section

variable {w : World} {u : Upd} {e : Nat} {x : LoopRt} {h : He}

/-- The engine's loop with its command handed to the trunk. -/
def commandSent (new tx : Nat) (law : Bool) (u : Upd) (e : Nat) (x : LoopRt) (h : He) (w : World) : World :=
  wrote u.l e (commanded u.rcd law new (execTime w u x tx) x) { h with commands := h.commands + 1 }
    (handCommand (lpTrunk u.rcd) (issuedCmd w u x new (execTime w u x tx)) w)

/-- Against a credit. -/
theorem issueCmd_sent (new tx : Nat) (law : Bool) (ho : haloOrdered w) (hx : x.engine = e)
    (hmay : mayHand (wrote u.l e x h w) (lpTrunk u.rcd) (lpCell u.rcd) e = true) :
    issueCmd new tx law u (wrote u.l e x h w) = (commandSent new tx law u e x h w, true) := by
  simp only [issueCmd, loop_wrote_same ho, hx, hmay, Bool.not_true, Bool.false_eq_true, if_false, handCommand_wrote,
    onHe_wrote _ (haloOrdered_handCommand _ _ ho), onLoop_wrote _ (haloOrdered_handCommand _ _ ho)]
  subst hx
  rfl

theorem issueCmd_waits (new tx : Nat) (law : Bool) (ho : haloOrdered w) (hx : x.engine = e)
    (hmay : mayHand (wrote u.l e x h w) (lpTrunk u.rcd) (lpCell u.rcd) e = false) :
    issueCmd new tx law u (wrote u.l e x h w) = (wrote u.l e (creditWaited x) { h with creditWaits := h.creditWaits + 1 } w, false) := by
  simp only [issueCmd, loop_wrote_same ho, hx, hmay, Bool.not_false, if_true, onLoop_wrote _ ho, onHe_wrote _ ho]
  subst hx
  rfl

/-! ## The decision (07 R178) -/

/-- The level that the law asks for in a direction, with the loop's polarity (07 R178). -/
def nextLevel (r : Bytes) (dir : Int) (x : LoopRt) : Int := (x.level : Int) + (if lpPol r then -dir else dir)

/-- One level in a direction, if there is one. -/
def stepLevel (dir : Int) (tx : Nat) (u : Upd) (w : World) : World × Bool :=
  if nextLevel u.rcd dir (loop w u.l) < 0 ∨ (lpLevels u.rcd : Int) < nextLevel u.rcd dir (loop w u.l) then
    (onLoop u.l atEndLevel w, false)
  else issueCmd (nextLevel u.rcd dir (loop w u.l)).toNat tx true u w

theorem stepLevel_off {dir : Int} (tx : Nat) (ho : haloOrdered w)
    (hoff : nextLevel u.rcd dir x < 0 ∨ (lpLevels u.rcd : Int) < nextLevel u.rcd dir x) :
    stepLevel dir tx u (wrote u.l e x h w) = (wrote u.l e (atEndLevel x) h w, false) := by
  rw [stepLevel, loop_wrote_same ho, if_pos hoff, onLoop_wrote _ ho]

theorem stepLevel_on {dir : Int} (tx : Nat) (ho : haloOrdered w) (hlo : 0 ≤ nextLevel u.rcd dir x)
    (hhi : nextLevel u.rcd dir x ≤ (lpLevels u.rcd : Int)) :
    stepLevel dir tx u (wrote u.l e x h w) = issueCmd (nextLevel u.rcd dir x).toNat tx true u (wrote u.l e x h w) := by
  have hon : ¬ (nextLevel u.rcd dir x < 0 ∨ (lpLevels u.rcd : Int) < nextLevel u.rcd dir x) := by omega
  rw [stepLevel, loop_wrote_same ho, if_neg hon]

/-- A decision commands nothing, or one level up or down. -/
theorem decideCmd_cases (er c : W32) (ok : Bool) (u : Upd) (w : World) :
    decideCmd er c ok u w = (w, false) ∨ ∃ dir tx, decideCmd er c ok u w = stepLevel dir tx u w := by
  unfold decideCmd
  simp only
  split
  · exact .inl rfl
  · exact .inr ⟨_, _, rfl⟩

theorem decideCmd_outside {er c : W32} {d : Int} (ok : Bool) (u : Upd) (w : World)
    (hd : lt32 (hAdd c (loop w u.l).h) er = true ∧ d = 1 ∨
      lt32 (hAdd c (loop w u.l).h) er = false ∧ lt32 er (hSub c (loop w u.l).h) = true ∧ d = -1) :
    decideCmd er c ok u w = stepLevel d 0 u w := by
  obtain ⟨hhi, rfl⟩ | ⟨hhi, hlo, rfl⟩ := hd
  · simp only [decideCmd, hhi, if_true]
    rfl
  · simp only [decideCmd, hhi, hlo, Bool.false_eq_true, if_true, if_false]
    rfl

theorem decideCmd_within {er c : W32} (u : Upd) (w : World) (hhi : lt32 (hAdd c (loop w u.l).h) er = false)
    (hlo : lt32 er (hSub c (loop w u.l).h) = false) : decideCmd er c false u w = (w, false) := by
  simp only [decideCmd, hhi, hlo, Bool.false_eq_true, if_false]

end

/-! ## What the law can do (07 R176) -/

/-- The procedure has left the loop's RF and pending notice and the engine's queue and count of updates as they were. -/
def lawKeeps (x y : LoopRt) (h g : He) : Prop := y.rf = x.rf ∧ y.discard = x.discard ∧ g.queue = h.queue ∧ g.updates = h.updates

/-- What comes of the procedure at a loop `x` of engine `h`: both written, and at most a command on the trunks. -/
def lawOutcome (l e : Nat) (x : LoopRt) (h : He) (w w' : World) : Prop :=
  ∃ y g v, w' = wrote l e y g v ∧ trunkScope w v ∧ lawKeeps x y h g

section

variable {w w' : World} {u : Upd} {e : Nat} {x : LoopRt} {h : He}

theorem haloOrdered_of_trunkScope (ho : haloOrdered w) (hs : trunkScope w w') : haloOrdered w' := by
  unfold trunkScope at hs
  rw [hs]
  exact ho

theorem loop_of_trunkScope (hs : trunkScope w w') (k : Nat) : loop w' k = loop w k := by
  unfold trunkScope at hs
  rw [hs]
  rfl

theorem he_of_trunkScope (hs : trunkScope w w') (k : Nat) : he w' k = he w k := by
  unfold trunkScope at hs
  rw [hs]
  rfl

theorem lawOutcome.onLoop {l : Nat} {f : LoopRt → LoopRt} (ho : haloOrdered w) (hout : lawOutcome l e x h w w')
    (hf : ∀ y, (f y).rf = y.rf ∧ (f y).discard = y.discard) : lawOutcome l e x h w (onLoop l f w') := by
  obtain ⟨y, g, v, rfl, hv, hrf, hdiscard, hrest⟩ := hout
  exact ⟨f y, g, v, onLoop_wrote f (haloOrdered_of_trunkScope ho hv), hv, (hf y).1.trans hrf, (hf y).2.trans hdiscard, hrest⟩

theorem lawOutcome_wrote {l : Nat} : lawOutcome l e x h w (wrote l e x h w) := ⟨x, h, w, rfl, trunkScope.refl w, rfl, rfl, rfl, rfl⟩

theorem issueCmd_outcome (new tx : Nat) (law : Bool) (ho : haloOrdered w) (hx : x.engine = e) :
    lawOutcome u.l e x h w (issueCmd new tx law u (wrote u.l e x h w)).1 := by
  cases hmay : mayHand (wrote u.l e x h w) (lpTrunk u.rcd) (lpCell u.rcd) e
  · rw [issueCmd_waits new tx law ho hx hmay]
    exact ⟨_, _, w, rfl, trunkScope.refl w, rfl, rfl, rfl, rfl⟩
  · rw [issueCmd_sent new tx law ho hx hmay]
    obtain ⟨_, _, _, _, hcmd⟩ := commanded_eq_with u.rcd law new (execTime w u x tx) x
    exact ⟨_, _, _, rfl, rfl, by rw [hcmd], by rw [hcmd], rfl, rfl⟩

theorem stepLevel_outcome (dir : Int) (tx : Nat) (ho : haloOrdered w) (hx : x.engine = e) :
    lawOutcome u.l e x h w (stepLevel dir tx u (wrote u.l e x h w)).1 := by
  unfold stepLevel
  split
  · exact lawOutcome_wrote.onLoop (f := atEndLevel) ho (fun y => ⟨rfl, rfl⟩)
  · exact issueCmd_outcome _ _ _ ho hx

theorem decideCmd_outcome (er c : W32) (ok : Bool) (ho : haloOrdered w) (hx : x.engine = e) :
    lawOutcome u.l e x h w (decideCmd er c ok u (wrote u.l e x h w)).1 := by
  obtain hstill | ⟨dir, tx, hstep⟩ := decideCmd_cases er c ok u (wrote u.l e x h w)
  · rw [hstill]
    exact lawOutcome_wrote
  · rw [hstep]
    exact stepLevel_outcome dir tx ho hx

/-- An open loop commands nothing, or OPEN_LEVEL; a loop that has sent its first command notes its execute time (07 R189, R191). -/
theorem openUpdate_cases (u : Upd) (w : World) : openUpdate u w = (w, false) ∨ lpOpenLevel u.rcd ≠ 15 ∧ ∃ done : LoopRt → LoopRt,
    (∀ y, ∃ first init, done y = { y with first := first, initExec := init }) ∧
    openUpdate u w = (if (issueCmd (lpOpenLevel u.rcd) 0 false u w).2 then onLoop u.l done (issueCmd (lpOpenLevel u.rcd) 0 false u w).1
      else (issueCmd (lpOpenLevel u.rcd) 0 false u w).1, (issueCmd (lpOpenLevel u.rcd) 0 false u w).2) := by
  unfold openUpdate
  simp only
  split
  · exact .inl rfl
  next hcond => exact .inr ⟨fun h15 => hcond (by simp [h15]), _, fun y => ⟨_, _, rfl⟩, rfl⟩

theorem openUpdate_outcome (ho : haloOrdered w) (hx : x.engine = e) :
    lawOutcome u.l e x h w (openUpdate u (wrote u.l e x h w)).1 := by
  obtain hstill | ⟨-, done, hdone, hsent⟩ := openUpdate_cases u (wrote u.l e x h w)
  · rw [hstill]
    exact lawOutcome_wrote
  · have hissue := issueCmd_outcome (u := u) (h := h) (lpOpenLevel u.rcd) 0 false ho hx
    rw [hsent]
    split
    · exact hissue.onLoop ho (fun y => by obtain ⟨_, _, hy⟩ := hdone y; rw [hy]; exact ⟨rfl, rfl⟩)
    · exact hissue

/-! ## The procedure from its error on, case by case -/

/-- E0 and T0 of the update's error. -/
def errorSeen (er : W32) (t1 : Nat) (x : LoopRt) : LoopRt := { x with e0 := er, t0 := t1 }
/-- SLOPE as it stood at the update. -/
def slopeNoted (ok : Bool) (x : LoopRt) : LoopRt := { x with flags := setFlag lfNoSlope (!ok) x.flags }
/-- The integrator, where it is enabled and the slope usable. -/
def integrated (r : Bytes) (er : W32) (ok : Bool) (t1 : Nat) (x : LoopRt) : LoopRt :=
  if lpIntEn r && ok then integrate r er ((t1 : Int) - x.t0) x else x

theorem integrated_eq_with (r : Bytes) (er : W32) (ok : Bool) (t1 : Nat) (x : LoopRt) : integrated r er ok t1 x =
    { x with integ := (integrated r er ok t1 x).integ, flags := (integrated r er ok t1 x).flags } := by
  unfold integrated
  split <;> rfl

theorem updateWith_open (er : W32) (ok : Bool) (ho : haloOrdered w) (hc : hasFlag lfClosed x.flags = false) :
    updateWith er ok u (wrote u.l e x h w) =
      (onLoop u.l (errorSeen er u.q.t1) (openUpdate u (wrote u.l e x h w)).1, (openUpdate u (wrote u.l e x h w)).2) := by
  simp only [updateWith, loop_wrote_same ho, hc, Bool.not_false, if_true]
  rfl

theorem updateWith_pending (er : W32) (ok : Bool) (ho : haloOrdered w) (hc : hasFlag lfClosed x.flags = true)
    (hp : hasFlag lfPending x.flags = true) : updateWith er ok u (wrote u.l e x h w) =
      (wrote u.l e (errorSeen er u.q.t1 (if u.q.t1 < x.lastExec then x else preload u.rcd er x)) h w, false) := by
  simp only [updateWith, loop_wrote_same ho, hc, hp, Bool.not_true, Bool.false_eq_true, if_false, if_true]
  by_cases hlt : u.q.t1 < x.lastExec
  · simp only [hlt, decide_true, if_true, onLoop_wrote _ ho]
    rfl
  · simp only [hlt, decide_false, Bool.false_eq_true, if_false, onLoop_wrote _ ho]
    rfl

theorem preload_eq_with (r : Bytes) (er : W32) (x : LoopRt) : preload r er x =
    { x with integ := (preload r er x).integ, flags := (preload r er x).flags, swCount := 0, wElapsed := 0 } := by
  unfold preload
  simp only
  split <;> rfl

/-- A loop that closes has its integrator preloaded and its window shut, and is pending no longer (07 R190). -/
theorem preload_closes (r : Bytes) (er : W32) (x : LoopRt) : hasFlag lfPending (preload r er x).flags = false ∧
    hasFlag lfWindow (preload r er x).flags = false ∧ (preload r er x).swCount = 0 ∧ (preload r er x).level = x.level ∧
    (preload r er x).integ = (if lpIntEn r then hClamp (hSub (lpBandC r) er) (hNeg (lpIMax r)) (lpIMax r) else x.integ) := by
  have hwindow (f : BitVec 16) : hasFlag lfWindow (setFlag lfPending false (setFlag lfWindow false f)) = false := by
    rw [hasFlag_setFlag_other _ _, hasFlag_setFlag_same]
  unfold preload
  cases lpIntEn r
  · exact ⟨hasFlag_setFlag_same _ _, hwindow _, rfl, rfl, rfl⟩
  · exact ⟨hasFlag_setFlag_same _ _, hwindow _, rfl, rfl, rfl⟩

/-- What the law decides for a closed loop: nothing before its last command's execute time (07 R176, R178). -/
def decided (er : W32) (ok : Bool) (u : Upd) (e : Nat) (x : LoopRt) (h : He) (w : World) : World × Bool :=
  if u.q.t1 < x.lastExec then (wrote u.l e x h w, false) else decideCmd er (hSub (lpBandC u.rcd) x.integ) ok u (wrote u.l e x h w)

theorem updateWith_law (er : W32) (ok : Bool) (ho : haloOrdered w) (hc : hasFlag lfClosed x.flags = true)
    (hp : hasFlag lfPending x.flags = false) : updateWith er ok u (wrote u.l e x h w) =
      (onLoop u.l (errorSeen er u.q.t1) (onLoop u.l (slopeNoted ok) (decided er ok u e (integrated u.rcd er ok u.q.t1 x) h w).1),
        (decided er ok u e (integrated u.rcd er ok u.q.t1 x) h w).2) := by
  have hint : (if (lpIntEn u.rcd && ok) = true then onLoop u.l (integrate u.rcd er ((u.q.t1 : Int) - x.t0)) (wrote u.l e x h w)
      else wrote u.l e x h w) = wrote u.l e (integrated u.rcd er ok u.q.t1 x) h w := by
    rw [integrated, onLoop_wrote _ ho]
    split <;> rfl
  have hlast : (integrated u.rcd er ok u.q.t1 x).lastExec = x.lastExec := by rw [integrated_eq_with]
  simp only [updateWith, loop_wrote_same ho, hc, hp, Bool.not_true, Bool.false_eq_true, if_false, hint, decide_eq_true_eq, decided, hlast]
  rfl

theorem decided_outcome (er : W32) (ok : Bool) (ho : haloOrdered w) (hx : x.engine = e) :
    lawOutcome u.l e x h w (decided er ok u e x h w).1 := by
  unfold decided
  split
  · exact lawOutcome_wrote
  · exact decideCmd_outcome _ _ _ ho hx

/-- The whole procedure: E0 and T0 are the update's, and the rest is as the law leaves it. -/
theorem updateWith_outcome (er : W32) (ok : Bool) (ho : haloOrdered w) (hx : x.engine = e) :
    ∃ w', lawOutcome u.l e x h w w' ∧ (updateWith er ok u (wrote u.l e x h w)).1 = onLoop u.l (errorSeen er u.q.t1) w' := by
  cases hc : hasFlag lfClosed x.flags
  case false => exact ⟨_, openUpdate_outcome ho hx, by rw [updateWith_open er ok ho hc]⟩
  case true =>
    cases hp : hasFlag lfPending x.flags
    case true =>
      refine ⟨wrote u.l e (if u.q.t1 < x.lastExec then x else preload u.rcd er x) h w, ⟨_, _, w, rfl, trunkScope.refl w, ?_⟩, ?_⟩
      · split
        · exact ⟨rfl, rfl, rfl, rfl⟩
        · rw [preload_eq_with]
          exact ⟨rfl, rfl, rfl, rfl⟩
      · rw [updateWith_pending er ok ho hc hp, onLoop_wrote _ ho]
    case false =>
      have hint := integrated_eq_with u.rcd er ok u.q.t1 x
      obtain ⟨y, g, v, hy, hv, hkeep⟩ := decided_outcome (u := u) (e := e) (h := h) er ok ho
        (show (integrated u.rcd er ok u.q.t1 x).engine = e by rw [hint]; exact hx)
      rw [hint] at hkeep
      rw [updateWith_law er ok ho hc hp]
      exact ⟨_, lawOutcome.onLoop (f := slopeNoted ok) ho ⟨y, g, v, hy, hv, hkeep⟩ (fun y => ⟨rfl, rfl⟩), rfl⟩

end

end Sys2Proof.Machine
end

section
/-! PROOFS. Halo loop updates (07 R176 to R178, R182, R183, R189, R190). -/

namespace Sys2Proof.Machine

open Sys2Proof.Claims

/-! ## The update (07 R176) -/

/-- An injector of the loop acts at the sample's instant. -/
def injecting (w : World) (q : QSample) : Bool := (injsOf w q.loop 0 ++ injsOf w q.loop 1).any (fun i => injActs w i q.t1)

/-- The loop with its notice taken and RF moved, as the update has it when it judges its error. -/
def followed (w : World) (q : QSample) : LoopRt :=
  { loopNow w q.loop with rf := nextRf w q, flags := setFlag lfInject (injecting w q) (loopNow w q.loop).flags }

/-- The loop whose error is not finite; the loop whose error is, with DC-link voltage raised or not (07 R187). -/
def arithNoted (x : LoopRt) : LoopRt := { x with flags := setFlag lfArith true x.flags, nArith := x.nArith + 1 }
def errorTaken (limited : Bool) (x : LoopRt) : LoopRt := { x with flags := setFlag lfLimited limited (setFlag lfArith false x.flags) }

/-- The loop as the procedure takes it up, its error being finite. -/
def judgedLoop (w : World) (q : QSample) : LoopRt := errorTaken (feedForward w (loopRec w q.loop)).2 (followed w q)

/-- The engine with an update counted. -/
def updateCounted (h : He) : He := { h with updates := h.updates + 1 }

/-- What a sample makes of its loop, its engine and the trunks, once its injectors have started. -/
def judged (q : QSample) (w : World) : World × Bool :=
  let e := (loop w q.loop).engine
  if isFin32 (loopErr w q) then
    updateWith (loopErr w q) (slopeUsable w q) (updOf w q) (wrote (updOf w q).l e (judgedLoop w q) (updateCounted (he w e)) w)
  else (wrote q.loop e (arithNoted (followed w q)) { updateCounted (he w e) with arith := (he w e).arith + 1 } w, false)

/-- The capture channels of a loop in the active set. -/
def capsOf (w : World) (l : Nat) : List Nat := (instancesOf w.cfg.active 0x5040 0).filter (fun c => cpLoop (capRec w c) = l)

/-- The update judged, and its loop's channels written. -/
def captured (q : QSample) (u : Upd) (signals : List W32) (w : World) : World :=
  eachW (capsOf (judged q w).1 q.loop) (captureUpdate u signals (judged q w).2) (judged q w).1

/-- A discard notice sets LEVEL and LAST_EXEC and is spent (07 R182). -/
theorem loopNow_eq_with (w : World) (l : Nat) : loopNow w l =
    { loop w l with discard := false, level := (loopNow w l).level, lastExec := (loopNow w l).lastExec } := by
  unfold loopNow
  split
  · rfl
  next hd => rw [← Bool.eq_false_iff.mpr hd]

theorem engine_loopNow (w : World) (l : Nat) : (loopNow w l).engine = (loop w l).engine := by rw [loopNow_eq_with]

theorem rf_loopNow (w : World) (l : Nat) : (loopNow w l).rf = (loop w l).rf := by rw [loopNow_eq_with]

theorem t0_loopNow (w : World) (l : Nat) : (loopNow w l).t0 = (loop w l).t0 := by rw [loopNow_eq_with]

theorem discard_loopNow (w : World) (l : Nat) : (loopNow w l).discard = false := by rw [loopNow_eq_with]

/-- The world with the discard notice of a loop taken (07 R182). -/
def discardTaken (l : Nat) (w : World) : World :=
  if (loop w l).discard then
    onLoop l (fun x => { x with discard := false, level := (shadow w l).level, lastExec := (shadow w l).lastExec }) w
  else w

/-- A loop's error judged: not finite, or the procedure's to act on. -/
def errorJudged (q : QSample) (e : Nat) (w w' : World) : World × Bool :=
  if !isFin32 (loopErr w q) then (onHe e (fun h => { h with arith := h.arith + 1 }) (onLoop q.loop arithNoted w'), false)
  else updateWith (loopErr w q) (slopeUsable w q) (updOf w q) (onLoop q.loop (errorTaken (feedForward w (loopRec w q.loop)).2) w')

/-- RF moved and INJECTING set, the engine's update counted. -/
def moved (q : QSample) (w : World) : World :=
  onHe (loop w q.loop).engine (fun h => { h with updates := h.updates + 1 }) (onLoop q.loop (fun x =>
    { x with rf := nextRf w q, flags := setFlag lfInject (injecting w q) x.flags }) w)

/-- The values that a capture channel may take of an update (07 Table 7.9). -/
def signalsOf (q : QSample) (w z : World) : List W32 :=
  [q.y, loopErr w q, (loop z q.loop).rf, hSub (lpBandC (loopRec w q.loop)) (loop z q.loop).integ, (loop z q.loop).h, (loop z q.loop).integ,
    hInt (loop z q.loop).level, hAdd (injAt w q.loop 0 q.t1) (injAt w q.loop 1 q.t1), (feedForward w (loopRec w q.loop)).1]

/-- An injector whose start has come starts, and triggers the channels that name it (07 R196, R198). -/
def startInj (t1 i : Nat) (w : World) : World :=
  match (inj w i).armed with
  | some start =>
    if start ≤ t1 then
      eachW (instancesOf w.cfg.active 0x5040 0) (fun c w =>
        if cpTrig (capRec w c) = 2 && engineInj w ((sFind w.cfg.mapping.caps c).getD 16) (cpTrigInj (capRec w c)) == some i &&
           decide ((cap w c).state = .armed) then onCap c (fun x => { x with pending := some t1 }) w else w)
        (onInj i (fun _ => { armed := none, ts := some t1 }) w)
    else w
  | none => w

theorem startInjs_eq (l t1 : Nat) (w : World) : startInjs l t1 w = eachW (injsOf w l 0 ++ injsOf w l 1) (startInj t1) w := rfl

/-- `w'` differs from `w` at most in injectors and capture channels. -/
def injScope (w w' : World) : Prop := w' = { w with halo := { w.halo with injs := w'.halo.injs, caps := w'.halo.caps } }

theorem injScope.trans {a b c : World} (hab : injScope a b) (hbc : injScope b c) : injScope a c := by
  unfold injScope at *
  rw [hbc, hab]

theorem startInj_scope (t1 i : Nat) (w : World) : injScope w (startInj t1 i w) := by
  unfold startInj
  split
  · split
    · refine eachW_keeps (P := injScope w) (fun c w' h => ?_) _ rfl
      split
      · exact h.trans rfl
      · exact h
    · rfl
  · rfl

theorem startInjs_scope (l t1 : Nat) (w : World) : injScope w (startInjs l t1 w) := by
  rw [startInjs_eq]
  exact eachW_keeps (P := injScope w) (fun i w' h => h.trans (startInj_scope t1 i w')) _ rfl

theorem injScope.cfg {w w' : World} (h : injScope w w') : w'.cfg = w.cfg := (congrArg World.cfg h :)

theorem cfg_discardTaken (l : Nat) (w : World) : (discardTaken l w).cfg = w.cfg := by
  unfold discardTaken
  split <;> rfl

theorem loopUpdate_stages (q : QSample) (w v : World) (r : World × Bool) (hv : v = discardTaken q.loop (startInjs q.loop q.t1 w))
    (hr : r = errorJudged q (loop v q.loop).engine v (moved q v)) :
    loopUpdate q w = eachW (capsOf r.1 q.loop) (captureUpdate (updOf v q) (signalsOf q v r.1) r.2) r.1 := by
  have hrec : loopRec v q.loop = loopRec w q.loop := by
    have hcfg : v.cfg = w.cfg := by rw [hv, cfg_discardTaken, (startInjs_scope _ _ w).cfg]
    rw [loopRec, hcfg, loopRec]
  unfold errorJudged moved loopErr slopeUsable updOf nextRf at hr
  unfold signalsOf loopErr updOf nextRf
  rw [hrec] at hr ⊢
  subst hr hv
  rfl

section

variable {q : QSample} {w : World}

theorem loop_discardTaken (l : Nat) (ho : haloOrdered w) : loop (discardTaken l w) l = loopNow w l := by
  unfold discardTaken loopNow
  split
  · exact loop_onLoop_same l _ ho.1
  · rfl

theorem nextRf_discardTaken (ho : haloOrdered w) : nextRf (discardTaken q.loop w) q = nextRf w q := by
  have hrf : (loop (discardTaken q.loop w) q.loop).rf = (loop w q.loop).rf := by rw [loop_discardTaken _ ho, rf_loopNow]
  unfold nextRf
  rw [hrf]
  unfold discardTaken
  split <;> rfl

theorem loopErr_discardTaken (ho : haloOrdered w) : loopErr (discardTaken q.loop w) q = loopErr w q := by
  unfold loopErr
  rw [nextRf_discardTaken ho]
  unfold discardTaken
  split <;> rfl

theorem slopeUsable_discardTaken (ho : haloOrdered w) : slopeUsable (discardTaken q.loop w) q = slopeUsable w q := by
  have ht0 : (loop (discardTaken q.loop w) q.loop).t0 = (loop w q.loop).t0 := by rw [loop_discardTaken _ ho, t0_loopNow]
  unfold slopeUsable
  rw [ht0]
  unfold discardTaken
  split <;> rfl

theorem moved_discardTaken (ho : haloOrdered w) : moved q (discardTaken q.loop w) = wrote q.loop (loop w q.loop).engine (followed w q)
    (updateCounted (he w (loop w q.loop).engine)) w := by
  unfold moved followed
  rw [nextRf_discardTaken ho, loop_discardTaken _ ho, engine_loopNow]
  unfold discardTaken loopNow
  split
  next hd =>
    rw [onLoop_onLoop _ _ ho]
    rfl
  · rfl

theorem errorJudged_discardTaken (ho : haloOrdered w) :
    errorJudged q (loop (discardTaken q.loop w) q.loop).engine (discardTaken q.loop w) (moved q (discardTaken q.loop w)) = judged q w := by
  unfold errorJudged judged
  rw [loopErr_discardTaken ho, slopeUsable_discardTaken ho, moved_discardTaken ho, loop_discardTaken _ ho, engine_loopNow,
    onLoop_wrote _ ho, onLoop_wrote _ ho, onHe_wrote _ ho]
  have hrest : updOf (discardTaken q.loop w) q = updOf w q ∧
      feedForward (discardTaken q.loop w) (loopRec (discardTaken q.loop w) q.loop) = feedForward w (loopRec w q.loop) := by
    unfold discardTaken
    split <;> exact ⟨rfl, rfl⟩
  rw [hrest.1, hrest.2]
  cases isFin32 (loopErr w q) <;> rfl

/-- An update starts the loop's injectors, judges its error and captures. -/
theorem loopUpdate_eq (ho : haloOrdered (startInjs q.loop q.t1 w)) :
    ∃ u signals, loopUpdate q w = captured q u signals (startInjs q.loop q.t1 w) :=
  ⟨_, _, loopUpdate_stages q w _ _ rfl (errorJudged_discardTaken ho).symm⟩

end

/-! ## Capture channels (07 R197, R198) -/

/-- `w'` differs from `w` at most in capture channels and in the Stratum that they write. -/
def capScope (w w' : World) : Prop := w' = { w with
  halo := { w.halo with caps := w'.halo.caps }, tiles := { w.tiles with stratum := w'.tiles.stratum } }

theorem capScope.trans {a b c : World} (hab : capScope a b) (hbc : capScope b c) : capScope a c := by
  unfold capScope at *
  rw [hbc, hab]

theorem onCap_scope (c : Nat) (f : CapRt → CapRt) (w : World) : capScope w (onCap c f w) := rfl

theorem onStratum_scope (f : Tiles → List Host.Cell) (w : World) : capScope w (onTiles (fun t => { t with stratum := f t }) w) := rfl

theorem captureUpdate_scope (u : Upd) (signals : List W32) (sent : Bool) (c : Nat) (w : World) :
    capScope w (captureUpdate u signals sent c w) := by
  unfold captureUpdate
  extract_lets
  split
  · rfl
  · split
    · exact onCap_scope c _ w
    · exact (onStratum_scope _ w).trans (onCap_scope c _ _)

theorem captured_scope (q : QSample) (u : Upd) (signals : List W32) (w : World) : capScope (judged q w).1 (captured q u signals w) :=
  eachW_keeps (P := capScope (judged q w).1) (fun c w' h => h.trans (captureUpdate_scope u signals _ c w')) _ rfl

theorem capScope.loop {w w' : World} (h : capScope w w') (l : Nat) : loop w' l = loop w l := by
  unfold capScope at h
  rw [h]
  rfl

theorem capScope.he {w w' : World} (h : capScope w w') (e : Nat) : he w' e = he w e := by
  unfold capScope at h
  rw [h]
  rfl

theorem capScope.dev {w w' : World} (h : capScope w w') : w'.dev = w.dev := (congrArg World.dev h :)

theorem capScope.cfg {w w' : World} (h : capScope w w') : w'.cfg = w.cfg := (congrArg World.cfg h :)

theorem capScope.injs {w w' : World} (h : capScope w w') : w'.halo.injs = w.halo.injs := (congrArg (fun v => v.halo.injs) h :)

theorem capScope.trunks {w w' : World} (h : capScope w w') : w'.trunks = w.trunks := (congrArg World.trunks h :)

/-! ## The sample at the head of a queue -/

/-- The engine's queue without its head. -/
def dequeued (e : Nat) (rest : List QSample) (w : World) : World := onHe e (fun h => { h with queue := rest }) w

theorem haloUpdate_of_queue {w : World} {e : Nat} {q : QSample} {rest : List QSample} (hq : (he w e).queue = q :: rest) :
    haloUpdate e w = if loopRuns w q.loop e then loopUpdate q (dequeued e rest w) else dequeued e rest w := by
  unfold haloUpdate
  simp only [hq]
  rfl

theorem startInjs_none {l t1 : Nat} {w : World} (h : ∀ i ∈ injsOf w l 0 ++ injsOf w l 1, (inj w i).armed = none) :
    startInjs l t1 w = w := by
  rw [startInjs_eq]
  generalize injsOf w l 0 ++ injsOf w l 1 = is at h
  induction is with
  | nil => rfl
  | cons i is ih =>
    have hi : startInj t1 i w = w := by simp only [startInj, h i List.mem_cons_self]
    rw [eachW_cons, hi, ih (fun j hj => h j (List.mem_cons_of_mem i hj))]

theorem engine_of_loopRuns {w : World} {l e : Nat} (h : loopRuns w l e = true) : (loop w l).engine = e := by
  simp only [loopRuns, Bool.and_eq_true, beq_iff_eq] at h
  obtain ⟨⟨⟨⟨-, he⟩, -⟩, -⟩, -⟩ := h
  exact he

theorem engine_followed (w : World) (q : QSample) : (followed w q).engine = (loop w q.loop).engine := engine_loopNow w q.loop

section

variable {w : World} {q : QSample}

theorem judged_finite (h : isFin32 (loopErr w q) = true) : judged q w = updateWith (loopErr w q) (slopeUsable w q) (updOf w q)
    (wrote (updOf w q).l (loop w q.loop).engine (judgedLoop w q) (updateCounted (he w (loop w q.loop).engine)) w) := by
  simp only [judged, h, if_true]

theorem judged_arith (h : isFin32 (loopErr w q) = false) : (judged q w).1 = wrote q.loop (loop w q.loop).engine (arithNoted (followed w q))
    { updateCounted (he w (loop w q.loop).engine) with arith := (he w (loop w q.loop).engine).arith + 1 } w := by
  simp only [judged, h, Bool.false_eq_true, if_false]

/-- What every update leaves: RF moved, no notice waiting, the engine's queue kept and its update counted; of a finite error E0 and T0. -/
theorem judged_outcome (ho : haloOrdered w) : ∃ y g v, (judged q w).1 = wrote q.loop (loop w q.loop).engine y g v ∧ trunkScope w v ∧
    y.rf = nextRf w q ∧ y.discard = false ∧ g.queue = (he w (loop w q.loop).engine).queue ∧
    g.updates = (he w (loop w q.loop).engine).updates + 1 ∧ (isFin32 (loopErr w q) = true → y.e0 = loopErr w q ∧ y.t0 = q.t1) := by
  cases hfin : isFin32 (loopErr w q)
  case false =>
    rw [judged_arith hfin]
    exact ⟨_, _, w, rfl, trunkScope.refl w, rfl, discard_loopNow _ _, rfl, rfl, fun h => absurd h Bool.false_ne_true⟩
  case true =>
    obtain ⟨w', ⟨y, g, v, rfl, hv, hrf, hdisc, hqueue, hupd⟩, heq⟩ := updateWith_outcome (u := updOf w q) (x := judgedLoop w q)
      (h := updateCounted (he w (loop w q.loop).engine)) (loopErr w q) (slopeUsable w q) ho (engine_followed w q)
    rw [judged_finite hfin]
    exact ⟨_, g, v, heq.trans (onLoop_wrote _ (haloOrdered_of_trunkScope ho hv)), hv, hrf, hdisc.trans (discard_loopNow _ _), hqueue, hupd,
      fun _ => ⟨rfl, rfl⟩⟩

end

/-- After the injectors' starts an update writes neither injectors nor the device block, and no channels before it captures. -/
theorem judged_keeps {w : World} {q : QSample} (ho : haloOrdered w) : (judged q w).1.halo.injs = w.halo.injs ∧
    (judged q w).1.halo.caps = w.halo.caps ∧ (judged q w).1.cfg = w.cfg ∧ (judged q w).1.dev = w.dev := by
  obtain ⟨y, g, v, hj, hv, -⟩ := judged_outcome (q := q) ho
  obtain ⟨tp, rfl⟩ : ∃ tp, v = { w with trunks := tp } := ⟨_, hv⟩
  rw [hj]
  exact ⟨rfl, rfl, rfl, rfl⟩

/-- `w'` differs from `w` at most in what an update writes: its engine, its loop, capture channels, trunks, and captured Stratum. -/
def updateScope (w w' : World) : Prop := w' = { w with
  halo := { w.halo with engines := w'.halo.engines, loops := w'.halo.loops, caps := w'.halo.caps }
  trunks := w'.trunks, tiles := { w.tiles with stratum := w'.tiles.stratum } }

theorem updateScope_of_capScope {w w' : World} {q : QSample} (h : capScope (judged q w).1 w') (ho : haloOrdered w) : updateScope w w' := by
  obtain ⟨y, g, v, hj, hv, -⟩ := judged_outcome (q := q) ho
  obtain ⟨tp, rfl⟩ : ∃ tp, v = { w with trunks := tp } := ⟨_, hv⟩
  rw [hj] at h
  unfold capScope at h
  rw [h]
  rfl

/-- An error that is not finite is noted and commands nothing (07 R176). -/
theorem arith_of_capScope {w w' : World} {q : QSample} (h : capScope (judged q w).1 w') (ho : haloOrdered w)
    (hfin : isFin32 (loopErr w q) = false) : loop w' q.loop = arithNoted (followed w q) ∧ w'.trunks = w.trunks := by
  rw [h.loop, h.trunks, judged_arith hfin, loop_wrote_same ho]
  exact ⟨rfl, rfl⟩

/-! ## An update case by case -/

/-- The loop as a closed loop's law has it: the error taken, the integrator moved. -/
def lawLoop (w : World) (q : QSample) : LoopRt :=
  integrated (loopRec w q.loop) (loopErr w q) (slopeUsable w q) q.t1 (judgedLoop w q)

/-- The loop when its law is done: the slope noted, E0 and T0 the update's. -/
def lawDone (w : World) (q : QSample) (x : LoopRt) : LoopRt := errorSeen (loopErr w q) q.t1 (slopeNoted (slopeUsable w q) x)

theorem hasFlag_lawDone {i : Nat} (w : World) (q : QSample) (x : LoopRt) (hi : i < 16 := by decide) (hne : i ≠ lfNoSlope := by decide) :
    hasFlag i (lawDone w q x).flags = hasFlag i x.flags := hasFlag_setFlag_other _ _ hi hne

theorem noSlope_lawDone (w : World) (q : QSample) (x : LoopRt) : hasFlag lfNoSlope (lawDone w q x).flags = !slopeUsable w q :=
  hasFlag_setFlag_same _ _

theorem hasFlag_judgedLoop {i : Nat} (w : World) (q : QSample) (hi : i < 16 := by decide)
    (hne : i ≠ lfInject ∧ i ≠ lfArith ∧ i ≠ lfLimited := by decide) :
    hasFlag i (judgedLoop w q).flags = hasFlag i (loop w q.loop).flags := by
  obtain ⟨hinj, har, hlim⟩ := hne
  have hnow : (loopNow w q.loop).flags = (loop w q.loop).flags := by rw [loopNow_eq_with]
  simp only [judgedLoop, errorTaken, followed, hasFlag_setFlag_other _ _ hi hinj, hasFlag_setFlag_other _ _ hi har,
    hasFlag_setFlag_other _ _ hi hlim, hnow]

/-- What the procedure takes up of the loop is as the update found it, but for RF and FLAGS. -/
theorem judgedLoop_kept (w : World) (q : QSample) : (judgedLoop w q).level = (loopNow w q.loop).level ∧
    (judgedLoop w q).integ = (loop w q.loop).integ ∧ (judgedLoop w q).t0 = (loop w q.loop).t0 ∧
    (judgedLoop w q).h = (loop w q.loop).h := by
  rw [judgedLoop, errorTaken, followed, loopNow_eq_with]
  exact ⟨rfl, rfl, rfl, rfl⟩

/-- What the law finds of the loop besides FLAGS and the integrator is as the update found it, but for RF. -/
theorem lawLoop_eq_with (w : World) (q : QSample) : ∃ fl, lawLoop w q =
    { loopNow w q.loop with rf := nextRf w q, integ := (lawLoop w q).integ, flags := fl } := by
  refine ⟨(lawLoop w q).flags, ?_⟩
  unfold lawLoop
  rw [integrated_eq_with]
  rfl

theorem centre_lawLoop (w : World) (q : QSample) : hSub (lpBandC (loopRec w q.loop)) (lawLoop w q).integ = bandCentre w q := by
  obtain ⟨-, hinteg, ht0, -⟩ := judgedLoop_kept w q
  unfold lawLoop bandCentre integrated integrate
  split
  · simp only [hinteg, ht0]
  · simp only [hinteg]

theorem lastExec_lawLoop (w : World) (q : QSample) : (lawLoop w q).lastExec = (loopNow w q.loop).lastExec := by
  obtain ⟨fl, h⟩ := lawLoop_eq_with w q
  rw [h]

theorem level_lawLoop (w : World) (q : QSample) : (lawLoop w q).level = (loopNow w q.loop).level := by
  obtain ⟨fl, h⟩ := lawLoop_eq_with w q
  rw [h]

/-- Nothing that an update does before its law touches what a discard notice does not set. -/
theorem lawLoop_kept (w : World) (q : QSample) : (lawLoop w q).h = (loop w q.loop).h ∧ (lawLoop w q).engine = (loop w q.loop).engine ∧
    (lawLoop w q).stopped = (loop w q.loop).stopped ∧ (lawLoop w q).nCommands = (loop w q.loop).nCommands ∧
    (lawLoop w q).nCreditWaits = (loop w q.loop).nCreditWaits ∧ (lawLoop w q).nEndLevel = (loop w q.loop).nEndLevel := by
  obtain ⟨fl, h⟩ := lawLoop_eq_with w q
  rw [h, loopNow_eq_with]
  exact ⟨rfl, rfl, rfl, rfl, rfl, rfl⟩

section

variable {w : World} {q : QSample}

theorem judged_open (ho : haloOrdered w) (hfin : isFin32 (loopErr w q) = true) (hc : hasFlag lfClosed (loop w q.loop).flags = false) :
    (judged q w).1 = onLoop q.loop (errorSeen (loopErr w q) q.t1) (openUpdate (updOf w q)
      (wrote (updOf w q).l (loop w q.loop).engine (judgedLoop w q) (updateCounted (he w (loop w q.loop).engine)) w)).1 := by
  rw [judged_finite hfin, updateWith_open _ _ ho (by rw [hasFlag_judgedLoop, hc])]
  rfl

theorem judged_closing (ho : haloOrdered w) (hfin : isFin32 (loopErr w q) = true) (hc : hasFlag lfClosed (loop w q.loop).flags = true)
    (hp : hasFlag lfPending (loop w q.loop).flags = true) (ht : (loopNow w q.loop).lastExec ≤ q.t1) :
    (judged q w).1 = wrote q.loop (loop w q.loop).engine
      (errorSeen (loopErr w q) q.t1 (preload (loopRec w q.loop) (loopErr w q) (judgedLoop w q)))
      (updateCounted (he w (loop w q.loop).engine)) w := by
  have hnot : ¬ (updOf w q).q.t1 < (judgedLoop w q).lastExec := Nat.not_lt.mpr ht
  rw [judged_finite hfin, updateWith_pending _ _ ho (by rw [hasFlag_judgedLoop, hc]) (by rw [hasFlag_judgedLoop, hp]), if_neg hnot]
  rfl

/-- The world as a closed loop's law has it. -/
def lawWorld (w : World) (q : QSample) : World :=
  wrote (updOf w q).l (loop w q.loop).engine (lawLoop w q) (updateCounted (he w (loop w q.loop).engine)) w

theorem loop_lawWorld (ho : haloOrdered w) : loop (lawWorld w q) (updOf w q).l = lawLoop w q := loop_wrote_same ho

/-- What a closed loop's law decides on the error. -/
def lawDecided (w : World) (q : QSample) : World :=
  (decided (loopErr w q) (slopeUsable w q) (updOf w q) (loop w q.loop).engine (lawLoop w q)
    (updateCounted (he w (loop w q.loop).engine)) w).1

theorem judged_law (ho : haloOrdered w) (hfin : isFin32 (loopErr w q) = true) (hc : hasFlag lfClosed (loop w q.loop).flags = true)
    (hp : hasFlag lfPending (loop w q.loop).flags = false) : (judged q w).1 = onLoop q.loop (errorSeen (loopErr w q) q.t1)
      (onLoop q.loop (slopeNoted (slopeUsable w q)) (lawDecided w q)) := by
  rw [judged_finite hfin, updateWith_law _ _ ho (by rw [hasFlag_judgedLoop, hc]) (by rw [hasFlag_judgedLoop, hp])]
  rfl

/-- The law done on a loop that it has written. -/
theorem judged_of_decided {y : LoopRt} {g : He} {v : World} (ho : haloOrdered w) (hfin : isFin32 (loopErr w q) = true)
    (hc : hasFlag lfClosed (loop w q.loop).flags = true) (hp : hasFlag lfPending (loop w q.loop).flags = false) (hv : haloOrdered v)
    (hd : lawDecided w q = wrote q.loop (loop w q.loop).engine y g v) :
    (judged q w).1 = wrote q.loop (loop w q.loop).engine (lawDone w q y) g v := by
  rw [judged_law ho hfin hc hp, hd, onLoop_wrote _ hv, onLoop_wrote _ hv]
  rfl

theorem lawDecided_late (ht : q.t1 < (loopNow w q.loop).lastExec) : lawDecided w q = lawWorld w q := by
  have hlate : (updOf w q).q.t1 < (lawLoop w q).lastExec := (lastExec_lawLoop w q).symm ▸ ht
  rw [lawDecided, decided, if_pos hlate]
  rfl

theorem lawDecided_due (ht : (loopNow w q.loop).lastExec ≤ q.t1) :
    lawDecided w q = (decideCmd (loopErr w q) (bandCentre w q) (slopeUsable w q) (updOf w q) (lawWorld w q)).1 := by
  have hdue : ¬ (updOf w q).q.t1 < (lawLoop w q).lastExec := Nat.not_lt.mpr ((lastExec_lawLoop w q).symm ▸ ht)
  rw [lawDecided, decided, if_neg hdue, ← centre_lawLoop]
  rfl

/-- Before the last command's execute time, or within the band without a usable slope, the law commands nothing (07 R178). -/
theorem lawDecided_still (ho : haloOrdered w) (hstill : q.t1 < (loopNow w q.loop).lastExec ∨
      lt32 (hAdd (bandCentre w q) (loop w q.loop).h) (loopErr w q) = false ∧
      lt32 (loopErr w q) (hSub (bandCentre w q) (loop w q.loop).h) = false ∧ slopeUsable w q = false) :
    lawDecided w q = lawWorld w q := by
  obtain ht | ⟨hhi, hlo, hslope⟩ := hstill
  · exact lawDecided_late ht
  · rcases Nat.lt_or_ge q.t1 (loopNow w q.loop).lastExec with ht | ht
    · exact lawDecided_late ht
    · obtain ⟨hh, -⟩ := lawLoop_kept w q
      rw [← hh] at hhi hlo
      rw [lawDecided_due ht, hslope, decideCmd_within]
      · rwa [loop_lawWorld ho]
      · rwa [loop_lawWorld ho]

/-- Outside the band a level is asked for (07 R178). -/
theorem lawDecided_outside {d : Int} (ho : haloOrdered w) (ht : (loopNow w q.loop).lastExec ≤ q.t1)
    (hd : lt32 (hAdd (bandCentre w q) (loop w q.loop).h) (loopErr w q) = true ∧ d = 1 ∨
      lt32 (hAdd (bandCentre w q) (loop w q.loop).h) (loopErr w q) = false ∧
      lt32 (loopErr w q) (hSub (bandCentre w q) (loop w q.loop).h) = true ∧ d = -1) :
    lawDecided w q = (stepLevel d 0 (updOf w q) (lawWorld w q)).1 := by
  obtain ⟨hh, -⟩ := lawLoop_kept w q
  rw [← hh] at hd
  rw [lawDecided_due ht, decideCmd_outside]
  rwa [loop_lawWorld ho]

theorem execTime_lawLoop : execTime w (updOf w q) (lawLoop w q) 0 = earliest w q := by
  rw [execTime, lastExec_lawLoop, Nat.zero_max]
  rfl

theorem mayHand_lawWorld (ho : haloOrdered w) (t c k : Nat) : mayHand (lawWorld w q) t c k = mayHand w t c k := by
  obtain ⟨-, hengine, hstopped, -⟩ := lawLoop_kept w q
  exact mayHand_wrote t c k ho hengine hstopped

/-- A closed loop's law asks for a level in direction `d`: the error is finite and outside the band, the last command executed. -/
structure lawAsks (w : World) (q : QSample) (d : Int) : Prop where
  finite : isFin32 (loopErr w q) = true
  closed : hasFlag lfClosed (loop w q.loop).flags = true
  settled : hasFlag lfPending (loop w q.loop).flags = false
  due : (loopNow w q.loop).lastExec ≤ q.t1
  outside : lt32 (hAdd (bandCentre w q) (loop w q.loop).h) (loopErr w q) = true ∧ d = 1 ∨
    lt32 (hAdd (bandCentre w q) (loop w q.loop).h) (loopErr w q) = false ∧
    lt32 (loopErr w q) (hSub (bandCentre w q) (loop w q.loop).h) = true ∧ d = -1

section

variable {d new : Int} (ho : haloOrdered w) (hasks : lawAsks w q d)
  (hnew : new = ((loopNow w q.loop).level : Int) + (if lpPol (loopRec w q.loop) then -d else d))

include ho hasks in
theorem judged_of_asks {y : LoopRt} {g : He} {v : World} {sent : Bool} (hv : haloOrdered v)
    (hd : stepLevel d 0 (updOf w q) (lawWorld w q) = (wrote q.loop (loop w q.loop).engine y g v, sent)) :
    (judged q w).1 = wrote q.loop (loop w q.loop).engine (lawDone w q y) g v :=
  judged_of_decided ho hasks.finite hasks.closed hasks.settled hv (by rw [lawDecided_outside ho hasks.due hasks.outside, hd])

include hnew in
theorem nextLevel_lawLoop : nextLevel (updOf w q).rcd d (lawLoop w q) = new := by
  rw [hnew, nextLevel, level_lawLoop]
  rfl

include ho hasks hnew

theorem judged_atEnd (hoff : new < 0 ∨ (lpLevels (loopRec w q.loop) : Int) < new) : (judged q w).1 =
    wrote q.loop (loop w q.loop).engine (lawDone w q (atEndLevel (lawLoop w q))) (updateCounted (he w (loop w q.loop).engine)) w := by
  rw [← nextLevel_lawLoop hnew] at hoff
  exact judged_of_asks ho hasks ho (stepLevel_off 0 ho hoff)

theorem judged_waits (hlo : 0 ≤ new) (hhi : new ≤ (lpLevels (loopRec w q.loop) : Int))
    (hmay : mayHand w (lpTrunk (loopRec w q.loop)) (lpCell (loopRec w q.loop)) (loop w q.loop).engine = false) :
    ∃ g, (judged q w).1 = wrote q.loop (loop w q.loop).engine (lawDone w q (creditWaited (lawLoop w q))) g w := by
  obtain ⟨-, hengine, -⟩ := lawLoop_kept w q
  rw [← mayHand_lawWorld ho] at hmay
  rw [← nextLevel_lawLoop hnew] at hlo hhi
  exact ⟨_, judged_of_asks ho hasks ho ((stepLevel_on 0 ho hlo hhi).trans (issueCmd_waits _ 0 true ho hengine hmay))⟩

theorem judged_sent (hlo : 0 ≤ new) (hhi : new ≤ (lpLevels (loopRec w q.loop) : Int))
    (hmay : mayHand w (lpTrunk (loopRec w q.loop)) (lpCell (loopRec w q.loop)) (loop w q.loop).engine = true) :
    ∃ g, (judged q w).1 = wrote q.loop (loop w q.loop).engine
      (lawDone w q (commanded (loopRec w q.loop) true new.toNat (earliest w q) (lawLoop w q))) g
      (handCommand (lpTrunk (loopRec w q.loop)) (issuedCmd w (updOf w q) (lawLoop w q) new.toNat (earliest w q)) w) := by
  obtain ⟨-, hengine, -⟩ := lawLoop_kept w q
  rw [← mayHand_lawWorld ho] at hmay
  have hlevel := nextLevel_lawLoop hnew
  rw [← hlevel] at hlo hhi
  have hstep := (stepLevel_on 0 ho hlo hhi).trans (issueCmd_sent _ 0 true ho hengine hmay)
  rw [commandSent, execTime_lawLoop, hlevel] at hstep
  exact ⟨_, judged_of_asks ho hasks ho hstep⟩

end

end

/-! ## Open loops (07 R189) -/

/-- What comes of an open loop `x`: neither integrator nor band move, and the level is as it was or as given. -/
def openOutcome (l e new : Nat) (x : LoopRt) (w' : World) : Prop :=
  ∃ y g v, w' = wrote l e y g v ∧ haloOrdered v ∧ y.integ = x.integ ∧ y.h = x.h ∧ (y.level = x.level ∨ y.level = new)

section

variable {w : World} {u : Upd} {e : Nat} {x : LoopRt} {h : He}

theorem openOutcome.onLoop {l new : Nat} {w' : World} {f : LoopRt → LoopRt} (hout : openOutcome l e new x w')
    (hf : ∀ y, (f y).integ = y.integ ∧ (f y).h = y.h ∧ (f y).level = y.level) : openOutcome l e new x (onLoop l f w') := by
  obtain ⟨y, g, v, rfl, hv, hinteg, hh, hlevel⟩ := hout
  obtain ⟨hfinteg, hfh, hflevel⟩ := hf y
  exact ⟨f y, g, v, onLoop_wrote f hv, hv, hfinteg.trans hinteg, hfh.trans hh, hflevel ▸ hlevel⟩

theorem issueCmd_open (new tx : Nat) (ho : haloOrdered w) (hx : x.engine = e) :
    openOutcome u.l e new x (issueCmd new tx false u (wrote u.l e x h w)).1 := by
  cases hmay : mayHand (wrote u.l e x h w) (lpTrunk u.rcd) (lpCell u.rcd) e
  · rw [issueCmd_waits new tx false ho hx hmay]
    exact ⟨_, _, w, rfl, ho, rfl, rfl, .inl rfl⟩
  · rw [issueCmd_sent new tx false ho hx hmay]
    obtain ⟨_, _, _, _, hcmd⟩ := commanded_eq_with u.rcd false new (execTime w u x tx) x
    exact ⟨_, _, _, rfl, ho, by rw [hcmd], h_commanded_open _ _ _ _, .inr (by rw [hcmd])⟩

theorem openUpdate_open (ho : haloOrdered w) (hx : x.engine = e) :
    openOutcome u.l e (lpOpenLevel u.rcd) x (openUpdate u (wrote u.l e x h w)).1 := by
  obtain hstill | ⟨-, done, hdone, hsent⟩ := openUpdate_cases u (wrote u.l e x h w)
  · rw [hstill]
    exact ⟨x, h, w, rfl, ho, rfl, rfl, .inl rfl⟩
  · have hissue := issueCmd_open (u := u) (h := h) (lpOpenLevel u.rcd) 0 ho hx
    rw [hsent]
    split
    · exact hissue.onLoop (fun y => by obtain ⟨_, _, hy⟩ := hdone y; rw [hy]; exact ⟨rfl, rfl, rfl⟩)
    · exact hissue

/-- OPEN_LEVEL 15 commands nothing. -/
theorem openUpdate_of_none (w : World) (h15 : lpOpenLevel u.rcd = 15) : openUpdate u w = (w, false) :=
  (openUpdate_cases u w).elim id (fun h => absurd h15 h.1)

theorem trunk_congr {w' : World} (h : w'.trunks = w.trunks) (k : Nat) : trunk w' k = trunk w k := by rw [trunk, h, trunk]

/-- A command handed to its trunk stands behind those that wait, under the cell's next number; no other trunk changes. -/
theorem trunk_handCommand (t : Nat) (c : TxCmd) (ho : trunksOrdered w) :
    (trunk (handCommand t c w) t).queue = (trunk w t).queue ++ [{ c with number := (cell w (cellKey t c.cell)).cmdSeq }] ∧
    ∀ k, k ≠ t → trunk (handCommand t c w) k = trunk w k := by
  refine ⟨?_, fun k hk => ?_⟩
  · rw [handCommand, trunk_onCell, trunk_onTrunk_same ho]
  · rw [handCommand, trunk_onCell, trunk_onTrunk_other ho hk]

/-- A command of the law, as it stands in its trunk's queue: the level, the earliest execute time, the cell's next number (07 R178, R182;
10 R279). -/
def lawCommand (w : World) (q : QSample) (new : Nat) : TxCmd :=
  { issuedCmd w (updOf w q) (lawLoop w q) new (earliest w q) with
    number := (cell w (cellKey (lpTrunk (loopRec w q.loop)) (lpCell (loopRec w q.loop)))).cmdSeq }

/-- What a command of the law leaves of its loop and of the trunks. -/
theorem lawCommand_sent {w' : World} {q : QSample} {new : Nat} (ho : trunksOrdered w)
    (hloop : loop w' q.loop = lawDone w q (commanded (loopRec w q.loop) true new (earliest w q) (lawLoop w q)))
    (htrunks : w'.trunks =
      (handCommand (lpTrunk (loopRec w q.loop)) (issuedCmd w (updOf w q) (lawLoop w q) new (earliest w q)) w).trunks) :
    (loop w' q.loop).level = new ∧ (loop w' q.loop).lastExec = earliest w q ∧
    (loop w' q.loop).nCommands = (loop w q.loop).nCommands + 1 ∧ hasFlag lfCredit (loop w' q.loop).flags = false ∧
    (trunk w' (lpTrunk (loopRec w q.loop))).queue = (trunk w (lpTrunk (loopRec w q.loop))).queue ++ [lawCommand w q new] ∧
    ∀ k, k ≠ lpTrunk (loopRec w q.loop) → trunk w' k = trunk w k := by
  obtain ⟨hqueue, hothers⟩ := trunk_handCommand (lpTrunk (loopRec w q.loop)) (issuedCmd w (updOf w q) (lawLoop w q) new (earliest w q)) ho
  obtain ⟨_, _, _, _, hcmd⟩ := commanded_eq_with (loopRec w q.loop) true new (earliest w q) (lawLoop w q)
  obtain ⟨-, -, -, hcommands, -⟩ := lawLoop_kept w q
  have htrunk := trunk_congr htrunks
  rw [hloop]
  refine ⟨?level, ?time, ?count, ?credit, (congrArg Trunk.queue (htrunk _)).trans hqueue, fun k hk => (htrunk k).trans (hothers k hk)⟩
  case level => exact congrArg LoopRt.level hcmd
  case time => exact congrArg LoopRt.lastExec hcmd
  case count => exact (congrArg LoopRt.nCommands hcmd).trans (congrArg (· + 1) hcommands)
  case credit => exact (hasFlag_lawDone _ _ _).trans (credit_commanded _ _ _ _ _)

/-- An open loop's update: integrator and band stay, the level is as it was or OPEN_LEVEL, and with OPEN_LEVEL 15 nothing is sent. -/
theorem judged_open_outcome {q : QSample} (ho : haloOrdered w) (hfin : isFin32 (loopErr w q) = true)
    (hc : hasFlag lfClosed (loop w q.loop).flags = false) : ∃ y g v, (judged q w).1 = wrote q.loop (loop w q.loop).engine y g v ∧
      haloOrdered v ∧ y.integ = (loop w q.loop).integ ∧ y.h = (loop w q.loop).h ∧
      (y.level = (loopNow w q.loop).level ∨ y.level = lpOpenLevel (loopRec w q.loop)) ∧
      (lpOpenLevel (loopRec w q.loop) = 15 → v = w) := by
  obtain ⟨hlevel, hinteg, -, hh⟩ := judgedLoop_kept w q
  rw [judged_open ho hfin hc, ← hlevel, ← hinteg, ← hh]
  by_cases h15 : lpOpenLevel (loopRec w q.loop) = 15
  · rw [openUpdate_of_none (u := updOf w q) _ h15]
    exact ⟨errorSeen (loopErr w q) q.t1 (judgedLoop w q), _, w, onLoop_wrote _ ho, ho, rfl, rfl, .inl rfl, fun _ => rfl⟩
  · obtain ⟨y, g, v, hy, hv, hyinteg, hyh, hylevel⟩ := openUpdate_open (u := updOf w q) (x := judgedLoop w q)
      (h := updateCounted (he w (loop w q.loop).engine)) ho (engine_followed w q)
    rw [hy]
    exact ⟨errorSeen (loopErr w q) q.t1 y, g, v, onLoop_wrote _ hv, hv, hyinteg, hyh, hylevel, fun h => absurd h h15⟩

end

end Sys2Proof.Machine

namespace Sys2Proof.Claims

open Sys2Proof.Machine

theorem exec_haloLoopUpdate (e : Fin 16) (s : State) : exec (.haloLoopUpdate e) s = liveEffect (haloUpdate e) s := rfl

theorem ordered.halo {w : World} (h : ordered w) : haloOrdered w := by
  obtain ⟨-, -, -, -, -, -, -, -, -, -, -, -, he, hl, -⟩ := h; exact ⟨hl, he⟩

theorem ordered.haloDequeued {w : World} (h : ordered w) (e : Nat) (rest : List QSample) : haloOrdered (dequeued e rest w) :=
  haloOrdered_onHe _ h.halo

theorem ordered.he_dequeued {w : World} (h : ordered w) (e : Nat) (rest : List QSample) :
    he (dequeued e rest w) e = { he w e with queue := rest } ∧ ∀ k, k ≠ e → he (dequeued e rest w) k = he w k :=
  ⟨sGet_put_same _ _ h.halo.2, fun _ hk => sGet_put_other _ h.halo.2 hk⟩

section

variable {s : State} {e : Fin 16} {q : QSample} {rest : List QSample} {P : State → Prop}

/-- The sample's loop runs on the engine whose queue it heads. -/
theorem loopTakes.engine (ht : loopTakes s e q rest) : (loop (dequeued e rest s.live) q.loop).engine = e := by
  obtain ⟨-, hruns, -⟩ := ht
  exact engine_of_loopRuns hruns

theorem haloUpdate_of_takes (ho : ordered s.live) (ht : loopTakes s e q rest) :
    ∃ u signals, haloUpdate e s.live = captured q u signals (dequeued e rest s.live) := by
  obtain ⟨hq, hruns, hnone⟩ := ht
  have hstart : startInjs q.loop q.t1 (dequeued e rest s.live) = dequeued e rest s.live := startInjs_none hnone
  obtain ⟨u, signals, heq⟩ := loopUpdate_eq (q := q) (w := dequeued e rest s.live) (by rw [hstart]; exact ho.haloDequeued e rest)
  rw [hstart] at heq
  exact ⟨u, signals, by rw [haloUpdate_of_queue hq, if_pos hruns, heq]⟩

/-- A sample that its loop takes: the update judges its error, then the loop's channels capture it. -/
theorem runsTo_of_captured (ha : awake s) (ho : ordered s.live) (ht : loopTakes s e q rest)
    (hP : ∀ u signals, P { s with live := captured q u signals (dequeued e rest s.live) }) : runsTo (.haloLoopUpdate e) s P := by
  obtain ⟨u, signals, heq⟩ := haloUpdate_of_takes ho ht
  obtain ⟨-, -, -, hdev⟩ := judged_keeps (q := q) (ho.haloDequeued e rest)
  exact runsTo_of_effectIs ⟨_, exec_haloLoopUpdate e s, heq⟩ ha ((captured_scope q u signals _).dev.trans hdev) (hP u signals)

/-- The device ends as the update judges it, but for the channels and what they write. -/
theorem runsTo_of_takes (ha : awake s) (ho : ordered s.live) (ht : loopTakes s e q rest)
    (hP : ∀ w', capScope (judged q (dequeued e rest s.live)).1 w' → P { s with live := w' }) : runsTo (.haloLoopUpdate e) s P :=
  runsTo_of_captured ha ho ht (fun u signals => hP _ (captured_scope q u signals _))

/-- What an update leaves of its loop and of the trunks, where it has written the loop as `y`. -/
theorem runsTo_of_judged {y : LoopRt} {g : He} {v : World} (ha : awake s) (ho : ordered s.live) (ht : loopTakes s e q rest)
    (hv : haloOrdered v) (hj : (judged q (dequeued e rest s.live)).1 = wrote q.loop (loop s.live q.loop).engine y g v)
    (hP : ∀ w', loop w' q.loop = y → w'.trunks = v.trunks → P { s with live := w' }) : runsTo (.haloLoopUpdate e) s P := by
  refine runsTo_of_takes ha ho ht (fun w' hw => hP w' ?_ ?_)
  · rw [hw.loop, hj, loop_wrote_same hv]
  · rw [hw.trunks, hj]
    rfl

end

/-- Settles O47: an update that its loop takes is `judged`, of which the loop's law has the cases: nothing to command (`lawDecided_still`),
no such level (`judged_atEnd`), no credit (`judged_waits`), a command (`judged_sent`); a closing loop preloads (`judged_closing`), an open
one knows OPEN_LEVEL alone (`judged_open_outcome`). -/
theorem loopsActOnTheirSamples : Obligations.LoopsActOnTheirSamples := by
  unfold Obligations.LoopsActOnTheirSamples
  refine ⟨fun s e q rest ha ho hq hruns => ?dropped, fun s e q rest ha ho ht => ?taken,
    fun s e q rest d new ha ho ht hfin hc hp hdue hd hnew => ?stepped, fun s e q rest ha ho ht hfin hc hp hstill => ?still,
    fun s e q rest ha ho ht hfin hc hp hdue => ?closing, fun s e q rest ha ho ht hfin hc => ?opened, fun s l ha ho hl => ?notice⟩
  case dropped =>
    have heq : haloUpdate e s.live = dequeued e rest s.live := by rw [haloUpdate_of_queue hq, hruns]; rfl
    obtain ⟨hsame, hother⟩ := ho.he_dequeued e rest
    exact runsTo_of_effectIs ⟨_, exec_haloLoopUpdate e s, heq⟩ ha rfl ⟨hsame, hother, rfl⟩
  case taken =>
    have hb := ho.haloDequeued e rest
    obtain ⟨hsame, hother⟩ := ho.he_dequeued e rest
    obtain ⟨y, g, v, hj, hv, hrf, hdiscard, hqueue, hupdates, hseen⟩ := judged_outcome (q := q) hb
    have hov := haloOrdered_of_trunkScope hb hv
    rw [ht.engine] at hj hqueue hupdates
    rw [hsame] at hqueue hupdates
    refine runsTo_of_takes ha ho ht (fun w' hw => ?_)
    have hloop : loop w' q.loop = y := by rw [hw.loop, hj, loop_wrote_same hov]
    have hhe : he w' e = g := by rw [hw.he, hj, he_wrote_same hov]
    simp only [hloop, hhe]
    refine ⟨hqueue, hupdates, fun k hk => ?engines, hdiscard, hrf, fun k hk => ?loops, hseen, fun hfin => ?arith,
      congrArg (fun v => { s with live := v }) (updateScope_of_capScope hw hb)⟩
    case engines =>
      rw [hw.he, hj, he_wrote_other hov hk]
      exact (he_of_trunkScope hv k).trans (hother k hk)
    case loops =>
      rw [hw.loop, hj, loop_wrote_other hov hk]
      exact loop_of_trunkScope hv k
    case arith =>
      obtain ⟨hnoted, htrunks⟩ := arith_of_capScope hw hb hfin
      rw [← hloop, hnoted, htrunks]
      refine ⟨?_, hasFlag_setFlag_same _ _, rfl, t0_loopNow _ _, rfl⟩
      rw [arithNoted, followed, loopNow_eq_with]
      rfl
  case stepped =>
    have hb := ho.haloDequeued e rest
    have hasks : lawAsks (dequeued e rest s.live) q d := ⟨hfin, hc, hp, hdue, hd⟩
    obtain ⟨-, hengine, -, -, hwaits, hends⟩ := lawLoop_kept (dequeued e rest s.live) q
    by_cases hoff : new < 0 ∨ (lpLevels (loopRec s.live q.loop) : Int) < new
    · refine runsTo_of_judged ha ho ht hb (judged_atEnd hb hasks hnew hoff) (fun w' hloop htrunks =>
        ⟨fun _ => ?_, fun hlo hhi => absurd hoff (by omega)⟩)
      rw [hloop, htrunks]
      exact ⟨(hasFlag_lawDone _ _ _).trans (hasFlag_setFlag_same _ _), congrArg (· + 1) hends, level_lawLoop _ _, rfl⟩
    · have hlo : 0 ≤ new := by omega
      have hhi : new ≤ (lpLevels (loopRec s.live q.loop) : Int) := by omega
      cases hmay : mayHand s.live (lpTrunk (loopRec s.live q.loop)) (lpCell (loopRec s.live q.loop)) e
      case false =>
        obtain ⟨g, hj⟩ := judged_waits hb hasks hnew hlo hhi (by rw [ht.engine]; exact hmay)
        refine runsTo_of_judged ha ho ht hb hj (fun w' hloop htrunks =>
          ⟨fun h => absurd h hoff, fun _ _ => ⟨fun h => absurd h Bool.false_ne_true, fun _ => ?_⟩⟩)
        rw [hloop, htrunks]
        exact ⟨(hasFlag_lawDone _ _ _).trans (hasFlag_setFlag_same _ _), congrArg (· + 1) hwaits, level_lawLoop _ _,
          lastExec_lawLoop _ _, rfl⟩
      case true =>
        obtain ⟨g, hj⟩ := judged_sent hb hasks hnew hlo hhi (by rw [ht.engine]; exact hmay)
        refine runsTo_of_judged ha ho ht (haloOrdered_handCommand _ _ hb) hj (fun w' hloop htrunks =>
          ⟨fun h => absurd h hoff, fun _ _ => ⟨fun _ => ?_, fun h => absurd h.symm Bool.false_ne_true⟩⟩)
        obtain ⟨hlevel, htime, hcount, hcredit, hqueue, hothers⟩ :=
          lawCommand_sent (w := dequeued e rest s.live) ho.trunkTables hloop htrunks
        rw [lawCommand, issuedCmd, hengine.trans ht.engine] at hqueue
        exact ⟨hlevel, htime, hcount, hcredit, hqueue, hothers⟩
  case still =>
    have hb := ho.haloDequeued e rest
    refine runsTo_of_judged ha ho ht hb (judged_of_decided hb hfin hc hp hb (lawDecided_still hb hstill)) (fun w' hloop htrunks => ?_)
    rw [hloop, htrunks]
    exact ⟨level_lawLoop _ _, noSlope_lawDone _ _ _, rfl⟩
  case closing =>
    have hb := ho.haloDequeued e rest
    refine runsTo_of_judged ha ho ht hb (judged_closing hb hfin hc hp hdue) (fun w' hloop htrunks => ?_)
    rw [hloop, htrunks]
    obtain ⟨hpending, hwindow, hcount, hlevel, hinteg⟩ :=
      preload_closes (loopRec s.live q.loop) (loopErr s.live q) (judgedLoop (dequeued e rest s.live) q)
    obtain ⟨hlevelNow, hintegNow, -⟩ := judgedLoop_kept (dequeued e rest s.live) q
    rw [hintegNow] at hinteg
    exact ⟨hpending, hwindow, hcount, hlevel.trans hlevelNow, rfl, hinteg⟩
  case opened =>
    have hb := ho.haloDequeued e rest
    obtain ⟨y, g, v, hj, hv, hinteg, hh, hlevel, hnone⟩ := judged_open_outcome (w := dequeued e rest s.live) hb hfin hc
    refine runsTo_of_judged ha ho ht hv hj (fun w' hloop htrunks => ?_)
    rw [hloop, htrunks]
    exact ⟨hinteg, hh, hlevel, fun h15 => (congrArg World.trunks (hnone h15)).trans rfl⟩
  case notice =>
    have heq : whenW (hasObj s.live.cfg.active 0x5010 0 l) (onLoop l (fun x => { x with discard := true })) s.live =
      onLoop l (fun x => { x with discard := true }) s.live := by rw [hl, whenW_true]
    refine runsTo_of_effectIs ⟨_, rfl, heq⟩ ha rfl ⟨?_, fun k hk => ?_, rfl⟩
    · exact loop_onLoop_same _ _ ho.halo.1
    · exact sGet_put_other _ ho.halo.1 hk
end Sys2Proof.Claims
end

section
/-! PROOFS. Profile generators, injectors and capture channels (07 R193, R196, R198). -/

namespace Sys2Proof.Machine

open Sys2Proof.Claims

/-! ## Profile generators (07 R193) -/

theorem profileStep_of_due {w : World} {g : Nat} (hp : w.cfg.present = true) (hobj : hasObj w.cfg.active 0x5020 0 g = true)
    (hmode : gnMode (genRec w g) = 1) (hrun : (gen w g).stopped = false) (hwhole : (gen w g).struck = false)
    (hdie : dieGood (die w ((gen w g).engine / 4)) = true) (hdue : (gen w g).stepAt + gnPeriod (genRec w g) * 1000 ≤ lc3Ns w) :
    profileStep g w = onGen g (fun x => { genStep (genRec w g) x with stepAt := x.stepAt + gnPeriod (genRec w g) * 1000 }) w := by
  simp only [profileStep, hp, hobj, hmode, hrun, hwhole, hdie, hdue, beq_self_eq_true, Bool.not_false, decide_true, Bool.and_self, if_true]

theorem gen_onGen_same {w : World} (g : Nat) (f : GenRt → GenRt) (h : storeSorted w.halo.gens) : gen (onGen g f w) g = f (gen w g) :=
  sGet_put_same _ _ h

theorem gen_onGen_other {w : World} {g k : Nat} (f : GenRt → GenRt) (h : storeSorted w.halo.gens) (hk : k ≠ g) :
    gen (onGen g f w) k = gen w k := sGet_put_other _ h hk

/-- A generator that one step brings to its target stops there. -/
theorem genStep_of_there {r : Bytes} {x : GenRt} (h : genThere r x = true) :
    genStep r x = { x with p := gnTarget r, v := 0, a := 0, flags := 1 } :=
  if_pos h

/-! ## The end of an injector (07 R196) -/

theorem inj_onInj_other {w : World} {i k : Nat} (f : InjRt → InjRt) (h : storeSorted w.halo.injs) (hk : k ≠ i) :
    inj (onInj i f w) k = inj w k := sGet_put_other _ h hk

/-- INJECTING of a loop cleared. -/
def injCleared (x : LoopRt) : LoopRt := { x with flags := setFlag lfInject false x.flags }

theorem injSettle_cases (l : Nat) (w : World) : injSettle l w = onLoop l injCleared w ∨
    injSettle l w = w ∧ ∃ k ∈ injsOf w l 0 ++ injsOf w l 1, (inj w k).ts.isSome = true := by
  unfold injSettle
  split
  next h => exact .inr ⟨rfl, List.any_eq_true.mp h⟩
  · exact .inl rfl

/-- Settling writes FLAGS of its own loop alone, and clears INJECTING where no injector of the loop acts. -/
theorem loop_injSettle {w : World} (l : Nat) (h : storeSorted w.halo.loops) :
    (∀ k, loop (injSettle l w) k = { loop w k with flags := (loop (injSettle l w) k).flags }) ∧
    (∀ k, k ≠ l → loop (injSettle l w) k = loop w k) ∧
    ((∀ k ∈ injsOf w l 0 ++ injsOf w l 1, (inj w k).ts = none) → hasFlag lfInject (loop (injSettle l w) l).flags = false) := by
  obtain hclear | ⟨hstays, k, hk, hacts⟩ := injSettle_cases l w
  · have hsame : loop (injSettle l w) l = injCleared (loop w l) := by rw [hclear, loop_onLoop_same l _ h]
    have hother (k : Nat) (hk : k ≠ l) : loop (injSettle l w) k = loop w k := by rw [hclear]; exact sGet_put_other _ h hk
    refine ⟨fun k => ?_, hother, fun _ => ?_⟩
    · by_cases hk : k = l
      · rw [hk, hsame]
        rfl
      · rw [hother k hk]
    · rw [hsame]
      exact hasFlag_setFlag_same _ _
  · rw [hstays]
    refine ⟨fun _ => rfl, fun _ _ => rfl, fun hnone => ?_⟩
    rw [hnone k hk] at hacts
    exact absurd hacts Bool.false_ne_true

/-- The end of an injector writes injectors and loops alone. -/
theorem injHalt_scope (i : Nat) (w : World) : injHalt i w =
    { w with halo := { w.halo with injs := (injHalt i w).halo.injs, loops := (injHalt i w).halo.loops } } := by
  obtain hclear | ⟨hstays, -⟩ := injSettle_cases (ijLoop (injRec w i)) (onInj i (fun _ => {}) w)
  · rw [injHalt, hclear]
    rfl
  · rw [injHalt, hstays]
    rfl

/-! ## The start of an injector (07 R196) -/

/-- An injector once its loop's update at `t1` has come: started if it is armed for then or before. -/
def startedAt (t1 : Nat) (x : InjRt) : InjRt :=
  match x.armed with
  | some start => if start ≤ t1 then { armed := none, ts := some t1 } else x
  | none => x

theorem startedAt_startedAt (t1 : Nat) (x : InjRt) : startedAt t1 (startedAt t1 x) = startedAt t1 x := by
  obtain ⟨_ | start, ts⟩ := x
  · rfl
  · by_cases h : start ≤ t1 <;> simp [startedAt, h]

/-- A start writes its own injector; the channels that it triggers are none of the injectors'. -/
theorem startInj_cases (t1 i : Nat) (w : World) : startInj t1 i w = w ∧ startedAt t1 (inj w i) = inj w i ∨
    (startInj t1 i w).halo.injs = (onInj i (startedAt t1) w).halo.injs := by
  cases harmed : (inj w i).armed with
  | none => exact .inl (by simp only [startInj, startedAt, harmed, and_self])
  | some start =>
    by_cases hstart : start ≤ t1
    · have hstarted : startedAt t1 (inj w i) = { armed := none, ts := some t1 } := by simp only [startedAt, harmed, hstart, if_true]
      have honInj : (onInj i (startedAt t1) w).halo.injs = (onInj i (fun _ => { armed := none, ts := some t1 }) w).halo.injs :=
        congrArg (fun x => sPut ({} : InjRt) w.halo.injs i x) hstarted
      refine .inr ?_
      simp only [startInj, harmed, hstart, if_true]
      refine eachW_keeps (P := fun w' => w'.halo.injs = (onInj i (startedAt t1) w).halo.injs) (fun c w' h => ?_) _ honInj.symm
      split <;> exact h
    · exact .inl (by simp only [startInj, startedAt, harmed, hstart, if_false, and_self])

theorem inj_startInj {w : World} (t1 i : Nat) (h : storeSorted w.halo.injs) : inj (startInj t1 i w) i = startedAt t1 (inj w i) ∧
    (∀ k, k ≠ i → inj (startInj t1 i w) k = inj w k) ∧ storeSorted (startInj t1 i w).halo.injs := by
  obtain ⟨hstays, hstarted⟩ | hinjs := startInj_cases t1 i w
  · rw [hstays, hstarted]
    exact ⟨rfl, fun _ _ => rfl, h⟩
  · unfold inj
    rw [hinjs]
    exact ⟨sGet_put_same _ _ h, fun k hk => sGet_put_other _ h hk, sUpd_sorted i _ h⟩

/-- A start acts once on each injector, however often the loop names it. -/
theorem inj_startEach {w : World} (t1 i : Nat) (is : List Nat) (h : storeSorted w.halo.injs) :
    inj (eachW is (startInj t1) w) i = if i ∈ is then startedAt t1 (inj w i) else inj w i := by
  induction is generalizing w with
  | nil => rfl
  | cons j is ih =>
    obtain ⟨hsame, hother, hsorted⟩ := inj_startInj t1 j h
    rw [eachW_cons, ih hsorted]
    by_cases hij : i = j
    · subst hij
      rw [hsame, startedAt_startedAt, ite_self, if_pos List.mem_cons_self]
    · simp only [hother i hij, List.mem_cons, hij, false_or]

/-! ## A whole update of a loop that runs -/

theorem injScope.dev {w w' : World} (h : injScope w w') : w'.dev = w.dev := (congrArg World.dev h :)

theorem injScope.haloOrdered {w w' : World} (h : injScope w w') (ho : haloOrdered w) : haloOrdered w' := by
  unfold injScope at h
  rw [h]
  exact ho

theorem loopUpdate_keeps {w : World} (q : QSample) (ho : haloOrdered w) :
    (loopUpdate q w).halo.injs = (startInjs q.loop q.t1 w).halo.injs ∧ (loopUpdate q w).dev = w.dev := by
  have hstart := startInjs_scope q.loop q.t1 w
  obtain ⟨u, signals, heq⟩ := loopUpdate_eq (hstart.haloOrdered ho)
  obtain ⟨hinjs, -, -, hdev⟩ := judged_keeps (q := q) (hstart.haloOrdered ho)
  have hcap := captured_scope q u signals (startInjs q.loop q.t1 w)
  rw [heq]
  exact ⟨hcap.injs.trans hinjs, hcap.dev.trans (hdev.trans hstart.dev)⟩

theorem inj_congr {w w' : World} (h : w'.halo.injs = w.halo.injs) (i : Nat) : inj w' i = inj w i := by rw [inj, h, inj]

theorem cap_congr {w w' : World} (h : w'.halo.caps = w.halo.caps) (c : Nat) : cap w' c = cap w c := by rw [cap, h, cap]

/-! ## Capture channels (07 R197, R198) -/

/-- A channel that is armed, waits for no trigger and is due for an entry, after it. -/
def entryTaken (r : Bytes) (x : CapRt) : CapRt :=
  { x with
    left := x.left - 1, decim := cpDecim r - 1, count := x.count + 1, idx := if x.idx + 1 < cpEntries r then x.idx + 1 else 0 }

/-- A channel's update writes the channel alone, and what it captures to the Stratum. -/
theorem captureUpdate_cases (u : Upd) (signals : List W32) (sent : Bool) (c : Nat) (w : World) :
    captureUpdate u signals sent c w = w ∨ (∃ f, captureUpdate u signals sent c w = onCap c f w) ∨
    ∃ f g, captureUpdate u signals sent c w = onCap c f (onTiles g w) := by
  unfold captureUpdate
  extract_lets
  split
  · exact .inl rfl
  · split
    · exact .inr (.inl ⟨_, rfl⟩)
    · exact .inr (.inr ⟨_, _, rfl⟩)

theorem captureUpdate_armed {u : Upd} {signals : List W32} {sent : Bool} {c : Nat} {w : World} (harmed : (cap w c).state = .armed)
    (hpending : (cap w c).pending = none) (hdecim : (cap w c).decim = 0) :
    ∃ g, captureUpdate u signals sent c w = onCap c (fun _ => entryTaken (capRec w c) (cap w c)) (onTiles g w) := by
  simp only [captureUpdate, entryTaken, harmed, hpending, hdecim, Bool.and_false, Bool.false_eq_true, if_false, decide_true, Bool.true_or,
    Bool.not_true, ne_eq, not_true, reduceCtorEq, decide_false, Bool.false_and]
  exact ⟨_, rfl⟩

theorem cap_captureUpdate_other {w : World} {c k : Nat} (u : Upd) (signals : List W32) (sent : Bool) (h : storeSorted w.halo.caps)
    (hk : k ≠ c) : cap (captureUpdate u signals sent c w) k = cap w k := by
  obtain hw | ⟨f, hw⟩ | ⟨f, g, hw⟩ := captureUpdate_cases u signals sent c w
  · rw [hw]
  · rw [hw]
    exact sGet_put_other _ h hk
  · rw [hw]
    exact sGet_put_other _ h hk

theorem captureUpdate_sorted {w : World} (u : Upd) (signals : List W32) (sent : Bool) (c : Nat) (h : storeSorted w.halo.caps) :
    storeSorted (captureUpdate u signals sent c w).halo.caps := by
  obtain hw | ⟨f, hw⟩ | ⟨f, g, hw⟩ := captureUpdate_cases u signals sent c w
  · rwa [hw]
  · rw [hw]
    exact sUpd_sorted c f h
  · rw [hw]
    exact sUpd_sorted c f h

theorem cap_captureAll_other {w : World} {u : Upd} {signals : List W32} {sent : Bool} {c : Nat} {l : List Nat} (hc : c ∉ l)
    (h : storeSorted w.halo.caps) : cap (eachW l (captureUpdate u signals sent) w) c = cap w c := by
  induction l generalizing w with
  | nil => rfl
  | cons j l ih =>
    obtain ⟨hj, hl⟩ := not_or.mp (List.mem_cons.not.mp hc)
    rw [eachW_cons, ih hl (captureUpdate_sorted u signals sent j h), cap_captureUpdate_other u signals sent h hj]

/-- Of a pass over the channels, each once, an armed channel takes one entry. -/
theorem cap_captureAll {w : World} {u : Upd} {signals : List W32} {sent : Bool} {c : Nat} {l : List Nat} (hc : c ∈ l) (hl : l.Nodup)
    (h : storeSorted w.halo.caps) (harmed : (cap w c).state = .armed) (hpending : (cap w c).pending = none) (hdecim : (cap w c).decim = 0) :
    cap (eachW l (captureUpdate u signals sent) w) c = entryTaken (capRec w c) (cap w c) := by
  induction l generalizing w with
  | nil => exact absurd hc List.not_mem_nil
  | cons j l ih =>
    obtain ⟨hj, hl⟩ := List.nodup_cons.mp hl
    have hsorted := captureUpdate_sorted u signals sent j h
    rw [eachW_cons]
    by_cases hcj : c = j
    · subst hcj
      obtain ⟨g, hw⟩ := captureUpdate_armed (u := u) (signals := signals) (sent := sent) harmed hpending hdecim
      rw [cap_captureAll_other hj hsorted, hw]
      exact sGet_put_same _ _ h
    · have hcap : cap (captureUpdate u signals sent j w) c = cap w c := cap_captureUpdate_other u signals sent h hcj
      have hrec : capRec (captureUpdate u signals sent j w) c = capRec w c := by
        rw [capRec, actObj, (captureUpdate_scope u signals sent j w).cfg, capRec, actObj]
      rw [ih ((List.mem_cons.mp hc).resolve_left hcj) hl hsorted (by rwa [hcap]) (by rwa [hcap]) (by rwa [hcap]), hcap, hrec]

/-! ## Objects of a set -/

theorem nodup_instancesOf {set : Store Bytes} (index sub : Nat) (h : storeSorted set) : (instancesOf set index sub).Nodup := by
  refine List.pairwise_map.mpr ((h.filter _).imp_of_mem (fun {a b} ha hb hlt heq => ?_))
  obtain ⟨-, ha⟩ := List.mem_filter.mp ha
  obtain ⟨-, hb⟩ := List.mem_filter.mp hb
  simp only [Bool.and_eq_true, decide_eq_true_eq] at ha hb
  unfold keyIndex keySub keyInst at *
  omega

theorem sFind_mem {α : Type} {s : Store α} {i : Nat} {v : α} (h : sFind s i = some v) : (i, v) ∈ s := by
  induction s with
  | nil => exact absurd h (by simp [sFind])
  | cons p s ih =>
    obtain ⟨k, u⟩ := p
    by_cases hk : k = i
    · simp only [sFind, hk, if_true, Option.some.injEq] at h
      rw [hk, h]
      exact List.mem_cons_self
    · by_cases hlt : i < k
      · simp [sFind, hk, hlt] at h
      · simp only [sFind, hk, hlt, if_false] at h
        exact List.mem_cons_of_mem _ (ih h)

theorem mem_instancesOf {set : Store Bytes} {index sub i : Nat} (hs : sub < 256) (hi : i < 2 ^ 24) (h : hasObj set index sub i = true) :
    i ∈ instancesOf set index sub := by
  obtain ⟨v, hv⟩ := Option.isSome_iff_exists.mp h
  refine List.mem_map.mpr ⟨_, List.mem_filter.mpr ⟨sFind_mem hv, ?_⟩, keyInst_okey hi⟩
  simp only [keyIndex_okey hs hi, keySub_okey hs hi, decide_true, Bool.and_self]

end Sys2Proof.Machine

namespace Sys2Proof.Claims

open Sys2Proof.Machine

theorem ordered.gens {w : World} (h : ordered w) : storeSorted w.halo.gens := by
  obtain ⟨-, -, -, -, -, -, -, -, -, -, -, -, -, -, hg, -⟩ := h; exact hg

theorem effectIs_injectorEnd {s : State} {i : Fin 64} {ts : Nat} (hts : (inj s.live i).ts = some ts) (hd : ijDuration (injRec s.live i) ≠ 0)
    (hdue : ts + ijDuration (injRec s.live i) * 1000 ≤ lc3Ns s.live) : effectIs (.injectorEnd i) s (injHalt i s.live) := by
  refine ⟨_, (rfl : execInjectorEnd i s = _), ?_⟩
  simp only [hts, hd, hdue, ne_eq, not_false_eq_true, decide_true, Bool.and_self, if_true]

/-- Settles O48: a step is the generator's law, with its end at the target (`genStep_of_there`); an injector's end settles its loop
(`loop_injSettle`), its start is an update's first act (`inj_startEach`); a channel takes one entry a pass (`cap_captureAll`). -/
theorem generatorsInjectorsAndCaptures : Obligations.GeneratorsInjectorsAndCaptures := by
  unfold Obligations.GeneratorsInjectorsAndCaptures
  refine ⟨fun s g ha ho hp hobj hmode hrun hwhole hdie hdue => ?step, fun s i ts ha ho hts hd hdue => ?ended,
    fun s e q rest i start ha ho hq hruns hi harmed => ?started,
    fun s e q rest c ha ho ht hset hlt hobj hloop harmed hpending hdecim => ?entry⟩
  case step =>
    refine runsTo_of_effectIs ⟨_, rfl, profileStep_of_due hp hobj hmode hrun hwhole hdie (by omega)⟩ ha rfl
      ⟨gen_onGen_same _ _ ho.gens, fun hthere => ?_, fun k hk => gen_onGen_other _ ho.gens hk, rfl⟩
    dsimp only
    rw [gen_onGen_same _ _ ho.gens, genStep_of_there hthere]
    exact ⟨rfl, rfl, rfl, rfl⟩
  case ended =>
    obtain ⟨-, hloops, hinjs, -, -⟩ := ho.blocks
    have hscope := injHalt_scope i s.live
    obtain ⟨hflags, hothers, hclear⟩ := loop_injSettle (ijLoop (injRec s.live i)) (w := onInj i (fun _ => {}) s.live) hloops
    refine runsTo_of_effectIs (effectIs_injectorEnd hts hd (by omega)) ha (congrArg World.dev hscope :)
      ⟨inj_injHalt _ hinjs, fun k hk => ?_, hflags, hothers, fun hnone => hclear (fun k hk => ?_),
        congrArg (fun w => { s with live := w }) hscope⟩
    · exact (inj_injSettle _ _ k).trans (inj_onInj_other _ hinjs hk)
    · by_cases hki : k = i
      · rw [hki, inj_onInj_same _ _ hinjs]
      · rw [inj_onInj_other _ hinjs hki]
        exact hnone k hk hki
  case started =>
    obtain ⟨-, -, hinjs, -, -⟩ := ho.blocks
    obtain ⟨hkept, hdev⟩ := loopUpdate_keeps (w := dequeued e rest s.live) q (ho.haloDequeued e rest)
    have heq : haloUpdate e s.live = loopUpdate q (dequeued e rest s.live) := by rw [haloUpdate_of_queue hq, if_pos hruns]
    have hinj := inj_startEach q.t1 i (injsOf s.live q.loop 0 ++ injsOf s.live q.loop 1) (w := dequeued e rest s.live) hinjs
    rw [if_pos hi] at hinj
    refine runsTo_of_effectIs ⟨_, exec_haloLoopUpdate e s, heq⟩ ha hdev ?_
    have hstarted : startedAt q.t1 (inj s.live i) = if start ≤ q.t1 then { armed := none, ts := some q.t1 } else inj s.live i := by
      simp only [startedAt, harmed]
    exact (inj_congr hkept i).trans (hinj.trans hstarted)
  case entry =>
    obtain ⟨-, -, -, hcaps, -⟩ := ho.blocks
    obtain ⟨-, hsame, hcfg, -⟩ := judged_keeps (q := q) (w := dequeued e rest s.live) (ho.haloDequeued e rest)
    have hcap : cap (judged q (dequeued e rest s.live)).1 c = cap s.live c := cap_congr hsame c
    have hrec : capRec (judged q (dequeued e rest s.live)).1 c = capRec s.live c := by rw [capRec, actObj, hcfg]; rfl
    have hlist : c ∈ capsOf (judged q (dequeued e rest s.live)).1 q.loop := by
      rw [capsOf, List.mem_filter, hrec, hcfg]
      exact ⟨mem_instancesOf (by decide) hlt hobj, decide_eq_true hloop⟩
    have honce : (capsOf (judged q (dequeued e rest s.live)).1 q.loop).Nodup := by
      rw [capsOf, hcfg]
      exact (nodup_instancesOf _ _ hset).filter _
    refine runsTo_of_captured ha ho ht (fun u signals => ?_)
    have hentry := cap_captureAll (u := u) (signals := signals) (sent := (judged q (dequeued e rest s.live)).2) hlist honce
      (by rw [hsame]; exact hcaps) (by rwa [hcap]) (by rwa [hcap]) (by rwa [hcap])
    rw [hcap, hrec] at hentry
    exact ⟨(congrArg CapRt.state hentry).trans harmed, congrArg CapRt.count hentry, congrArg CapRt.decim hentry,
      congrArg CapRt.idx hentry⟩

end Sys2Proof.Claims
end

section
/-! PROOFS. The append reserves that the end of a page's move refills (08 R225, R226), on an active set that numbers a SEQ_RECORD among the
prefix runs. -/

namespace Sys2Proof.Machine

/-! ## Refilled reserves (08 R226) -/

/-- The order in which sequences get their reserves back: PRIORITY, then the lower number. -/
def reservesBefore (w : World) (a b : Nat) : Bool :=
  decide (sqPriority (sqRec w b) < sqPriority (sqRec w a)) || (sqPriority (sqRec w a) == sqPriority (sqRec w b) && decide (a ≤ b))

/-- The empty reserves of one sequence take what frames are free. -/
def refillOne (p s : Nat) (w : World) : World :=
  eachW (upTo (mdLists (seqModel w s))) (fun n w =>
    if !(pageList w p s n).reserve && decide (0 < openT1 w p (headDie w p (seqModel w s) (listHead (seqModel w s) n))) then
      onList p s n (fun l => { l with reserve := true }) w
    else w) w

/-- Where the sequences of a pool stand in that order already, each that is not pre-empted is refilled in turn. -/
theorem refillReserves_of_pairwise {w : World} {p : Nat} (h : (seqsIn w p).Pairwise (fun a b => reservesBefore w a b = true)) :
    refillReserves p w = eachW ((seqsIn w p).filter (fun s => decide ((seq w s).mode ≠ .preempted))) (refillOne p) w := by
  have hsort : (seqsIn w p).mergeSort (reservesBefore w) = seqsIn w p := List.mergeSort_of_pairwise h
  calc refillReserves p w
      = eachW (((seqsIn w p).mergeSort (reservesBefore w)).filter (fun s => decide ((seq w s).mode ≠ .preempted))) (refillOne p) w := rfl
    _ = eachW ((seqsIn w p).filter (fun s => decide ((seq w s).mode ≠ .preempted))) (refillOne p) w := by rw [hsort]

/-! ## A move that ends (08 R225) -/

/-- The page of a list in the frame it has moved to, table entry and bytes. -/
def movePage (p s n i tier f : Nat) (g : Page) (w : World) : World :=
  let d := if tier = 2 then kvT2Die (kvRec w p) else g.die
  putFrame p tier d f g.bytes
    (onPage p s n i (fun g => { g with tier := tier, frame := f, die := d, moving := false, dest := none }) w)

/-- A move between tiers of the device ends at once, where its page is not pinned; a sequence that is not pre-empted sends nothing on. -/
theorem pageMoved_on_device {w : World} {s e p n i tier f : Nat} {g : Page} (hp : seqPart w s = p)
    (hentry : tableEntry (listsOf w p s) e = some (n, i)) (hg : nth {} (pageList w p s n).pages i = g) (hdest : g.dest = some (tier, f))
    (hpin : g.pinned = false) (hto : tier ≠ 3) (hfrom : g.tier ≠ 3) (hmode : (seq (movePage p s n i tier f g w) s).mode ≠ .preempted) :
    pageMoved s e w = refillReserves p (movePage p s n i tier f g w) := by
  subst hp hg
  simp only [movePage] at hmode
  simp only [pageMoved, hentry, hdest, hpin, hto, hfrom, movePage, ne_eq, not_false_eq_true, decide_true, Bool.true_or, Bool.not_true,
    Bool.or_self, if_false, Bool.false_eq_true, hmode, false_and]

end Sys2Proof.Machine

namespace Sys2Proof.Claims

open Sys2Proof.Machine

/-! ## A SEQ_RECORD beyond the last sequence -/

/-- Model 0 of one layer and one KV head, so two page lists a sequence; sequences 9 and 16,384 of partition 0; its pool of four tier T1
frames and one of tier T2. -/
def straySet : Store Bytes := [
  (okey 0x3100 0 0, leBytes 32 (2 ^ 54 + 2 ^ 66)), (okey 0x3800 0 9, leBytes 16 0), (okey 0x3800 0 16384, leBytes 16 0),
  (okey 0x3820 0 0, leBytes 32 (4 * 2 ^ 144 + 2 ^ 168))]

/-- The one page of sequence 9 moves to tier T2. -/
def strayPage : Page := { moving := true, dest := some (2, 0) }

/-- A running device under that set. -/
def strayState : State where
  live := settle {
    dev := { inReset := false, state := .live }
    cfg := { present := true, active := straySet }
    serving := { seqs := [(9, { lists := [(0, { pages := [strayPage] })] })] } }

theorem strayState_awake : awake strayState := ⟨rfl, settle_settle _⟩

theorem strayState_ordered : ordered strayState.live := by
  have hctx : ∀ k, ctxOrdered (ctxAt strayState.live k) := fun _ => ⟨.nil, .nil, .nil, .nil⟩
  unfold ordered
  refine ⟨by decide, by decide, by decide, by decide, hctx, by decide⟩

theorem strayState_memoriesOk : memoriesOk strayState.live := by
  unfold memoriesOk
  decide

theorem strayState_entry : entryAt strayState.live 9 0 0 0 := by
  unfold entryAt
  decide +kernel

/-- What the move leaves before the reserves are refilled. -/
def strayMoved : World := movePage 0 9 0 0 2 0 strayPage strayState.live

theorem pageMoved_stray : pageMoved 9 0 strayState.live = refillReserves 0 strayMoved :=
  pageMoved_on_device (by decide +kernel) (by decide +kernel) (by decide +kernel) rfl rfl (by decide) (by decide) (by decide +kernel)

/-- The refill that ends the move reaches both sequences of the pool, 9 and 16,384; a member of the second number is a prefix run, so its
reserves are written among the prefix sets. -/
theorem stray_prefixes : (pageMoved 9 0 strayState.live).serving.prefixes ≠ [] := by
  rw [pageMoved_stray, refillReserves_of_pairwise (by decide +kernel)]
  decide +kernel

/-- Refutes O50: the clause of PAGE_MOVE_COMPLETE says that the prefix sets stay, and asks nothing of the numbers of the active set's
sequences. Where the set holds a SEQ_RECORD 16,384, one beyond 08 Table 8.5 and the dictionary's own range, the reserves that the move
refills are that sequence's too, and the lists of a member of that number are a prefix run's (08 R220, R226). -/
theorem not_tokensAndPagesMoveAsTheRulesSay : ¬ Obligations.TokensAndPagesMoveAsTheRulesSay := by
  unfold Obligations.TokensAndPagesMoveAsTheRulesSay
  rintro ⟨-, -, hmove, -⟩
  have hobj : hasObj strayState.live.cfg.active 0x3800 0 (9 : Fin 16384) = true := by decide +kernel
  have hpage : pageAt strayState.live (9 : Fin 16384) 0 0 = strayPage := by decide +kernel
  obtain ⟨t, hexec, -, -, -, -, hframe⟩ := hmove strayState 9 0 0 0 2 0 strayState_awake strayState_ordered strayState_memoriesOk hobj
    strayState_entry (by rw [hpage]; rfl) (by rw [hpage]; rfl) (by decide) (by rw [hpage]; decide) (by decide +kernel)
  have hkept : t.live.serving.prefixes = [] := by rw [hframe]; rfl
  have hrun : exec (.pageMoveComplete 9 0) strayState = .next { strayState with live := settle (pageMoved 9 0 strayState.live) } := by
    rw [← whenW_true (pageMoved 9 0), ← hobj]
    exact liveEffect_alive strayState_awake.1
  obtain rfl := Host.Outcome.next.inj (hrun.symm.trans hexec)
  exact stray_prefixes hkept

end Sys2Proof.Claims
end

section
/-! PROOFS. Memories cleared and written again, passes over tables, and the shares of a partition: scrubbed, with code and weights loaded
(09 R241, Table 9.5). -/

namespace Sys2Proof.Machine

/-! ## Cleared memory -/

theorem Mem.get_clear_inside (m : List Host.Cell) {a n c : Nat} (ha : a ≤ c) (hc : c < a + n) : Mem.get (Mem.clear m a n) c = 0 := by
  refine (sGet_default_or_mem 0 (Mem.clear m a n) c).resolve_right (fun hmem => ?_)
  have hkept := (List.mem_filter.mp hmem).2
  simp only [Bool.or_eq_true, decide_eq_true_eq] at hkept
  omega

theorem Mem.get_clear_outside {m : List Host.Cell} {a n c : Nat} (h : Memory.wf m) (hc : c < a ∨ a + n ≤ c) :
    Mem.get (Mem.clear m a n) c = Mem.get m c := by
  obtain ⟨hsorted, -⟩ := h
  obtain hd | hmem := sGet_default_or_mem 0 m c
  · obtain hd' | hmem' := sGet_default_or_mem 0 (Mem.clear m a n) c
    · exact hd'.trans hd.symm
    · exact (sGet_of_mem hsorted (List.mem_of_mem_filter hmem')).symm
  · exact sGet_of_mem (hsorted.filter _) (List.mem_filter.mpr ⟨hmem, by simpa using hc⟩)

theorem Mem.read_congr {m m' : List Host.Cell} {a n : Nat} (h : ∀ o, o < n → Mem.get m' (a + o) = Mem.get m (a + o)) :
    Mem.read m' a n = Mem.read m a n := by
  induction n generalizing a with
  | zero => rfl
  | succ n ih =>
    rw [Mem.read, Mem.read, ih (fun o ho => ?_), show Mem.get m' a = Mem.get m a from h 0 (Nat.succ_pos n)]
    simpa only [Nat.add_assoc, Nat.add_comm 1 o] using h (o + 1) (by omega)

theorem keepsOutside_eachW {α : Type} {P : Nat → Prop} {g : World → List Host.Cell} {f : α → World → World} {l : List α}
    (hf : ∀ a ∈ l, ∀ w, keepsOutside P (g w) (g (f a w))) (w : World) : keepsOutside P (g w) (g (eachW l f w)) := by
  induction l generalizing w with
  | nil => exact keepsOutside.refl P _
  | cons a l ih => exact (hf a List.mem_cons_self w).trans (ih (fun b hb => hf b (List.mem_cons_of_mem _ hb)) (f a w))

/-! ## Passes -/

/-- What one turn of a pass brings about, and no other turn undoes, holds at the end; `I` is what every turn keeps. -/
theorem eachW_attains {α : Type} {I P : World → Prop} {f : α → World → World} {l : List α} {a : α}
    (h : ∀ b ∈ l, ∀ w, I w → I (f b w) ∧ (b = a ∨ P w → P (f b w))) (ha : a ∈ l) {w : World} (hw : I w) : P (eachW l f w) := by
  suffices hpass : ∀ w, I w → a ∈ l ∨ P w → P (eachW l f w) from hpass w hw (.inl ha)
  clear ha hw w
  induction l with
  | nil => exact fun w _ hP => hP.resolve_left List.not_mem_nil
  | cons b l ih =>
    intro w hw hP
    obtain ⟨hI, hturn⟩ := h b List.mem_cons_self w hw
    refine ih (fun c hc => h c (List.mem_cons_of_mem _ hc)) (f b w) hI ?_
    obtain hmem | hP := hP
    · exact (List.mem_cons.mp hmem).symm.imp_right (fun hab => hturn (.inl hab.symm))
    · exact .inr (hturn (.inr hP))

/-! ## Memories alone -/

/-- `w'` differs from `w` at most in scratchpads and Stratum. -/
def memScope (w w' : World) : Prop := ∃ m st, w' = { w with tiles := { w.tiles with scratch := m, stratum := st } }

theorem memScope.refl (w : World) : memScope w w := ⟨_, _, rfl⟩

theorem memScope.trans {a b c : World} (hab : memScope a b) (hbc : memScope b c) : memScope a c := by
  obtain ⟨_, _, rfl⟩ := hab
  obtain ⟨m, st, rfl⟩ := hbc
  exact ⟨m, st, rfl⟩

theorem memScope.cfg {w w' : World} (h : memScope w w') : w'.cfg = w.cfg := by
  obtain ⟨_, _, rfl⟩ := h; rfl

theorem memScope.serving {w w' : World} (h : memScope w w') : w'.serving = w.serving := by
  obtain ⟨_, _, rfl⟩ := h; rfl

theorem memScope_eachW {α : Type} {f : α → World → World} (hf : ∀ a w, memScope w (f a w)) (l : List α) (w : World) :
    memScope w (eachW l f w) :=
  eachW_keeps (P := memScope w) (fun a w' h => h.trans (hf a w')) l (memScope.refl w)

theorem memScope_padWrite (tile b : Nat) (v : Bytes) (w : World) : memScope w (padWrite tile b v w) := ⟨_, _, rfl⟩

theorem memScope_putFrame (p tier d f : Nat) (v : Bytes) (w : World) : memScope w (putFrame p tier d f v w) := by
  unfold putFrame
  split
  · exact ⟨_, _, rfl⟩
  · exact ⟨_, _, rfl⟩
  · exact ⟨_, _, rfl⟩
  · exact memScope.refl w

theorem memScope_scrubWords (r : Bytes) (n : Nat) (w : World) : memScope w (scrubWords r n w) :=
  memScope_eachW (fun _ _ => ⟨_, _, rfl⟩) _ w

theorem memScope_scrubShares (p : Nat) (w : World) : memScope w (scrubShares p w) :=
  (memScope_scrubWords _ _ w).trans (memScope_eachW (fun _ w => memScope_putFrame _ _ _ _ _ w) _ _)

theorem memScope_loadCode (p e : Nat) (w : World) : memScope w (loadCode p e w) :=
  memScope_eachW (fun _ w => memScope_padWrite _ _ _ w) _ w

theorem memScope_loadWeights (p m : Nat) (w : World) : memScope w (loadWeights p m w) :=
  memScope_eachW (fun _ _ => ⟨_, _, rfl⟩) _ w

/-! ## A share scrubbed (09 R241) -/

/-- The bytes of the tier T0 frames that hold a partition's valid pages. -/
def inFramesT0 (w : World) (p a : Nat) : Prop :=
  ∃ x ∈ poolPages w p, x.2.2.tier = 0 ∧ x.2.2.valid = true ∧
    padAddr (x.2.2.frame / 256) (frameT0At w.cfg.active p x.2.2.frame) ≤ a ∧
    a < padAddr (x.2.2.frame / 256) (frameT0At w.cfg.active p x.2.2.frame) + x.2.2.bytes.length

/-- The bytes of a record's code regions. -/
def inCode (r : Bytes) (a : Nat) : Prop := ∃ tile, padAddr tile (codeByte r) ≤ a ∧ a < padAddr tile (codeByte r) + pCodeLen r * 32

theorem poolPages_of_memScope {w w' : World} (h : memScope w w') (p : Nat) : poolPages w' p = poolPages w p := by
  obtain ⟨_, _, rfl⟩ := h; rfl

theorem get_scrubWords {r : Bytes} {words tile c : Nat} {w : World} (hw : Memory.wf w.tiles.scratch) (ht : tile ∈ pTiles r)
    (hlo : padAddr tile (pShareBase r * 32) ≤ c) (hhi : c < padAddr tile (pShareBase r * 32) + words * 32) :
    Mem.get (scrubWords r words w).tiles.scratch c = 0 := by
  refine eachW_attains (a := tile) (I := fun w => Memory.wf w.tiles.scratch) (P := fun w => Mem.get w.tiles.scratch c = 0)
    (fun t _ w hw => ⟨Mem.clear_wf _ _ hw, fun h => ?_⟩) ht hw
  by_cases hin : padAddr t (pShareBase r * 32) ≤ c ∧ c < padAddr t (pShareBase r * 32) + words * 32
  · exact Mem.get_clear_inside _ hin.1 hin.2
  · obtain rfl | hzero := h
    · exact absurd ⟨hlo, hhi⟩ hin
    · exact (Mem.get_clear_outside hw (by omega)).trans hzero

theorem scrubWords_wf {r : Bytes} {words : Nat} {w : World} (hw : Memory.wf w.tiles.scratch) :
    Memory.wf (scrubWords r words w).tiles.scratch :=
  eachW_keeps (P := fun w => Memory.wf w.tiles.scratch) (fun _ _ h => Mem.clear_wf _ _ h) _ hw

/-- The pages put back after a scrub lie in the tier T0 frames of valid pages. -/
theorem scrubShares_keeps (p : Nat) (w : World) : keepsOutside (inFramesT0 w p)
    (scrubWords (actPart w p) (pShareLen (actPart w p) - pCodeLen (actPart w p)) w).tiles.scratch (scrubShares p w).tiles.scratch := by
  have hscope := memScope_scrubWords (actPart w p) (pShareLen (actPart w p) - pCodeLen (actPart w p)) w
  unfold scrubShares
  dsimp only
  rw [poolPages_of_memScope hscope]
  suffices hput : ∀ l : List (Nat × Nat × Page), (∀ x ∈ l, x ∈ poolPages w p ∧ x.2.2.tier = 0 ∧ x.2.2.valid = true) → ∀ w' : World,
      w'.cfg = w.cfg → keepsOutside (inFramesT0 w p) w'.tiles.scratch
        (eachW l (fun x => putFrame p 0 x.2.2.die x.2.2.frame x.2.2.bytes) w').tiles.scratch from
    hput _ (fun x hx => by simpa using List.mem_filter.mp hx) _ hscope.cfg
  intro l hl
  induction l with
  | nil => exact fun w' _ => keepsOutside.refl _ _
  | cons x l ih =>
    intro w' hw'
    obtain ⟨hx, htier, hvalid⟩ := hl x List.mem_cons_self
    refine keepsOutside.trans ?_ (ih (fun y hy => hl y (List.mem_cons_of_mem _ hy)) _ hw')
    refine keepsOutside_padWrite w' (fun o ho => ⟨x, hx, htier, hvalid, ?_⟩)
    rw [hw']
    omega

theorem loadCode_keeps (p e : Nat) (w : World) : keepsOutside (inCode (actPart w p)) w.tiles.scratch (loadCode p e w).tiles.scratch := by
  refine keepsOutside_eachW (g := fun w => w.tiles.scratch) (fun i _ w' => keepsOutside_padWrite w' (fun o ho => ⟨_, Nat.le_add_right .., ?_⟩)) w
  have hslice : (slice (programIn w.cfg.active p e) (i * (pCodeLen (actPart w p) * 32)) (pCodeLen (actPart w p) * 32)).length ≤
      pCodeLen (actPart w p) * 32 := by simp [slice]
  rw [length_padTo hslice] at ho
  omega

theorem scratch_loadWeights (p m : Nat) (w : World) : (loadWeights p m w).tiles.scratch = w.tiles.scratch := by
  refine eachW_keeps (P := fun w' => w'.tiles.scratch = w.tiles.scratch) (fun _ _ h => ?_) _ rfl
  exact h

theorem stratum_scrubShares (p : Nat) (w : World) : (scrubShares p w).tiles.stratum = w.tiles.stratum := by
  have hwords : (scrubWords (actPart w p) (pShareLen (actPart w p) - pCodeLen (actPart w p)) w).tiles.stratum = w.tiles.stratum := by
    refine eachW_keeps (P := fun w' => w'.tiles.stratum = w.tiles.stratum) (fun _ _ h => ?_) _ rfl
    exact h
  refine eachW_keeps (P := fun w' => w'.tiles.stratum = w.tiles.stratum) (fun _ _ h => ?_) _ hwords
  exact h

theorem stratum_loadCode (p e : Nat) (w : World) : (loadCode p e w).tiles.stratum = w.tiles.stratum := by
  refine eachW_keeps (P := fun w' => w'.tiles.stratum = w.tiles.stratum) (fun _ _ h => ?_) _ rfl
  exact h

/-- A byte below the code region of a share that lies in its tile is in no code region. -/
theorem not_inCode {w : World} {p tile a : Nat} (hfit : Claims.shareFits w p) (ha : a < codeByte (actPart w p)) :
    ¬ inCode (actPart w p) (padAddr tile a) := by
  rintro ⟨t, hlo, hhi⟩
  obtain ⟨hlen, hend⟩ := hfit
  unfold codeByte padAddr at *
  have hsame : t = tile := by omega
  subst hsame
  omega

/-- Scrubbed shares with code loaded after: 09 R241, Table 9.5. -/
theorem sharesScrubbed_of_scratch {s w t : World} {p e : Nat} (hm : Memory.wf w.tiles.scratch) (hfit : Claims.shareFits w p)
    (hcfg : w.cfg = s.cfg) (hpages : poolPages w p = poolPages s p) (ht : t.tiles.scratch = (loadCode p e (scrubShares p w)).tiles.scratch) :
    Claims.sharesScrubbed s t p := by
  have hrec : actPart s p = actPart w p := by rw [actPart, actPart, hcfg]
  have hscrub := memScope_scrubShares p w
  have hrec' : actPart (scrubShares p w) p = actPart w p := by rw [actPart, hscrub.cfg, actPart]
  intro tile htile a hlo hhi hframes
  rw [hrec] at htile hlo hhi
  rw [← hpages] at hframes
  have hwords := scrubWords_wf (r := actPart w p) (words := pShareLen (actPart w p) - pCodeLen (actPart w p)) hm
  obtain ⟨hwf, hkept⟩ := scrubShares_keeps p w hwords
  obtain ⟨-, hcode⟩ := loadCode_keeps p e (scrubShares p w) hwf
  have hframe : ¬ inFramesT0 w p (padAddr tile a) := by
    rintro ⟨x, hx, htier, hvalid, hin⟩
    have := hframes x hx htier hvalid
    rw [← hcfg] at this
    omega
  rw [ht, hcode _ (by rw [hrec']; exact not_inCode hfit hhi), hkept _ hframe]
  refine get_scrubWords hm htile ?_ ?_
  · unfold padAddr; omega
  · obtain ⟨hlen, -⟩ := hfit
    unfold codeByte at hhi
    unfold padAddr
    omega

/-! ## Far space (04 R104, 09 R241, Table 9.3) -/

theorem nodup_pDies (r : Bytes) : (pDies r).Nodup := List.nodup_range.filter _

theorem nth_pDies_inj {r : Bytes} {i j : Nat} (hi : i < (pDies r).length) (hj : j < (pDies r).length)
    (h : nth 0 (pDies r) i = nth 0 (pDies r) j) : i = j := by
  rw [nth, nth, List.getD_eq_getElem _ _ hi, List.getD_eq_getElem _ _ hj] at h
  exact (nodup_pDies r).getElem_inj_iff.mp h

/-- Two dies' far spaces of a partition are apart. -/
theorem farBase_apart (p : Nat) {d e : Nat} (h : d ≠ e) : farBase p d + 2 ^ 32 ≤ farBase p e ∨ farBase p e + 2 ^ 32 ≤ farBase p d := by
  unfold farBase
  omega

/-- A die's weight region after MODEL_SWITCH_COMPLETE holds the image of its own heads, where every image fits the far space. -/
theorem read_loadWeights {w : World} {p m i : Nat} (hm : Memory.wf w.tiles.stratum) (hi : i < (pDies (actPart w p)).length)
    (hregion : regionBase w.cfg.active p + 65536 * pagesOf (regionBytes w.cfg.active p) ≤ 2 ^ 32)
    (hfit : ∀ j, regionBase w.cfg.active p +
      (regionImage (modelIn w.cfg.active m) (actObj w 0x3101 0 m) (pDies (actPart w p)).length j).length ≤ 2 ^ 32) :
    Mem.read (loadWeights p m w).tiles.stratum (farBase p (nth 0 (pDies (actPart w p)) i) + regionBase w.cfg.active p)
      (regionImage (modelIn w.cfg.active m) (actObj w 0x3101 0 m) (pDies (actPart w p)).length i).length =
    regionImage (modelIn w.cfg.active m) (actObj w 0x3101 0 m) (pDies (actPart w p)).length i := by
  refine eachW_attains (a := i) (I := fun w' => Memory.wf w'.tiles.stratum)
    (P := fun w' => Mem.read w'.tiles.stratum (farBase p (nth 0 (pDies (actPart w p)) i) + regionBase w.cfg.active p)
      (regionImage (modelIn w.cfg.active m) (actObj w 0x3101 0 m) (pDies (actPart w p)).length i).length =
      regionImage (modelIn w.cfg.active m) (actObj w 0x3101 0 m) (pDies (actPart w p)).length i)
    (fun j hj w' hw' => ⟨Mem.write_wf _ _ (Mem.clear_wf _ _ hw'), fun h => ?_⟩) (List.mem_range.mpr hi) hm
  by_cases hij : j = i
  · subst hij
    exact Mem.read_write _ _ (Mem.clear_wf _ _ hw')
  · have hapart := farBase_apart p (fun h => hij (nth_pDies_inj (r := actPart w p) (List.mem_range.mp hj) hi h))
    have hfi := hfit i
    have hfj := hfit j
    refine Eq.trans (Mem.read_congr (fun o ho => ?_)) (h.resolve_left hij)
    refine (Mem.get_write_outside _ (Mem.clear_wf _ _ hw') ?_).trans (Mem.get_clear_outside hw' ?_)
    · change _ < farBase p (nth 0 (pDies (actPart w p)) j) + regionBase w.cfg.active p ∨ farBase p (nth 0 (pDies (actPart w p)) j) +
        regionBase w.cfg.active p + (regionImage (modelIn w.cfg.active m) (actObj w 0x3101 0 m) (pDies (actPart w p)).length j).length ≤ _
      omega
    · change _ < farBase p (nth 0 (pDies (actPart w p)) j) + regionBase w.cfg.active p ∨ farBase p (nth 0 (pDies (actPart w p)) j) +
        regionBase w.cfg.active p + 65536 * pagesOf (regionBytes w.cfg.active p) ≤ _
      omega

end Sys2Proof.Machine
end

section
/-! PROOFS. The contexts of a partition through a step: started, stopped, emptied, and the turn of a shared tile's slice (04 R111; 09 R248,
Tables 9.3 and 9.5). -/

namespace Sys2Proof.Machine

/-! ## The slice turns (09 R248) -/

theorem sliceOnly_trans {a b c : Ctx} (hab : Claims.sliceOnly a b) (hbc : Claims.sliceOnly b c) : Claims.sliceOnly a c := by
  rw [Claims.sliceOnly] at *
  rw [hab, hbc]

theorem sliceOnly_resumed (w : World) (k now : Nat) (x : Ctx) : Claims.sliceOnly (reissueIn w k (resumedCtx now x)) x := by
  obtain ⟨_, _, _, _, h⟩ := reissueIn_eq_with w k (resumedCtx now x)
  rw [h]
  rfl

/-- `w'` differs from `w` at most in what the turn of slices writes: contexts, slices and when they began. -/
def turnScope (w w' : World) : Prop :=
  ∃ cs sl at_, w' = { w with tiles := { w.tiles with ctxs := cs, slice := sl, sliceAt := at_ } }

theorem turnScope.trans {a b c : World} (hab : turnScope a b) (hbc : turnScope b c) : turnScope a c := by
  obtain ⟨_, _, _, rfl⟩ := hab
  obtain ⟨cs, sl, at_, rfl⟩ := hbc
  exact ⟨cs, sl, at_, rfl⟩

/-- The turn of slices: contexts change by it alone, and one with nothing parked keeps its scoreboard. -/
structure slicesTurned (w w' : World) : Prop where
  scope : turnScope w w'
  sorted : storeSorted w'.tiles.ctxs
  only : ∀ k, Claims.sliceOnly (ctxAt w' k) (ctxAt w k)
  board : ∀ k, (ctxAt w k).parked = [] → (ctxAt w' k).parked = [] ∧ (ctxAt w' k).sb = (ctxAt w k).sb

theorem slicesTurned.refl {w : World} (h : storeSorted w.tiles.ctxs) : slicesTurned w w where
  scope := ⟨_, _, _, rfl⟩
  sorted := h
  only _ := rfl
  board _ hp := ⟨hp, rfl⟩

theorem slicesTurned.trans {a b c : World} (hab : slicesTurned a b) (hbc : slicesTurned b c) : slicesTurned a c where
  scope := hab.scope.trans hbc.scope
  sorted := hbc.sorted
  only k := sliceOnly_trans (hbc.only k) (hab.only k)
  board k hp := by
    obtain ⟨hparked, hsb⟩ := hab.board k hp
    obtain ⟨hparked', hsb'⟩ := hbc.board k hparked
    exact ⟨hparked', hsb'.trans hsb⟩

/-- One context changed by the turn alone. -/
theorem slicesTurned_onCtx {w : World} {k : Nat} {f : Ctx → Ctx} (h : storeSorted w.tiles.ctxs) (hf : Claims.sliceOnly (f (ctxAt w k)) (ctxAt w k))
    (hboard : (ctxAt w k).parked = [] → (f (ctxAt w k)).parked = [] ∧ (f (ctxAt w k)).sb = (ctxAt w k).sb) : slicesTurned w (onCtx k f w) where
  scope := ⟨_, _, _, rfl⟩
  sorted := onCtx_sorted k f h
  only j := by
    by_cases hj : j = k
    · subst hj
      rwa [ctxAt_onCtx_same _ f h]
    · rw [ctxAt_onCtx_other f h hj]
      rfl
  board j hp := by
    by_cases hj : j = k
    · subst hj
      rw [ctxAt_onCtx_same _ f h]
      exact hboard hp
    · rw [ctxAt_onCtx_other f h hj]
      exact ⟨hp, rfl⟩

theorem slicesTurned_beginSlice {w : World} (tile ctx : Nat) (h : storeSorted w.tiles.ctxs) : slicesTurned w (beginSlice tile ctx w) := by
  have hset : slicesTurned w (setSlice tile ctx w) :=
    { scope := ⟨_, _, _, rfl⟩, sorted := h, only := fun _ => rfl, board := fun _ hp => ⟨hp, rfl⟩ }
  rw [beginSlice_eq]
  refine hset.trans (slicesTurned_onCtx h (sliceOnly_resumed _ _ _ _) (fun hp => ?_))
  rw [ctxAt_setSlice] at hp ⊢
  rw [reissueIn_of_none_parked _ _ (x := resumedCtx (nowNs w) (ctxAt w (ctxKey tile ctx))) hp]
  exact ⟨hp, rfl⟩

theorem slicesTurned_yieldSlice {w : World} (tile : Nat) (h : storeSorted w.tiles.ctxs) : slicesTurned w (yieldSlice tile w) := by
  unfold yieldSlice
  dsimp only
  split
  · have howes : slicesTurned w (onCtx (ctxKey tile (sGet 0 w.tiles.slice tile)) (fun x => { x with overrun := 0 }) w) :=
      slicesTurned_onCtx h rfl (fun hp => ⟨hp, rfl⟩)
    exact howes.trans (slicesTurned_beginSlice _ _ howes.sorted)
  · exact .refl h

theorem slicesTurned_settleSlices {w : World} (p : Nat) (starts : Bool) (h : storeSorted w.tiles.ctxs) :
    slicesTurned w (settleSlices p starts w) := by
  refine eachW_keeps (P := slicesTurned w) (fun t w' hw => hw.trans ?_) _ (.refl h)
  have hfresh : slicesTurned w' (if starts = true ∧ sGet 0 w'.tiles.slice t = pCtxOf (actPart w p) t then
      onTiles (fun x => { x with sliceAt := sPut 0 x.sliceAt t (nowNs w') }) w' else w') := by
    split
    · exact { scope := ⟨_, _, _, rfl⟩, sorted := hw.sorted, only := fun _ => rfl, board := fun _ hp => ⟨hp, rfl⟩ }
    · exact .refl hw.sorted
  exact hfresh.trans (slicesTurned_yieldSlice t hfresh.sorted)

/-! ## Passes over contexts -/

/-- A pass that writes each context of a list and no other: the listed ones end as its write gives them, the others stay. -/
theorem ctxAt_eachCtx {g : Nat → World → World} {f : Ctx → Ctx} (hg : ∀ k w, (g k w).tiles.ctxs = sUpd {} w.tiles.ctxs k f) (l : List Nat)
    {w : World} (h : storeSorted w.tiles.ctxs) : storeSorted (eachW l g w).tiles.ctxs ∧
      (∀ k ∈ l, ∃ x, ctxAt (eachW l g w) k = f x) ∧ (∀ k, k ∉ l → ctxAt (eachW l g w) k = ctxAt w k) := by
  induction l generalizing w with
  | nil => exact ⟨h, fun k hk => absurd hk List.not_mem_nil, fun _ _ => rfl⟩
  | cons j l ih =>
    have hturn : ∀ k, ctxAt (g j w) k = ctxAt (onCtx j f w) k := fun k => by rw [ctxAt, hg]; rfl
    obtain ⟨hsorted, hin, hout⟩ := ih (w := g j w) (by rw [hg]; exact sPut_sorted _ _ h)
    refine ⟨hsorted, fun k hk => ?_, fun k hk => ?_⟩
    · by_cases hl : k ∈ l
      · exact hin k hl
      · obtain rfl : k = j := (List.mem_cons.mp hk).resolve_right hl
        exact ⟨_, (hout k hl).trans ((hturn k).trans (ctxAt_onCtx_same k f h))⟩
    · obtain ⟨hj, hl⟩ := not_or.mp (List.mem_cons.not.mp hk)
      exact (hout k hl).trans ((hturn k).trans (ctxAt_onCtx_other f h hj))

/-- A pass of updates of contexts writes nothing else. -/
theorem eachCtx_scope (f : Ctx → Ctx) (l : List Nat) (w : World) :
    ∃ cs, eachW l (fun k => onCtx k f) w = { w with tiles := { w.tiles with ctxs := cs } } := by
  induction l generalizing w with
  | nil => exact ⟨_, rfl⟩
  | cons k l ih =>
    obtain ⟨cs, h⟩ := ih (onCtx k f w)
    exact ⟨cs, h⟩

/-! ## Partitions -/

theorem part_onPart_other {p k : Nat} (f : Part → Part) {w : World} (h : storeSorted w.serving.parts) (hk : k ≠ p) :
    part (onPart p f w) k = part w k := sGet_put_other _ h hk

theorem onPart_sorted (p : Nat) (f : Part → Part) {w : World} (h : storeSorted w.serving.parts) :
    storeSorted (onPart p f w).serving.parts := sPut_sorted _ _ h

/-- Two updates of a partition are one. -/
theorem onPart_onPart {p : Nat} (f g : Part → Part) {w : World} (h : storeSorted w.serving.parts) :
    onPart p f (onPart p g w) = onPart p (f ∘ g) w :=
  congrArg (fun t => onServing (fun v => { v with parts := t }) w) (sUpd_upd p f g h)

theorem onPart_congr {p : Nat} {f g : Part → Part} {w : World} (h : f (part w p) = g (part w p)) : onPart p f w = onPart p g w :=
  congrArg (fun q => onServing (fun v => { v with parts := sPut {} v.parts p q }) w) h

/-- A partition in a step is torn down: its mode, and its contexts stopped. -/
theorem beginTeardown_of_stepping {w : World} {p : Nat} (cause reason : Nat) (h : (part w p).mode = .stepping) :
    beginTeardown p cause reason w = eachW (pCtxs (actPart w p)) (fun k => onCtx k stopCtx)
      (onPart p (fun q => { q with mode := .teardown, cause := cause, reason := reason }) w) := by
  unfold beginTeardown
  rw [h]
  rfl

/-- A partition whose step STEP_LIMIT has ended (09 R245). -/
def overrunPart (q : Part) : Part := { q with mode := .teardown, cause := 2, reason := 0, nOverruns := q.nOverruns + 1 }

/-- STEP_OVERRUN where the step has run for STEP_LIMIT cycles. -/
theorem stepOverrun_of_due {w : World} {p : Nat} (hs : storeSorted w.serving.parts) (hmode : (part w p).mode = .stepping)
    (hlimit : pStepLimit (actPart w p) ≤ stepCycles w p) :
    stepOverrun p w = eachW (pCtxs (actPart w p)) (fun k => onCtx k stopCtx) (onPart p overrunPart w) := by
  have hstep : (part (onPart p (fun q => { q with nOverruns := q.nOverruns + 1 }) w) p).mode = .stepping := by
    rw [part_onPart_same p _ hs]; exact hmode
  rw [stepOverrun, if_pos ⟨hmode, hlimit⟩, beginTeardown_of_stepping 2 0 hstep, onPart_onPart _ _ hs]
  rfl

theorem restMode_eq (w : World) (p : Nat) :
    restMode w p = if pMode (actPart w p) = 2 ∧ (part w p).started = false then .reservedIdle else .idle := by
  simp [restMode]

/-! ## Model switches (09 R240, R241) -/

/-- MODEL_SWITCH_START where a switch is due and no step runs. -/
theorem switchStart_of_due {w : World} {p e : Nat} (hmode : (part w p).mode = .idle ∨ (part w p).mode = .reservedIdle)
    (hswitch : (part w p).switchTo = some e) (hby : (part w p).stoppedBy = false) :
    switchStart p w = onPart p (fun q => { q with mode := .loading, nSwitches := q.nSwitches + 1 }) w := by
  obtain hmode | hmode := hmode
  · simp [switchStart, hmode, hswitch, hby]
  · simp [switchStart, hmode, hswitch, hby]

/-- The memories after MODEL_SWITCH_COMPLETE: the share scrubbed, the program of an entry and the weights of a model loaded. -/
def loaded (p e m : Nat) (w : World) : World := loadWeights p m (loadCode p e (scrubShares p w))

theorem memScope_loaded (p e m : Nat) (w : World) : memScope w (loaded p e m w) :=
  (memScope_scrubShares p w).trans ((memScope_loadCode p e _).trans (memScope_loadWeights p m _))

theorem scratch_loaded (p e m : Nat) (w : World) : (loaded p e m w).tiles.scratch = (loadCode p e (scrubShares p w)).tiles.scratch := by
  rw [loaded, scratch_loadWeights]

theorem read_loaded {w : World} {p m i : Nat} (e : Nat) (hm : Memory.wf w.tiles.stratum) (hi : i < (pDies (actPart w p)).length)
    (hregion : regionBase w.cfg.active p + 65536 * pagesOf (regionBytes w.cfg.active p) ≤ 2 ^ 32)
    (hfit : ∀ j, regionBase w.cfg.active p +
      (regionImage (modelIn w.cfg.active m) (actObj w 0x3101 0 m) (pDies (actPart w p)).length j).length ≤ 2 ^ 32) :
    Mem.read (loaded p e m w).tiles.stratum (farBase p (nth 0 (pDies (actPart w p)) i) + regionBase w.cfg.active p)
      (regionImage (modelIn w.cfg.active m) (actObj w 0x3101 0 m) (pDies (actPart w p)).length i).length =
    regionImage (modelIn w.cfg.active m) (actObj w 0x3101 0 m) (pDies (actPart w p)).length i := by
  have hscope := (memScope_scrubShares p w).trans (memScope_loadCode p e (scrubShares p w))
  have hm' : Memory.wf (loadCode p e (scrubShares p w)).tiles.stratum := by rwa [stratum_loadCode, stratum_scrubShares]
  rw [loaded]
  generalize loadCode p e (scrubShares p w) = w' at hscope hm' ⊢
  obtain ⟨_, _, rfl⟩ := hscope
  exact read_loadWeights hm' hi hregion hfit

/-- A partition with a model resident. -/
def residentPart (r : Bytes) (m : Nat) (q : Part) : Part :=
  { q with model := m, switchTo := none, mode := if pMode r = 2 ∧ q.started = false then .reservedIdle else .idle }

/-- A model becomes resident, and the partition rests. -/
theorem onPart_resident {w : World} (p m : Nat) (hs : storeSorted w.serving.parts) :
    onPart p (fun q => { q with mode := restMode (onPart p (fun q => { q with model := m, switchTo := none }) w) p })
      (onPart p (fun q => { q with model := m, switchTo := none }) w) = onPart p (residentPart (actPart w p) m) w := by
  rw [onPart_onPart _ _ hs, restMode_eq, part_onPart_same p _ hs]
  exact onPart_congr rfl

theorem switchComplete_of_loading {w : World} {p e m : Nat} (hs : storeSorted w.serving.parts) (hmode : (part w p).mode = .loading)
    (he : (part w p).switchTo.getD (residentEntry w p) = e) (hm : pModel (actPart w p) e = m) :
    switchComplete p w = onPart p (residentPart (actPart w p) m) (loaded p e m w) := by
  have hscope := memScope_loaded p e m w
  have hrec : actPart (loaded p e m w) p = actPart w p := by rw [actPart, hscope.cfg, actPart]
  have hparts : storeSorted (loaded p e m w).serving.parts := by rwa [hscope.serving]
  rw [← hrec, ← onPart_resident p m hparts]
  unfold switchComplete loaded
  dsimp only
  rw [if_neg (not_not.mpr hmode), he, hm]

end Sys2Proof.Machine

namespace Sys2Proof.Claims

open Sys2Proof.Machine

theorem ordered.parts {w : World} (h : ordered w) : storeSorted w.serving.parts := by
  obtain ⟨-, -, -, -, hparts⟩ := h.blocks; exact hparts

end Sys2Proof.Claims
end

section
/-! PROOFS. Page rings (08 R219). -/

namespace Sys2Proof.Machine

/-- A partition with a page descriptor in a ring slot, and what is left of the tile's walk. -/
def slotPart (tile slot : Nat) (d : BitVec 256) (rest : List (Nat × Nat × Nat)) (q : Part) : Part :=
  { q with ring := sPut 0 q.ring (tile * 64 + slot) d, walk := sPut [] q.walk tile rest }

/-- PAGE_RING_REFILL of an empty slot: the next page of the walk, and FILL. -/
theorem ringRefill_of_empty {w : World} {p tile slot : Nat} {x : Nat × Nat × Nat} {rest : List (Nat × Nat × Nat)}
    (hmode : (part w p).mode = .stepping) (hwalk : sGet [] (part w p).walk tile = x :: rest) (hslot : slot < ringSize p tile)
    (hempty : sFind (part w p).ring (tile * 64 + slot) = none) :
    ringRefill p tile slot w = postSync (ringFill (actPart w p) p tile) (padWrite tile (ringByte (actPart w p) p tile slot)
      (leBytes 32 (pageDesc w p x.1 x.2.1 x.2.2).toNat) (onPart p (slotPart tile slot (pageDesc w p x.1 x.2.1 x.2.2) rest) w)) := by
  unfold ringRefill
  dsimp only
  rw [hwalk]
  simp [hmode, hempty, Nat.not_le.mpr hslot]
  rfl

theorem leNat_desc (d : BitVec 256) : leNat (leBytes 32 d.toNat) = d.toNat := by
  rw [leNat_leBytes]
  exact Nat.mod_eq_of_lt (b := 256 ^ 32) d.isLt

/-- A partition and a scratchpad written and a token posted: what each reads as, and what else may change. -/
theorem postSync_written {w : World} (p tile a obj : Nat) (v : Bytes) (g : Part → Part)
    (hparts : storeSorted w.serving.parts) (hscratch : Memory.wf w.tiles.scratch) (hsync : storeSorted w.tiles.sync) :
    ∃ w', postSync obj (padWrite tile a v (onPart p g w)) = w' ∧ part w' p = g (part w p) ∧
      (∀ k, k ≠ p → part w' k = part w k) ∧ padRead w' tile a v.length = v ∧
      (∀ o, o ≠ obj → syncCount w' o = syncCount w o) ∧
      ((∀ e ∈ w.tiles.ctxs, e.2.wait ≠ .sync obj) → syncCount w' obj = syncCount w obj + 1) ∧
      w' = { w with
        serving := { w.serving with parts := w'.serving.parts }
        tiles := { w.tiles with scratch := w'.tiles.scratch, sync := w'.tiles.sync, ctxs := w'.tiles.ctxs }
        cont := { w.cont with sync := w'.cont.sync } } := by
  have hother : ∀ o, o ≠ obj → syncCount (postSync obj (padWrite tile a v (onPart p g w))) o = syncCount w o :=
    fun o hne => syncCount_postSync_other hsync hne
  have hposted : (∀ e ∈ w.tiles.ctxs, e.2.wait ≠ .sync obj) →
      syncCount (postSync obj (padWrite tile a v (onPart p g w))) obj = syncCount w obj + 1 := fun hnone => by
    rw [postSync_of_none_waiting (w := padWrite tile a v (onPart p g w)) hnone]
    exact syncCount_addToken_same obj hsync
  obtain ⟨cs, counts, ledgers, hpost⟩ := syncScope_postSync obj (padWrite tile a v (onPart p g w))
  rw [hpost] at hother hposted
  exact ⟨_, hpost, part_onPart_same p _ hparts, fun k hk => part_onPart_other _ hparts hk,
    padRead_padWrite (w := onPart p g w) hscratch, hother, hposted, rfl⟩

end Sys2Proof.Machine
end

section
/-! PROOFS. How a batch step is formed: members marked and pinned, the member table written, contexts started (09 R243, Table 9.3). -/

namespace Sys2Proof.Machine

/-! ## Sequences and prefix sets after an update -/

theorem seq_onSeq_same (s : Nat) (f : Seq → Seq) {w : World} (h : storeSorted w.serving.seqs) : seq (onSeq s f w) s = f (seq w s) :=
  sGet_put_same _ _ h

theorem seq_onSeq_other {s k : Nat} (f : Seq → Seq) {w : World} (h : storeSorted w.serving.seqs) (hk : k ≠ s) :
    seq (onSeq s f w) k = seq w k := sGet_put_other _ h hk

theorem onSeq_sorted (s : Nat) (f : Seq → Seq) {w : World} (h : storeSorted w.serving.seqs) : storeSorted (onSeq s f w).serving.seqs :=
  sPut_sorted _ _ h

theorem pfx_onPfx_same (j : Nat) (f : Prefix → Prefix) {w : World} (h : storeSorted w.serving.prefixes) :
    pfx (onPfx j f w) j = f (pfx w j) := sGet_put_same _ _ h

theorem pfx_onPfx_other {j k : Nat} (f : Prefix → Prefix) {w : World} (h : storeSorted w.serving.prefixes) (hk : k ≠ j) :
    pfx (onPfx j f w) k = pfx w k := sGet_put_other _ h hk

/-! ## Members marked -/

/-- A DUE sequence whose pages are not fetched stays out, and is counted late. -/
def noteLate (p s : Nat) (w : World) : World :=
  onPool p (fun x => { x with nLate := x.nLate + 1 }) (onSeq s (fun x => { x with prefetchLate := true }) w)

/-- A member of the step that begins. -/
def enlist (p m : Nat) (w : World) : World :=
  (if isPfx m then onPfx (pfxKey m p) (fun x => { x with running := true })
    else onSeq m (fun x => { x with mode := .running, prefetchLate := false })) w

def pinPages (p m : Nat) (w : World) : World :=
  onLists p m (fun ls => ls.map (fun l => (l.1, { l.2 with pages := l.2.pages.map (fun g => { g with pinned := true }) }))) w

/-- A member runs. -/
def enlisted (p m : Nat) (w : World) : Prop :=
  (isPfx m = false → (seq w m).mode = .running) ∧ (isPfx m = true → (pfx w (pfxKey m p)).running = true)

/-- Marks on members: no position and no home changes, and what runs goes on running. -/
structure marked (w w' : World) : Prop where
  scope : ∃ qs px pl, w' = { w with serving := { w.serving with seqs := qs, prefixes := px, pools := pl } }
  seqsSorted : storeSorted w'.serving.seqs
  pfxsSorted : storeSorted w'.serving.prefixes
  seqs : ∀ k, (seq w' k).p = (seq w k).p ∧ (seq w' k).home = (seq w k).home ∧ ((seq w k).mode = .running → (seq w' k).mode = .running)
  pfxs : ∀ k, (pfx w' k).p = (pfx w k).p ∧ ((pfx w k).running = true → (pfx w' k).running = true)

theorem marked.refl {w : World} (hs : storeSorted w.serving.seqs) (hp : storeSorted w.serving.prefixes) : marked w w where
  scope := ⟨_, _, _, rfl⟩
  seqsSorted := hs
  pfxsSorted := hp
  seqs _ := ⟨rfl, rfl, id⟩
  pfxs _ := ⟨rfl, id⟩

theorem marked.trans {a b c : World} (hab : marked a b) (hbc : marked b c) : marked a c where
  scope := by
    obtain ⟨_, _, _, rfl⟩ := hab.scope
    obtain ⟨qs, px, pl, rfl⟩ := hbc.scope
    exact ⟨qs, px, pl, rfl⟩
  seqsSorted := hbc.seqsSorted
  pfxsSorted := hbc.pfxsSorted
  seqs k := by
    obtain ⟨hp, hh, hr⟩ := hab.seqs k
    obtain ⟨hp', hh', hr'⟩ := hbc.seqs k
    exact ⟨hp'.trans hp, hh'.trans hh, hr' ∘ hr⟩
  pfxs k := by
    obtain ⟨hp, hr⟩ := hab.pfxs k
    obtain ⟨hp', hr'⟩ := hbc.pfxs k
    exact ⟨hp'.trans hp, hr' ∘ hr⟩

theorem marked_onSeq {w : World} {s : Nat} {f : Seq → Seq} (hs : storeSorted w.serving.seqs) (hp : storeSorted w.serving.prefixes)
    (hf : ∀ x, (f x).p = x.p ∧ (f x).home = x.home ∧ (x.mode = .running → (f x).mode = .running)) : marked w (onSeq s f w) where
  scope := ⟨_, _, _, rfl⟩
  seqsSorted := sPut_sorted _ _ hs
  pfxsSorted := hp
  seqs k := by
    by_cases hk : k = s
    · subst hk
      rw [seq_onSeq_same k f hs]
      exact hf _
    · rw [seq_onSeq_other f hs hk]
      exact ⟨rfl, rfl, id⟩
  pfxs _ := ⟨rfl, id⟩

theorem marked_onPfx {w : World} {j : Nat} {f : Prefix → Prefix} (hs : storeSorted w.serving.seqs) (hp : storeSorted w.serving.prefixes)
    (hf : ∀ x, (f x).p = x.p ∧ (x.running = true → (f x).running = true)) : marked w (onPfx j f w) where
  scope := ⟨_, _, _, rfl⟩
  seqsSorted := hs
  pfxsSorted := sPut_sorted _ _ hp
  seqs _ := ⟨rfl, rfl, id⟩
  pfxs k := by
    by_cases hk : k = j
    · subst hk
      rw [pfx_onPfx_same k f hp]
      exact hf _
    · rw [pfx_onPfx_other f hp hk]
      exact ⟨rfl, id⟩

theorem marked_eachW {f : Nat → World → World} (hf : ∀ a w, storeSorted w.serving.seqs → storeSorted w.serving.prefixes → marked w (f a w))
    (l : List Nat) {w : World} (hs : storeSorted w.serving.seqs) (hp : storeSorted w.serving.prefixes) : marked w (eachW l f w) :=
  eachW_keeps (P := marked w) (fun a w' h => h.trans (hf a w' h.seqsSorted h.pfxsSorted)) l (.refl hs hp)

section

variable {w : World} (hs : storeSorted w.serving.seqs) (hp : storeSorted w.serving.prefixes)
include hs hp

theorem marked_noteLate (p s : Nat) : marked w (noteLate p s w) :=
  have hseq := marked_onSeq (s := s) (f := fun x => { x with prefetchLate := true }) hs hp (fun _ => ⟨rfl, rfl, id⟩)
  hseq.trans { scope := ⟨_, _, _, rfl⟩, seqsSorted := hseq.seqsSorted, pfxsSorted := hp, seqs := fun _ => ⟨rfl, rfl, id⟩,
               pfxs := fun _ => ⟨rfl, id⟩ }

theorem marked_enlist (p m : Nat) : marked w (enlist p m w) := by
  unfold enlist
  split
  · exact marked_onPfx hs hp (fun _ => ⟨rfl, fun _ => rfl⟩)
  · exact marked_onSeq hs hp (fun _ => ⟨rfl, rfl, fun _ => rfl⟩)

theorem marked_pinPages (p m : Nat) : marked w (pinPages p m w) := by
  unfold pinPages onLists
  split
  · exact marked_onPfx hs hp (fun _ => ⟨rfl, id⟩)
  · exact marked_onSeq hs hp (fun _ => ⟨rfl, rfl, id⟩)

theorem enlisted_enlist (p m : Nat) : enlisted p m (enlist p m w) := by
  unfold enlist
  by_cases hm : isPfx m = true
  · rw [if_pos hm]
    refine ⟨fun h => absurd (hm.symm.trans h) (by decide), fun _ => ?_⟩
    rw [pfx_onPfx_same _ _ hp]
  · rw [if_neg hm]
    refine ⟨fun _ => ?_, fun h => absurd h hm⟩
    rw [seq_onSeq_same _ _ hs]

/-- Every member that is enlisted runs when all are. -/
theorem enlisted_eachW {p m : Nat} {members : List Nat} (hm : m ∈ members) : enlisted p m (eachW members (enlist p) w) := by
  refine eachW_attains (a := m) (I := fun w => storeSorted w.serving.seqs ∧ storeSorted w.serving.prefixes) (P := enlisted p m)
    (fun b _ w' ⟨hs', hp'⟩ => ?_) hm ⟨hs, hp⟩
  have hmark := marked_enlist hs' hp' p b
  refine ⟨⟨hmark.seqsSorted, hmark.pfxsSorted⟩, fun h => ?_⟩
  obtain rfl | ⟨hseq, hpfx⟩ := h
  · exact enlisted_enlist hs' hp' p b
  · exact ⟨fun h => (hmark.seqs m).2.2 (hseq h), fun h => (hmark.pfxs _).2 (hpfx h)⟩

end

theorem marked.enlisted {w w' : World} (h : marked w w') {p m : Nat} (hm : enlisted p m w) : enlisted p m w' :=
  ⟨fun hx => (h.seqs m).2.2 (hm.1 hx), fun hx => (h.pfxs _).2 (hm.2 hx)⟩

/-! ## The member table (09 Table 9.3; log 104) -/

theorem length_memberEntry (w : World) (p m : Nat) : (memberEntry w p m).length = 12 := by
  simp [memberEntry]

theorem length_memberTable (w : World) (p : Nat) (members : List Nat) : (members.flatMap (memberEntry w p)).length = 12 * members.length := by
  induction members with
  | nil => rfl
  | cons m members ih => rw [List.flatMap_cons, List.length_append, ih, length_memberEntry, List.length_cons]; omega

/-- Marks change no entry of the member table. -/
theorem marked.memberEntry {w w' : World} (h : marked w w') (p : Nat) : memberEntry w' p = memberEntry w p := by
  have hcfg : w'.cfg = w.cfg := by obtain ⟨_, _, _, hw⟩ := h.scope; rw [hw]
  have hhome : ∀ k, (seq w' k).home = (seq w k).home := fun k => (h.seqs k).2.1
  have hpos : ∀ m, posOf w' p m = posOf w p m := fun m => by simp only [posOf, (h.seqs m).1, (h.pfxs (pfxKey m p)).1]
  funext m
  simp only [Machine.memberEntry, tokenSlot, hpos, hhome, hcfg]

theorem memScope_writeMembers (p : Nat) (members : List Nat) (w : World) : memScope w (writeMembers p members w) :=
  memScope_eachW (fun _ _ => ⟨_, _, rfl⟩) _ w

theorem read_writeMembers {w : World} {p d : Nat} {members : List Nat} (hm : Memory.wf w.tiles.stratum) (hd : d ∈ pDies (actPart w p))
    (hfit : areaBase w.cfg.active p + 12 * members.length ≤ 2 ^ 32) :
    Mem.read (writeMembers p members w).tiles.stratum (farBase p d + areaBase w.cfg.active p) (12 * members.length) =
      members.flatMap (memberEntry w p) := by
  have hlen := length_memberTable w p members
  rw [writeMembers]
  generalize members.flatMap (memberEntry w p) = table at hlen ⊢
  rw [← hlen] at hfit ⊢
  refine eachW_attains (a := d) (I := fun w' => Memory.wf w'.tiles.stratum)
    (P := fun w' => Mem.read w'.tiles.stratum (farBase p d + areaBase w.cfg.active p) table.length = table)
    (fun e _ w' hw' => ⟨Mem.write_wf _ _ hw', fun h => ?_⟩) hd hm
  by_cases he : e = d
  · subst he
    exact Mem.read_write _ _ hw'
  · have hapart := farBase_apart p he
    refine (Mem.read_congr (fun o ho => Mem.get_write_outside _ hw' ?_)).trans (h.resolve_left he)
    omega

theorem memScope_patchCounts (p tile : Nat) (members : List Nat) (w : World) : memScope w (patchCounts p tile members w) := by
  refine memScope_eachW (fun i w => memScope_eachW (fun n w => ?_) _ w) _ w
  split
  · exact memScope_padWrite _ _ _ w
  · exact .refl w

theorem stratum_patchCounts (p tile : Nat) (members : List Nat) (w : World) :
    (patchCounts p tile members w).tiles.stratum = w.tiles.stratum := by
  refine eachW_keeps (P := fun w' => w'.tiles.stratum = w.tiles.stratum) (fun i w₁ h₁ => ?_) _ rfl
  refine eachW_keeps (P := fun w' => w'.tiles.stratum = w.tiles.stratum) (fun n w₂ h₂ => ?_) _ h₁
  split
  · exact h₂
  · exact h₂

/-! ## STEP_FORM -/

/-- The members of a step marked, listed and pinned, their page counts in the tile programs. -/
def membersFormed (p : Nat) (late members : List Nat) (w : World) : World :=
  eachW (pTiles (actPart w p)) (fun t => patchCounts p t members) (eachW members (pinPages p)
    (writeMembers p members (eachW members (enlist p) (eachW late (noteLate p) w))))

/-- What forming the members leaves: they run, the table stands in each die's step area, and only sequences, prefix sets, pools and
memories have changed. -/
theorem membersFormed_spec {w : World} (p : Nat) (late members : List Nat) (hs : storeSorted w.serving.seqs)
    (hp : storeSorted w.serving.prefixes) (hm : Memory.wf w.tiles.stratum)
    (hfit : areaBase w.cfg.active p + 12 * members.length ≤ 2 ^ 32) : ∃ qs px pl sc st, membersFormed p late members w =
      { w with serving := { w.serving with seqs := qs, prefixes := px, pools := pl }, tiles := { w.tiles with scratch := sc, stratum := st } } ∧
      (∀ m ∈ members, enlisted p m (membersFormed p late members w)) ∧
      ∀ d ∈ pDies (actPart w p), Mem.read st (farBase p d + areaBase w.cfg.active p) (12 * members.length) =
        members.flatMap (memberEntry w p) := by
  have hlate := marked_eachW (f := noteLate p) (fun s _ hs hp => marked_noteLate hs hp p s) late hs hp
  have henlist := marked_eachW (f := enlist p) (fun m _ hs hp => marked_enlist hs hp p m) members hlate.seqsSorted hlate.pfxsSorted
  have hruns : ∀ m ∈ members, enlisted p m (eachW members (enlist p) (eachW late (noteLate p) w)) :=
    fun m hm => enlisted_eachW hlate.seqsSorted hlate.pfxsSorted hm
  have hmarks := hlate.trans henlist
  unfold membersFormed
  generalize eachW members (enlist p) (eachW late (noteLate p) w) = w₁ at hmarks hruns ⊢
  have hentry := hmarks.memberEntry p
  have hs₁ := hmarks.seqsSorted
  have hp₁ := hmarks.pfxsSorted
  obtain ⟨qs, px, pl, hw₁⟩ := hmarks.scope
  have hread : ∀ d ∈ pDies (actPart w p), Mem.read (writeMembers p members w₁).tiles.stratum (farBase p d + areaBase w.cfg.active p)
      (12 * members.length) = members.flatMap (memberEntry w p) := by
    rw [← hentry]
    intro d hd
    subst hw₁
    exact read_writeMembers hm hd hfit
  have hmem := memScope_writeMembers p members w₁
  generalize writeMembers p members w₁ = w₂ at hread hmem ⊢
  obtain ⟨sc₂, st₂, rfl⟩ := hmem
  have hpins := marked_eachW (f := pinPages p) (fun m _ hs hp => marked_pinPages hs hp p m) members
    (w := { w₁ with tiles := { w₁.tiles with scratch := sc₂, stratum := st₂ } }) hs₁ hp₁
  generalize eachW members (pinPages p) { w₁ with tiles := { w₁.tiles with scratch := sc₂, stratum := st₂ } } = w₃ at hpins ⊢
  have hruns₃ : ∀ m ∈ members, enlisted p m w₃ := fun m hm => hpins.enlisted (hruns m hm)
  have hpatch := memScope_eachW (fun t w => memScope_patchCounts p t members w) (pTiles (actPart w p)) w₃
  have hst₄ : (eachW (pTiles (actPart w p)) (fun t => patchCounts p t members) w₃).tiles.stratum = w₃.tiles.stratum :=
    eachW_keeps (P := fun w' => w'.tiles.stratum = w₃.tiles.stratum) (fun t w' h => (stratum_patchCounts p t members w').trans h) _ rfl
  generalize eachW (pTiles (actPart w p)) (fun t => patchCounts p t members) w₃ = w₄ at hpatch hst₄ ⊢
  obtain ⟨sc₄, st₄, rfl⟩ := hpatch
  obtain ⟨qs₃, px₃, pl₃, rfl⟩ := hpins.scope
  subst hw₁
  obtain rfl : st₄ = st₂ := hst₄
  exact ⟨_, _, _, _, _, rfl, hruns₃, hread⟩

/-- A partition whose step begins at an instant. -/
def formedPart (members : List Nat) (now : Nat) (walk : Store (List (Nat × Nat × Nat))) (q : Part) : Part :=
  { q with mode := .stepping, step := q.step + 1, members := members, stepAt := now, ring := [], walk := walk, outgoing := none }

/-- The pages that each tile's attention is to read. -/
def stepWalk (w : World) (p : Nat) (tiles members : List Nat) : Store (List (Nat × Nat × Nat)) :=
  tiles.foldl (fun s t => sPut [] s t (walkOf w p t members)) []

/-- STEP_FORM with members: formed, contexts and partition started, slices turned. -/
theorem stepForm_of_members {w : World} {p : Nat} (hset : pInSet w.cfg.active p = true) (hmode : (part w p).mode = .idle)
    (hswitch : (part w p).switchTo = none) (hby : (part w p).stoppedBy = false) (hmembers : Claims.nextMembers w p ≠ []) :
    ∃ late w', w' = postStarts p (eachW (pCtxs (actPart w p)) (fun k => onCtx k (startCtx p))
        (membersFormed p late (Claims.nextMembers w p) w)) ∧
      stepForm p w = settleSlices p true (onPart p (formedPart (Claims.nextMembers w p) (nowNs w')
        (stepWalk w' p (pTiles (actPart w p)) (Claims.nextMembers w p))) w') := by
  have hsome : (Claims.nextMembers w p).isEmpty = false := by simpa using hmembers
  rw [Claims.nextMembers] at hsome
  refine ⟨(dueSeqs w p).filter (fun s => !fetched w s), _, rfl, ?_⟩
  unfold stepForm
  dsimp only
  rw [if_neg (by simp [hset, hmode, hswitch, hby]), hsome]
  rfl

/-- `w'` differs from `w` at most in what STEP_FORM writes. -/
def formScope (w w' : World) : Prop := ∃ sv cs sc st sl at_ cy, w' = { w with
  serving := sv, tiles := { w.tiles with ctxs := cs, scratch := sc, stratum := st, slice := sl, sliceAt := at_ }
  cont := { w.cont with sync := cy } }

/-- STEP_FORM as a whole, where a step is due: partition, contexts, members and the member table. -/
theorem stepForm_spec {w : World} {p : Nat} (hparts : storeSorted w.serving.parts) (hctxs : storeSorted w.tiles.ctxs)
    (hseqs : storeSorted w.serving.seqs) (hpfxs : storeSorted w.serving.prefixes) (hstratum : Memory.wf w.tiles.stratum)
    (hset : pInSet w.cfg.active p = true) (hmode : (part w p).mode = .idle) (hswitch : (part w p).switchTo = none)
    (hby : (part w p).stoppedBy = false) (hmembers : Claims.nextMembers w p ≠ [])
    (harea : areaBase w.cfg.active p + 12 * (Claims.nextMembers w p).length ≤ 2 ^ 32) : formScope w (stepForm p w) ∧
      (∃ walk, part (stepForm p w) p = formedPart (Claims.nextMembers w p) (nowNs w) walk (part w p)) ∧
      (∀ k, k ≠ p → part (stepForm p w) k = part w k) ∧
      (∀ k ∈ pCtxs (actPart w p), ∃ x, Claims.sliceOnly (ctxAt (stepForm p w) k) (startCtx p x)) ∧
      (∀ k, k ∉ pCtxs (actPart w p) → Claims.sliceOnly (ctxAt (stepForm p w) k) (ctxAt w k)) ∧
      (∀ m ∈ Claims.nextMembers w p, enlisted p m (stepForm p w)) ∧
      ∀ d ∈ pDies (actPart w p), Mem.read (stepForm p w).tiles.stratum (farBase p d + areaBase w.cfg.active p)
        (12 * (Claims.nextMembers w p).length) = (Claims.nextMembers w p).flatMap (memberEntry w p) := by
  obtain ⟨late, w₂, hw₂, hrun⟩ := stepForm_of_members hset hmode hswitch hby hmembers
  rw [hrun]
  clear hrun
  obtain ⟨qs, px, pl, sc, st, hformed, hruns, hread⟩ := membersFormed_spec p late (Claims.nextMembers w p) hseqs hpfxs hstratum harea
  generalize membersFormed p late (Claims.nextMembers w p) w = w₁ at hw₂ hformed hruns
  generalize Claims.nextMembers w p = members at *
  have hctxs₁ : storeSorted w₁.tiles.ctxs := by rw [hformed]; exact hctxs
  obtain ⟨hsorted, hin, hout⟩ := ctxAt_eachCtx (g := fun k => onCtx k (startCtx p)) (fun _ _ => rfl) (pCtxs (actPart w p)) hctxs₁
  obtain ⟨cs, hpass⟩ := eachCtx_scope (startCtx p) (pCtxs (actPart w p)) w₁
  rw [hpass] at hw₂ hsorted hin hout
  subst hformed
  have hnow : nowNs w₂ = nowNs w := by rw [hw₂]; rfl
  have hsorted₂ : storeSorted w₂.tiles.ctxs := by rw [hw₂]; exact hsorted
  have hctx : ∀ f k, ctxAt (onPart p f w₂) k = sGet {} cs k := fun f k => by rw [hw₂]; rfl
  rw [hnow]
  generalize stepWalk w₂ p (pTiles (actPart w p)) members = walk
  have hturn := slicesTurned_settleSlices p true (w := onPart p (formedPart members (nowNs w) walk) w₂) hsorted₂
  generalize settleSlices p true (onPart p (formedPart members (nowNs w) walk) w₂) = w₃ at hturn ⊢
  have honly := hturn.only
  simp only [hctx] at honly
  have hstarted : ∀ k ∈ pCtxs (actPart w p), ∃ x, Claims.sliceOnly (ctxAt w₃ k) (startCtx p x) := fun k hk => by
    obtain ⟨x, hx⟩ := hin k hk
    exact ⟨x, (show sGet {} cs k = startCtx p x from hx) ▸ honly k⟩
  have hothers : ∀ k, k ∉ pCtxs (actPart w p) → Claims.sliceOnly (ctxAt w₃ k) (ctxAt w k) := fun k hk =>
    (show sGet {} cs k = ctxAt w k from hout k hk) ▸ honly k
  obtain ⟨_, _, _, rfl⟩ := hturn.scope
  subst hw₂
  exact ⟨⟨_, _, _, _, _, _, _, rfl⟩, ⟨walk, part_onPart_same p _ hparts⟩, fun k hk => part_onPart_other _ hparts hk, hstarted, hothers,
    hruns, hread⟩

end Sys2Proof.Machine
end

section
/-! PROOFS. What work on pages leaves of the sequences: flushes, moves, spill, pre-emption, reserves and prefetches change no token, no
position and nothing of what runs; a sequence that goes back to its prefix changes alone (08 R211, R217 to R229). -/

namespace Sys2Proof.Machine

/-! ## The relation -/

/-- A sequence whose token and position stand, and which runs where it ran. -/
def runKept (a b : Seq) : Prop :=
  b.token = a.token ∧ b.p = a.p ∧ b.noOutput = a.noOutput ∧ (b.mode = .running ↔ a.mode = .running)

theorem runKept.refl (a : Seq) : runKept a a := ⟨rfl, rfl, rfl, .rfl⟩

theorem runKept.trans {a b c : Seq} (hab : runKept a b) (hbc : runKept b c) : runKept a c := by
  obtain ⟨ht, hp, hn, hm⟩ := hab
  obtain ⟨ht', hp', hn', hm'⟩ := hbc
  exact ⟨ht'.trans ht, hp'.trans hp, hn'.trans hn, hm'.trans hm⟩

/-- Every sequence outside `ex` is kept, and the table stays sorted. -/
structure runsKept (ex : Set Nat) (w w' : World) : Prop where
  sorted : storeSorted w'.serving.seqs
  kept : ∀ k, k ∉ ex → runKept (seq w k) (seq w' k)

theorem runsKept.trans {ex : Set Nat} {a b c : World} (hab : runsKept ex a b) (hbc : runsKept ex b c) : runsKept ex a c :=
  ⟨hbc.sorted, fun k hk => (hab.kept k hk).trans (hbc.kept k hk)⟩

/-- `w'` differs from `w` at most in sequences, prefix sets, pools, Obsidian's queues, what is sent to hosts, the count of draws. -/
def pageScope (w w' : World) : Prop := ∃ qs px pl ob lk ou n, w' = { w with
  serving := { w.serving with seqs := qs, prefixes := px, pools := pl }
  cont := { w.cont with obs := ob }, link := lk, out := ou, free := n }

theorem pageScope.trans {a b c : World} (hab : pageScope a b) (hbc : pageScope b c) : pageScope a c := by
  obtain ⟨_, _, _, _, _, _, _, rfl⟩ := hab
  obtain ⟨qs, px, pl, ob, lk, ou, n, rfl⟩ := hbc
  exact ⟨qs, px, pl, ob, lk, ou, n, rfl⟩

/-- Work on pages, sequences in `ex` aside. -/
def pageWork (ex : Set Nat) (w w' : World) : Prop := storeSorted w.serving.seqs → pageScope w w' ∧ runsKept ex w w'

variable {ex : Set Nat}

theorem pageWork.refl (w : World) : pageWork ex w w := fun hs => ⟨⟨_, _, _, _, _, _, _, rfl⟩, hs, fun _ _ => .refl _⟩

theorem pageWork.trans {a b c : World} (hab : pageWork ex a b) (hbc : pageWork ex b c) : pageWork ex a c := fun hs => by
  obtain ⟨hscope, hkept⟩ := hab hs
  obtain ⟨hscope', hkept'⟩ := hbc hkept.sorted
  exact ⟨hscope.trans hscope', hkept.trans hkept'⟩

theorem pageWork_eachW {α : Type} {f : α → World → World} (hf : ∀ a w, pageWork ex w (f a w)) (l : List α) (w : World) :
    pageWork ex w (eachW l f w) :=
  eachW_keeps (P := pageWork ex w) (fun a w' h => h.trans (hf a w')) l (.refl w)

/-! ## Updates -/

theorem pageWork_onSeq {s : Nat} {f : Seq → Seq} {w : World} (h : s ∉ ex → runKept (seq w s) (f (seq w s))) : pageWork ex w (onSeq s f w) :=
  fun hs => by
    refine ⟨⟨_, _, _, _, _, _, _, rfl⟩, sPut_sorted _ _ hs, fun k hk => ?_⟩
    by_cases hks : k = s
    · subst hks
      rw [seq_onSeq_same k f hs]
      exact h hk
    · rw [seq_onSeq_other f hs hks]
      exact .refl _

/-- A sequence that does not run, in a mode in which it does not. -/
theorem pageWork_rested {s : Nat} {f : Seq → Seq} {w : World} (h : s ∉ ex → (seq w s).mode ≠ .running)
    (hf : ∀ x, (f x).token = x.token ∧ (f x).p = x.p ∧ (f x).noOutput = x.noOutput ∧ (f x).mode ≠ .running) : pageWork ex w (onSeq s f w) :=
  pageWork_onSeq (fun hk => by
    obtain ⟨ht, hp, hn, hm⟩ := hf (seq w s)
    exact ⟨ht, hp, hn, fun hx => absurd hx hm, fun hx => absurd hx (h hk)⟩)

theorem pageWork_onPfx (j : Nat) (f : Prefix → Prefix) (w : World) : pageWork ex w (onPfx j f w) :=
  fun hs => ⟨⟨_, _, _, _, _, _, _, rfl⟩, hs, fun _ _ => .refl _⟩

theorem pageWork_onPool (p : Nat) (f : Pool → Pool) (w : World) : pageWork ex w (onPool p f w) :=
  fun hs => ⟨⟨_, _, _, _, _, _, _, rfl⟩, hs, fun _ _ => .refl _⟩

theorem pageWork_onLink (f : HostLink → HostLink) (w : World) : pageWork ex w (onLink f w) :=
  fun hs => ⟨⟨_, _, _, _, _, _, _, rfl⟩, hs, fun _ _ => .refl _⟩

theorem pageWork_emit (o : Out) (w : World) : pageWork ex w (emit o w) :=
  fun hs => ⟨⟨_, _, _, _, _, _, _, rfl⟩, hs, fun _ _ => .refl _⟩

theorem pageWork_record (ty so ix i : Nat) (w : World) : pageWork ex w (record ty so ix i w) :=
  fun hs => ⟨⟨_, _, _, _, _, _, _, rfl⟩, hs, fun _ _ => .refl _⟩

theorem pageWork_onLists (p m : Nat) (f : Store PageList → Store PageList) (w : World) : pageWork ex w (onLists p m f w) := by
  unfold onLists
  split
  · exact pageWork_onPfx _ _ w
  · exact pageWork_onSeq (fun _ => ⟨rfl, rfl, rfl, .rfl⟩)

theorem pageWork_onList (p m n : Nat) (f : PageList → PageList) (w : World) : pageWork ex w (onList p m n f w) := pageWork_onLists _ _ _ w

theorem pageWork_onPage (p m n i : Nat) (f : Page → Page) (w : World) : pageWork ex w (onPage p m n i f w) := pageWork_onList _ _ _ _ w

/-! ## Pages of tier T3 (11 R307) -/

theorem pageWork_sendPds (x : Peer) (n type flags : Nat) (reqId : BitVec 32) (frag : Nat) (body : Bytes) (w : World) :
    pageWork ex w (sendPds x n type flags reqId frag body w) := by
  unfold sendPds
  dsimp only
  split
  · exact .refl w
  · unfold sendOn whenW
    split
    · refine .trans ?_ (pageWork_emit _ _)
      refine .trans ?_ (pageWork_onLink _ _)
      exact pageWork_onLink _ w
    · exact pageWork_onLink _ w

theorem pageWork_sendPage (n : Nat) (write : Bool) (body : Bytes) (w : World) : pageWork ex w (sendPage n write body w) := by
  refine .trans ?_ (pageWork_sendPds _ _ _ _ _ _ _ _)
  exact pageWork_onLink _ w

theorem pageWork_sendPages (n : Nat) (write : Bool) (frame : Nat) (page : Bytes) (w : World) : pageWork ex w (sendPages n write frame page w) :=
  pageWork_eachW (fun _ w => pageWork_sendPage _ _ _ w) _ w

theorem pageWork_swapOut (p f : Nat) (bytes : Bytes) (w : World) : pageWork ex w (swapOut p f bytes w) := pageWork_sendPages _ _ _ _ w

theorem pageWork_swapIn (p f : Nat) (bytes : Bytes) (w : World) : pageWork ex w (swapIn p f bytes w) := pageWork_sendPages _ _ _ _ w

/-! ## Reserves, releases, prefixes, prefetches (08 R209, R220, R224, R226) -/

theorem pageWork_refillReserves (p : Nat) (w : World) : pageWork ex w (refillReserves p w) := by
  refine pageWork_eachW (fun s w => pageWork_eachW (fun n w => ?_) _ w) _ w
  split
  · exact pageWork_onList _ _ _ _ w
  · exact .refl w

theorem pageWork_dropPages (p m : Nat) (w : World) : pageWork ex w (dropPages p m w) :=
  (pageWork_onLists _ _ _ w).trans (pageWork_onPool _ _ _)

theorem pageWork_attach (s : Nat) (w : World) : pageWork ex w (attach s w) := by
  unfold attach
  dsimp only
  split
  · exact .refl w
  · exact pageWork_eachW (fun (l : Nat × PageList) w' => pageWork_onList _ _ l.1 _ w') _ w

theorem pageWork_startPrefetch (s : Nat) (w : World) : pageWork ex w (startPrefetch s w) := by
  refine pageWork_eachW (fun l w => pageWork_eachW (fun i w => ?_) _ w) _ w
  dsimp only
  split
  · split
    · exact (pageWork_onList _ _ _ _ w).trans (pageWork_swapIn _ _ _ _)
    · exact .refl w
  · exact .refl w

theorem pageWork_becomeDue (s : Nat) (w : World) : pageWork ex w (becomeDue s w) := by
  unfold becomeDue
  split
  next h =>
    obtain ⟨hidle, -, -⟩ := h
    refine .trans ?_ (pageWork_startPrefetch s _)
    exact pageWork_rested (fun _ => by simp [hidle]) (fun _ => ⟨rfl, rfl, rfl, by simp⟩)
  next => exact .refl w

/-! ## Moves and pre-emption (08 R225, R227, R228) -/

theorem pageWork_startMove (p s n i : Nat) (dest : Nat × Nat) (w : World) : pageWork ex w (startMove p s n i dest w) := by
  unfold startMove
  dsimp only
  split
  · exact (pageWork_onPage _ _ _ _ _ w).trans (pageWork_swapOut _ _ _ _)
  · exact pageWork_onPage _ _ _ _ _ w

theorem pageWork_spillFrom (p tier : Nat) (w : World) : pageWork ex w (spillFrom p tier w).1 := by
  unfold spillFrom
  split
  · exact .refl w
  · split
    · exact .refl w
    · split
      · exact .refl w
      · exact (pageWork_startMove _ _ _ _ _ w).trans (pageWork_onPool _ _ _)

theorem pageWork_spillOne (p : Nat) (tiers : List Nat) (w : World) : pageWork ex w (spillOne p tiers w).1 := by
  induction tiers with
  | nil => exact .refl w
  | cons t ts ih =>
    rw [spillOne]
    split
    · exact pageWork_spillFrom p t w
    · exact ih

theorem pageWork_sendAway (p s n i : Nat) (w : World) : pageWork ex w (sendAway p s n i w) := by
  unfold sendAway
  dsimp only
  split
  · exact .refl w
  · split
    · exact pageWork_startMove _ _ _ _ _ w
    · exact .refl w

theorem pageWork_stageAway (p s n : Nat) (w : World) : pageWork ex w (stageAway p s n w) := by
  refine (pageWork_onList _ _ _ _ w).trans (.trans (pageWork_eachW (fun _ w => ?_) _ _) (pageWork_eachW (fun _ w => pageWork_swapOut _ _ _ w) _ _))
  split
  · exact pageWork_onList _ _ _ _ w
  · exact .refl w

/-- Pre-emption of a sequence that does not run. -/
theorem pageWork_preempt (p : Nat) {s : Nat} {w : World} (h : s ∉ ex → (seq w s).mode ≠ .running) : pageWork ex w (preempt p s w) := by
  unfold preempt
  dsimp only
  have haway : pageWork ex w (eachW (listsOf w p s) (fun l w =>
      stageAway p s l.1 (eachW (upTo l.2.pages.length) (sendAway p s l.1) (onList p s l.1 (fun l => { l with
        reserve := false, pages := l.pages.map (fun g => { g with fetching := false, prefetched := false, copy := none }) }) w))) w) :=
    pageWork_eachW (fun l w => (pageWork_onList _ _ _ _ w).trans
      ((pageWork_eachW (fun i w => pageWork_sendAway _ _ _ _ w) _ _).trans (pageWork_stageAway _ _ _ _))) _ w
  intro hs
  have hmode : s ∉ ex → (seq _ s).mode ≠ .running := fun hk hx => h hk (((haway hs).2.kept s hk).2.2.2.mp hx)
  refine (haway.trans (.trans ?_ (pageWork_record _ _ _ _ _))) hs
  exact pageWork_rested hmode (fun _ => ⟨rfl, rfl, rfl, by simp⟩)

theorem pageWork_makeRoom (p : Nat) (w : World) : pageWork ex w (makeRoom p w) := by
  have hspill : pageWork ex w (if kvSpill (kvRec w p) then spillOne p [1, 2, 0] w else (w, false)).1 := by
    split
    · exact pageWork_spillOne _ _ w
    · exact .refl w
  unfold makeRoom
  dsimp only
  generalize (if kvSpill (kvRec w p) then spillOne p [1, 2, 0] w else (w, false)) = spilt at hspill ⊢
  split
  · exact hspill
  · split
    · split
      · split
        · exact .refl w
        · split
          · exact pageWork_onSeq (fun _ => ⟨rfl, rfl, rfl, .rfl⟩)
          next hmode => exact (pageWork_preempt p (fun _ => hmode)).trans (pageWork_refillReserves p _)
      · exact .refl w
    · exact .refl w

theorem pageWork_preemptEnded (p : Nat) (members : List Nat) (w : World) : pageWork ex w (preemptEnded p members w) := by
  unfold preemptEnded
  refine pageWork_eachW (fun s w => ?_) _ w
  have hnot : pageWork ex w (onSeq s (fun x => { x with preemptDue := false }) w) := pageWork_onSeq (fun _ => ⟨rfl, rfl, rfl, .rfl⟩)
  have hgone (hm : (seq w s).mode ≠ .running) :
      pageWork ex w (if roomT3 w p s then refillReserves p (preempt p s w) else onSeq s (fun x => { x with preemptDue := false }) w) := by
    split
    · exact (pageWork_preempt p (fun _ => hm)).trans (pageWork_refillReserves p _)
    · exact hnot
  split
  next hm => exact hgone (by simp [hm])
  next hm => exact hgone (by simp [hm])
  next hm => exact hgone (by simp [hm])
  next => exact hnot

/-! ## Stalls, restarts, context ends (08 R211, R229) -/

theorem pageWork_judgeStall (p s : Nat) (w : World) : pageWork ex w (judgeStall p s w) := by
  have hfull (hm : (seq w s).mode ≠ .running) :
      pageWork ex w (record 0x33 4 0x3801 s (onSeq s (fun x => { x with mode := .stalled, nStalls := x.nStalls + 1 }) w)) := by
    refine .trans ?_ (pageWork_record _ _ _ _ _)
    exact pageWork_rested (fun _ => hm) (fun _ => ⟨rfl, rfl, rfl, by simp⟩)
  unfold judgeStall
  dsimp only
  split
  next hm =>
    split
    · exact .refl w
    · refine .trans (.trans ?_ (pageWork_record _ _ _ _ _)) (pageWork_becomeDue s _)
      exact pageWork_rested (fun _ => by simp [hm]) (fun _ => ⟨rfl, rfl, rfl, by simp⟩)
  next hm =>
    split
    · exact hfull (by simp [hm])
    · exact .refl w
  next hm =>
    split
    · exact hfull (by simp [hm])
    · exact .refl w
  next => exact .refl w

theorem pageWork_judgePrefix (p m : Nat) (w : World) : pageWork ex w (judgePrefix p m w) := by
  unfold judgePrefix
  dsimp only
  split
  · exact .refl w
  · exact (pageWork_onPfx _ _ w).trans (pageWork_record _ _ _ _ _)

/-- A sequence that goes back to its prefix, from the world in which its frames are free again. -/
def restarted (s : Nat) (w : World) : World :=
  onSeq s (fun x => { x with
    p := pfxLen w s, nRestarted := x.nRestarted + 1, preemptDue := false, returning := false
    mode := (match x.mode with | .off => .off | _ => .idle) }) w

theorem restartSeq_eq (s : Nat) (w : World) :
    restartSeq s w = becomeDue s (attach s (restarted s (refillReserves (seqPart w s) (dropPages (seqPart w s) s w)))) := rfl

theorem pageWork_restartSeq {s : Nat} (h : s ∈ ex) (w : World) : pageWork ex w (restartSeq s w) := by
  rw [restartSeq_eq]
  exact (pageWork_dropPages _ _ w).trans ((pageWork_refillReserves _ _).trans ((pageWork_onSeq (fun hk => absurd h hk)).trans
    ((pageWork_attach _ _).trans (pageWork_becomeDue _ _))))

theorem pageWork_contextEnd {s : Nat} (h : s ∈ ex) (w : World) : pageWork ex w (contextEnd s w) := by
  unfold contextEnd
  dsimp only
  split
  · exact .refl w
  · split
    · exact pageWork_restartSeq h w
    · exact (pageWork_dropPages _ _ w).trans ((pageWork_onSeq (fun hk => absurd h hk)).trans (pageWork_refillReserves _ _))

/-! ## Members' pages at END (08 R217, R220) -/

theorem pageWork_unpin (p m : Nat) (w : World) : pageWork ex w (unpin p m w) := pageWork_onLists _ _ _ w

theorem pageWork_appendRows (p m : Nat) (rows : List (List (BitVec 16) × List (BitVec 16))) (w : World) :
    pageWork ex w (appendRows p m rows w) :=
  pageWork_eachW (fun _ w => (pageWork_onList _ _ _ _ w).trans (pageWork_onList _ _ _ _ _)) _ w

theorem pageWork_prefixDone (p m : Nat) (w : World) : pageWork ex w (prefixDone p m w) := by
  unfold prefixDone
  dsimp only
  split
  · exact .refl w
  · exact (pageWork_onPfx _ _ w).trans (pageWork_eachW (fun s w => (pageWork_attach s w).trans (pageWork_becomeDue s _)) _ _)

end Sys2Proof.Machine
end

section
/-! PROOFS. The end of a batch step (09 Table 9.3; 08 R211, R217, R220, R232): what END writes, and how each member leaves it. -/

namespace Sys2Proof.Machine

/-! ## What END writes -/

/-- `w'` differs from `w` at most in what END writes besides partitions and contexts: memories and arithmetic status of tiles, pending
deltas, sequences, prefix sets, pools, Obsidian's queues, what is sent to hosts, the count of draws. -/
def endScope (w w' : World) : Prop := ∃ sc st sk ac ts qs px pl ob lk ou n, w' = { w with
  tiles := { w.tiles with scratch := sc, stratum := st, sticky := sk, arithCount := ac }
  solver := { w.solver with tmpls := ts }
  serving := { w.serving with seqs := qs, prefixes := px, pools := pl }
  cont := { w.cont with obs := ob }, link := lk, out := ou, free := n }

theorem endScope.trans {a b c : World} (hab : endScope a b) (hbc : endScope b c) : endScope a c := by
  obtain ⟨_, _, _, _, _, _, _, _, _, _, _, _, rfl⟩ := hab
  obtain ⟨sc, st, sk, ac, ts, qs, px, pl, ob, lk, ou, n, rfl⟩ := hbc
  exact ⟨sc, st, sk, ac, ts, qs, px, pl, ob, lk, ou, n, rfl⟩

theorem endScope.cfg {w w' : World} (h : endScope w w') : w'.cfg = w.cfg := by
  obtain ⟨_, _, _, _, _, _, _, _, _, _, _, _, rfl⟩ := h; rfl

/-- Work of END, sequences in `ex` aside. -/
def endWork (ex : Set Nat) (w w' : World) : Prop := storeSorted w.serving.seqs → endScope w w' ∧ runsKept ex w w'

section

variable {ex : Set Nat}

theorem endWork.refl (w : World) : endWork ex w w := fun hs => ⟨⟨_, _, _, _, _, _, _, _, _, _, _, _, rfl⟩, hs, fun _ _ => .refl _⟩

theorem endWork.trans {a b c : World} (hab : endWork ex a b) (hbc : endWork ex b c) : endWork ex a c := fun hs => by
  obtain ⟨hscope, hkept⟩ := hab hs
  obtain ⟨hscope', hkept'⟩ := hbc hkept.sorted
  exact ⟨hscope.trans hscope', hkept.trans hkept'⟩

theorem pageWork.endWork {w w' : World} (h : pageWork ex w w') : endWork ex w w' := fun hs => by
  obtain ⟨⟨_, _, _, _, _, _, _, rfl⟩, hkept⟩ := h hs
  exact ⟨⟨_, _, _, _, _, _, _, _, _, _, _, _, rfl⟩, hkept⟩

theorem endWork_eachW {α : Type} {f : α → World → World} (hf : ∀ a w, endWork ex w (f a w)) (l : List α) (w : World) :
    endWork ex w (eachW l f w) :=
  eachW_keeps (P := endWork ex w) (fun a w' h => h.trans (hf a w')) l (.refl w)

theorem endWork_of_memScope {w w' : World} (h : memScope w w') : endWork ex w w' := fun hs => by
  obtain ⟨_, _, rfl⟩ := h
  exact ⟨⟨_, _, _, _, _, _, _, _, _, _, _, _, rfl⟩, hs, fun _ _ => .refl _⟩

theorem endWork_enterFlags (e : Nat) (f : BitVec 8) (w : World) : endWork ex w (onTiles (enterFlags e f) w) :=
  fun hs => ⟨⟨_, _, _, _, _, _, _, _, _, _, _, _, rfl⟩, hs, fun _ _ => .refl _⟩

theorem endWork_draws (n : Nat) (w : World) : endWork ex w { w with free := n } :=
  fun hs => ⟨⟨_, _, _, _, _, _, _, _, _, _, _, _, rfl⟩, hs, fun _ _ => .refl _⟩

/-! ## Flushes (08 R217, R229) -/

theorem endWork_flushList (p m n : Nat) (w : World) : endWork ex w (flushList p m n w).1 := by
  unfold flushList
  dsimp only
  split
  · exact .refl w
  · split
    · refine .trans (.trans ?_ (endWork_of_memScope (memScope_putFrame _ _ _ _ _ _))) (pageWork_onPool _ _ _).endWork
      exact (pageWork_onList _ _ _ _ w).endWork
    · refine (pageWork.trans (.trans ?_ (pageWork_onList _ _ _ _ _)) (pageWork_makeRoom _ _)).endWork
      split
      · exact .refl w
      · exact pageWork_onPool _ _ w

theorem endWork_flushAll (p m : Nat) (w : World) : endWork ex w (flushAll p m w) :=
  endWork_eachW (fun n w => endWork_flushList p m n w) _ w

theorem endWork_retryFlushes (p : Nat) (w : World) : endWork ex w (retryFlushes p w) := by
  refine .trans (endWork_eachW (fun m w => endWork_eachW (fun l w => endWork_flushList p m _ w) _ w) _ w) (endWork_eachW (fun m w => ?_) _ _)
  split
  · exact (pageWork_judgePrefix p m w).endWork
  · exact (pageWork_judgeStall p m w).endWork

/-! ## Outputs (08 R232) -/

theorem endWork_enterDelta (t slot inst fmt : Nat) (value : W32) (src prod : Nat) (w : World) :
    endWork ex w (enterDelta t slot inst fmt value src prod w) := by
  unfold enterDelta
  split
  · exact fun hs => ⟨⟨_, _, _, _, _, _, _, _, _, _, _, _, rfl⟩, hs, fun _ _ => .refl _⟩
  · exact fun hs => ⟨⟨_, _, _, _, _, _, _, _, _, _, _, _, rfl⟩, hs, fun _ _ => .refl _⟩

theorem endWork_applyOutputs (set : Store Bytes) (s : Nat) (ys : List W32) (w : World) : endWork ex w (applyOutputs set s ys w) := by
  unfold applyOutputs
  dsimp only
  refine .trans ?_ (endWork_eachW (fun i w => ?_) _ _)
  · exact (pageWork_onSeq (fun _ => ⟨rfl, rfl, rfl, .rfl⟩)).endWork
  · split
    · exact endWork_enterDelta _ _ _ _ _ _ _ w
    · exact .refl w

/-! ## A member at END -/

theorem endWork_endPrefix (p m : Nat) (rows : List (List (BitVec 16) × List (BitVec 16))) (w : World) : endWork ex w (endPrefix p m rows w) := by
  unfold endPrefix
  refine .trans (.trans (.trans ?_ (endWork_flushAll p m _)) (pageWork_judgePrefix p m _).endWork) (pageWork_prefixDone p m _).endWork
  exact ((pageWork_appendRows p m rows w).trans (pageWork_onPfx _ _ _)).endWork

/-- A sequence whose step gave no outputs: the token is gone, and it is to go back to its prefix. -/
def abandoned (s : Nat) (w : World) : World := onSeq s (fun x => { x with token := none, noOutput := false, mode := .idle }) w

/-- A sequence whose token is consumed and whose position advances. -/
def tokenConsumed (s : Nat) (w : World) : World :=
  onSeq s (fun x => { x with token := none, p := x.p + 1, mode := .idle, lostContext := false }) w

theorem seq_abandoned {s : Nat} {w : World} (hs : storeSorted w.serving.seqs) : (seq (abandoned s w) s).token = none := by
  rw [abandoned, seq_onSeq_same _ _ hs]

theorem seq_tokenConsumed {s : Nat} {w : World} (hs : storeSorted w.serving.seqs) : (seq (tokenConsumed s w) s).token = none ∧
    (seq (tokenConsumed s w) s).p = (seq w s).p + 1 ∧ (seq (tokenConsumed s w) s).mode = .idle := by
  rw [tokenConsumed, seq_onSeq_same _ _ hs]
  exact ⟨rfl, rfl, rfl⟩

theorem endSeq_eq (p s : Nat) (set : Store Bytes) (out : StepOut) (w : World) : endSeq p s set out w =
    if (seq w s).noOutput then restartSeq s (abandoned s w)
    else judgeStall p s (contextEnd s (flushAll p s (tokenConsumed s (applyOutputs set s out.y (appendRows p s out.rows w))))) := rfl

theorem endWork_outputs (p s : Nat) (set : Store Bytes) (out : StepOut) (w : World) :
    endWork ex w (applyOutputs set s out.y (appendRows p s out.rows w)) :=
  (pageWork_appendRows p s _ w).endWork.trans (endWork_applyOutputs _ _ _ _)

theorem endWork_endSeq {s : Nat} (h : s ∈ ex) (p : Nat) (set : Store Bytes) (out : StepOut) (w : World) :
    endWork ex w (endSeq p s set out w) := by
  have hturn (w : World) : endWork ex w (abandoned s w) ∧ endWork ex w (tokenConsumed s w) :=
    ⟨(pageWork_onSeq (fun hk => absurd h hk)).endWork, (pageWork_onSeq (fun hk => absurd h hk)).endWork⟩
  rw [endSeq_eq]
  split
  · exact (hturn w).1.trans (pageWork_restartSeq h _).endWork
  · exact (endWork_outputs p s set out w).trans ((hturn _).2.trans ((endWork_flushAll p s _).trans
      ((pageWork_contextEnd h _).endWork.trans (pageWork_judgeStall p s _).endWork)))

/-- END of a member that runs: its flags, its pages unpinned and the draws of its sums, then its own turn. -/
theorem endMember_of_running {w : World} {p m : Nat}
    (h : (if isPfx m then (pfx w (pfxKey m p)).running else decide ((seq w m).mode = .running)) = true) :
    ∃ set out w₁, endMember p m w = (if isPfx m then endPrefix p m out.rows w₁ else endSeq p m set out w₁) ∧ ∀ ex, endWork ex w w₁ := by
  unfold endMember
  dsimp only
  rw [h]
  refine ⟨_, _, _, rfl, fun ex => ?_⟩
  refine .trans ?_ (pageWork_unpin p m _).endWork
  refine .trans ?_ (endWork_draws _ _)
  exact endWork_eachW (fun t w => endWork_enterFlags _ _ w) _ w

/-- END of a member writes no other sequence's token, position or mode. -/
theorem endWork_endMember {p m : Nat} (h : m ∈ ex) (w : World) : endWork ex w (endMember p m w) := by
  by_cases hrun : (if isPfx m then (pfx w (pfxKey m p)).running else decide ((seq w m).mode = .running)) = true
  · obtain ⟨set, out, w₁, heq, hwork⟩ := endMember_of_running hrun
    rw [heq]
    split
    · exact (hwork ex).trans (endWork_endPrefix p m _ w₁)
    · exact (hwork ex).trans (endWork_endSeq h p set out w₁)
  · have hout : endMember p m w = w := by
      unfold endMember
      dsimp only
      rw [Bool.eq_false_of_not_eq_true hrun]
      rfl
    rw [hout]
    exact .refl w

end

/-! ## A sequence after its turn -/

/-- A sequence after END, from the position it had: its token consumed, out of RUN, and one position on where its context has room. -/
def ended (w : World) (m : Nat) (a x : Seq) : Prop :=
  x.token = none ∧ x.mode ≠ .running ∧ (a.noOutput = false → a.p + 1 < mdMaxCtx (seqModel w m) → x.p = a.p + 1)

theorem ended.kept {w : World} {m : Nat} {a x y : Seq} (h : ended w m a x) (hk : runKept x y) : ended w m a y := by
  obtain ⟨ht, hm, hp⟩ := h
  obtain ⟨ht', hp', -, hm'⟩ := hk
  exact ⟨ht'.trans ht, fun hx => hm (hm'.mp hx), fun hn hmax => hp'.trans (hp hn hmax)⟩

/-- A sequence that goes back to its prefix keeps its token and does not run. -/
theorem seq_restartSeq {s : Nat} {w : World} (hs : storeSorted w.serving.seqs) :
    (seq (restartSeq s w) s).token = (seq w s).token ∧ (seq (restartSeq s w) s).mode ≠ .running := by
  have hfree := ((pageWork_dropPages (ex := ∅) (seqPart w s) s w).trans (pageWork_refillReserves (seqPart w s) _) hs).2
  obtain ⟨htoken, -, -, -⟩ := hfree.kept s (Set.notMem_empty s)
  rw [restartSeq_eq]
  generalize refillReserves (seqPart w s) (dropPages (seqPart w s) s w) = w₁ at hfree htoken ⊢
  have hsame : (seq (restarted s w₁) s).token = (seq w₁ s).token ∧ (seq (restarted s w₁) s).mode ≠ .running := by
    rw [restarted, seq_onSeq_same _ _ hfree.sorted]
    refine ⟨rfl, ?_⟩
    dsimp only
    split <;> simp
  obtain ⟨htoken', -, -, hmode⟩ := (((pageWork_attach (ex := ∅) s (restarted s w₁)).trans (pageWork_becomeDue s _))
    (onSeq_sorted _ _ hfree.sorted)).2.kept s (Set.notMem_empty s)
  exact ⟨htoken'.trans (hsame.1.trans htoken), fun hx => hsame.2 (hmode.mp hx)⟩

/-- What the end of a context leaves of a sequence that does not run. -/
theorem seq_contextEnd {s : Nat} {w : World} (hs : storeSorted w.serving.seqs) (hm : (seq w s).mode ≠ .running) :
    (seq (contextEnd s w) s).token = (seq w s).token ∧ (seq (contextEnd s w) s).mode ≠ .running ∧
    ((seq w s).p < mdMaxCtx (seqModel w s) → (seq (contextEnd s w) s).p = (seq w s).p) := by
  unfold contextEnd
  dsimp only
  split
  · exact ⟨rfl, hm, fun _ => rfl⟩
  next hmax =>
    split
    · obtain ⟨ht, hmode⟩ := seq_restartSeq (s := s) hs
      exact ⟨ht, hmode, fun hx => absurd hx hmax⟩
    · have hdrop := (pageWork_dropPages (ex := ∅) (seqPart w s) s w hs).2
      obtain ⟨htoken, -, -, -⟩ := hdrop.kept s (Set.notMem_empty s)
      generalize dropPages (seqPart w s) s w = w₁ at hdrop htoken ⊢
      obtain ⟨htoken', -, -, hmode⟩ := (pageWork_refillReserves (ex := ∅) (seqPart w s) (onSeq s (fun x => { x with mode := .finished }) w₁)
        (onSeq_sorted _ _ hdrop.sorted)).2.kept s (Set.notMem_empty s)
      rw [seq_onSeq_same _ _ hdrop.sorted] at htoken' hmode
      exact ⟨htoken'.trans htoken, fun hx => absurd (hmode.mp hx) (by simp), fun hx => absurd hx hmax⟩

/-- A sequence's own turn at END. -/
theorem ended_endSeq {p s : Nat} {set : Store Bytes} {out : StepOut} {w : World} (hs : storeSorted w.serving.seqs) :
    ended w s (seq w s) (seq (endSeq p s set out w) s) := by
  rw [endSeq_eq]
  split
  next hno =>
    obtain ⟨ht, hm⟩ := seq_restartSeq (s := s) (w := abandoned s w) (onSeq_sorted _ _ hs)
    exact ⟨ht.trans (seq_abandoned hs), hm, fun hx => absurd (hx.symm.trans hno) (by decide)⟩
  next =>
    obtain ⟨hscope, hkept⟩ := endWork_outputs (ex := ∅) p s set out w hs
    obtain ⟨-, hp, -, -⟩ := hkept.kept s (Set.notMem_empty s)
    generalize applyOutputs set s out.y (appendRows p s out.rows w) = w₁ at hscope hkept hp ⊢
    obtain ⟨htoken, hnext, hidle⟩ := seq_tokenConsumed (s := s) hkept.sorted
    have hsorted : storeSorted (tokenConsumed s w₁).serving.seqs := onSeq_sorted _ _ hkept.sorted
    have hcfg : (tokenConsumed s w₁).cfg = w.cfg := hscope.cfg
    generalize tokenConsumed s w₁ = w₂ at *
    obtain ⟨hscope', hkept'⟩ := endWork_flushAll (ex := ∅) p s w₂ hsorted
    obtain ⟨ht', hp', -, hm'⟩ := hkept'.kept s (Set.notMem_empty s)
    have hmodel : seqModel (flushAll p s w₂) s = seqModel w s := by simp only [seqModel, actObj, sqRec, hscope'.cfg, hcfg]
    generalize flushAll p s w₂ = w₃ at *
    obtain ⟨ht, hm, hpos⟩ := seq_contextEnd (s := s) hkept'.sorted (fun hx => by simp [hm'.mp hx] at hidle)
    have hstall := (pageWork_judgeStall (ex := ∅) p s (contextEnd s w₃)
      ((pageWork_contextEnd (ex := {s}) rfl w₃ hkept'.sorted).2.sorted)).2.kept s (Set.notMem_empty s)
    refine ended.kept ⟨ht.trans (ht'.trans htoken), hm, fun _ hmax => ?_⟩ hstall
    rw [hmodel, hp', hnext, hp] at hpos
    exact hpos hmax

end Sys2Proof.Machine
end

section
/-! PROOFS. STEP_END_PHASE and TEARDOWN_COMPLETE as a whole (09 R245, R252 to R254, Tables 9.3 and 9.5). -/

namespace Sys2Proof.Machine

/-! ## A pass over the members -/

/-- What a member's own turn gives it, and no work on others takes from it, it has when the pass over the members is done. -/
theorem seq_eachMember {f : Nat → World → World} {P : Seq → Prop} {m : Nat} {members : List Nat} {w : World}
    (hwork : ∀ b w', endWork {b} w' (f b w')) (hkeep : ∀ x y, P x → runKept x y → P y)
    (hturn : ∀ w', storeSorted w'.serving.seqs → w'.cfg = w.cfg → runKept (seq w m) (seq w' m) ∨ P (seq w' m) → P (seq (f m w') m))
    (hm : m ∈ members) (hs : storeSorted w.serving.seqs) : P (seq (eachW members f w) m) := by
  refine eachW_attains (a := m) (P := fun w' => P (seq w' m))
    (I := fun w' => storeSorted w'.serving.seqs ∧ w'.cfg = w.cfg ∧ (runKept (seq w m) (seq w' m) ∨ P (seq w' m)))
    (fun b _ w' ⟨hs', hcfg, hstate⟩ => ?_) hm ⟨hs, rfl, .inl (.refl _)⟩
  obtain ⟨hscope, hkept⟩ := hwork b w' hs'
  by_cases hb : b = m
  · subst hb
    have hdone := hturn w' hs' hcfg hstate
    exact ⟨⟨hkept.sorted, hscope.cfg.trans hcfg, .inr hdone⟩, fun _ => hdone⟩
  · have hk := hkept.kept m (fun h => hb (Set.mem_singleton_iff.mp h).symm)
    exact ⟨⟨hkept.sorted, hscope.cfg.trans hcfg, hstate.imp (fun h => h.trans hk) (fun h => hkeep _ _ h hk)⟩,
      fun h => hkeep _ _ (h.resolve_left hb) hk⟩

/-! ## The members at END -/

theorem ended_endMember {w w' : World} {p m : Nat} (hm : isPfx m = false) (hrun : (seq w m).mode = .running)
    (hs : storeSorted w'.serving.seqs) (hcfg : w'.cfg = w.cfg) (hstate : runKept (seq w m) (seq w' m) ∨ ended w m (seq w m) (seq w' m)) :
    ended w m (seq w m) (seq (endMember p m w') m) := by
  obtain hkept | hended := hstate
  · obtain ⟨-, hp, hno, hmode⟩ := hkept
    obtain ⟨set, out, w₁, heq, hwork⟩ := endMember_of_running (w := w') (p := p) (m := m) (by simp [hm, hmode.mpr hrun])
    obtain ⟨hscope, hkept₁⟩ := hwork ∅ hs
    obtain ⟨-, hp₁, hno₁, -⟩ := hkept₁.kept m (Set.notMem_empty m)
    obtain ⟨ht, hx, hnext⟩ := ended_endSeq (p := p) (s := m) (set := set) (out := out) hkept₁.sorted
    have hmodel : seqModel w₁ m = seqModel w m := by simp only [seqModel, actObj, sqRec, hscope.cfg, hcfg]
    rw [hno₁, hno, hp₁, hp, hmodel] at hnext
    rw [heq, hm]
    exact ⟨ht, hx, hnext⟩
  · obtain ⟨-, hx, -⟩ := id hended
    rw [endMember, if_pos (by simp [hm, hx])]
    exact hended

/-- A partition with the measurements of a step (09 R251). -/
def perfPart (obs slow far share : Nat) (q : Part) : Part := { q with
  perfN := q.perfN + 1, slowSum := q.slowSum + slow, slowMax := max q.slowMax slow, obsMax := max q.obsMax obs
  interfFar := q.interfFar + far, interfSlice := q.interfSlice + share }

theorem stepPerf_eq (p : Nat) (w : World) :
    ∃ slow far share, stepPerf p w = onPart p (perfPart (stepCycles w p) slow far share) { w with free := w.free + 1 } :=
  ⟨_, _, _, rfl⟩

/-- The members of a step at END, its measurements, and the flushes that wait. -/
def membersEnded (p : Nat) (w : World) : World :=
  preemptEnded p (part w p).members (retryFlushes p (stepPerf p (eachW (part w p).members (endMember p) w)))

theorem membersEnded_spec {w : World} (p : Nat) (hs : storeSorted w.serving.seqs) : ∃ slow far share,
    endScope (onPart p (perfPart (stepCycles w p) slow far share) w) (membersEnded p w) ∧ storeSorted (membersEnded p w).serving.seqs ∧
    ∀ m ∈ (part w p).members, isPfx m = false → (seq w m).mode = .running → ended w m (seq w m) (seq (membersEnded p w) m) := by
  obtain ⟨hscope, hpass⟩ := endWork_eachW (f := endMember p) (ex := Set.univ) (fun m w => endWork_endMember (Set.mem_univ m) w)
    (part w p).members w hs
  have hmembers : ∀ m ∈ (part w p).members, isPfx m = false → (seq w m).mode = .running →
      ended w m (seq w m) (seq (eachW (part w p).members (endMember p) w) m) := fun m hm hpfx hrun =>
    seq_eachMember (fun b w' => endWork_endMember (Set.mem_singleton b) w') (fun _ _ h hk => h.kept hk)
      (fun w' hs' hcfg hstate => ended_endMember hpfx hrun hs' hcfg hstate) hm hs
  unfold membersEnded
  generalize (part w p).members = members at *
  generalize eachW members (endMember p) w = w₁ at *
  obtain ⟨slow, far, share, hperf⟩ := stepPerf_eq p w₁
  have hcycles : stepCycles w₁ p = stepCycles w p := by
    obtain ⟨_, _, _, _, _, _, _, _, _, _, _, _, rfl⟩ := hscope; rfl
  rw [hcycles] at hperf
  have hscope₁ : endScope (onPart p (perfPart (stepCycles w p) slow far share) w) (stepPerf p w₁) := by
    rw [hperf]
    obtain ⟨_, _, _, _, _, _, _, _, _, _, _, _, rfl⟩ := hscope
    exact ⟨_, _, _, _, _, _, _, _, _, _, _, _, rfl⟩
  have hseqs : (stepPerf p w₁).serving.seqs = w₁.serving.seqs := by rw [hperf]; rfl
  obtain ⟨hscope₂, hkept⟩ := (endWork_retryFlushes (ex := ∅) p (stepPerf p w₁)).trans (pageWork_preemptEnded p members _).endWork
    (by rw [hseqs]; exact hpass.sorted)
  refine ⟨slow, far, share, hscope₁.trans hscope₂, hkept.sorted, fun m hm hpfx hrun => (hmembers m hm hpfx hrun).kept ?_⟩
  have hk := hkept.kept m (Set.notMem_empty m)
  rwa [seq, hseqs] at hk

/-! ## STEP_END_PHASE -/

/-- A context whose step is over. -/
def leaveStep (x : Ctx) : Ctx := { x with running := false, atEnd := false }

/-- A partition whose step has completed. -/
def closedPart (tokens : Nat) (q : Part) : Part := { q with
  nSteps := q.nSteps + 1, nTokens := q.nTokens + tokens, sinceStep := 0
  members := [], walk := [], ring := [], outgoing := none, started := q.started && !q.stopping, stopping := false }

/-- A partition that rests under a record. -/
def restPart (r : Bytes) (q : Part) : Part := { q with mode := if pMode r = 2 ∧ q.started = false then .reservedIdle else .idle }

/-- A partition rests as its record says. -/
def rests (p : Nat) (w : World) : World := onPart p (fun q => { q with mode := restMode w p }) w

theorem rests_onPart {w : World} (p : Nat) (f : Part → Part) (hs : storeSorted w.serving.parts) :
    rests p (onPart p f w) = onPart p (restPart (actPart w p) ∘ f) w := by
  rw [rests, onPart_onPart _ _ hs, restMode_eq, part_onPart_same p _ hs]
  exact onPart_congr rfl

/-- The bytes of the step's all-gathers counted (08 R234). -/
def gathersCounted (p : Nat) (members : List Nat) (w : World) : World :=
  onServing (fun v => { v with allgather := sUpd 0 v.allgather p (· + gatherBytes w p members) }) w

/-- The fetches of a partition's DUE sequences started (08 R224). -/
def prefetchDue (p : Nat) (w : World) : World := eachW ((seqsIn w p).filter (fun s => decide ((seq w s).mode = .due))) startPrefetch w

/-- The tokens that the members of a step consume. -/
def stepTokens (w : World) (p : Nat) : Nat := ((part w p).members.filter (fun m => !isPfx m && decide ((seq w m).mode = .running))).length

/-- A step completed, before slices turn and fetches start (09 R245). -/
def stepEnded (p : Nat) (w : World) : World :=
  rests p (onPart p (closedPart (stepTokens w p)) (gathersCounted p (part w p).members
    (eachW (pCtxs (actPart w p)) (fun k => onCtx k leaveStep) (membersEnded p w))))

/-- STEP_END_PHASE in time, every context at its end (09 R245). -/
theorem stepEndPhase_of_end {w : World} {p : Nat} (hmode : (part w p).mode = .stepping)
    (hend : ∀ k ∈ pCtxs (actPart w p), (ctxAt w k).atEnd = true) (hlimit : stepCycles w p < pStepLimit (actPart w p)) :
    stepEndPhase p w = prefetchDue p (settleSlices p false (stepEnded p w)) := by
  unfold stepEndPhase
  dsimp only
  rw [if_neg (by simpa [hmode] using hend), if_neg (Nat.not_le.mpr hlimit)]
  rfl

/-- `w'` differs from `w` at most in what the end of a step writes before slices turn. -/
def stepEndScope (w w' : World) : Prop := ∃ sv cs sc st sk ac ts ob lk ou n, w' = { w with
  serving := sv, tiles := { w.tiles with ctxs := cs, scratch := sc, stratum := st, sticky := sk, arithCount := ac }
  solver := { w.solver with tmpls := ts }, cont := { w.cont with obs := ob }, link := lk, out := ou, free := n }

/-- What the end of a step gives: partition, contexts and members. -/
theorem stepEnded_spec {w : World} (p : Nat) (hparts : storeSorted w.serving.parts) (hseqs : storeSorted w.serving.seqs)
    (hctxs : storeSorted w.tiles.ctxs) : ∃ slow far share, stepEndScope w (stepEnded p w) ∧
      storeSorted (stepEnded p w).serving.seqs ∧ storeSorted (stepEnded p w).tiles.ctxs ∧
      part (stepEnded p w) p =
        restPart (actPart w p) (closedPart (stepTokens w p) (perfPart (stepCycles w p) slow far share (part w p))) ∧
      (∀ k, k ≠ p → part (stepEnded p w) k = part w k) ∧
      (∀ k ∈ pCtxs (actPart w p), ∃ x, ctxAt (stepEnded p w) k = leaveStep x) ∧
      (∀ k, k ∉ pCtxs (actPart w p) → ctxAt (stepEnded p w) k = ctxAt w k) ∧
      ∀ m ∈ (part w p).members, isPfx m = false → (seq w m).mode = .running → ended w m (seq w m) (seq (stepEnded p w) m) := by
  obtain ⟨slow, far, share, hscope, hsorted, hended⟩ := membersEnded_spec p hseqs
  unfold stepEnded
  generalize membersEnded p w = w₁ at hscope hsorted hended ⊢
  obtain ⟨hcs, hin, hout⟩ := ctxAt_eachCtx (g := fun k => onCtx k leaveStep) (fun _ _ => rfl) (pCtxs (actPart w p)) (w := w₁)
    (by obtain ⟨_, _, _, _, _, _, _, _, _, _, _, _, rfl⟩ := hscope; exact hctxs)
  obtain ⟨cs, hpass⟩ := eachCtx_scope leaveStep (pCtxs (actPart w p)) w₁
  rw [hpass] at hcs hin hout ⊢
  generalize hw₂ : gathersCounted p (part w p).members { w₁ with tiles := { w₁.tiles with ctxs := cs } } = w₂
  have hframe : stepEndScope w w₂ ∧ w₂.serving.seqs = w₁.serving.seqs ∧ w₂.tiles.ctxs = cs ∧
      w₂.serving.parts = (onPart p (perfPart (stepCycles w p) slow far share) w).serving.parts := by
    obtain ⟨_, _, _, _, _, _, _, _, _, _, _, _, rfl⟩ := hscope
    subst hw₂
    exact ⟨⟨_, _, _, _, _, _, _, _, _, _, _, rfl⟩, rfl, rfl, rfl⟩
  have hold : ∀ k, ctxAt w₁ k = ctxAt w k := by
    obtain ⟨_, _, _, _, _, _, _, _, _, _, _, _, rfl⟩ := hscope
    exact fun _ => rfl
  clear hw₂
  obtain ⟨hscope₂, hseqs₂, hctxs₂, hparts₂⟩ := hframe
  have hrec : actPart w₂ p = actPart w p := by
    obtain ⟨_, _, _, _, _, _, _, _, _, _, _, rfl⟩ := hscope₂
    rfl
  have hpart₂ : ∀ k, part w₂ k = part (onPart p (perfPart (stepCycles w p) slow far share) w) k := fun k => by rw [part, hparts₂]; rfl
  have hsorted₂ : storeSorted w₂.serving.parts := hparts₂ ▸ onPart_sorted p _ hparts
  have hctx₂ : ∀ f k, ctxAt (onPart p f w₂) k = sGet {} cs k := fun f k => congrArg (fun t => sGet ({} : Ctx) t k) hctxs₂
  have hseq₂ : ∀ f k, seq (onPart p f w₂) k = seq w₁ k := fun f k => congrArg (fun t => sGet ({} : Seq) t k) hseqs₂
  rw [rests_onPart p _ hsorted₂, hrec]
  refine ⟨slow, far, share, ?_, hseqs₂.symm ▸ hsorted, hctxs₂.symm ▸ hcs, ?_, fun k hk => ?_, fun k hk => ?_, fun k hk => ?_,
    fun m hm hpfx hrun => ?_⟩
  · obtain ⟨_, _, _, _, _, _, _, _, _, _, _, rfl⟩ := hscope₂
    exact ⟨_, _, _, _, _, _, _, _, _, _, _, rfl⟩
  · rw [part_onPart_same p _ hsorted₂, hpart₂, part_onPart_same p _ hparts]
    rfl
  · rw [part_onPart_other _ hsorted₂ hk, hpart₂, part_onPart_other _ hparts hk]
  · rw [hctx₂]
    exact hin k hk
  · rw [hctx₂]
    exact (hout k hk).trans (hold k)
  · rw [hseq₂]
    exact hended m hm hpfx hrun

theorem pageWork_prefetchDue {ex : Set Nat} (p : Nat) (w : World) : pageWork ex w (prefetchDue p w) :=
  pageWork_eachW (fun s w => pageWork_startPrefetch s w) _ w

/-- `w'` differs from `w` at most in what STEP_END_PHASE writes. -/
def endPhaseScope (w w' : World) : Prop := ∃ sv cs sc st sl at_ sk ac ts ob lk ou n, w' = { w with
  serving := sv
  tiles := { w.tiles with ctxs := cs, scratch := sc, stratum := st, slice := sl, sliceAt := at_, sticky := sk, arithCount := ac }
  solver := { w.solver with tmpls := ts }, cont := { w.cont with obs := ob }, link := lk, out := ou, free := n }

/-- STEP_END_PHASE in time as a whole: partition, contexts and members. -/
theorem stepEndPhase_spec {w : World} {p : Nat} (hparts : storeSorted w.serving.parts) (hseqs : storeSorted w.serving.seqs)
    (hctxs : storeSorted w.tiles.ctxs) (hmode : (part w p).mode = .stepping)
    (hend : ∀ k ∈ pCtxs (actPart w p), (ctxAt w k).atEnd = true) (hlimit : stepCycles w p < pStepLimit (actPart w p)) :
    endPhaseScope w (stepEndPhase p w) ∧
      (∃ slow far share, part (stepEndPhase p w) p =
        restPart (actPart w p) (closedPart (stepTokens w p) (perfPart (stepCycles w p) slow far share (part w p)))) ∧
      (∀ k, k ≠ p → part (stepEndPhase p w) k = part w k) ∧
      (∀ k ∈ pCtxs (actPart w p), ∃ x, Claims.sliceOnly (ctxAt (stepEndPhase p w) k) (leaveStep x)) ∧
      (∀ k, k ∉ pCtxs (actPart w p) → Claims.sliceOnly (ctxAt (stepEndPhase p w) k) (ctxAt w k)) ∧
      ∀ m ∈ (part w p).members, isPfx m = false → (seq w m).mode = .running → ended w m (seq w m) (seq (stepEndPhase p w) m) := by
  rw [stepEndPhase_of_end hmode hend hlimit]
  obtain ⟨slow, far, share, hscope, hsorted, hctxs₁, hpart, hothers, hin, hout, hended⟩ := stepEnded_spec p hparts hseqs hctxs
  generalize stepEnded p w = w₁ at *
  have hturn := slicesTurned_settleSlices p false hctxs₁
  generalize settleSlices p false w₁ = w₂ at hturn ⊢
  have hseqs₂ : storeSorted w₂.serving.seqs ∧ ∀ m, seq w₂ m = seq w₁ m := by
    obtain ⟨_, _, _, rfl⟩ := hturn.scope
    exact ⟨hsorted, fun _ => rfl⟩
  obtain ⟨hfetch, hkept⟩ := pageWork_prefetchDue (ex := ∅) p w₂ hseqs₂.1
  generalize prefetchDue p w₂ = w₃ at hfetch hkept ⊢
  have hsame : endPhaseScope w w₃ ∧ (∀ k, part w₃ k = part w₁ k) ∧ ∀ k, ctxAt w₃ k = ctxAt w₂ k := by
    obtain ⟨_, _, _, _, _, _, _, _, _, _, _, rfl⟩ := hscope
    obtain ⟨_, _, _, rfl⟩ := hturn.scope
    obtain ⟨_, _, _, _, _, _, _, rfl⟩ := hfetch
    exact ⟨⟨_, _, _, _, _, _, _, _, _, _, _, _, _, rfl⟩, fun _ => rfl, fun _ => rfl⟩
  obtain ⟨hscope₃, hparts₃, hctx₃⟩ := hsame
  refine ⟨hscope₃, ⟨slow, far, share, (hparts₃ p).trans hpart⟩, fun k hk => (hparts₃ k).trans (hothers k hk), fun k hk => ?_,
    fun k hk => ?_, fun m hm hpfx hrun => (hended m hm hpfx hrun).kept (hseqs₂.2 m ▸ hkept.kept m (Set.notMem_empty m))⟩
  · obtain ⟨x, hx⟩ := hin k hk
    refine ⟨x, ?_⟩
    rw [hctx₃, ← hx]
    exact hturn.only k
  · rw [hctx₃, ← hout k hk]
    exact hturn.only k

end Sys2Proof.Machine
end

section
/-! PROOFS. How a teardown completes: the serving context cleared, the step rolled back, the partition at rest, halted or loading (09 R252
to R254, Table 9.5). -/

namespace Sys2Proof.Machine

/-! ## The serving context cleared -/

/-- `w'` differs from `w` at most in what clearing a serving context writes: contexts, windows, arithmetic status, synchronisation. -/
def clearScope (w w' : World) : Prop := ∃ cs ws sk ac sy cy, w' = { w with
  tiles := { w.tiles with ctxs := cs, windows := ws, sticky := sk, arithCount := ac, sync := sy }, cont := { w.cont with sync := cy } }

theorem clearScope.trans {a b c : World} (hab : clearScope a b) (hbc : clearScope b c) : clearScope a c := by
  obtain ⟨_, _, _, _, _, _, rfl⟩ := hab
  obtain ⟨cs, ws, sk, ac, sy, cy, rfl⟩ := hbc
  exact ⟨cs, ws, sk, ac, sy, cy, rfl⟩

/-- Clearing that writes no context. -/
def clearsRest (w w' : World) : Prop := clearScope w w' ∧ w'.tiles.ctxs = w.tiles.ctxs

theorem clearsRest.refl (w : World) : clearsRest w w := ⟨⟨_, _, _, _, _, _, rfl⟩, rfl⟩

theorem clearsRest.trans {a b c : World} (hab : clearsRest a b) (hbc : clearsRest b c) : clearsRest a c :=
  ⟨hab.1.trans hbc.1, hbc.2.trans hab.2⟩

theorem clearsRest_eachW {α : Type} {f : α → World → World} (hf : ∀ a w, clearsRest w (f a w)) (l : List α) (w : World) :
    clearsRest w (eachW l f w) :=
  eachW_keeps (P := clearsRest w) (fun a w' h => h.trans (hf a w')) l (.refl w)

theorem clearsRest_settleCtx (key : Nat) (w : World) : clearsRest w (settleCtx key w) := by
  refine clearsRest_eachW (fun e w => ?_) _ w
  obtain ⟨ws, hws⟩ := transferDone_eq_with (key / 2) e w
  rw [hws]
  exact ⟨⟨_, _, _, _, _, _, rfl⟩, rfl⟩

theorem clearsRest_emptySync (obj : Nat) (w : World) : clearsRest w (emptySync false obj w) := ⟨⟨_, _, _, _, _, _, rfl⟩, rfl⟩

/-- The contexts of a cleared serving context have nothing in flight; the others stay as they were. -/
theorem clearServing_spec {w : World} (r : Bytes) (h : storeSorted w.tiles.ctxs) : clearScope w (clearServing r w) ∧
    storeSorted (clearServing r w).tiles.ctxs ∧ (∀ k ∈ pCtxs r, ∃ x, ctxAt (clearServing r w) k = idleCtx x) ∧
    (∀ k, k ∉ pCtxs r → ctxAt (clearServing r w) k = ctxAt w k) := by
  obtain ⟨hsorted, hin, hout⟩ := ctxAt_eachCtx (g := fun k w => onCtx k idleCtx (settleCtx k w)) (f := idleCtx)
    (fun k w => congrArg (fun t => sUpd ({} : Ctx) t k idleCtx) (clearsRest_settleCtx k w).2) (pCtxs r) h
  have hpass : clearScope w (eachW (pCtxs r) (fun k w => onCtx k idleCtx (settleCtx k w)) w) :=
    eachW_keeps (P := clearScope w) (fun k w' hw => (hw.trans (clearsRest_settleCtx k w').1).trans ⟨_, _, _, _, _, _, rfl⟩) _
      ⟨_, _, _, _, _, _, rfl⟩
  unfold clearServing
  generalize eachW (pCtxs r) (fun k w => onCtx k idleCtx (settleCtx k w)) w = w₁ at hpass hsorted hin hout ⊢
  dsimp only
  generalize hw₂ : onTiles _ w₁ = w₂
  have hrest : clearsRest w₁ (eachW (heldObjects w₂ (pSyncBase r) (pSyncCount r)) (emptySync false) w₂) := by
    refine .trans ?_ (clearsRest_eachW clearsRest_emptySync _ w₂)
    rw [← hw₂]
    exact ⟨⟨_, _, _, _, _, _, rfl⟩, rfl⟩
  generalize eachW (heldObjects w₂ (pSyncBase r) (pSyncCount r)) (emptySync false) w₂ = w₃ at hrest ⊢
  obtain ⟨hscope, hctxs⟩ := hrest
  have hctx : ∀ k, ctxAt w₃ k = ctxAt w₁ k := fun k => congrArg (fun t => sGet ({} : Ctx) t k) hctxs
  exact ⟨hpass.trans hscope, hctxs.symm ▸ hsorted, fun k hk => (hin k hk).imp (fun _ hx => (hctx k).trans hx),
    fun k hk => (hctx k).trans (hout k hk)⟩

/-! ## The step rolled back (09 R253) -/

/-- A member's own turn when its step is rolled back. -/
def rolledBack (p m : Nat) (w : World) : World :=
  let w := unpin p m w
  if isPfx m then onPfx (pfxKey m p) (fun x => { x with running := false }) w
  else if (seq w m).noOutput then restartSeq m (onSeq m (fun x => { x with noOutput := false, mode := .idle }) w)
  else if (seq w m).mode = .running then becomeDue m (onSeq m (fun x => { x with mode := .idle }) w) else w

/-- A partition with no step. -/
def emptiedPart (q : Part) : Part := { q with members := [], walk := [], ring := [], outgoing := none }

theorem rollBack_eq (p : Nat) (w : World) : rollBack p w = preemptEnded p (part (eachW (part w p).members (rolledBack p) w) p).members
    (onPart p emptiedPart (eachW (part w p).members (rolledBack p) w)) := rfl

theorem pageWork_rolledBack {ex : Set Nat} {m : Nat} (h : m ∈ ex) (p : Nat) (w : World) : pageWork ex w (rolledBack p m w) := by
  unfold rolledBack
  refine (pageWork_unpin p m w).trans ?_
  generalize unpin p m w = w₁
  dsimp only
  split
  · exact pageWork_onPfx _ _ _
  · split
    · exact (pageWork_onSeq (fun hk => absurd h hk)).trans (pageWork_restartSeq h _)
    · split
      · exact (pageWork_onSeq (fun hk => absurd h hk)).trans (pageWork_becomeDue m _)
      · exact .refl _

/-- A sequence out of a step that is torn down: its token and position stand, and it does not run. -/
def heldBack (a x : Seq) : Prop := x.token = a.token ∧ x.p = a.p ∧ x.noOutput = false ∧ x.mode ≠ .running

theorem heldBack.kept {a x y : Seq} (h : heldBack a x) (hk : runKept x y) : heldBack a y := by
  obtain ⟨ht, hp, hn, hm⟩ := h
  obtain ⟨ht', hp', hn', hm'⟩ := hk
  exact ⟨ht'.trans ht, hp'.trans hp, hn'.trans hn, fun hx => hm (hm'.mp hx)⟩

/-- A running member that is to give its outputs, after its own turn. -/
theorem heldBack_rolledBack {w : World} {a : Seq} {p m : Nat} (hm : isPfx m = false) (hrun : a.mode = .running) (hno : a.noOutput = false)
    (hs : storeSorted w.serving.seqs) (h : runKept a (seq w m) ∨ heldBack a (seq w m)) : heldBack a (seq (rolledBack p m w) m) := by
  obtain ⟨-, hunpin⟩ := pageWork_unpin (ex := ∅) p m w hs
  have hkept := hunpin.kept m (Set.notMem_empty m)
  have h₁ := h.imp (fun h => h.trans hkept) (fun h => h.kept hkept)
  have hs₁ := hunpin.sorted
  unfold rolledBack
  generalize unpin p m w = w₁ at h₁ hs₁ ⊢
  dsimp only
  rw [if_neg (by simp [hm])]
  obtain ⟨ht, hp, hn, hmode⟩ | hheld := h₁
  · rw [if_neg (by simp [hn, hno]), if_pos (hmode.mpr hrun)]
    have hidle : heldBack a (seq (onSeq m (fun x => { x with mode := .idle }) w₁) m) := by
      rw [seq_onSeq_same _ _ hs₁]
      exact ⟨ht, hp, hn.trans hno, by simp⟩
    exact hidle.kept ((pageWork_becomeDue (ex := ∅) m _ (onSeq_sorted _ _ hs₁)).2.kept m (Set.notMem_empty m))
  · obtain ⟨-, -, hn, hmode⟩ := id hheld
    rw [if_neg (by simp [hn]), if_neg hmode]
    exact hheld

theorem rollBack_spec {w : World} (p : Nat) (hs : storeSorted w.serving.seqs) :
    pageScope (onPart p emptiedPart w) (rollBack p w) ∧ storeSorted (rollBack p w).serving.seqs ∧
    ∀ m ∈ (part w p).members, isPfx m = false → (seq w m).mode = .running → (seq w m).noOutput = false →
      heldBack (seq w m) (seq (rollBack p w) m) := by
  obtain ⟨hscope, hpass⟩ := pageWork_eachW (f := rolledBack p) (ex := Set.univ) (fun m w => pageWork_rolledBack (Set.mem_univ m) p w)
    (part w p).members w hs
  have hmembers : ∀ m ∈ (part w p).members, isPfx m = false → (seq w m).mode = .running → (seq w m).noOutput = false →
      heldBack (seq w m) (seq (eachW (part w p).members (rolledBack p) w) m) := fun m hm hpfx hrun hno =>
    seq_eachMember (fun b w' => (pageWork_rolledBack (Set.mem_singleton b) p w').endWork) (fun _ _ h hk => h.kept hk)
      (fun w' hs' _ hstate => heldBack_rolledBack hpfx hrun hno hs' hstate) hm hs
  rw [rollBack_eq]
  generalize eachW (part w p).members (rolledBack p) w = w₁ at hscope hpass hmembers ⊢
  obtain ⟨hscope₂, hkept⟩ := pageWork_preemptEnded (ex := ∅) p (part w₁ p).members (onPart p emptiedPart w₁) hpass.sorted
  refine ⟨.trans ?_ hscope₂, hkept.sorted, fun m hm hpfx hrun hno => (hmembers m hm hpfx hrun hno).kept (hkept.kept m (Set.notMem_empty m))⟩
  obtain ⟨_, _, _, _, _, _, _, rfl⟩ := hscope
  exact ⟨_, _, _, _, _, _, _, rfl⟩

/-! ## Shares and members of a partition torn down -/

/-- The serving context cleared, the shares scrubbed and the program of the resident model loaded again. -/
def sharesCleared (p : Nat) (w : World) : World :=
  loadCode p (residentEntry w p) (scrubShares p (clearServing (actPart w p) w))

/-- All that a teardown takes back, before the partition leaves it. -/
def tornDown (p : Nat) (w : World) : World :=
  if (part w p).cause = 4 then loadWeights p (part w p).model (rollBack p (sharesCleared p w)) else rollBack p (sharesCleared p w)

/-- `w'` differs from `w` at most in what a teardown writes. -/
def tearScope (w w' : World) : Prop :=
  ∃ sv tl ct lk ou n, w' = { w with serving := sv, tiles := tl, cont := ct, link := lk, out := ou, free := n }

theorem tearScope.trans {a b c : World} (hab : tearScope a b) (hbc : tearScope b c) : tearScope a c := by
  obtain ⟨_, _, _, _, _, _, rfl⟩ := hab
  obtain ⟨sv, tl, ct, lk, ou, n, rfl⟩ := hbc
  exact ⟨sv, tl, ct, lk, ou, n, rfl⟩

/-- What a teardown takes back: share, step and members; what its contexts are left with. -/
structure tornSpec (p : Nat) (w w' : World) : Prop where
  scope : tearScope w w'
  scrubbed : Claims.sharesScrubbed w w' p
  parts : w'.serving.parts = (onPart p emptiedPart w).serving.parts
  sorted : storeSorted w'.tiles.ctxs
  idle : ∀ k ∈ pCtxs (actPart w p), ∃ x, ctxAt w' k = idleCtx x
  others : ∀ k, k ∉ pCtxs (actPart w p) → ctxAt w' k = ctxAt w k
  seqs : storeSorted w'.serving.seqs
  members : ∀ m ∈ (part w p).members, isPfx m = false → (seq w m).mode = .running → (seq w m).noOutput = false →
    heldBack (seq w m) (seq w' m)

theorem memScope_sharesCleared (p : Nat) (w : World) : memScope (clearServing (actPart w p) w) (sharesCleared p w) :=
  (memScope_scrubShares p _).trans (memScope_loadCode p _ _)

theorem tornSpec_rollBack {w : World} (p : Nat) (hctxs : storeSorted w.tiles.ctxs) (hseqs : storeSorted w.serving.seqs)
    (hscratch : Memory.wf w.tiles.scratch) (hfit : Claims.shareFits w p) : tornSpec p w (rollBack p (sharesCleared p w)) := by
  obtain ⟨hclear, hsorted, hin, hout⟩ := clearServing_spec (actPart w p) hctxs
  have hmem := memScope_sharesCleared p w
  have hshares : Claims.sharesScrubbed w (sharesCleared p w) p := by
    rw [sharesCleared]
    generalize clearServing (actPart w p) w = w₁ at hclear ⊢
    refine sharesScrubbed_of_scratch (w := w₁) (e := residentEntry w p) ?_ ?_ ?_ ?_ rfl
    · obtain ⟨_, _, _, _, _, _, rfl⟩ := hclear; exact hscratch
    · obtain ⟨_, _, _, _, _, _, rfl⟩ := hclear; exact hfit
    · obtain ⟨_, _, _, _, _, _, rfl⟩ := hclear; rfl
    · obtain ⟨_, _, _, _, _, _, rfl⟩ := hclear; rfl
  generalize sharesCleared p w = w₂ at hmem hshares ⊢
  generalize clearServing (actPart w p) w = w₁ at hclear hsorted hin hout hmem
  have hsame : w₂.serving = w.serving ∧ w₂.tiles.ctxs = w₁.tiles.ctxs ∧ tearScope w w₂ := by
    obtain ⟨_, _, _, _, _, _, rfl⟩ := hclear
    obtain ⟨_, _, rfl⟩ := hmem
    exact ⟨rfl, rfl, _, _, _, _, _, _, rfl⟩
  obtain ⟨hserving, hctxs₂, hscope⟩ := hsame
  have hpart : part w₂ p = part w p := congrArg (fun v : Serving => sGet ({} : Part) v.parts p) hserving
  have hseq : ∀ m, seq w₂ m = seq w m := fun m => congrArg (fun v : Serving => sGet ({} : Seq) v.seqs m) hserving
  obtain ⟨hroll, hsorted₃, hmembers⟩ := rollBack_spec (w := w₂) p (hserving ▸ hseqs)
  simp only [hpart, hseq] at hmembers
  generalize rollBack p w₂ = w₃ at hroll hsorted₃ hmembers ⊢
  have hlast : w₃.tiles = w₂.tiles ∧ w₃.serving.parts = (onPart p emptiedPart w₂).serving.parts ∧ tearScope w₂ w₃ := by
    obtain ⟨_, _, _, _, _, _, _, rfl⟩ := hroll
    exact ⟨rfl, rfl, _, _, _, _, _, _, rfl⟩
  obtain ⟨htiles, hparts, hscope₃⟩ := hlast
  have hctx : ∀ k, ctxAt w₃ k = ctxAt w₁ k := fun k => by rw [ctxAt, htiles, hctxs₂]; rfl
  refine ⟨hscope.trans hscope₃, ?_, hparts.trans (congrArg (fun v : Serving => sUpd ({} : Part) v.parts p emptiedPart) hserving), ?_,
    fun k hk => (hin k hk).imp (fun _ hx => (hctx k).trans hx), fun k hk => (hctx k).trans (hout k hk), hsorted₃, hmembers⟩
  · exact fun t ht a hlo hhi hframes => (congrArg (fun x => Mem.get x.scratch (padAddr t a)) htiles).trans (hshares t ht a hlo hhi hframes)
  · rw [htiles, hctxs₂]
    exact hsorted

/-- Weights loaded again leave all that. -/
theorem tornSpec.loadWeights {p : Nat} {w w' : World} (h : tornSpec p w w') (m : Nat) : tornSpec p w (loadWeights p m w') := by
  obtain ⟨hscope, hscrub, hparts, hsorted, hidle, hothers, hseqs, hmembers⟩ := h
  have hmem := memScope_loadWeights p m w'
  have hscratch := scratch_loadWeights p m w'
  generalize Machine.loadWeights p m w' = w'' at hmem hscratch ⊢
  obtain ⟨sc, st, rfl⟩ := hmem
  refine ⟨?_, fun t ht a hlo hhi hframes => (congrArg (Mem.get · (padAddr t a)) hscratch).trans (hscrub t ht a hlo hhi hframes), hparts, hsorted,
    hidle, hothers, hseqs, hmembers⟩
  obtain ⟨_, _, _, _, _, _, rfl⟩ := hscope
  exact ⟨_, _, _, _, _, _, rfl⟩

theorem tornSpec_tornDown {w : World} (p : Nat) (hctxs : storeSorted w.tiles.ctxs) (hseqs : storeSorted w.serving.seqs)
    (hscratch : Memory.wf w.tiles.scratch) (hfit : Claims.shareFits w p) : tornSpec p w (tornDown p w) := by
  have hroll := tornSpec_rollBack p hctxs hseqs hscratch hfit
  unfold tornDown
  split
  · exact hroll.loadWeights _
  · exact hroll

/-! ## TEARDOWN_COMPLETE -/

/-- The steps torn down since one completed (09 R254): a partition taken out by PART_CTRL counts none. -/
def tornSteps (q : Part) : Nat := if q.cause = 3 then q.sinceStep else q.sinceStep + 1

/-- A partition that has been torn down too often halts (09 R254). -/
def tornHalts (r : Bytes) (q : Part) : Bool := decide (q.cause ≠ 3) && decide (pFaultLimit r ≤ tornSteps q)

theorem tornSteps_eq (q : Part) : tornSteps q = q.sinceStep + (if q.cause = 3 then 0 else 1) := by
  unfold tornSteps
  split <;> rfl

theorem tornHalts_iff (r : Bytes) (q : Part) : tornHalts r q = true ↔ q.cause ≠ 3 ∧ pFaultLimit r ≤ q.sinceStep + 1 := by
  rw [tornHalts, Bool.and_eq_true, decide_eq_true_eq, decide_eq_true_eq]
  exact and_congr_right (fun h => by rw [tornSteps, if_neg h])

/-- A partition with a teardown counted. -/
def tornPart (n : Nat) (halt : Bool) (q : Part) : Part := { q with
  nTeardowns := q.nTeardowns + 1, sinceStep := n, nHalts := q.nHalts + b2n halt, gone := false
  started := q.started && !q.stopping, stopping := false }

/-- A partition out of TEARDOWN, with the entry it is to load if a SWAP had withdrawn its model. -/
def leftPart (r : Bytes) (halt : Bool) (entry : Option Nat) (q : Part) : Part := { q with
  mode := if halt then .halted else if entry.isSome then .loading else if pMode r = 2 ∧ q.started = false then .reservedIdle else .idle
  switchTo := entry.or q.switchTo }

/-- The records of a completed teardown. -/
def tornRecords (p src : Nat) (halt : Bool) (w : World) : World :=
  if halt then record 0x32 src 0x3002 p (record 0x31 src 0x3002 p w) else record 0x31 src 0x3002 p w

theorem pageWork_tornRecords {ex : Set Nat} (p src : Nat) (halt : Bool) (w : World) : pageWork ex w (tornRecords p src halt w) := by
  unfold tornRecords
  split
  · exact (pageWork_record _ _ _ _ w).trans (pageWork_record _ _ _ _ _)
  · exact pageWork_record _ _ _ _ w

/-- A partition leaves TEARDOWN. -/
def leaves (p : Nat) (halt gone : Bool) (w : World) : World := onPart p (fun x => { x with
  mode := if halt then .halted else if gone then .loading else restMode w p
  switchTo := if gone then some (activationEntry w p) else x.switchTo }) w

theorem leaves_onPart {w : World} (p : Nat) (halt gone : Bool) (f : Part → Part) (hs : storeSorted w.serving.parts) :
    ∃ entry, entry.isSome = gone ∧ leaves p halt gone (onPart p f w) = onPart p (leftPart (actPart w p) halt entry ∘ f) w := by
  refine ⟨if gone then some (activationEntry (onPart p f w) p) else none, by cases gone <;> rfl, ?_⟩
  rw [leaves, onPart_onPart _ _ hs, restMode_eq, part_onPart_same p _ hs]
  cases gone
  · exact onPart_congr rfl
  · exact onPart_congr rfl

theorem teardownComplete_of_teardown {w : World} {p : Nat} (hcfg : (tornDown p w).cfg = w.cfg) (hmode : (part w p).mode = .teardown) :
    ∃ src, teardownComplete p w = tornRecords p src (tornHalts (actPart w p) (part w p)) (settleSlices p false
      (leaves p (tornHalts (actPart w p) (part w p)) (part w p).gone
        (onPart p (tornPart (tornSteps (part w p)) (tornHalts (actPart w p) (part w p))) (tornDown p w)))) := by
  unfold teardownComplete
  dsimp only
  rw [if_neg (not_not.mpr hmode)]
  unfold tornDown sharesCleared at *
  generalize (if (part w p).cause = 4 then _ else _ : World) = w₁ at *
  have hrec : actPart w₁ p = actPart w p := by rw [actPart, hcfg, actPart]
  rw [hrec]
  exact ⟨_, rfl⟩

/-- TEARDOWN_COMPLETE as a whole: share, partition, contexts and members. -/
theorem teardownComplete_spec {w : World} {p : Nat} (hparts : storeSorted w.serving.parts) (hctxs : storeSorted w.tiles.ctxs)
    (hseqs : storeSorted w.serving.seqs) (hscratch : Memory.wf w.tiles.scratch) (hfit : Claims.shareFits w p)
    (hmode : (part w p).mode = .teardown) : tearScope w (teardownComplete p w) ∧ Claims.sharesScrubbed w (teardownComplete p w) p ∧
      (∃ entry, entry.isSome = (part w p).gone ∧ part (teardownComplete p w) p =
        leftPart (actPart w p) (tornHalts (actPart w p) (part w p)) entry
          (tornPart (tornSteps (part w p)) (tornHalts (actPart w p) (part w p)) (emptiedPart (part w p)))) ∧
      (∀ k, k ≠ p → part (teardownComplete p w) k = part w k) ∧
      (∀ k ∈ pCtxs (actPart w p), (ctxAt (teardownComplete p w) k).sb = [] ∧ (ctxAt (teardownComplete p w) k).parked = [] ∧
        ∃ x, Claims.sliceOnly (ctxAt (teardownComplete p w) k) (idleCtx x)) ∧
      (∀ k, k ∉ pCtxs (actPart w p) → Claims.sliceOnly (ctxAt (teardownComplete p w) k) (ctxAt w k)) ∧
      ∀ m ∈ (part w p).members, isPfx m = false → (seq w m).mode = .running → (seq w m).noOutput = false →
        heldBack (seq w m) (seq (teardownComplete p w) m) := by
  have htorn := tornSpec_tornDown p hctxs hseqs hscratch hfit
  have hcfg : (tornDown p w).cfg = w.cfg := by
    obtain ⟨_, _, _, _, _, _, h⟩ := htorn.scope
    rw [h]
  obtain ⟨src, hrun⟩ := teardownComplete_of_teardown hcfg hmode
  rw [hrun]
  clear hrun
  generalize tornDown p w = w₁ at htorn hcfg ⊢
  have hsorted : storeSorted w₁.serving.parts := htorn.parts ▸ onPart_sorted p emptiedPart hparts
  have hrec : actPart w₁ p = actPart w p := by rw [actPart, hcfg, actPart]
  have hpart : ∀ k, part w₁ k = part (onPart p emptiedPart w) k := fun k => by rw [part, htorn.parts]; rfl
  obtain ⟨entry, hgone, hleaves⟩ := leaves_onPart p (tornHalts (actPart w p) (part w p)) (part w p).gone
    (tornPart (tornSteps (part w p)) (tornHalts (actPart w p) (part w p))) hsorted
  rw [hleaves, hrec]
  clear hleaves
  have hturn := slicesTurned_settleSlices p false (w := onPart p (leftPart (actPart w p) (tornHalts (actPart w p) (part w p)) entry ∘
    tornPart (tornSteps (part w p)) (tornHalts (actPart w p) (part w p))) w₁) htorn.sorted
  generalize settleSlices p false _ = w₂ at hturn ⊢
  have hsame : tearScope w₁ w₂ ∧ w₂.serving = (onPart p (leftPart (actPart w p) (tornHalts (actPart w p) (part w p)) entry ∘
      tornPart (tornSteps (part w p)) (tornHalts (actPart w p) (part w p))) w₁).serving ∧ w₂.tiles.scratch = w₁.tiles.scratch := by
    obtain ⟨_, _, _, rfl⟩ := hturn.scope
    exact ⟨⟨_, _, _, _, _, _, rfl⟩, rfl, rfl⟩
  obtain ⟨hscope₂, hserving₂, hscratch₂⟩ := hsame
  have hseqs₂ : storeSorted w₂.serving.seqs := by rw [hserving₂]; exact htorn.seqs
  have hseq₂ : ∀ m, seq w₂ m = seq w₁ m := fun m => by rw [seq, hserving₂]; rfl
  obtain ⟨hrecords, hkept⟩ := pageWork_tornRecords (ex := ∅) p src (tornHalts (actPart w p) (part w p)) w₂ hseqs₂
  generalize tornRecords p src (tornHalts (actPart w p) (part w p)) w₂ = w₃ at hrecords hkept ⊢
  have hlast : tearScope w₂ w₃ ∧ w₃.serving.parts = w₂.serving.parts ∧ w₃.tiles = w₂.tiles := by
    obtain ⟨_, _, _, _, _, _, _, rfl⟩ := hrecords
    exact ⟨⟨_, _, _, _, _, _, rfl⟩, rfl, rfl⟩
  obtain ⟨hscope₃, hparts₃, htiles₃⟩ := hlast
  have hctx : ∀ k, ctxAt w₃ k = ctxAt w₂ k := fun k => by rw [ctxAt, htiles₃]; rfl
  refine ⟨htorn.scope.trans (hscope₂.trans hscope₃), fun t ht a hlo hhi hframes => ?_, ⟨entry, hgone, ?_⟩, fun k hk => ?_, fun k hk => ?_,
    fun k hk => ?_, fun m hm hpfx hrun hno => (htorn.members m hm hpfx hrun hno).kept (hseq₂ m ▸ hkept.kept m (Set.notMem_empty m))⟩
  · rw [htiles₃, hscratch₂]
    exact htorn.scrubbed t ht a hlo hhi hframes
  · rw [part, hparts₃, hserving₂]
    exact (part_onPart_same p _ hsorted).trans (by rw [hpart, part_onPart_same p _ hparts]; rfl)
  · rw [part, hparts₃, hserving₂]
    exact (part_onPart_other _ hsorted hk).trans ((hpart k).trans (part_onPart_other _ hparts hk))
  · obtain ⟨x, hx⟩ := htorn.idle k hk
    have honly := hturn.only k
    have hboard := hturn.board k
    rw [show ctxAt (onPart p _ w₁) k = idleCtx x from hx] at honly hboard
    obtain ⟨hparked, hsb⟩ := hboard rfl
    rw [hctx]
    exact ⟨hsb, hparked, x, honly⟩
  · have honly := hturn.only k
    rw [show ctxAt (onPart p _ w₁) k = ctxAt w k from htorn.others k hk] at honly
    rw [hctx]
    exact honly

end Sys2Proof.Machine
end

section
/-! PROOFS. Partitions: steps formed, ended and torn down, models switched (O49). -/

namespace Sys2Proof.Claims

open Sys2Proof.Machine

theorem ordered.seqs {w : World} (h : ordered w) : storeSorted w.serving.seqs := by
  obtain ⟨-, -, -, -, -, -, -, -, -, -, -, -, -, -, -, -, -, hs, -⟩ := h; exact hs

theorem ordered.prefixes {w : World} (h : ordered w) : storeSorted w.serving.prefixes := by
  obtain ⟨-, -, -, -, -, -, -, -, -, -, -, -, -, -, -, -, -, -, -, -, -, -, -, -, -, hp⟩ := h; exact hp

/-- Settles O49, an instruction at a time: what each gives is stated of its world (`stepForm_spec`, `postSync_written`,
`stepEndPhase_spec`, `stepOverrun_of_due`, `teardownComplete_spec`, `switchStart_of_due`, `switchComplete_of_loading`). -/
theorem partitionsStepSwitchAndTearDown : Obligations.PartitionsStepSwitchAndTearDown := by
  unfold Obligations.PartitionsStepSwitchAndTearDown
  refine ⟨fun s p ha ho hm hset hmode hswitch hby hmembers harea => ?form,
    fun s p tile slot x rest ha ho hm hwalks hring hmode hwalk hslot hempty => ?ring,
    fun s p ha ho hmode hend => ⟨fun hlimit => ?late, fun hlimit => ?ended⟩, fun s p ha ho hmode hlimit => ?overrun,
    fun s p ha ho hm hfit hmode => ?teardown, fun s p e ha ho hmode hswitch hby => ?switch,
    fun s p m ha ho hm hfit hmode hmodel => ?loaded⟩
  case form =>
    obtain ⟨-, hstratum, -⟩ := hm
    obtain ⟨hscope, ⟨walk, hpart⟩, hothers, hin, hout, hruns, hread⟩ :=
      stepForm_spec ho.parts ho.ctxs ho.seqs ho.prefixes hstratum hset hmode hswitch hby hmembers harea
    generalize hrun : stepForm p s.live = w' at hscope hpart hothers hin hout hruns hread
    have hframe : w' = { s.live with
        serving := w'.serving
        tiles := { s.live.tiles with ctxs := w'.tiles.ctxs, scratch := w'.tiles.scratch, stratum := w'.tiles.stratum
                                     slice := w'.tiles.slice, sliceAt := w'.tiles.sliceAt }
        cont := { s.live.cont with sync := w'.cont.sync } } := by
      obtain ⟨_, _, _, _, _, _, _, rfl⟩ := hscope
      rfl
    refine runsTo_of_effectIs ⟨_, rfl, hrun⟩ ha (congrArg World.dev hframe :) ⟨congrArg Part.mode hpart, congrArg Part.members hpart,
      congrArg Part.step hpart, congrArg Part.stepAt hpart, congrArg Part.ring hpart, fun k hk => ?_, hout, hruns, hread, hothers,
      congrArg (fun w => { s with live := w }) hframe⟩
    obtain ⟨x, hx⟩ := hin k hk
    exact ⟨congrArg Ctx.pc hx, congrArg Ctx.running hx, congrArg Ctx.stopped hx, congrArg Ctx.atEnd hx, congrArg Ctx.wait hx,
      congrArg Ctx.part hx⟩
  case ended =>
    obtain ⟨hscope, ⟨slow, far, share, hpart⟩, hothers, hin, hout, hended⟩ :=
      stepEndPhase_spec ho.parts ho.seqs ho.ctxs hmode hend hlimit
    generalize hrun : stepEndPhase p s.live = w' at hscope hpart hothers hin hout hended
    have hframe : w' = { s.live with
        serving := w'.serving
        tiles := { s.live.tiles with
          ctxs := w'.tiles.ctxs, scratch := w'.tiles.scratch, stratum := w'.tiles.stratum
          slice := w'.tiles.slice, sliceAt := w'.tiles.sliceAt, sticky := w'.tiles.sticky, arithCount := w'.tiles.arithCount }
        solver := { s.live.solver with tmpls := w'.solver.tmpls }
        cont := { s.live.cont with obs := w'.cont.obs }, link := w'.link, out := w'.out, free := w'.free } := by
      obtain ⟨_, _, _, _, _, _, _, _, _, _, _, _, _, rfl⟩ := hscope
      rfl
    refine runsTo_of_effectIs ⟨_, rfl, hrun⟩ ha (congrArg World.dev hframe :) ⟨(congrArg Part.mode hpart).trans ?_,
      congrArg Part.members hpart, congrArg Part.sinceStep hpart, congrArg Part.nSteps hpart, congrArg Part.nTokens hpart,
      congrArg Part.obsMax hpart, congrArg Part.perfN hpart, fun k hk => ?_, hout, hended, hothers,
      congrArg (fun w => { s with live := w }) hframe⟩
    · simp only [restPart, closedPart, perfPart, Bool.and_eq_false_iff, Bool.not_eq_false']
    · obtain ⟨x, hx⟩ := hin k hk
      exact ⟨congrArg Ctx.running hx, congrArg Ctx.atEnd hx⟩
  case teardown =>
    obtain ⟨hscratch, -⟩ := hm
    obtain ⟨hscope, hscrub, ⟨entry, hgone, hpart⟩, hothers, hin, hout, hheld⟩ :=
      teardownComplete_spec ho.parts ho.ctxs ho.seqs hscratch hfit hmode
    generalize hrun : teardownComplete p s.live = w' at hscope hscrub hpart hothers hin hout hheld
    have hframe : w' = { s.live with serving := w'.serving, tiles := w'.tiles, cont := w'.cont, link := w'.link, out := w'.out
                                     free := w'.free } := by
      obtain ⟨_, _, _, _, _, _, rfl⟩ := hscope
      rfl
    refine runsTo_of_effectIs ⟨_, rfl, hrun⟩ ha (congrArg World.dev hframe :) ⟨hscrub, congrArg Part.members hpart,
      congrArg Part.nTeardowns hpart, (congrArg Part.sinceStep hpart).trans (tornSteps_eq _), (congrArg Part.mode hpart).trans ?_,
      fun k hk => ?_, hout, fun m hm hpfx hrunning hno => ?_, hothers, congrArg (fun w => { s with live := w }) hframe⟩
    · simp only [leftPart, tornPart, emptiedPart, tornHalts_iff, hgone, Bool.and_eq_false_iff, Bool.not_eq_false']
    · obtain ⟨hsb, hparked, x, hx⟩ := hin k hk
      exact ⟨hsb, hparked, congrArg Ctx.running hx, congrArg Ctx.stopped hx⟩
    · obtain ⟨ht, hp, -, hm⟩ := hheld m hm hpfx hrunning hno
      exact ⟨ht, hp, hm⟩
  case ring =>
    obtain ⟨hscratch, -⟩ := hm
    have hrun := ringRefill_of_empty hmode hwalk hslot hempty
    generalize pageDesc s.live p x.1 x.2.1 x.2.2 = d at hrun ⊢
    obtain ⟨w', hw', hpart, hothers, hread, hcounts, hposted, hframe⟩ := postSync_written p tile (ringByte (actPart s.live p) p tile slot)
      (ringFill (actPart s.live p) p tile) (leBytes 32 d.toNat) (slotPart tile slot d rest) ho.parts hscratch ho.sync
    rw [length_leBytes] at hread
    refine runsTo_of_effectIs ⟨_, rfl, hrun.trans hw'⟩ ha (congrArg World.dev hframe :)
      ⟨?_, ?_, (congrArg leNat hread).trans (leNat_desc d), hcounts, hposted, hothers, congrArg (fun w => { s with live := w }) hframe⟩
    · dsimp only
      rw [hpart]
      exact sGet_put_same _ _ hwalks
    · dsimp only
      rw [hpart]
      exact sGet_put_same _ _ hring
  case late =>
    have hrun : stepEndPhase p s.live = stepOverrun p s.live := by
      unfold stepEndPhase
      dsimp only
      rw [if_neg (by simpa [hmode] using hend), if_pos hlimit]
    rw [stepOverrun_of_due ho.parts hmode hlimit] at hrun
    obtain ⟨cs, hctxs⟩ := eachCtx_scope stopCtx (pCtxs (actPart s.live p)) (onPart p overrunPart s.live)
    exact runsTo_of_effectIs ⟨_, rfl, hrun.trans hctxs⟩ ha rfl ⟨part_onPart_same p _ ho.parts, rfl⟩
  case overrun =>
    have hrun := stepOverrun_of_due ho.parts hmode hlimit
    obtain ⟨-, hin, hout⟩ := ctxAt_eachCtx (g := fun k => onCtx k stopCtx) (fun _ _ => rfl) (pCtxs (actPart s.live p))
      (w := onPart p overrunPart s.live) ho.ctxs
    obtain ⟨cs, hctxs⟩ := eachCtx_scope stopCtx (pCtxs (actPart s.live p)) (onPart p overrunPart s.live)
    rw [hctxs] at hrun hin hout
    refine runsTo_of_effectIs ⟨_, rfl, hrun⟩ ha rfl ⟨part_onPart_same p _ ho.parts, fun k hk => ?_, hout,
      fun k hk => part_onPart_other _ ho.parts hk, rfl⟩
    obtain ⟨x, hx⟩ := hin k hk
    dsimp only
    rw [hx]
    exact ⟨rfl, rfl⟩
  case switch =>
    exact runsTo_of_effectIs ⟨_, rfl, switchStart_of_due hmode hswitch hby⟩ ha rfl
      ⟨part_onPart_same _ _ ho.parts, fun k hk => part_onPart_other _ ho.parts hk, rfl⟩
  case loaded =>
    obtain ⟨hscratch, hstratum, -⟩ := hm
    obtain ⟨e, he⟩ : ∃ e, (part s.live p).switchTo.getD (residentEntry s.live p) = e := ⟨_, rfl⟩
    rw [he] at hmodel
    have hrun := switchComplete_of_loading ho.parts hmode he hmodel.symm
    have hscrub := sharesScrubbed_of_scratch (s := s.live) hscratch hfit rfl rfl (scratch_loaded p e m s.live)
    have hread := fun i => read_loaded (p := p) (m := m) (i := i) e hstratum
    have hscope := memScope_loaded p e m s.live
    generalize loaded p e m s.live = w' at hrun hscrub hread hscope
    obtain ⟨sc, st, rfl⟩ := hscope
    have hpart := part_onPart_same p (residentPart (actPart s.live p) m)
      (w := { s.live with tiles := { s.live.tiles with scratch := sc, stratum := st } }) ho.parts
    refine runsTo_of_effectIs ⟨_, rfl, hrun⟩ ha rfl ⟨hscrub, hpart.trans ?_, congrArg Part.mode hpart, fun i b hi hb _ hregion hall => ?_,
      fun k hk => part_onPart_other _ ho.parts hk, rfl⟩
    · dsimp only
      rw [hpart]
      rfl
    · rw [hb]
      exact hread i hi hregion hall

end Sys2Proof.Claims
end
